-- ==== Sys2Proof/Word.lean ====
section
/-! DEFINITION. The word types of the SY-740 and the plainest arithmetic on them (R5, R9, R47). -/

namespace Sys2Proof

/-- A 64-bit value: a scalar token value, a tag, a virtual address (R19, R22, R47). -/
abbrev W64 := BitVec 64
/-- A 512-bit value: a vector token value, a fault record, a packet (R20, R105, R212). -/
abbrev W512 := BitVec 512
/-- A node record or a block header record (R72, R86). -/
abbrev Rec := BitVec 96
/-- A 16-bit logical timestamp (R261). -/
abbrev Stamp := BitVec 16
/-- One byte of memory. -/
abbrev Byte := BitVec 8

/-- bits(x, hi, lo) of R9 on an unbounded natural number. -/
def natBits (x hi lo : Nat) : Nat := x / 2 ^ lo % 2 ^ (hi + 1 - lo)

/-- Timestamp order of R261: a is not after b when n16(b - a) < 2^15. -/
def Stamp.notAfter (a b : Stamp) : Bool := (b - a).toNat < 32768

/-- The max of two timestamps under the order of R261. -/
def Stamp.max (a b : Stamp) : Stamp := if Stamp.notAfter a b then b else a

/-- Serial-number order of R180 and R172 on 32-bit counts: a is before b when 0 < n32(b - a) < 2^31. -/
def serialBefore (a b : Nat) : Bool :=
  let d := (b + 4294967296 - a % 4294967296) % 4294967296
  0 < d && d < 2147483648

end Sys2Proof
end

