-- ==== Sys2Proof/Config.lean ====
section
/-! DEFINITION. What an implementation fixes (R2) and the free values: opaque constants with no body, for every value
the spec leaves open. The log entry of each stands in its docstring. -/

namespace Sys2Proof.Config

/-- A value that the spec leaves open, one for each reading of the counter `free` of State (log 2). -/
opaque freeValue : Nat → BitVec 64
/-- 512 open bits (log 2). -/
opaque freeVector : Nat → BitVec 512
/-- An accumulator element of an unspecified row (R210), by a reading of `free` and a column (log 2). -/
opaque freeAccumulator : Nat → Nat → BitVec 32
/-- Where the loader places an area of a context: the number of its launch, then the kind of the area (0 DATA, 1 Siding,
2 fault ring, 3 queue slots, 4 checkpoint area). R95, R246, R312, R327 and R362 do not say where (log 5). -/
opaque placeVA : Nat → Nat → BitVec 64
/-- Where the loader places the vault area of a launch's context (R95, R177) if that place is free (log 5). -/
opaque placeVault : Nat → BitVec 32
/-- The register at an offset of the MP block (R398): the spec gives the MP registers names and no offsets (log 6).
The answer is read by `mpRegOf`. -/
opaque mpRegister : Nat → Nat
/-- The register at an offset of a LINK.p block (R398, R403, R408), as `mpRegister` (log 6). -/
opaque linkCounter : Nat → Nat
/-- The DATA of a kind-2 flit (R402, R404), whose layout the spec does not give: kind of report, rank and values; and its
reading (log 9). -/
opaque reportData : List Nat → List (BitVec 8)
opaque reportOf : List (BitVec 8) → List Nat
/-- Which LINK block counts a flit dropped at a Drawbar port (R403, R408), which the spec does not say (log 9). -/
opaque linkOfPort : Nat → Nat
/-- DEV.STEP (R398): the die stepping, which the spec does not give (log 20). -/
opaque dieStep : BitVec 16
/-- What XTS decryption of a byte gives under a key other than the one it was encrypted with (R396, log 7):
key of the reader, key of the data, physical address, byte. -/
opaque wrongKeyByte : Nat → Nat → Nat → BitVec 8 → BitVec 8
/-- The Korval key (R427), 57 bytes: the public key whose SHAKE256 digest is fused in the die (log 8). -/
opaque korvalKey : List (BitVec 8)
/-- Whether the identity key signs the attestation key as Ed448ph, and the context strings of that signature and of a
report's: R428 and R429 give none (log 8). -/
opaque certPrehash : Bool
opaque certContext : List (BitVec 8)
opaque reportContext : List (BitVec 8)
/-- MP.LAYSTAT (R422) by the request's state in the order of R423, SEQ and ERR: the spec gives no field places (log 6). -/
opaque layStat : Nat → Nat → Nat → BitVec 64
/-- The fused seed of the package (R428), 57 bytes (log 8). -/
opaque fusedSeed : List (BitVec 8)
/-- Whether FMA raises IV for a product of infinity and zero when operand c is a quiet NaN: IEEE 754-2019, to which R50
refers, leaves it to the implementation (log 10). -/
opaque fmaQuietInvalid : Bool
/-- The count of blown anti-rollback fuses (R427, log 8). -/
opaque fuseCount : Nat
/-- The hash by which a Drawbar channel chooses one port of its mask (R403, log 9): source die, DPKG, destination die,
SLOT, GKEY. -/
opaque channelHash : Nat → Nat → Nat → Nat → Nat → Nat
/-- The 64-byte record fields of a save area's CORE and REPL parts, whose inner layout R382 does not give (log 29):
a byte of the area for a CTXID, a save number and an offset. -/
opaque saveByte : Nat → Nat → Nat → BitVec 8

/-- The VD in whose partition layout a 64 KiB frame stands, with its place in that layout's order, and the frames of a VD
(R229): the spec names the layout and gives it no form (log 27). -/
opaque frameOwner : Nat → Option (Nat × Nat)
opaque frameCount : Nat → Nat

/-- DEV.DRAMSZ: 8 stacks of 64 GB (R2, R398), with DRAM capacities in decimal units (R4), rounded down to a whole
64 KiB frame (log 20). -/
def dramSize : Nat := 512000000000 / 65536 * 65536

/-- Sites a die (R12). -/
def sitesPerDie : Nat := 1536
/-- Ready-queue entries (R35). -/
def readyDepth : Nat := 16
/-- Loop windows an element holds (R121). -/
def windowCount : Nat := 16
/-- Accumulators an element holds (R163). -/
def accumulatorCount : Nat := 8
/-- Cycles for which a full Siding is borne (R252). -/
def fullLimit : Nat := 65536
/-- 64 microseconds in cycles of 1.7 GHz (R3, R281, R403). -/
def linkTimeout : Nat := 108800
/-- 100 microseconds in cycles (R409). -/
def thermalPeriod : Nat := 170000
/-- Within 50 ms an MP that was reset is back (R424): taken as 50 ms (log 70). -/
def mpRestart : Nat := 85000000
/-- 24 hours in cycles (R417). -/
def errorSpan : Nat := 146880000000000

end Sys2Proof.Config
end

