-- ==== Sys2Proof/Syntax.lean ====
section
/-! DEFINITION. The rows of the table of operations and events as ONE inductive type. A row that is a node instruction
(R90) carries the fields of its record (R73) under its class overlay (R77 to R84); a row that is a hardware step carries
the place where the step comes about. -/

namespace Sys2Proof

/-- The types of R46, in code order. -/
inductive Ty where
  | i8 | i16 | i32 | i64 | n8 | n16 | n32 | n64 | f16 | bf16 | f32 | f64 | eb8 | eb4 | pr | x64
deriving DecidableEq, Repr

/-- Operand ports (R19). -/
inductive Port where
  | a | b | c | p
deriving DecidableEq, Repr

/-- A destination field (R74): VAL, DNODE, DPORT. -/
structure Dest where
  val : Bool
  node : BitVec 7
  port : Port
deriving DecidableEq, Repr

/-- PRED (R73, R75); the code 11 is no value of it: decoding rejects it. -/
inductive Pred where
  | always | ifTrue | ifFalse
deriving DecidableEq, Repr

/-- The fields that every node record has beside its opcode and overlay (R73). -/
structure Hdr where
  sub : BitVec 6
  pred : Pred
  ty : Ty
  d0 : Dest
  d1 : Dest
  lit : BitVec 32
deriving DecidableEq, Repr

/-- Common overlay (R77). `rm` is CC or RM. -/
structure CommonNode extends Hdr where
  l : Bool
  v : Bool
  rm : BitVec 4
  sat : Bool
  mask : BitVec 16
deriving DecidableEq, Repr

/-- Plumbing overlay (R79). -/
structure PlumbNode extends Hdr where
  l : Bool
  v : Bool
  greg : BitVec 7
deriving DecidableEq, Repr

/-- Tag overlay (R80). -/
structure TagNode extends Hdr where
  l : Bool
  v : Bool
  lvl : BitVec 3
  kb : BitVec 6
deriving DecidableEq, Repr

/-- Memory overlay (R81). -/
structure MemNode extends Hdr where
  l : Bool
  v : Bool
  lsid : BitVec 5
  g : Bool
  ord : BitVec 2
  scope : BitVec 3
  prv : BitVec 5
  nxt : BitVec 5
  last : Bool
deriving DecidableEq, Repr

/-- Engine overlay (R82). -/
structure EngNode extends Hdr where
  bank : Bool
  half : Bool
  lsid : BitVec 5
  unit : BitVec 6
  prv : BitVec 5
  nxt : BitVec 5
  last : Bool
deriving DecidableEq, Repr

/-- Graphics overlay (R83). -/
structure GfxNode extends Hdr where
  l : Bool
  v : Bool
  rm : BitVec 4
  gmode : BitVec 4
deriving DecidableEq, Repr

/-- System S overlay (R84). -/
structure SysSNode extends Hdr where
  l : Bool
  sreg : BitVec 12
deriving DecidableEq, Repr

/-- System M overlay (R84). -/
structure SysMNode extends Hdr where
  lsid : BitVec 5
  prv : BitVec 5
  nxt : BitVec 5
  last : Bool
deriving DecidableEq, Repr

/-- The three networks (R37). -/
inductive Net where
  | control | scalar | vector
deriving DecidableEq, Repr

/-- Switch-box ports in the order of R40. -/
inductive Dir where
  | north | south | east | west | loc
deriving DecidableEq, Repr

/-- What of a token an uncorrectable error strikes (R42): its value alone, its header with the tag still readable, or the header
with the tag. -/
inductive TokenPart where
  | value | header | tag
deriving DecidableEq, Repr

/-- Where a storage error strikes (R42, R412). A token is struck in the buffer that has received it: an input of a switch box,
an element's input buffer (`input` local), or an edge port. -/
inductive ErrPlace where
  | link (sid : Nat) (net : Net) (input : Dir) (part : TokenPart)
  | edge (die col : Nat) (top : Bool) (part : TokenPart)
  | nodeSlot (sid slot : Nat)
  | matchStore (sid : Nat)
  | copyL1 (sid line : Nat)
  | copyL2 (die line : Nat)
  | homeUnit (pa : Nat)
  | vaultWord (die addr : Nat)
  | weightBank (half bank : Nat)
  | accumBank (half bank : Nat)
  | tlb (sid : Nat) (page : Nat)
  | walkCache (die : Nat)
deriving DecidableEq, Repr

/-- What a host access does (R288, R397). -/
inductive HostOp where
  | load (size : Nat)
  | store (bytes : List Byte)
  | atomic (sub : BitVec 6) (ty : Ty) (operand : W64)
  | cas (ty : Ty) (expected new : W64)
deriving DecidableEq, Repr

/-- What is lost when 64 microseconds pass (R282). -/
inductive Loss where
  | request | ack | unreachable
deriving DecidableEq, Repr

/-- What a collective member reports to the coordinator (R310 step 1). -/
structure CollRep where
  sub : Nat
  ty : Nat
  rop : Nat
  root : Nat
  srcBytes : Nat
  dstBytes : Nat
deriving DecidableEq, Repr

/-- Registers that software or the host writes by name (R6, R398, R399 and the MP block). -/
inductive Reg where
  | devReady | devFail | devDramSz | devStep | devPkgId
  | thermAllow (d : Nat) | thermCap (d : Nat) | thermTemp (d : Nat) | thermHbmt (d : Nat)
  | linkDrops (p k : Nat)
  | vdCtl (n : Nat) | vdDom (n : Nat) | vdAllow (n : Nat) | vdShare0 (n : Nat) | vdShare1 (n : Nat)
  | vdL2Ways (n : Nat) | vdWdog (n : Nat) | vdKill (n : Nat) | vdMquota (n : Nat) | vdPlace (n : Nat)
  | vdPmap (n : Nat) | vdWqBase (n : Nat) | vdLqBase (n : Nat) | vdPtRoot (n : Nat) | vdTlbInv (n : Nat)
  | vdTlbSeq (n : Nat) | vdIrqAddr (n : Nat) | vdIrqData (n : Nat) | vdPeerQ (n : Nat)
  | vdRplBase (n : Nat) | vdRstStat (n : Nat)
  | mxown (i : Nat) | keyown (k : Nat) | dbroute (i : Nat) | siteret (i : Nat)
  | dbgSel | dbgCmpCtl (k : Nat) | dbgCmpTag (k : Nat) | dbgCmpVal (k : Nat) | dbgCmd | dbgStat
  | retreq | retstat (stack : Nat) | layaddr | laycmd | laystat
  | capCtl (k : Nat) | capBase (k : Nat) | capPtr (k : Nat)
  | idpub (k : Nat) | attcert (k : Nat) | attreq | attsel | attstat
  | none
deriving DecidableEq, Repr

/-- The table of operations and events: in the table's order, with what comes from outside the device last. Places: `sid` = 1536 die + 64 y + x names a site (R12);
`ctx` a CTXID; `rgn` a RGNID (R354); `op`, `job`, `rq`, `rs`, `sp` the serial number of a request in flight;
`half` = 128 die + 2 unit + half names a matrix unit half (R289). -/
inductive Instr where
  -- plumbing and control (R110)
  | mov (f : PlumbNode) | steer (f : PlumbNode) | merge (f : PlumbNode) | gate (f : PlumbNode)
  | nullg (f : PlumbNode) | sink (f : PlumbNode) | const (f : PlumbNode) | read (f : PlumbNode)
  | write (f : PlumbNode) | br (f : PlumbNode) | bri (f : PlumbNode) | callb (f : PlumbNode) | retb (f : PlumbNode)
  -- tags (R119)
  | enter (f : TagNode) | next (f : TagNode) | exit (f : TagNode) | bound (f : TagNode) | tagget (f : TagNode)
  | tagset (f : TagNode) | spawn (f : TagNode) | retire (f : TagNode) | retag (f : TagNode) | tagcmp (f : TagNode)
  -- integer and address (R131)
  | add (f : CommonNode) | sub (f : CommonNode) | addc (f : CommonNode) | subb (f : CommonNode)
  | mul (f : CommonNode) | mulh (f : CommonNode) | mad (f : CommonNode) | div (f : CommonNode) | rem (f : CommonNode)
  | and (f : CommonNode) | or (f : CommonNode) | xor (f : CommonNode) | andn (f : CommonNode)
  | shl (f : CommonNode) | shr (f : CommonNode) | sar (f : CommonNode) | rot (f : CommonNode)
  | clz (f : CommonNode) | ctz (f : CommonNode) | popc (f : CommonNode) | brev (f : CommonNode)
  | bfe (f : CommonNode) | bfi (f : CommonNode) | min (f : CommonNode) | max (f : CommonNode) | abs (f : CommonNode)
  | cmp (f : CommonNode) | sel (f : CommonNode) | lea (f : CommonNode)
  -- float (R142)
  | fadd (f : CommonNode) | fsub (f : CommonNode) | fmul (f : CommonNode) | fma (f : CommonNode) | fnma (f : CommonNode)
  | fmin (f : CommonNode) | fmax (f : CommonNode) | fcmp (f : CommonNode) | fdiv (f : CommonNode) | fsqrt (f : CommonNode)
  | frcp (f : CommonNode) | frsq (f : CommonNode) | fexp2 (f : CommonNode) | flog2 (f : CommonNode) | fsin (f : CommonNode)
  | fcos (f : CommonNode) | ftanh (f : CommonNode) | frnd (f : CommonNode) | fclass (f : CommonNode)
  | fscale (f : CommonNode) | fabs (f : CommonNode) | fneg (f : CommonNode)
  -- conversion (R150)
  | cvt (f : CommonNode) | qnt (f : CommonNode) | dqnt (f : CommonNode) | bscl (f : CommonNode) | pack (f : CommonNode)
  | unpack (f : CommonNode) | srnd (f : CommonNode)
  -- vector (R158)
  | vbcast (f : CommonNode) | vext (f : CommonNode) | vins (f : CommonNode) | vshuf (f : CommonNode) | vred (f : CommonNode)
  | vscan (f : CommonNode) | vdot (f : CommonNode) | vcmpr (f : CommonNode) | vexpd (f : CommonNode) | vmask (f : CommonNode)
  | vcnt (f : CommonNode)
  -- tag-window reductions (R162)
  | reda (f : CommonNode) | redx (f : CommonNode)
  -- memory (R178)
  | ld (f : MemNode) | st (f : MemNode) | ldv (f : MemNode) | stv (f : MemNode) | ldg (f : MemNode) | sts (f : MemNode)
  | vld (f : MemNode) | vst (f : MemNode) | atom (f : MemNode) | cas (f : MemNode) | stmc (f : MemNode) | fence (f : MemNode)
  | xfi (f : MemNode) | xfw (f : MemNode) | mwait (f : MemNode) | pref (f : MemNode) | bnd (f : MemNode)
  -- engines (R203)
  | mxw (f : EngNode) | mxa (f : EngNode) | mxd (f : EngNode) | mxsStat (f : EngNode) | mxsClr (f : EngNode)
  | mxsSync (f : EngNode) | ceq (f : EngNode) | grp (f : EngNode) | coll (f : EngNode) | grpxLeave (f : EngNode)
  | grpxBreak (f : EngNode) | lnch (f : EngNode)
  -- graphics (R166)
  | edge (f : GfxNode) | box4 (f : GfxNode) | tri1 (f : GfxNode) | txq (f : GfxNode) | blnd (f : GfxNode)
  | seqt (f : GfxNode) | route (f : GfxNode)
  -- system (R220)
  | trap (f : SysSNode) | frec (f : SysSNode) | retryResume (f : SysSNode) | retrySkip (f : SysSNode)
  | poisMake (f : SysSNode) | poisTest (f : SysSNode) | rdsr (f : SysSNode) | wrsr (f : SysSNode)
  | timeNow (f : SysSNode) | timeUntil (f : SysSNode) | timeAfter (f : SysSNode) | cntr (f : SysSNode) | bkpt (f : SysSNode)
  | snap (f : SysMNode) | ctxsv (f : SysMNode) | ctxld (f : SysMNode) | vdctlStop (f : SysMNode) | vdctlResume (f : SysMNode)
  | vdctlReset (f : SysMNode) | vdctlTrackon (f : SysMNode) | vdctlTrackoff (f : SysMNode) | dirty (f : SysMNode)
  | done (f : SysSNode)
  -- fabric and matching
  | tokenHop (sid : Nat) (net : Net) (out : Dir)
  | tokenArrive (sid : Nat)
  | sidingInsert (sp : Nat)
  | sidingLookup (sid : Nat)
  | sidingRefill (set : Nat)
  | matchRetry (sid : Nat)
  | sidefull (ctx : Nat)
  | stopWave (sid : Nat)
  -- blocks and activations
  | blockStart (ctx rgn : Nat)
  | frameFilled (ctx rgn frm : Nat)
  | instanceCommit (ctx rgn frm dom : Nat)
  | globalReadServe (rq : Nat)
  | poolRequest (rq : Nat)
  | poolReply (rq : Nat)
  | domainFree (ctx dom : Nat)
  | delivery (ctx rgn : Nat)
  -- queues
  | queueReserve (rs : Nat)
  | reservationGrant (rs : Nat)
  | deviceQueueAppend (rs : Nat)
  -- memory model
  | storeResolve (op : Nat)
  | homeStore (op : Nat)
  | homeAck (op : Nat)
  | leaseRenewal (op : Nat)
  | renewalReply (op : Nat)
  | homeEvict (die line : Nat) (copy : Bool)
  | homeNotify (line : Nat)
  | mwaitPoll (op : Nat)
  | ptsDrift (die : Nat)
  | hznMessage (src dst : Nat) (hzn : Stamp)
  | timestampSweep (die : Nat)
  | vaultSlotServe (die bank : Nat)
  | vaultRequestArrive (op : Nat)
  | mmioAccess (op : Nat)
  | couplerRepeat (op : Nat)
  | ackConfirm (op : Nat)
  | ackTimeout (op : Nat) (lost : Loss)
  | replicaStore (op : Nat)
  | tlbMissWalk (op : Nat)
  | dirtyBitSet (op : Nat)
  -- matrix units
  | mxPacketArrive (die col : Nat) (top : Bool)
  | mxEntryStart (half : Nat)
  | mxwLatch (half : Nat)
  | mxaRowIssue (half : Nat)
  | wavefrontAccumulate (half : Nat)
  | mxdRowDrain (half : Nat)
  | mxReply (half entry : Nat)
  | mxAbort (half ctx : Nat)
  -- copy engine
  | queueEnable (vd q : Nat) (launch : Bool)
  | slotTakeUp (vd q : Nat)
  | channelAssign (die : Nat)
  | jobChecked (job : Nat)
  | jobUnblock (job : Nat)
  | jobPayloadDone (job : Nat)
  | jobStamp (job : Nat)
  -- collectives
  | groupDeclared (key : W64)
  | collReport (gk rank : Nat) (rep : CollRep)
  | collDecide (gk : Nat)
  | chunkReceive (gk src ofs : Nat) (data : List Byte)
  | shareDone (gk rank : Nat)
  | killReport (gk rank : Nat)
  | mpWatchdogReset (die : Nat)
  | portDown (port : Nat)
  -- launching
  | launchTakeUp (vd q : Nat)
  | launchUnblock (l : Nat)
  | launchCheck (l : Nat)
  | launchGrant (vd : Nat)
  | mapperRequest (die : Nat)
  | launchLoadDone (l : Nat)
  | launchExit (l : Nat)
  -- placement, watchdog, rates, pre-emption, snapshots
  | placementSample
  | replicaAvailable (ctx rgn : Nat)
  | replicaGone (ctx rgn : Nat)
  | watchdogExpire (ctx : Nat)
  | bucketRefill
  | preemptDecide (l : Nat)
  | drainOverdue (ctx : Nat)
  | teardown (ctx : Nat)
  | snapshotMarker (snap proc chan : Nat)
  | snapshotComplete (snap : Nat)
  | contextJobEnd (job : Nat)
  -- virtual devices and registers
  | partitionWrite (n : Nat) (allow : Bool) (value : W64)
  | hostAccess (port pa : Nat) (op : HostOp)
  | vdResetQuiesced (n : Nat)
  | wayRemovalAdvance (n : Nat)
  | mxownApply (unit : Nat)
  | tlbinvComplete (n : Nat)
  -- debug
  | comparatorHit (sid : Nat) (net : Net) (k : Nat)
  -- service
  | pageRetire (frame : Nat)
  | siteRetire (die x y : Nat)
  | wavefrontPassesLastRow (half : Nat)
  | engineQueueTakeUp (job : Nat)
  -- what the host, the operator, sensors, peers and errors bring about
  | vdOpen (n : Nat)
  | vdStop (n : Nat)
  | vdResume (n : Nat)
  | vdClose (n : Nat)
  | vdKill (n ctx : Nat)
  | vdActivate (n : Nat)
  | l2waysWrite (n : Nat) (value : W64)
  | pmap (n : Nat) (value : W64)
  | tlbinv (n : Nat) (value : W64)
  | registerWrite (reg : Reg) (value : W64)
  | dbgHalt
  | dbgResume
  | dbgStep (frm node : Nat)
  | thermalUpdate (die tj8 watts : Nat)
  | thermCap (die : Nat) (value : W64)
  | thermalCut (die tj8 : Nat)
  | hbmHot (stack temp : Nat)
  | scrub (die frame corrected : Nat)
  | storageError (place : ErrPlace) (correctable : Bool)
  | retreq (value : W64)
  | laycmd
  | journalAdvance
  | flitReplay (port seq : Nat)
  | captureRecord (k kind rgn : Nat) (dest : BitVec 32) (tag : W64) (payload : List Byte)
  | packageReset
  | firmwareVerify (die : Nat) (image : List Byte)
  | attestRequest
  | vdReset (n : Nat)
  | packagePowerOff
  | illegalOpcodeFire (rec : Rec)
  | matchEccError (set way : Nat) (keyBad : Bool)
  | sidingEntryError (ctx slot : Nat) (keyBad lost : Bool)
  | flitReceive (port : Nat) (flit : List Byte)
  | functionReady (bit : Nat) (failed : Bool)
deriving DecidableEq, Repr

/-- Type codes (R46). -/
def Ty.code : Ty → BitVec 4
  | .i8 => 0 | .i16 => 1 | .i32 => 2 | .i64 => 3 | .n8 => 4 | .n16 => 5 | .n32 => 6 | .n64 => 7
  | .f16 => 8 | .bf16 => 9 | .f32 => 10 | .f64 => 11 | .eb8 => 12 | .eb4 => 13 | .pr => 14 | .x64 => 15

/-- The type of a code (R46); all sixteen codes name one. -/
def Ty.ofCode : Nat → Ty
  | 0 => .i8 | 1 => .i16 | 2 => .i32 | 3 => .i64 | 4 => .n8 | 5 => .n16 | 6 => .n32 | 7 => .n64
  | 8 => .f16 | 9 => .bf16 | 10 => .f32 | 11 => .f64 | 12 => .eb8 | 13 => .eb4 | 14 => .pr | _ => .x64

/-- Width of a scalar (R46); a block format counts its element. -/
def Ty.width : Ty → Nat
  | .i8 | .n8 | .eb8 => 8 | .i16 | .n16 | .f16 | .bf16 => 16 | .i32 | .n32 | .f32 => 32
  | .i64 | .n64 | .f64 | .x64 => 64 | .eb4 => 4 | .pr => 1

def Ty.isSigned : Ty → Bool | .i8 | .i16 | .i32 | .i64 => true | _ => false
def Ty.isUnsigned : Ty → Bool | .n8 | .n16 | .n32 | .n64 => true | _ => false
/-- "I" of R131: i8 to n64. -/
def Ty.isInt (t : Ty) : Bool := t.isSigned || t.isUnsigned
/-- f16, bf16, f32, f64 (R49). -/
def Ty.isFloat : Ty → Bool | .f16 | .bf16 | .f32 | .f64 => true | _ => false
/-- eb8 and eb4 (R54). -/
def Ty.isBlock : Ty → Bool | .eb8 | .eb4 => true | _ => false
/-- "T" of R178: i8 to n64, the floats and x64. -/
def Ty.isScalarMem (t : Ty) : Bool := t.isInt || t.isFloat || t == .x64

/-- Port codes (R19). -/
def Port.code : Port → BitVec 2 | .a => 0 | .b => 1 | .c => 2 | .p => 3
def Port.ofCode : Nat → Port | 0 => .a | 1 => .b | 2 => .c | _ => .p

/-- PRED codes (R73). -/
def Pred.code : Pred → BitVec 2 | .always => 0 | .ifTrue => 1 | .ifFalse => 2

end Sys2Proof
end

