-- ==== Sys2Proof/Machine/Float.lean ====
section
/-! DEFINITION. Exact real values, rounding and the float operations (R49 to R67, R143 to R148): operands are decoded to
exact dyadic numbers, computed exactly, and rounded once. -/

namespace Sys2Proof.Machine

/-- A float format (R49): exponent and fraction widths. -/
structure Fmt where
  ebits : Nat
  fbits : Nat
deriving DecidableEq, Repr

def Fmt.f16 : Fmt := ⟨5, 10⟩
def Fmt.bf16 : Fmt := ⟨8, 7⟩
def Fmt.f32 : Fmt := ⟨8, 23⟩
def Fmt.f64 : Fmt := ⟨11, 52⟩

/-- The format of a float type (R49). -/
def Fmt.ofTy : Ty → Fmt
  | .f16 => .f16 | .bf16 => .bf16 | .f64 => .f64 | _ => .f32

def Fmt.bias (f : Fmt) : Nat := 2 ^ (f.ebits - 1) - 1
def Fmt.width (f : Fmt) : Nat := 1 + f.ebits + f.fbits
def Fmt.expMax (f : Fmt) : Nat := 2 ^ f.ebits - 1
/-- Exponent of the smallest normal (R49). -/
def Fmt.emin (f : Fmt) : Int := 1 - (f.bias : Int)
def Fmt.signBit (f : Fmt) (s : Bool) : Nat := if s then 2 ^ (f.ebits + f.fbits) else 0
def Fmt.infBits (f : Fmt) (s : Bool) : Nat := f.signBit s + f.expMax * 2 ^ f.fbits
/-- The canonical quiet NaN (R49). -/
def Fmt.qnan (f : Fmt) : Nat := f.expMax * 2 ^ f.fbits + 2 ^ (f.fbits - 1)
/-- The largest finite magnitude with a sign. -/
def Fmt.maxBits (f : Fmt) (s : Bool) : Nat := f.infBits s - 1

/-- A decoded operand: a NaN with its encoding, an infinity, or (-1)^neg * m * 2^e. -/
inductive Fp where
  | nan (raw : Nat)
  | inf (neg : Bool)
  | num (neg : Bool) (m : Nat) (e : Int)
deriving DecidableEq, Repr

/-- A value with the FPSTAT bits that making it raised (R59). -/
structure Res where
  bits : Nat
  flags : Nat
deriving DecidableEq, Repr

/-- FPSTAT bits (R59). -/
def fIV : Nat := 1
def fDZ : Nat := 2
def fOF : Nat := 4
def fUF : Nat := 8
def fIX : Nat := 16
def fDN : Nat := 32
def fSA : Nat := 64

/-- FPCM (R61). -/
structure Fpcm where
  denorm : Nat
  nanm : Nat
  unfused : Bool
  rcpm : Nat
  zsign : Bool
  divz : Bool
  mulz : Bool
deriving DecidableEq, Repr

def Fpcm.ofNat (x : Nat) : Fpcm where
  denorm := natBits x 1 0
  nanm := natBits x 3 2
  unfused := x.testBit 4
  rcpm := natBits x 6 5
  zsign := x.testBit 7
  divz := x.testBit 8
  mulz := x.testBit 9

/-- The modes of nodes that ignore FPCM: IEEE gradual underflow and canonical NaNs. -/
def Fpcm.ieee : Fpcm := Fpcm.ofNat 0

/-- Rounding modes (R51); SR carries its random value (R52). -/
inductive Rm where
  | rne | rz | ru | rd | rna | sr (r : Nat)
deriving DecidableEq, Repr

/-- The mode of a code (R51); `r` serves SR. -/
def Rm.ofCode (c r : Nat) : Rm :=
  match c with | 0 => .rne | 1 => .rz | 2 => .ru | 3 => .rd | 4 => .rna | _ => .sr r

/-- The class and value of an encoding (R49). -/
def Fmt.decode (f : Fmt) (raw0 : Nat) : Fp :=
  let raw := raw0 % 2 ^ f.width
  let s := raw.testBit (f.ebits + f.fbits)
  let ex := raw / 2 ^ f.fbits % 2 ^ f.ebits
  let fr := raw % 2 ^ f.fbits
  if ex = f.expMax then (if fr = 0 then .inf s else .nan raw)
  else if ex = 0 then .num s fr (f.emin - f.fbits)
  else .num s (fr + 2 ^ f.fbits) ((ex : Int) - f.bias - f.fbits)

def Fmt.isSnan (f : Fmt) (raw : Nat) : Bool :=
  match f.decode raw with | .nan r => !r.testBit (f.fbits - 1) | _ => false
def Fmt.isNan (f : Fmt) (raw : Nat) : Bool :=
  match f.decode raw with | .nan _ => true | _ => false
def Fmt.isSubnormal (f : Fmt) (raw : Nat) : Bool :=
  match f.decode raw with | .num _ m e => m ≠ 0 && m < 2 ^ f.fbits && e == f.emin - f.fbits | _ => false
def Fmt.neg (f : Fmt) (raw : Nat) : Bool := raw.testBit (f.ebits + f.fbits)

/-- m * 2^k cut to an integer: quotient, remainder and the power of two it was divided by. -/
def shiftExp (m : Nat) (k : Int) : Nat × Nat × Nat :=
  match k with
  | .ofNat n => (m * 2 ^ n, 0, 1)
  | .negSucc n => (m / 2 ^ (n + 1), m % 2 ^ (n + 1), 2 ^ (n + 1))

/-- Whether a magnitude q + rem/den (plus less than one unit of rem when `sticky`) rounds up to q + 1 (R51, R52). -/
def roundUp (mode : Rm) (neg : Bool) (q rem den : Nat) (sticky : Bool) : Bool :=
  let inexact := rem ≠ 0 || sticky
  match mode with
  | .rne => if 2 * rem = den then (sticky || q % 2 = 1) else 2 * rem > den
  | .rna => 2 * rem ≥ den && den > 1
  | .rz => false
  | .ru => inexact && !neg
  | .rd => inexact && neg
  | .sr r => rem * 4294967296 / den + r ≥ 4294967296

/-- round(x, mode, format) of R9 for x = (-1)^neg * (m + d) * 2^e, with d = 0, or 0 < d < 1 when `sticky`; `flush` is
the result rule of DENORM (R62). With `sticky` the caller gives m enough bits below the last place. -/
def Fmt.round (f : Fmt) (mode : Rm) (flush : Bool) (neg : Bool) (m : Nat) (e : Int) (sticky : Bool) : Res :=
  if m = 0 ∧ !sticky then ⟨f.signBit neg, 0⟩ else
  let lead : Int := e + Nat.log2 m
  let tiny := lead < f.emin || m = 0
  if tiny && flush then ⟨f.signBit neg, fUF + fIX⟩ else
  let quant : Int := max lead f.emin - f.fbits
  let (q, rem, den) := shiftExp m (e - quant)
  let inexact := rem ≠ 0 || sticky
  let q' := if roundUp mode neg q rem den sticky then q + 1 else q
  -- q' * 2^quant; q' below 2^(fbits + 1), or equal to it, which the sum below carries into the exponent
  let base := if q' < 2 ^ f.fbits then q' else ((quant - f.emin + f.fbits).toNat) * 2 ^ f.fbits + q'
  if base ≥ f.expMax * 2 ^ f.fbits then
    let toInf := match mode with | .rne | .rna | .sr _ => true | .rz => false | .ru => !neg | .rd => neg
    ⟨if toInf then f.infBits neg else f.maxBits neg, fOF + fIX⟩
  else ⟨f.signBit neg + base, (if inexact then fIX else 0) + (if inexact && tiny then fUF else 0)⟩

/-- The quiet form of a NaN encoding. -/
def Fmt.quiet (f : Fmt) (raw : Nat) : Nat := if raw.testBit (f.fbits - 1) then raw else raw + 2 ^ (f.fbits - 1)

/-- The NaN result for operands in port order, at least one of them NaN (R63), with IV for a signalling one. -/
def nanResult (f : Fmt) (c : Fpcm) (ops : List Nat) : Res :=
  let fl := if ops.any f.isSnan then fIV else 0
  match c.nanm, ops.find? f.isNan with
  | 1, some r => ⟨f.quiet (r % 2 ^ f.width), fl⟩
  | _, _ => ⟨f.qnan, fl⟩

/-- An invalid operation without a NaN operand (R63). -/
def invalid (f : Fmt) : Res := ⟨f.qnan, fIV⟩

/-- DENORM 01 reads a subnormal operand as zero of its sign and sets DN (R62). -/
def flushIn (f : Fmt) (c : Fpcm) (raw : Nat) : Nat × Nat :=
  if c.denorm = 1 && f.isSubnormal raw then (f.signBit (f.neg raw), fDN) else (raw % 2 ^ f.width, 0)

def Fpcm.flushOut (c : Fpcm) : Bool := c.denorm = 1 || c.denorm = 2

/-- OR more flags into a result. -/
def Res.or (r : Res) (fl : Nat) : Res := ⟨r.bits, r.flags ||| fl⟩

/-- The exact sum of two dyadic numbers: signed mantissa at the lower exponent. -/
def exactAdd (s1 : Bool) (m1 : Nat) (e1 : Int) (s2 : Bool) (m2 : Nat) (e2 : Int) : Int × Int :=
  let e := min e1 e2
  let a : Int := m1 * 2 ^ (e1 - e).toNat
  let b : Int := m2 * 2 ^ (e2 - e).toNat
  ((if s1 then -a else a) + (if s2 then -b else b), e)

/-- Round a sum: an exact zero takes the common sign, else + but - under RD (R143). -/
def roundSum (f : Fmt) (mode : Rm) (flush : Bool) (s1 : Bool) (m1 : Nat) (e1 : Int) (s2 : Bool) (m2 : Nat) (e2 : Int) : Res :=
  let (x, e) := exactAdd s1 m1 e1 s2 m2 e2
  if x = 0 then
    ⟨f.signBit (if s1 = s2 then s1 else mode = .rd), 0⟩
  else f.round mode flush (x < 0) x.natAbs e false

/-- FADD (R143). -/
def fpAdd (f : Fmt) (c : Fpcm) (mode : Rm) (a0 b0 : Nat) : Res :=
  let (a, fa) := flushIn f c a0
  let (b, fb) := flushIn f c b0
  (match f.decode a, f.decode b with
  | .nan _, _ | _, .nan _ => nanResult f c [a, b]
  | .inf s, .inf t => if s = t then ⟨f.infBits s, 0⟩ else invalid f
  | .inf s, _ => ⟨f.infBits s, 0⟩
  | _, .inf t => ⟨f.infBits t, 0⟩
  | .num s m e, .num t n g => roundSum f mode c.flushOut s m e t n g).or (fa ||| fb)

/-- The encoding with its sign inverted (R148). -/
def Fmt.negate (f : Fmt) (raw : Nat) : Nat :=
  if f.neg raw then raw % 2 ^ f.width - f.signBit true else raw % 2 ^ f.width + f.signBit true

/-- FSUB (R143): a NaN operand keeps its own sign. -/
def fpSub (f : Fmt) (c : Fpcm) (mode : Rm) (a b : Nat) : Res :=
  if f.isNan b then fpAdd f c mode a b else fpAdd f c mode a (f.negate b)

/-- A product before rounding: invalid, a NaN operand, infinite, or exact. -/
inductive Prod where
  | nan | invalid | inf (neg : Bool) | exact (neg : Bool) (m : Nat) (e : Int)
deriving DecidableEq, Repr

/-- Whether an encoding is a zero. -/
def Fmt.isZero (f : Fmt) (raw : Nat) : Bool := match f.decode raw with | .num _ 0 _ => true | _ => false

/-- The exact product; MULZ makes a product with a zero factor an exact zero (R66). -/
def exactMul (f : Fmt) (c : Fpcm) (a b : Nat) : Prod :=
  let s := f.neg a != f.neg b
  if c.mulz && (f.isZero a || f.isZero b) then .exact s 0 0
  else match f.decode a, f.decode b with
    | .nan _, _ | _, .nan _ => .nan
    | .inf _, .num _ m _ => if m = 0 then .invalid else .inf s
    | .num _ m _, .inf _ => if m = 0 then .invalid else .inf s
    | .inf _, .inf _ => .inf s
    | .num _ m e, .num _ n g => .exact s (m * n) (e + g)

/-- FMUL (R143). -/
def fpMul (f : Fmt) (c : Fpcm) (mode : Rm) (a0 b0 : Nat) : Res :=
  let (a, fa) := flushIn f c a0
  let (b, fb) := flushIn f c b0
  (match exactMul f c a b with
  | .nan => nanResult f c [a, b]
  | .invalid => invalid f
  | .inf s => ⟨f.infBits s, 0⟩
  | .exact s m e => f.round mode c.flushOut s m e false).or (fa ||| fb)

/-- FMA and, with `neg`, FNMA (R143); UNFUSED rounds the product first (R64). -/
def fpFma (f : Fmt) (c : Fpcm) (mode : Rm) (neg : Bool) (a0 b0 c0 : Nat) : Res :=
  let (a, fa) := flushIn f c a0
  let (b, fb) := flushIn f c b0
  let (z, fz) := flushIn f c c0
  let zNan := f.isNan z
  (match exactMul f c a b with
  | .nan => nanResult f c [a, b, z]
  | .invalid =>
    if zNan && c.unfused then (nanResult f c [f.qnan, z]).or fIV
    else if zNan then (nanResult f c [a, b, z]).or (if f.isSnan z then fIV else if Config.fmaQuietInvalid then fIV else 0)
    else invalid f
  | .inf s =>
    let s := s != neg
    match f.decode z with
    | .nan _ => nanResult f c [a, b, z]
    | .inf t => if s = t then ⟨f.infBits s, 0⟩ else invalid f
    | .num _ _ _ => ⟨f.infBits s, 0⟩
  | .exact s m e =>
    if zNan then (nanResult f c [z]).or (if c.unfused then (f.round mode c.flushOut s m e false).flags else 0)
    else if c.unfused then
      let p := f.round mode c.flushOut s m e false
      (fpAdd f { c with denorm := if c.denorm = 1 then 2 else c.denorm } mode
        (if neg then f.negate p.bits else p.bits) z).or p.flags
    else match f.decode z with
      | .inf t => ⟨f.infBits t, 0⟩
      | .num t n g => roundSum f mode c.flushOut (s != neg) m e t n g
      | .nan _ => nanResult f c [z]).or (fa ||| fb ||| fz)

/-- Numeric order of two decoded operands that are no NaN: less, equal, greater. -/
def fpOrd : Fp → Fp → Ordering
  | .inf s, .inf t => if s = t then .eq else if s then .lt else .gt
  | .inf s, _ => if s then .lt else .gt
  | _, .inf t => if t then .gt else .lt
  | .num s m e, .num t n g => let x := (exactAdd s m e (!t) n g).1; if x < 0 then .lt else if x = 0 then .eq else .gt
  | _, _ => .eq

/-- FMIN and FMAX (R144, R63, R65). -/
def fpMinMax (f : Fmt) (c : Fpcm) (isMax : Bool) (a0 b0 : Nat) : Res :=
  let (a, fa) := flushIn f c a0
  let (b, fb) := flushIn f c b0
  let fl := (if f.isSnan a || f.isSnan b then fIV else 0) ||| fa ||| fb
  let bits :=
    if f.isNan a || f.isNan b then
      if c.nanm = 1 then f.quiet (if f.isNan a then a else b)
      else if c.nanm = 2 && !(f.isNan a && f.isNan b) then (if f.isNan a then b else a)
      else f.qnan
    else if f.isZero a && f.isZero b && f.neg a != f.neg b then
      (if c.zsign then f.signBit (!isMax) else a)
    else match fpOrd (f.decode a) (f.decode b) with
      | .lt => if isMax then b else a
      | .gt => if isMax then a else b
      | .eq => a
  ⟨bits, fl⟩

/-- FCMP (R145): the truth of condition `cc`. -/
def fpCmp (f : Fmt) (c : Fpcm) (cc a0 b0 : Nat) : Bool × Nat :=
  let (a, fa) := flushIn f c a0
  let (b, fb) := flushIn f c b0
  let un := f.isNan a || f.isNan b
  let sn := f.isSnan a || f.isSnan b
  let o := fpOrd (f.decode a) (f.decode b)
  let truth := match cc with
    | 0 => !un && o == .eq | 1 => un || o != .eq | 2 => !un && o == .lt | 3 => !un && o != .gt
    | 4 => !un && o == .gt | 5 => !un && o != .lt | 6 => un | _ => !un
  (truth, (if sn || (un && 2 ≤ cc && cc ≤ 5) then fIV else 0) ||| fa ||| fb)

/-- Integer square root, rounded down, by Newton steps from above. -/
def isqrtGo (n : Nat) : Nat → Nat → Nat
  | 0, x => x
  | k + 1, x => let y := (x + n / x) / 2; if y < x then isqrtGo n k y else x

def isqrt (n : Nat) : Nat := if n = 0 then 0 else isqrtGo n 256 (2 ^ (Nat.log2 n / 2 + 1))

/-- Round the quotient of two dyadic numbers. -/
def roundQuot (f : Fmt) (mode : Rm) (flush s : Bool) (m : Nat) (e : Int) (n : Nat) (g : Int) : Res :=
  let k := f.fbits + 4 + Nat.log2 n
  let x := m * 2 ^ k
  f.round mode flush s (x / n) (e - g - k) (x % n ≠ 0)

/-- FDIV (R146). -/
def fpDiv (f : Fmt) (c : Fpcm) (mode : Rm) (a0 b0 : Nat) : Res :=
  let (a, fa) := flushIn f c a0
  let (b, fb) := flushIn f c b0
  let s := f.neg a != f.neg b
  (match f.decode a, f.decode b with
  | .nan _, _ | _, .nan _ => nanResult f c [a, b]
  | .inf _, .inf _ => invalid f
  | .inf _, _ => ⟨f.infBits s, 0⟩
  | _, .inf _ => ⟨f.signBit s, 0⟩
  | .num _ m e, .num _ n g =>
    if n = 0 then (if m = 0 then invalid f else ⟨f.infBits s, fDZ⟩)
    else roundQuot f mode c.flushOut s m e n g).or (fa ||| fb)

/-- m * 2^e with an even exponent and at least 2 * bits bits. -/
def evenForm (m : Nat) (e : Int) (bits : Nat) : Nat × Int :=
  let k := 2 * bits
  let k := if (e - k) % 2 = 0 then k else k + 1
  (m * 2 ^ k, e - k)

/-- FSQRT (R146). -/
def fpSqrt (f : Fmt) (c : Fpcm) (mode : Rm) (a0 : Nat) : Res :=
  let (a, fa) := flushIn f c a0
  (match f.decode a with
  | .nan _ => nanResult f c [a]
  | .inf s => if s then invalid f else ⟨f.infBits false, 0⟩
  | .num s m e =>
    if m = 0 then ⟨f.signBit s, 0⟩ else if s then invalid f else
    let (x, g) := evenForm m e (f.fbits + 3)
    let r := isqrt x
    f.round mode c.flushOut false r (g / 2) (r * r ≠ x)).or fa

/-- 1 / sqrt(m * 2^e), rounded (R67, RCPM 00). -/
def roundRsqrt (f : Fmt) (mode : Rm) (flush : Bool) (m : Nat) (e : Int) : Res :=
  let (m, e) := if e % 2 = 0 then (m, e) else (2 * m, e - 1)
  let k := 2 * (f.fbits + 4 + Nat.log2 m)
  let r := isqrt (2 ^ k / m)
  f.round mode flush false r (-(k / 2 : Nat) - e / 2) (r * r * m ≠ 2 ^ k)

/-- Table T of R67. -/
def rcpTable (i : Nat) : Nat := (2 * 2 ^ 21 + (513 + 2 * i)) / (2 * (513 + 2 * i))
/-- Table Q of R67. -/
def rsqTable (i : Nat) : Nat :=
  let m256 := if i < 128 then 257 + 2 * i else 2 * (257 + 2 * (i - 128))
  (isqrt (2 ^ 26 * 256 / m256) + 1) / 2

/-- A finite f32 result as an exact number. -/
def f32Num (bits : Nat) : Nat × Int := match Fmt.f32.decode bits with | .num _ m e => (m, e) | _ => (0, 0)

/-- round(x, RNE, f32) inside R67. -/
def rne32 (neg : Bool) (m : Nat) (e : Int) : Nat × Int := f32Num (Fmt.f32.round .rne false neg m e false).bits

/-- The value y of FRCP in R67 for m * 2^(-23), m in [2^23, 2^24): table, or table and one step. -/
def rcpY (rcpm m : Nat) : Nat × Int :=
  let y0 := rcpTable (m % 2 ^ 23 / 2 ^ 15)
  if rcpm = 2 then (y0, -12) else
  let (t, te) := rne32 false (m * y0) (-35)
  let (d, de) := exactAdd false 2 0 true t te
  let (u, ue) := rne32 (d < 0) d.natAbs de
  rne32 false (y0 * u) (ue - 12)

/-- The value y of FRSQ in R67. -/
def rsqY (rcpm m : Nat) (odd : Bool) : Nat × Int :=
  let i := m % 2 ^ 23 / 2 ^ 16 + (if odd then 128 else 0)
  let m' := if odd then 2 * m else m
  let y0 := rsqTable i
  if rcpm = 2 then (y0, -12) else
  let (t, te) := rne32 false (y0 * y0) (-24)
  let (s, se) := rne32 false (m' * t) (te - 23)
  let (d, de) := exactAdd false 3 0 true s se
  let (u, ue) := rne32 (d < 0) d.natAbs de
  rne32 false (y0 * u) (ue - 13)

/-- Normalise m * 2^e to a 24-bit mantissa m' and exponent x with value m' * 2^(x - 23). -/
def norm24 (m : Nat) (e : Int) : Nat × Int :=
  let l := Nat.log2 m
  (if l ≤ 23 then m * 2 ^ (23 - l) else m / 2 ^ (l - 23), e + l)

/-- Finish R67: round the f32 value to the node's type, RNE, and set IX when it differs from the exact value. A tiny result that
the f32 format holds exactly sets no UF then: R67 names IX alone (log 119). -/
def legacyFinish (f : Fmt) (c : Fpcm) (neg : Bool) (y : Nat) (ye : Int) (exact : Nat → Int → Bool) : Res :=
  let r := Fmt.f32.round .rne (f == Fmt.f32 && c.flushOut) neg y ye false
  let r2 := if f == Fmt.f32 then r else
    match Fmt.f32.decode r.bits with
    | .num s m e => (f.round .rne c.flushOut s m e false).or r.flags
    | .inf s => ⟨f.infBits s, r.flags⟩
    | .nan _ => r
  let same := match f.decode r2.bits with | .num _ m e => exact m e | _ => false
  if same then ⟨r2.bits, r2.flags &&& (127 - fIX)⟩ else r2.or fIX

/-- FRCP (R67, R146). -/
def fpRcp (f : Fmt) (c : Fpcm) (mode : Rm) (a0 : Nat) : Res :=
  let (a, fa) := flushIn f c a0
  (match f.decode a with
  | .nan _ => nanResult f c [a]
  | .inf s => ⟨f.signBit s, 0⟩
  | .num s m e =>
    if m = 0 then ⟨f.infBits s, fDZ⟩
    else if c.rcpm = 0 || f == Fmt.f64 then roundQuot f mode c.flushOut s 1 0 m e
    else
      let (m1, x) := norm24 m e
      let (y, ye) := rcpY c.rcpm m1
      legacyFinish f c s y (ye - x) (fun n g => n ≠ 0 && n * m == 2 ^ (-(e + g)).toNat && e + g ≤ 0)).or fa

/-- FRSQ (R67, R146). -/
def fpRsq (f : Fmt) (c : Fpcm) (mode : Rm) (a0 : Nat) : Res :=
  let (a, fa) := flushIn f c a0
  (match f.decode a with
  | .nan _ => nanResult f c [a]
  | .inf s => if s then invalid f else ⟨f.signBit false, 0⟩
  | .num s m e =>
    if m = 0 then ⟨f.infBits s, fDZ⟩ else if s then invalid f
    else if c.rcpm = 0 || f == Fmt.f64 then roundRsqrt f mode c.flushOut m e
    else
      let (m1, x) := norm24 m e
      let odd := x % 2 ≠ 0
      let (y, ye) := rsqY c.rcpm m1 odd
      legacyFinish f c false y (ye - (if odd then x - 1 else x) / 2)
        (fun n g => n ≠ 0 && n * n * m == 2 ^ (-(e + 2 * g)).toNat && e + 2 * g ≤ 0)).or fa

/-- FRND (R148). A subnormal operand rounds to an integral value, which is no tiny result: nothing is flushed and no UF raised
(R62, log 119). -/
def fpRnd (f : Fmt) (c : Fpcm) (mode : Rm) (a0 : Nat) : Res :=
  let (a, fa) := flushIn f c a0
  (match f.decode a with
  | .nan _ => nanResult f c [a]
  | .inf _ => ⟨a, 0⟩
  | .num s m e =>
    if m = 0 then ⟨a, 0⟩ else
    let (q, rem, den) := shiftExp m e
    let q' := if roundUp mode s q rem den false then q + 1 else q
    (f.round mode false s q' 0 false).or (if rem ≠ 0 then fIX else 0)).or fa

/-- FCLASS (R148). -/
def fpClass (f : Fmt) (a : Nat) : Nat :=
  match f.decode a with
  | .nan _ => if f.isSnan a then 1 else 2
  | .inf s => if s then 4 else 512
  | .num s m _ =>
    if m = 0 then (if s then 32 else 64)
    else if m < 2 ^ f.fbits && f.isSubnormal a then (if s then 16 else 128) else (if s then 8 else 256)

/-- FSCALE (R148). -/
def fpScale (f : Fmt) (c : Fpcm) (mode : Rm) (a0 : Nat) (k : Int) : Res :=
  let (a, fa) := flushIn f c a0
  (match f.decode a with
  | .nan _ => nanResult f c [a]
  | .inf _ => ⟨a, 0⟩
  | .num s m e =>
    -- beyond this range every result overflows or lies below every half place alike
    let k := max (-16384) (min 16384 k)
    f.round mode c.flushOut s m (e + k) false).or fa

def fpAbs (f : Fmt) (a : Nat) : Nat := a % 2 ^ (f.ebits + f.fbits)

/-- Float to float (R60, R62, R151). -/
def fpToFp (src dst : Fmt) (c : Fpcm) (mode : Rm) (a0 : Nat) : Res :=
  let (a, fa) := flushIn src c a0
  (match src.decode a with
  | .nan raw =>
    let fl := if src.isSnan raw then fIV else 0
    if c.nanm = 1 then
      let fr := raw % 2 ^ src.fbits
      let fr' := if dst.fbits ≥ src.fbits then fr * 2 ^ (dst.fbits - src.fbits) else fr / 2 ^ (src.fbits - dst.fbits)
      Res.mk (dst.signBit (src.neg raw) + dst.expMax * 2 ^ dst.fbits + (fr' ||| 2 ^ (dst.fbits - 1))) fl
    else Res.mk dst.qnan fl
  | .inf s => Res.mk (dst.infBits s) 0
  | .num s m e => dst.round mode c.flushOut s m e false).or fa

/-- The range of an integer type (R48). -/
def Ty.lo (t : Ty) : Int := if t.isSigned then -(2 ^ (t.width - 1) : Int) else 0
def Ty.hi (t : Ty) : Int := if t.isSigned then 2 ^ (t.width - 1) - 1 else 2 ^ t.width - 1

/-- The w-bit pattern of an integer (R47, R48). -/
def wrapTo (w : Nat) (x : Int) : Nat := (x % (2 ^ w : Int)).toNat

/-- An operand's low bits read in an integer type (R47). -/
def readInt (t : Ty) (x : Nat) : Int :=
  let w := t.width
  let y := x % 2 ^ w
  if t.isSigned && y.testBit (w - 1) then (y : Int) - 2 ^ w else y

/-- Float to integer (R60). -/
def fpToInt (src : Fmt) (dst : Ty) (c : Fpcm) (mode : Rm) (a0 : Nat) : Res :=
  let (a, fa) := flushIn src c a0
  (match src.decode a with
  | .nan _ => Res.mk 0 fIV
  | .inf s => Res.mk (wrapTo dst.width (if s then Ty.lo dst else Ty.hi dst)) fIV
  | .num s m e =>
    let (q, rem, den) := shiftExp m e
    let q' : Int := if roundUp mode s q rem den false then q + 1 else q
    let x := if s then -q' else q'
    if x < Ty.lo dst then Res.mk (wrapTo dst.width (Ty.lo dst)) fIV
    else if x > Ty.hi dst then Res.mk (wrapTo dst.width (Ty.hi dst)) fIV
    else Res.mk (wrapTo dst.width x) (if rem ≠ 0 then fIX else 0)).or fa

/-- Integer to float (R60). -/
def intToFp (src : Ty) (dst : Fmt) (c : Fpcm) (mode : Rm) (a : Nat) : Res :=
  let x := readInt src a
  dst.round mode c.flushOut (x < 0) x.natAbs 0 false

/-- SRND (R156): round to P fraction bits of TY, then TY's overflow rule. -/
def fpSrnd (f : Fmt) (c : Fpcm) (mode : Rm) (p a0 : Nat) : Res :=
  let (a, fa) := flushIn f c a0
  (match f.decode a with
  | .nan _ => nanResult f c [a]
  | .inf _ => ⟨a, 0⟩
  | .num s m e =>
    if m = 0 then ⟨a, 0⟩ else
    let lead : Int := max (e + Nat.log2 m) f.emin
    let tiny := e + Nat.log2 m < f.emin
    let quant : Int := max (lead - p) (f.emin - f.fbits)
    let (q, rem, den) := shiftExp m (e - quant)
    let q' := if roundUp mode s q rem den false then q + 1 else q
    let ix := if rem ≠ 0 then fIX else 0
    if tiny && c.flushOut then ⟨f.signBit s, fUF + fIX⟩
    else (f.round mode false s q' quant false).or (ix ||| (if tiny && rem ≠ 0 then fUF else 0))).or fa

end Sys2Proof.Machine
end

