-- ==== Sys2Proof/WellFormed.lean ====
section
/-! DEFINITION. Which node records an element accepts by themselves: the limits on SUB, TY, L, V, MASK, RM, SAT, LIT and
the overlay fields that the class tables give. What concerns a block as a whole is the loader's (Machine/Loader.lean). -/

namespace Sys2Proof

/-- Why a record is refused (R76, R91). -/
inductive Reject where
  /-- No instruction has this opcode: 0x00, 0xFF or an unassigned code (R91). -/
  | illegalOpcode
  /-- An opcode of a later version, 0xE0 to 0xFE (R91). -/
  | reservedOpcode
  /-- PRED = 11 (R75). -/
  | predIllegal
  /-- A nonzero reserved bit (R76). -/
  | reservedBits
  | badSub | badTy | badL | badV | badMask | badCond | badSat | badLit | badDest | badPred
  | badGreg | badLvl | badBound | badLsid | badOrd | badG | badScope | badBank | badSreg | badGmode
  /-- RM 6 to 15 (R51). -/
  | badRounding
  /-- SR on a node that does not accept it (R51). -/
  | badStochastic
  /-- The row is a hardware step and has no record. -/
  | noRecord
deriving DecidableEq, Repr

/-- The first check that fails. -/
def firstReject : List (Bool × Reject) → Option Reject
  | [] => none
  | (ok, r) :: rest => if ok then firstReject rest else some r

/-- A check and one more after it. -/
def thenReject (r : Option Reject) (ok : Bool) (why : Reject) : Option Reject :=
  match r with
  | some e => some e
  | none => if ok then none else some why

/-- Whether a one-bit field may or must be set. -/
inductive BitRule where
  | no | may | must
deriving DecidableEq, Repr

def BitRule.ok : BitRule → Bool → Bool
  | .no, b => !b | .may, _ => true | .must, b => b

/-- What X[53:50] of the common overlay holds (R77). -/
inductive RmRule where
  | zero | cond (below : Nat) | round | roundOrSr
deriving DecidableEq, Repr

def noDests (h : Hdr) : Bool := !h.d0.val && !h.d1.val
def subBelow (n : Nat) (h : Hdr) : Bool := h.sub.toNat < n

/-- "Any" under R107: pr never with V = 1, the block formats only with V = 1. -/
def anyShape (t : Ty) (v : Bool) : Bool := if t.isBlock then v else if t = .pr then !v else true

/-- R78: MASK is zero with V = 0, nonzero with V = 1, and its odd bits are zero for 64-bit lanes. -/
def maskOk (v : Bool) (width : Nat) (mask : BitVec 16) : Bool :=
  if v then mask != 0 && (width != 64 || mask &&& 0xAAAA == 0) else mask == 0

/-- R77 to R78, R107, R131, R141, R157: the limits of a common-overlay record. `lanes` is the width that counts its
lanes, `full` says that MASK must be 0xFFFF, `lit0` that LIT must be 0 unless the row gives it a meaning (R107). -/
def checkCommon (f : CommonNode) (sub ty : Bool) (l v : BitRule) (rm : RmRule) (sat : Bool) (lit0 : Bool)
    (lanes : Nat) (full : Bool) : Option Reject :=
  firstReject [
    (sub, .badSub), (ty, .badTy), (l.ok f.l, .badL), (v.ok f.v, .badV),
    (match rm with
      | .zero => f.rm == 0 | .cond n => f.rm.toNat < n | .round | .roundOrSr => true, .badCond),
    (match rm with | .round | .roundOrSr => f.rm.toNat ≤ 5 | _ => true, .badRounding),
    (match rm with | .round => f.rm != 5 | _ => true, .badStochastic),
    (sat || !f.sat, .badSat),
    (if full then f.mask == 0xFFFF else maskOk f.v lanes f.mask, .badMask),
    (!lit0 || l != .no || f.lit == 0, .badLit)]

/-- An integer-class record (R131): `l` accepted, types, SAT, V accepted. -/
def checkInt (f : CommonNode) (ty : Bool) (l v sat : Bool) : Option Reject :=
  checkCommon f (f.sub == 0) (ty && anyShape f.ty f.v) (if l then .may else .no) (if v then .may else .no) .zero sat true
    f.ty.width false

/-- A float-class record (R141, R142). RM is zero on a node that does not round (R77). -/
def checkFloat (f : CommonNode) (l rounds : Bool) : Option Reject :=
  checkCommon f (f.sub == 0) f.ty.isFloat (if l then .may else .no) .may (if rounds then .round else .zero) false false
    f.ty.width false

/-- A transcendental (R142, R147). -/
def checkTrans (f : CommonNode) : Option Reject :=
  checkCommon f (f.sub == 0) (f.ty.isFloat && f.ty != .f64) .no .no .round false false f.ty.width false

/-- A vector-class record (R157, R158). -/
def checkVec (f : CommonNode) (sub ty : Bool) (l : Bool) (sat : Bool) (full : Bool) : Option Reject :=
  checkCommon f sub ty (if l then .may else .no) .must .zero sat false f.ty.width full

/-- VRED and VSCAN (R158): float ops 0 to 2, SAT on integer add, RM on float sums (R157). -/
def checkRed (f : CommonNode) : Option Reject :=
  checkCommon f (if f.ty.isFloat then f.sub.toNat ≤ 2 else f.sub.toNat ≤ 5) (f.ty.isInt || f.ty.isFloat) .no .must
    (if f.ty.isFloat && f.sub == 0 then .round else .zero) (f.ty.isInt && f.sub == 0) false f.ty.width false

/-- Source type of a conversion (R149). -/
def CommonNode.sty (f : CommonNode) : Ty := Ty.ofCode (f.sub.toNat % 16)
/-- PART of a conversion (R149). -/
def CommonNode.part (f : CommonNode) : Nat := f.sub.toNat / 16

/-- R151: CVT pairs whose every source value TY holds exactly. -/
def cvtExact (s t : Ty) : Bool :=
  match s, t with
  | .f16, .f32 | .f16, .f64 | .bf16, .f32 | .bf16, .f64 | .f32, .f64 => true
  | .i8, .f16 | .i8, .bf16 | .i8, .f32 | .i8, .f64 | .n8, .f16 | .n8, .bf16 | .n8, .f32 | .n8, .f64 => true
  | .i16, .f32 | .i16, .f64 | .n16, .f32 | .n16, .f64 | .i32, .f64 | .n32, .f64 => true
  | _, _ => false

/-- CVT (R149, R151). -/
def checkCvt (f : CommonNode) : Option Reject :=
  let s := f.sty
  let ws := s.width
  let wt := f.ty.width
  let pair := (s.isInt || s.isFloat) && (f.ty.isInt || f.ty.isFloat) && (s.isFloat || f.ty.isFloat) && s != f.ty
  let q := Nat.max ws wt / Nat.min ws wt
  checkCommon f (pair && (f.part == 0 || (f.v && ws != wt && f.part < q))) pair .no .may
    (if f.ty.isFloat && !cvtExact s f.ty then .roundOrSr else .round) false false (Nat.max ws wt) false

/-- R79, R107, R110: a plumbing record. -/
def checkPlumb (f : PlumbNode) (sub ty : Bool) (l v : BitRule) (lit0 greg dests pred : Bool) : Option Reject :=
  firstReject [(sub, .badSub), (ty && (v == .no || anyShape f.ty f.v) && (v != .no || !f.ty.isBlock), .badTy),
    (l.ok f.l, .badL), (v.ok f.v, .badV), ((!lit0 && f.l) || f.lit == 0, .badLit),
    (if greg then !f.v || f.greg.toNat < 32 else f.greg == 0, .badGreg), (dests || noDests f.toHdr, .badDest),
    (pred || f.pred == .always, .badPred)]

/-- R80, R107, R119: a tag record. -/
def checkTag (f : TagNode) (sub ty : Bool) (l v : BitRule) (kb lit : Bool) : Option Reject :=
  firstReject [(sub, .badSub), (ty && (v == .no || anyShape f.ty f.v), .badTy), (l.ok f.l, .badL), (v.ok f.v, .badV),
    (kb || f.kb == 0, .badBound), (lit, .badLit)]

/-- R81, R85, R178, R179: a memory record. -/
def checkMem (f : MemNode) (sub ty : Bool) (l v : BitRule) (ord : List Nat) (g : BitRule) (lit0 dests : Bool) : Option Reject :=
  firstReject [(sub, .badSub), (ty, .badTy), (l.ok f.l, .badL), (v.ok f.v, .badV), (!lit0 || f.lit == 0, .badLit),
    (f.lsid != 31, .badLsid), (ord.contains f.ord.toNat, .badOrd), (g.ok f.g, .badG),
    (f.scope.toNat < 4 && (f.ord != 0 || f.scope == 0), .badScope), (dests || noDests f.toHdr, .badDest)]

/-- R82, R200, R203: an engine record. -/
def checkEng (f : EngNode) (sub ty mx : Bool) : Option Reject :=
  firstReject [(sub, .badSub), (ty, .badTy), (f.lit == 0, .badLit), (f.lsid != 31, .badLsid),
    (mx || (!f.bank && !f.half), .badBank)]

/-- R83, R165, R166: a graphics record; `sr` is refused on all of them. -/
def checkGfx (f : GfxNode) (ty : Bool) (l v : BitRule) (gmode : Bool) : Option Reject :=
  firstReject [(f.sub == 0, .badSub), (ty, .badTy), (l.ok f.l, .badL), (v.ok f.v, .badV),
    (f.rm.toNat ≤ 5, .badRounding), (f.rm.toNat != 5, .badStochastic), (gmode, .badGmode)]

/-- R84, R219, R220: a system S record. -/
def checkSysS (f : SysSNode) (sub ty : Bool) (l : BitRule) (lit sreg dests : Bool) : Option Reject :=
  firstReject [(sub, .badSub), (ty, .badTy), (l.ok f.l, .badL), ((f.l || f.lit == 0) && lit, .badLit), (sreg, .badSreg),
    (dests || noDests f.toHdr, .badDest)]

/-- R84, R219, R220: a system M record. -/
def checkSysM (f : SysMNode) (sub : Nat) : Option Reject :=
  firstReject [(f.sub.toNat == sub, .badSub), (f.ty == .n64, .badTy), (f.lit == 0, .badLit), (f.lsid != 31, .badLsid)]

/-- Special register numbers (R102). -/
def sregAssigned (n : Nat) : Bool :=
  [0x000, 0x001, 0x002, 0x010, 0x011, 0x012, 0x013, 0x014, 0x020, 0x021, 0x030, 0x031, 0x032, 0x040, 0x041].contains n

/-- Counter numbers (R226). -/
def counterAssigned (n : Nat) : Bool :=
  n ≤ 9 || (0x10 ≤ n && n ≤ 0x61) || (0x100 ≤ n && n ≤ 0x102)

/-- Types of the ATOM operations (R189). -/
def atomTy (sub : Nat) (t : Ty) : Bool :=
  let w := t == .i32 || t == .i64 || t == .n32 || t == .n64
  match sub with
  | 0 | 4 | 5 => w
  | 1 | 2 | 3 => w || t == .x64
  | 6 => w || t == .f32 || t == .f64 || t == .x64
  | 7 => t == .f32 || t == .f64
  | _ => false

/-- "W" of R178. -/
def wideTy (t : Ty) : Bool := t != .pr
/-- Types of the matrix data planes (R203). -/
def mxTy (t : Ty) : Bool := t.isBlock || t == .bf16 || t == .f16 || t == .i8
/-- Types of REDSCAT (R215). -/
def redscatTy (t : Ty) : Bool := t == .i32 || t == .n32 || t == .i64 || t == .n64 || t.isFloat
/-- Types of VDOT (R158, R161). -/
def vdotTy (t : Ty) : Bool :=
  t == .i8 || t == .i16 || t == .i32 || t == .n8 || t == .n16 || t == .n32 || t.isFloat

/-- The check of a row's record (R76): `none` when an element accepts it. -/
def Instr.check : Instr → Option Reject
  | .mov f | .merge f | .gate f | .nullg f => checkPlumb f (f.sub == 0) true .no .may true false true true
  | .steer f => checkPlumb f (subBelow 2 f.toHdr) true .no .may true false true true
  | .sink f => checkPlumb f (f.sub == 0) true .no .may true false false true
  | .const f => checkPlumb f (subBelow 2 f.toHdr) (!f.ty.isBlock && !(f.v && (f.ty == .pr || f.ty == .x64))) .must .may
      false false true (f.sub == 0)
  | .read f => checkPlumb f (f.sub == 0) true .no .may true true true false
  | .write f => checkPlumb f (f.sub == 0) true .no .may true true false true
  | .br f => checkPlumb f (subBelow 2 f.toHdr) true .must .no (f.sub == 1) false false true
  | .bri f => checkPlumb f (f.sub == 0) (f.ty == .i32) .must .no false false false true
  | .callb f => checkPlumb f (f.sub == 0) true .must .no false false false true
  | .retb f => checkPlumb f (f.sub == 0) true .no .no true false false true
  | .enter f => checkTag f (f.sub == 0) true .no .may true (f.lit == 0)
  | .next f => checkTag f (f.sub == 0) true .must .may false (f.lit.toNat < 128)
  | .exit f | .retire f => checkTag f (f.sub == 0) true .no .may false (f.lit == 0)
  | .bound f => checkTag f (f.sub == 0) true .no .may true (f.lit == 0)
  | .tagget f => checkTag f (subBelow 5 f.toHdr)
      ((f.ty.isUnsigned || f.ty == .x64) && (f.sub != 2 || f.ty == .n64 || f.ty == .x64)
        && ((f.sub != 3 && f.sub != 4) || f.ty != .n8)) .no .no false (f.lit == 0)
  | .tagset f | .spawn f => checkTag f (f.sub == 0) true .may .may false true
  | .retag f => checkTag f (subBelow 2 f.toHdr) true .no .may false (f.lit == 0)
  | .tagcmp f => checkTag f (subBelow 3 f.toHdr) (f.ty == .pr) .no .no false (f.lit == 0)
  | .add f | .sub f | .mul f | .mad f => checkInt f f.ty.isInt true true true
  | .addc f | .subb f => checkInt f f.ty.isInt true false false
  | .mulh f | .div f | .rem f | .min f | .max f => checkInt f f.ty.isInt true true false
  | .and f | .or f | .xor f | .andn f => checkInt f (f.ty.isInt || f.ty == .pr || f.ty == .x64) true true false
  | .shl f => checkInt f (f.ty.isInt || f.ty == .x64) true true f.ty.isInt
  | .shr f | .sar f | .rot f | .bfe f | .bfi f => checkInt f (f.ty.isInt || f.ty == .x64) true true false
  | .clz f | .ctz f | .popc f | .brev f => checkInt f (f.ty.isInt || f.ty == .x64) false true false
  | .abs f => checkInt f f.ty.isSigned false true true
  | .cmp f => checkCommon f (f.sub == 0) f.ty.isInt .may .may (.cond 6) false true f.ty.width false
  | .sel f => checkInt f true true true false
  | .lea f => checkCommon f (subBelow 8 f.toHdr) (f.ty == .n32 || f.ty == .n64 || f.ty == .i64) .may .no .zero false true
      f.ty.width false
  | .fadd f | .fsub f | .fmul f | .fma f | .fnma f | .fdiv f | .fscale f => checkFloat f true true
  | .fmin f | .fmax f => checkFloat f true false
  | .fcmp f => checkCommon f (f.sub == 0) f.ty.isFloat .may .may (.cond 8) false false f.ty.width false
  | .fsqrt f | .frcp f | .frsq f | .frnd f => checkFloat f false true
  | .fclass f | .fabs f | .fneg f => checkFloat f false false
  | .fexp2 f | .flog2 f | .fsin f | .fcos f | .ftanh f => checkTrans f
  | .cvt f => checkCvt f
  | .qnt f => thenReject (checkCommon f ((f.sty == .f32 || f.sty == .f16 || f.sty == .bf16) && f.part == 0) f.ty.isBlock
      .may .must (if f.rm == 0 || f.rm == 5 then .roundOrSr else .zero) false false f.ty.width true)
      (!f.l || f.lit.toNat < (if f.ty == .eb8 then 32 else 64)) .badLit
  | .dqnt f => checkCommon f (f.sty.isBlock && f.part < (if f.sty == .eb8 then 2 else 4))
      (f.ty == .f32 || f.ty == .f16 || f.ty == .bf16) .no .must .round false false f.ty.width true
  | .bscl f => checkCommon f (f.sub == 0) f.ty.isBlock .may .must .zero false false f.ty.width true
  | .pack f | .unpack f => checkCommon f (f.sub == 0) f.ty.isBlock .no .must .zero false false f.ty.width true
  | .srnd f => thenReject (checkCommon f (f.sub == 0) (f.ty == .f32 || f.ty == .f64) .may .may .roundOrSr false false
      f.ty.width false) (!f.l || f.lit.toNat ≤ (if f.ty == .f32 then 23 else 52)) .badLit
  | .vbcast f | .vshuf f | .vcmpr f | .vexpd f | .vcnt f => checkVec f (f.sub == 0) (wideTy f.ty) false false false
  | .vext f | .vins f => checkVec f (f.sub == 0) (wideTy f.ty) true false true
  | .vred f | .vscan f => checkRed f
  | .vdot f => checkCommon f (f.sub == 0) (vdotTy f.ty) .no .must (if f.ty.isFloat then .round else .zero) f.ty.isInt false
      f.ty.width false
  | .vmask f => checkVec f (subBelow 2 f.toHdr) f.ty.isInt false false false
  | .reda f => checkCommon f (f.sub.toNat < 16 && f.sub.toNat % 8 < 4 && (f.ty.isInt || f.sub.toNat % 8 != 3))
      (f.ty.isInt || f.ty.isFloat) .no .may (if f.ty.isFloat && f.sub.toNat % 8 == 0 then .round else .zero) f.ty.isInt false
      f.ty.width false
  | .redx f => checkCommon f (subBelow 2 f.toHdr) (f.ty.isInt || f.ty.isFloat) .no .no .zero f.ty.isInt false f.ty.width false
  | .ld f => checkMem f (f.sub == 0) f.ty.isScalarMem .may .no [0, 1] .no false true
  | .st f => checkMem f (f.sub == 0) f.ty.isScalarMem .may .no [0, 2] .may false false
  | .ldv f => checkMem f (f.sub == 0) (wideTy f.ty) .may .must [0, 1] .no false true
  | .stv f => checkMem f (f.sub == 0) (wideTy f.ty) .may .must [0, 2] .may false false
  | .ldg f => checkMem f (subBelow 2 f.toHdr) (wideTy f.ty && !f.ty.isBlock) .may .must [0, 1] .no false true
  | .sts f => checkMem f (subBelow 2 f.toHdr) (wideTy f.ty && !f.ty.isBlock) .may .must [0, 2] .may false false
  | .vld f => checkMem f (f.sub == 0) (if f.v then wideTy f.ty else f.ty.isScalarMem) .may .may [0, 1] .no false true
  | .vst f => checkMem f (f.sub == 0) (if f.v then wideTy f.ty else f.ty.isScalarMem) .may .may [0, 2] .no false false
  | .atom f => checkMem f (subBelow 8 f.toHdr) (atomTy f.sub.toNat f.ty) .may .no [0, 1, 2, 3] .must false true
  | .cas f => checkMem f (f.sub == 0)
      (f.ty == .i32 || f.ty == .i64 || f.ty == .n32 || f.ty == .n64 || f.ty == .f32 || f.ty == .f64 || f.ty == .x64)
      .may .no [0, 1, 2, 3] .must false true
  | .stmc f => checkMem f (f.sub == 0) f.ty.isScalarMem .may .no [0, 2] .must false false
  | .fence f => checkMem f (f.sub == 0) true .no .may [1, 2, 3] .no true true
  | .xfi f => checkMem f (f.sub == 0) (f.ty == .n16) .no .no [0] .no true true
  | .xfw f => checkMem f (f.sub == 0) (f.ty == .pr) .no .no [0] .no true true
  | .mwait f => checkMem f (subBelow 3 f.toHdr) (f.ty == .n64) .may .no [1] .no false true
  | .pref f => checkMem f (subBelow 2 f.toHdr) true .may .no [0] .no false false
  | .bnd f => checkMem f (f.sub == 0) true .no .may [2] .no true true
  | .mxw f => checkEng f (f.sub == 0) (mxTy f.ty) true
  | .mxa f => checkEng f (subBelow 2 f.toHdr) (mxTy f.ty) true
  | .mxd f => checkEng f (f.sub == 0) (f.ty.isBlock || f.ty == .f32 || f.ty == .bf16 || f.ty == .f16) true
  | .mxsStat f => checkEng f (f.sub == 0) (f.ty == .n64) true
  | .mxsClr f => checkEng f (f.sub == 1) (f.ty == .n64) true
  | .mxsSync f => checkEng f (f.sub == 2) (f.ty == .n64) true
  | .ceq f | .lnch f => checkEng f (f.sub == 0) (f.ty == .x64) false
  | .grp f => checkEng f (f.sub == 0) (f.ty == .n64) false
  | .coll f => checkEng f (subBelow 5 f.toHdr) (if f.sub == 1 then redscatTy f.ty else f.ty == .x64) false
  | .grpxLeave f => checkEng f (f.sub == 0) (f.ty == .n64) false
  | .grpxBreak f => checkEng f (f.sub == 1) (f.ty == .n64) false
  | .edge f | .box4 f | .txq f => checkGfx f (f.ty == .f32) .no .must (f.gmode == 0)
  | .tri1 f => checkGfx f (f.ty == .f32) .no .must (f.gmode.toNat < 2)
  | .blnd f => checkGfx f (f.ty == .f32) .no .must (f.gmode.toNat < 12)
  | .seqt f => checkGfx f (f.ty == .n32) .no .no (f.gmode.toNat < 2)
  | .route f => checkGfx f true .may .may (f.gmode == 0)
  | .trap f => checkSysS f (f.sub == 0) true .may true (f.sreg == 0) false
  | .frec f => checkSysS f (f.sub == 0) (f.ty == .x64) .no true (f.sreg == 0) true
  | .retryResume f => checkSysS f (f.sub == 0) (f.ty == .pr) .no true (f.sreg == 0) true
  | .retrySkip f => checkSysS f (f.sub == 1) (f.ty == .pr) .no true (f.sreg == 0) true
  | .poisMake f => checkSysS f (f.sub == 0) true .may (1 ≤ f.lit.toNat && f.lit.toNat ≤ 0x17) (f.sreg == 0) true
  | .poisTest f => checkSysS f (f.sub == 1) true .may true (f.sreg == 0) true
  | .rdsr f => checkSysS f (f.sub == 0) (f.ty == .n64) .no true (sregAssigned f.sreg.toNat) true
  | .wrsr f => checkSysS f (f.sub == 0) (f.ty == .n64) .may true (sregAssigned f.sreg.toNat) true
  | .timeNow f => checkSysS f (f.sub == 0) (f.ty == .n64) .may true (f.sreg == 0) true
  | .timeUntil f => checkSysS f (f.sub == 1) (f.ty == .n64) .may true (f.sreg == 0) true
  | .timeAfter f => checkSysS f (f.sub == 2) (f.ty == .n64) .may true (f.sreg == 0) true
  | .cntr f => checkSysS f (f.sub == 0) (f.ty == .n64) .no true (counterAssigned f.sreg.toNat) true
  | .bkpt f => checkSysS f (f.sub == 0) true .may true (f.sreg == 0) true
  | .done f => checkSysS f (f.sub == 0) (f.ty == .n32) .no true (f.sreg == 0) true
  | .snap f => checkSysM f 0
  | .ctxsv f => checkSysM f 0
  | .ctxld f => checkSysM f 0
  | .vdctlStop f => checkSysM f 0
  | .vdctlResume f => checkSysM f 1
  | .vdctlReset f => checkSysM f 2
  | .vdctlTrackon f => checkSysM f 3
  | .vdctlTrackoff f => checkSysM f 4
  | .dirty f => checkSysM f 0
  | _ => some .noRecord

/-- A row's record is one that an element accepts. -/
def Instr.WellFormed (i : Instr) : Prop := i.check = none

/-- Decidable form of `Instr.WellFormed`. -/
def Instr.wellFormed (i : Instr) : Bool := (i.check).isNone

end Sys2Proof
end

