-- ==== Sys2Proof/Decode.lean ====
section
/-! DEFINITION. Records to instructions and back (R72 to R91). Decoding is total: a record is an instruction or is
rejected by name. -/

namespace Sys2Proof

/-- The fields of a record before its overlay is read (R73). -/
structure RawNode where
  opc : BitVec 8
  sub : BitVec 6
  pred : BitVec 2
  ty : BitVec 4
  d0 : BitVec 10
  d1 : BitVec 10
  x : BitVec 24
  lit : BitVec 32
deriving DecidableEq, Repr

/-- The record of the fields (R73). -/
def RawNode.pack (r : RawNode) : Rec :=
  r.opc ++ r.sub ++ r.pred ++ r.ty ++ r.d0 ++ r.d1 ++ r.x ++ r.lit

/-- The fields of a record (R73). -/
def RawNode.unpack (w : Rec) : RawNode where
  opc := w.extractLsb' 88 8
  sub := w.extractLsb' 82 6
  pred := w.extractLsb' 80 2
  ty := w.extractLsb' 76 4
  d0 := w.extractLsb' 66 10
  d1 := w.extractLsb' 56 10
  x := w.extractLsb' 32 24
  lit := w.extractLsb' 0 32

def boolBit (b : Bool) : BitVec 1 := if b then 1 else 0

/-- A destination field (R74). -/
def Dest.pack (d : Dest) : BitVec 10 := boolBit d.val ++ d.node ++ d.port.code
def Dest.unpack (w : BitVec 10) : Dest where
  val := w.getLsbD 9
  node := w.extractLsb' 2 7
  port := Port.ofCode (w.extractLsb' 0 2).toNat

/-- PRED (R73); 11 is illegal (R75). -/
def Pred.unpack (w : BitVec 2) : Option Pred :=
  match w.toNat with | 0 => some .always | 1 => some .ifTrue | 2 => some .ifFalse | _ => none

/-- The fields that all overlays share. -/
def RawNode.hdr (r : RawNode) (p : Pred) : Hdr where
  sub := r.sub
  pred := p
  ty := Ty.ofCode r.ty.toNat
  d0 := Dest.unpack r.d0
  d1 := Dest.unpack r.d1
  lit := r.lit

/-- The record fields of an opcode, a header and an overlay. -/
def Hdr.raw (h : Hdr) (opc : BitVec 8) (x : BitVec 24) : RawNode where
  opc := opc
  sub := h.sub
  pred := h.pred.code
  ty := h.ty.code
  d0 := h.d0.pack
  d1 := h.d1.pack
  x := x
  lit := h.lit

/-- Common overlay (R77). -/
def CommonNode.x (f : CommonNode) : BitVec 24 :=
  boolBit f.l ++ boolBit f.v ++ f.rm ++ boolBit f.sat ++ (0 : BitVec 1) ++ f.mask
def CommonNode.ofX (h : Hdr) (x : BitVec 24) : CommonNode :=
  { h with l := x.getLsbD 23, v := x.getLsbD 22, rm := x.extractLsb' 18 4, sat := x.getLsbD 17, mask := x.extractLsb' 0 16 }

/-- Plumbing overlay (R79). -/
def PlumbNode.x (f : PlumbNode) : BitVec 24 := boolBit f.l ++ boolBit f.v ++ f.greg ++ (0 : BitVec 15)
def PlumbNode.ofX (h : Hdr) (x : BitVec 24) : PlumbNode :=
  { h with l := x.getLsbD 23, v := x.getLsbD 22, greg := x.extractLsb' 15 7 }

/-- Tag overlay (R80). -/
def TagNode.x (f : TagNode) : BitVec 24 := boolBit f.l ++ boolBit f.v ++ f.lvl ++ f.kb ++ (0 : BitVec 13)
def TagNode.ofX (h : Hdr) (x : BitVec 24) : TagNode :=
  { h with l := x.getLsbD 23, v := x.getLsbD 22, lvl := x.extractLsb' 19 3, kb := x.extractLsb' 13 6 }

/-- Memory overlay (R81). -/
def MemNode.x (f : MemNode) : BitVec 24 :=
  boolBit f.l ++ boolBit f.v ++ f.lsid ++ boolBit f.g ++ f.ord ++ f.scope ++ f.prv ++ f.nxt ++ boolBit f.last
def MemNode.ofX (h : Hdr) (x : BitVec 24) : MemNode :=
  { h with l := x.getLsbD 23, v := x.getLsbD 22, lsid := x.extractLsb' 17 5, g := x.getLsbD 16, ord := x.extractLsb' 14 2,
           scope := x.extractLsb' 11 3, prv := x.extractLsb' 6 5, nxt := x.extractLsb' 1 5, last := x.getLsbD 0 }

/-- Engine overlay (R82). -/
def EngNode.x (f : EngNode) : BitVec 24 :=
  boolBit f.bank ++ boolBit f.half ++ f.lsid ++ f.unit ++ f.prv ++ f.nxt ++ boolBit f.last
def EngNode.ofX (h : Hdr) (x : BitVec 24) : EngNode :=
  { h with bank := x.getLsbD 23, half := x.getLsbD 22, lsid := x.extractLsb' 17 5, unit := x.extractLsb' 11 6,
           prv := x.extractLsb' 6 5, nxt := x.extractLsb' 1 5, last := x.getLsbD 0 }

/-- Graphics overlay (R83): bits 45:32 are reserved and zero. R166 asks there for a MASK of 0xFFFF, for which the overlay has no
field; the model follows R83 (log 42). -/
def GfxNode.x (f : GfxNode) : BitVec 24 := boolBit f.l ++ boolBit f.v ++ f.rm ++ f.gmode ++ (0 : BitVec 14)
def GfxNode.ofX (h : Hdr) (x : BitVec 24) : GfxNode :=
  { h with l := x.getLsbD 23, v := x.getLsbD 22, rm := x.extractLsb' 18 4, gmode := x.extractLsb' 14 4 }

/-- System S overlay (R84). -/
def SysSNode.x (f : SysSNode) : BitVec 24 := boolBit f.l ++ (0 : BitVec 1) ++ f.sreg ++ (0 : BitVec 10)
def SysSNode.ofX (h : Hdr) (x : BitVec 24) : SysSNode :=
  { h with l := x.getLsbD 23, sreg := x.extractLsb' 10 12 }

/-- System M overlay (R84). -/
def SysMNode.x (f : SysMNode) : BitVec 24 :=
  (0 : BitVec 2) ++ f.lsid ++ (0 : BitVec 6) ++ f.prv ++ f.nxt ++ boolBit f.last
def SysMNode.ofX (h : Hdr) (x : BitVec 24) : SysMNode :=
  { h with lsid := x.extractLsb' 17 5, prv := x.extractLsb' 6 5, nxt := x.extractLsb' 1 5, last := x.getLsbD 0 }

/-- A node instruction as its opcode and its overlay. -/
inductive NodeView where
  | common (opc : BitVec 8) (f : CommonNode)
  | plumb (opc : BitVec 8) (f : PlumbNode)
  | tag (opc : BitVec 8) (f : TagNode)
  | mem (opc : BitVec 8) (f : MemNode)
  | eng (opc : BitVec 8) (f : EngNode)
  | gfx (opc : BitVec 8) (f : GfxNode)
  | sysS (opc : BitVec 8) (f : SysSNode)
  | sysM (opc : BitVec 8) (f : SysMNode)
deriving DecidableEq, Repr

/-- The fields of a view. -/
def NodeView.raw : NodeView → RawNode
  | .common o f => f.toHdr.raw o f.x
  | .plumb o f => f.toHdr.raw o f.x
  | .tag o f => f.toHdr.raw o f.x
  | .mem o f => f.toHdr.raw o f.x
  | .eng o f => f.toHdr.raw o f.x
  | .gfx o f => f.toHdr.raw o f.x
  | .sysS o f => f.toHdr.raw o f.x
  | .sysM o f => f.toHdr.raw o f.x

/-- The header fields of a view. -/
def NodeView.hdr : NodeView → Hdr
  | .common _ f => f.toHdr
  | .plumb _ f => f.toHdr
  | .tag _ f => f.toHdr
  | .mem _ f => f.toHdr
  | .eng _ f => f.toHdr
  | .gfx _ f => f.toHdr
  | .sysS _ f => f.toHdr
  | .sysM _ f => f.toHdr

/-- The opcode of a view. -/
def NodeView.opc : NodeView → BitVec 8
  | .common o _ | .plumb o _ | .tag o _ | .mem o _ | .eng o _ | .gfx o _ | .sysS o _ | .sysM o _ => o

/-- Opcode and overlay of a row that is a node instruction (R90). -/
def Instr.view : Instr → Option NodeView
  | .mov f => some (.plumb 0x01 f)
  | .steer f => some (.plumb 0x02 f)
  | .merge f => some (.plumb 0x03 f)
  | .gate f => some (.plumb 0x04 f)
  | .nullg f => some (.plumb 0x05 f)
  | .sink f => some (.plumb 0x06 f)
  | .const f => some (.plumb 0x07 f)
  | .read f => some (.plumb 0x08 f)
  | .write f => some (.plumb 0x09 f)
  | .br f => some (.plumb 0x0A f)
  | .bri f => some (.plumb 0x0B f)
  | .callb f => some (.plumb 0x0C f)
  | .retb f => some (.plumb 0x0D f)
  | .enter f => some (.tag 0x10 f)
  | .next f => some (.tag 0x11 f)
  | .exit f => some (.tag 0x12 f)
  | .bound f => some (.tag 0x13 f)
  | .tagget f => some (.tag 0x14 f)
  | .tagset f => some (.tag 0x15 f)
  | .spawn f => some (.tag 0x16 f)
  | .retire f => some (.tag 0x17 f)
  | .retag f => some (.tag 0x18 f)
  | .tagcmp f => some (.tag 0x19 f)
  | .add f => some (.common 0x20 f)
  | .sub f => some (.common 0x21 f)
  | .addc f => some (.common 0x22 f)
  | .subb f => some (.common 0x23 f)
  | .mul f => some (.common 0x24 f)
  | .mulh f => some (.common 0x25 f)
  | .mad f => some (.common 0x26 f)
  | .div f => some (.common 0x27 f)
  | .rem f => some (.common 0x28 f)
  | .and f => some (.common 0x29 f)
  | .or f => some (.common 0x2A f)
  | .xor f => some (.common 0x2B f)
  | .andn f => some (.common 0x2C f)
  | .shl f => some (.common 0x2D f)
  | .shr f => some (.common 0x2E f)
  | .sar f => some (.common 0x2F f)
  | .rot f => some (.common 0x30 f)
  | .clz f => some (.common 0x31 f)
  | .ctz f => some (.common 0x32 f)
  | .popc f => some (.common 0x33 f)
  | .brev f => some (.common 0x34 f)
  | .bfe f => some (.common 0x35 f)
  | .bfi f => some (.common 0x36 f)
  | .min f => some (.common 0x37 f)
  | .max f => some (.common 0x38 f)
  | .abs f => some (.common 0x39 f)
  | .cmp f => some (.common 0x3A f)
  | .sel f => some (.common 0x3B f)
  | .lea f => some (.common 0x3C f)
  | .fadd f => some (.common 0x40 f)
  | .fsub f => some (.common 0x41 f)
  | .fmul f => some (.common 0x42 f)
  | .fma f => some (.common 0x43 f)
  | .fnma f => some (.common 0x44 f)
  | .fmin f => some (.common 0x45 f)
  | .fmax f => some (.common 0x46 f)
  | .fcmp f => some (.common 0x47 f)
  | .fdiv f => some (.common 0x48 f)
  | .fsqrt f => some (.common 0x49 f)
  | .frcp f => some (.common 0x4A f)
  | .frsq f => some (.common 0x4B f)
  | .fexp2 f => some (.common 0x4C f)
  | .flog2 f => some (.common 0x4D f)
  | .fsin f => some (.common 0x4E f)
  | .fcos f => some (.common 0x4F f)
  | .ftanh f => some (.common 0x50 f)
  | .frnd f => some (.common 0x51 f)
  | .fclass f => some (.common 0x52 f)
  | .fscale f => some (.common 0x53 f)
  | .fabs f => some (.common 0x54 f)
  | .fneg f => some (.common 0x55 f)
  | .cvt f => some (.common 0x60 f)
  | .qnt f => some (.common 0x61 f)
  | .dqnt f => some (.common 0x62 f)
  | .bscl f => some (.common 0x63 f)
  | .pack f => some (.common 0x64 f)
  | .unpack f => some (.common 0x65 f)
  | .srnd f => some (.common 0x66 f)
  | .vbcast f => some (.common 0x68 f)
  | .vext f => some (.common 0x69 f)
  | .vins f => some (.common 0x6A f)
  | .vshuf f => some (.common 0x6B f)
  | .vred f => some (.common 0x6C f)
  | .vscan f => some (.common 0x6D f)
  | .vdot f => some (.common 0x6E f)
  | .vcmpr f => some (.common 0x6F f)
  | .vexpd f => some (.common 0x70 f)
  | .vmask f => some (.common 0x71 f)
  | .vcnt f => some (.common 0x72 f)
  | .reda f => some (.common 0x78 f)
  | .redx f => some (.common 0x79 f)
  | .ld f => some (.mem 0x80 f)
  | .st f => some (.mem 0x81 f)
  | .ldv f => some (.mem 0x82 f)
  | .stv f => some (.mem 0x83 f)
  | .ldg f => some (.mem 0x84 f)
  | .sts f => some (.mem 0x85 f)
  | .vld f => some (.mem 0x86 f)
  | .vst f => some (.mem 0x87 f)
  | .atom f => some (.mem 0x88 f)
  | .cas f => some (.mem 0x89 f)
  | .stmc f => some (.mem 0x8A f)
  | .fence f => some (.mem 0x8B f)
  | .xfi f => some (.mem 0x8C f)
  | .xfw f => some (.mem 0x8D f)
  | .mwait f => some (.mem 0x8E f)
  | .pref f => some (.mem 0x8F f)
  | .bnd f => some (.mem 0x90 f)
  | .mxw f => some (.eng 0xA0 f)
  | .mxa f => some (.eng 0xA1 f)
  | .mxd f => some (.eng 0xA2 f)
  | .ceq f => some (.eng 0xA4 f)
  | .grp f => some (.eng 0xA5 f)
  | .coll f => some (.eng 0xA6 f)
  | .lnch f => some (.eng 0xA8 f)
  | .mxsStat f => some (.eng 0xA3 f)
  | .mxsClr f => some (.eng 0xA3 f)
  | .mxsSync f => some (.eng 0xA3 f)
  | .grpxLeave f => some (.eng 0xA7 f)
  | .grpxBreak f => some (.eng 0xA7 f)
  | .edge f => some (.gfx 0xB0 f)
  | .box4 f => some (.gfx 0xB1 f)
  | .tri1 f => some (.gfx 0xB2 f)
  | .txq f => some (.gfx 0xB3 f)
  | .blnd f => some (.gfx 0xB4 f)
  | .seqt f => some (.gfx 0xB5 f)
  | .route f => some (.gfx 0xB6 f)
  | .trap f => some (.sysS 0xC0 f)
  | .frec f => some (.sysS 0xC1 f)
  | .rdsr f => some (.sysS 0xC4 f)
  | .wrsr f => some (.sysS 0xC5 f)
  | .cntr f => some (.sysS 0xC7 f)
  | .bkpt f => some (.sysS 0xC8 f)
  | .done f => some (.sysS 0xCE f)
  | .retryResume f => some (.sysS 0xC2 f)
  | .retrySkip f => some (.sysS 0xC2 f)
  | .poisMake f => some (.sysS 0xC3 f)
  | .poisTest f => some (.sysS 0xC3 f)
  | .timeNow f => some (.sysS 0xC6 f)
  | .timeUntil f => some (.sysS 0xC6 f)
  | .timeAfter f => some (.sysS 0xC6 f)
  | .snap f => some (.sysM 0xC9 f)
  | .ctxsv f => some (.sysM 0xCA f)
  | .ctxld f => some (.sysM 0xCB f)
  | .dirty f => some (.sysM 0xCD f)
  | .vdctlStop f => some (.sysM 0xCC f)
  | .vdctlResume f => some (.sysM 0xCC f)
  | .vdctlReset f => some (.sysM 0xCC f)
  | .vdctlTrackon f => some (.sysM 0xCC f)
  | .vdctlTrackoff f => some (.sysM 0xCC f)
  | _ => none

/-- The PlumbNode rows by opcode; `SUB` picks among rows that share one (R90). -/
def plumbRow (opc : Nat) (f : PlumbNode) : Option Instr :=
  match opc with
  | 0x01 => some (.mov f)
  | 0x02 => some (.steer f)
  | 0x03 => some (.merge f)
  | 0x04 => some (.gate f)
  | 0x05 => some (.nullg f)
  | 0x06 => some (.sink f)
  | 0x07 => some (.const f)
  | 0x08 => some (.read f)
  | 0x09 => some (.write f)
  | 0x0A => some (.br f)
  | 0x0B => some (.bri f)
  | 0x0C => some (.callb f)
  | 0x0D => some (.retb f)
  | _ => none

/-- The TagNode rows by opcode; `SUB` picks among rows that share one (R90). -/
def tagRow (opc : Nat) (f : TagNode) : Option Instr :=
  match opc with
  | 0x10 => some (.enter f)
  | 0x11 => some (.next f)
  | 0x12 => some (.exit f)
  | 0x13 => some (.bound f)
  | 0x14 => some (.tagget f)
  | 0x15 => some (.tagset f)
  | 0x16 => some (.spawn f)
  | 0x17 => some (.retire f)
  | 0x18 => some (.retag f)
  | 0x19 => some (.tagcmp f)
  | _ => none

/-- The CommonNode rows by opcode; `SUB` picks among rows that share one (R90). -/
def intRow (opc : Nat) (f : CommonNode) : Option Instr :=
  match opc with
  | 0x20 => some (.add f)
  | 0x21 => some (.sub f)
  | 0x22 => some (.addc f)
  | 0x23 => some (.subb f)
  | 0x24 => some (.mul f)
  | 0x25 => some (.mulh f)
  | 0x26 => some (.mad f)
  | 0x27 => some (.div f)
  | 0x28 => some (.rem f)
  | 0x29 => some (.and f)
  | 0x2A => some (.or f)
  | 0x2B => some (.xor f)
  | 0x2C => some (.andn f)
  | 0x2D => some (.shl f)
  | 0x2E => some (.shr f)
  | 0x2F => some (.sar f)
  | 0x30 => some (.rot f)
  | 0x31 => some (.clz f)
  | 0x32 => some (.ctz f)
  | 0x33 => some (.popc f)
  | 0x34 => some (.brev f)
  | 0x35 => some (.bfe f)
  | 0x36 => some (.bfi f)
  | 0x37 => some (.min f)
  | 0x38 => some (.max f)
  | 0x39 => some (.abs f)
  | 0x3A => some (.cmp f)
  | 0x3B => some (.sel f)
  | 0x3C => some (.lea f)
  | _ => none

/-- The CommonNode rows by opcode; `SUB` picks among rows that share one (R90). -/
def floatRow (opc : Nat) (f : CommonNode) : Option Instr :=
  match opc with
  | 0x40 => some (.fadd f)
  | 0x41 => some (.fsub f)
  | 0x42 => some (.fmul f)
  | 0x43 => some (.fma f)
  | 0x44 => some (.fnma f)
  | 0x45 => some (.fmin f)
  | 0x46 => some (.fmax f)
  | 0x47 => some (.fcmp f)
  | 0x48 => some (.fdiv f)
  | 0x49 => some (.fsqrt f)
  | 0x4A => some (.frcp f)
  | 0x4B => some (.frsq f)
  | 0x4C => some (.fexp2 f)
  | 0x4D => some (.flog2 f)
  | 0x4E => some (.fsin f)
  | 0x4F => some (.fcos f)
  | 0x50 => some (.ftanh f)
  | 0x51 => some (.frnd f)
  | 0x52 => some (.fclass f)
  | 0x53 => some (.fscale f)
  | 0x54 => some (.fabs f)
  | 0x55 => some (.fneg f)
  | _ => none

/-- The CommonNode rows by opcode; `SUB` picks among rows that share one (R90). -/
def vectorRow (opc : Nat) (f : CommonNode) : Option Instr :=
  match opc with
  | 0x60 => some (.cvt f)
  | 0x61 => some (.qnt f)
  | 0x62 => some (.dqnt f)
  | 0x63 => some (.bscl f)
  | 0x64 => some (.pack f)
  | 0x65 => some (.unpack f)
  | 0x66 => some (.srnd f)
  | 0x68 => some (.vbcast f)
  | 0x69 => some (.vext f)
  | 0x6A => some (.vins f)
  | 0x6B => some (.vshuf f)
  | 0x6C => some (.vred f)
  | 0x6D => some (.vscan f)
  | 0x6E => some (.vdot f)
  | 0x6F => some (.vcmpr f)
  | 0x70 => some (.vexpd f)
  | 0x71 => some (.vmask f)
  | 0x72 => some (.vcnt f)
  | 0x78 => some (.reda f)
  | 0x79 => some (.redx f)
  | _ => none

/-- The MemNode rows by opcode; `SUB` picks among rows that share one (R90). -/
def memRow (opc : Nat) (f : MemNode) : Option Instr :=
  match opc with
  | 0x80 => some (.ld f)
  | 0x81 => some (.st f)
  | 0x82 => some (.ldv f)
  | 0x83 => some (.stv f)
  | 0x84 => some (.ldg f)
  | 0x85 => some (.sts f)
  | 0x86 => some (.vld f)
  | 0x87 => some (.vst f)
  | 0x88 => some (.atom f)
  | 0x89 => some (.cas f)
  | 0x8A => some (.stmc f)
  | 0x8B => some (.fence f)
  | 0x8C => some (.xfi f)
  | 0x8D => some (.xfw f)
  | 0x8E => some (.mwait f)
  | 0x8F => some (.pref f)
  | 0x90 => some (.bnd f)
  | _ => none

/-- The EngNode rows by opcode; `SUB` picks among rows that share one (R90). -/
def engRow (opc : Nat) (f : EngNode) : Option Instr :=
  match opc with
  | 0xA0 => some (.mxw f)
  | 0xA1 => some (.mxa f)
  | 0xA2 => some (.mxd f)
  | 0xA4 => some (.ceq f)
  | 0xA5 => some (.grp f)
  | 0xA6 => some (.coll f)
  | 0xA8 => some (.lnch f)
  | 0xA3 => if f.sub = 0 then some (.mxsStat f) else if f.sub = 1 then some (.mxsClr f) else if f.sub = 2 then some (.mxsSync f) else none
  | 0xA7 => if f.sub = 0 then some (.grpxLeave f) else if f.sub = 1 then some (.grpxBreak f) else none
  | _ => none

/-- The GfxNode rows by opcode; `SUB` picks among rows that share one (R90). -/
def gfxRow (opc : Nat) (f : GfxNode) : Option Instr :=
  match opc with
  | 0xB0 => some (.edge f)
  | 0xB1 => some (.box4 f)
  | 0xB2 => some (.tri1 f)
  | 0xB3 => some (.txq f)
  | 0xB4 => some (.blnd f)
  | 0xB5 => some (.seqt f)
  | 0xB6 => some (.route f)
  | _ => none

/-- The SysSNode rows by opcode; `SUB` picks among rows that share one (R90). -/
def sysSRow (opc : Nat) (f : SysSNode) : Option Instr :=
  match opc with
  | 0xC0 => some (.trap f)
  | 0xC1 => some (.frec f)
  | 0xC4 => some (.rdsr f)
  | 0xC5 => some (.wrsr f)
  | 0xC7 => some (.cntr f)
  | 0xC8 => some (.bkpt f)
  | 0xCE => some (.done f)
  | 0xC2 => if f.sub = 0 then some (.retryResume f) else if f.sub = 1 then some (.retrySkip f) else none
  | 0xC3 => if f.sub = 0 then some (.poisMake f) else if f.sub = 1 then some (.poisTest f) else none
  | 0xC6 => if f.sub = 0 then some (.timeNow f) else if f.sub = 1 then some (.timeUntil f) else if f.sub = 2 then some (.timeAfter f) else none
  | _ => none

/-- The SysMNode rows by opcode; `SUB` picks among rows that share one (R90). -/
def sysMRow (opc : Nat) (f : SysMNode) : Option Instr :=
  match opc with
  | 0xC9 => some (.snap f)
  | 0xCA => some (.ctxsv f)
  | 0xCB => some (.ctxld f)
  | 0xCD => some (.dirty f)
  | 0xCC => if f.sub = 0 then some (.vdctlStop f) else if f.sub = 1 then some (.vdctlResume f) else if f.sub = 2 then some (.vdctlReset f) else if f.sub = 3 then some (.vdctlTrackon f) else if f.sub = 4 then some (.vdctlTrackoff f) else none
  | _ => none

/-- The row of a record's fields, before its limits are checked (R90). -/
def Instr.build (r : RawNode) (p : Pred) : Option Instr :=
  let o := r.opc.toNat
  let h := r.hdr p
  if o < 0x10 then plumbRow o (PlumbNode.ofX h r.x)
  else if o < 0x20 then tagRow o (TagNode.ofX h r.x)
  else if o < 0x40 then intRow o (CommonNode.ofX h r.x)
  else if o < 0x60 then floatRow o (CommonNode.ofX h r.x)
  else if o < 0x80 then vectorRow o (CommonNode.ofX h r.x)
  else if o < 0xA0 then memRow o (MemNode.ofX h r.x)
  else if o < 0xB0 then engRow o (EngNode.ofX h r.x)
  else if o < 0xC0 then gfxRow o (GfxNode.ofX h r.x)
  else if o < 0xC9 ∨ o = 0xCE then sysSRow o (SysSNode.ofX h r.x)
  else sysMRow o (SysMNode.ofX h r.x)

/-- Whether an instruction has the opcode (R90). -/
def opcodeAssigned (o : Nat) : Bool :=
  (1 ≤ o && o ≤ 0x0D) || (0x10 ≤ o && o ≤ 0x19) || (0x20 ≤ o && o ≤ 0x3C) || (0x40 ≤ o && o ≤ 0x55)
    || (0x60 ≤ o && o ≤ 0x66) || (0x68 ≤ o && o ≤ 0x72) || o == 0x78 || o == 0x79 || (0x80 ≤ o && o ≤ 0x90)
    || (0xA0 ≤ o && o ≤ 0xA8) || (0xB0 ≤ o && o ≤ 0xB6) || (0xC0 ≤ o && o ≤ 0xCE)

/-- The record of a node instruction (R72, R73); hardware steps have none. -/
def Instr.encode (i : Instr) : Option Rec := i.view.map (fun v => v.raw.pack)

/-- The instruction of a record, or the name of what is wrong with it (R75, R76, R91). -/
def decode (w : Rec) : Except Reject Instr :=
  let r := RawNode.unpack w
  let o := r.opc.toNat
  if 0xE0 ≤ o ∧ o ≤ 0xFE then .error .reservedOpcode
  else if !opcodeAssigned o then .error .illegalOpcode
  else match Pred.unpack r.pred with
    | none => .error .predIllegal
    | some p =>
      match Instr.build r p with
      | none => .error .badSub
      | some i =>
        if i.encode ≠ some w then .error .reservedBits
        else match i.check with
          | none => .ok i
          | some why => .error why

/-- A record from its twelve bytes (R72): three words, each little-endian, the highest first. -/
def recOfBytes (bs : List Byte) : Rec :=
  match bs with
  | [b0, b1, b2, b3, b4, b5, b6, b7, b8, b9, b10, b11] =>
    b3 ++ b2 ++ b1 ++ b0 ++ b7 ++ b6 ++ b5 ++ b4 ++ b11 ++ b10 ++ b9 ++ b8
  | _ => 0

/-- The twelve bytes of a record (R72). -/
def recBytes (w : Rec) : List Byte :=
  [64, 72, 80, 88, 32, 40, 48, 56, 0, 8, 16, 24].map (fun i => w.extractLsb' i 8)

/-- A record from the host's numbering of its words: the first word in memory, W2, is the least significant. -/
def recOfTableWord (w : Nat) : Rec :=
  BitVec.ofNat 96 ((w % 4294967296) * 18446744073709551616 + (w / 4294967296 % 4294967296) * 4294967296
    + w / 18446744073709551616 % 4294967296)

/-- The instruction of a word numbered as the table numbers it; hardware steps have no word. -/
def decodeTableWord (nbits w : Nat) : Option Instr :=
  match decode (recOfTableWord (w % 2 ^ nbits)) with
  | .ok i => some i
  | .error _ => none

end Sys2Proof
end

