-- ==== Sys2Proof/Machine/Maps.lean ====
section
/-! DEFINITION. Keyed tables and byte memories as plain lists: a table is a list of (key, value) pairs with strictly
rising keys; a byte memory lists, with strictly rising addresses, the bytes that differ from zero (log 4). -/

namespace Sys2Proof.Machine

/-- A table with keys strictly rising. -/
abbrev Tbl (α : Type) := List (Nat × α)

/-- The entry of a key. -/
def Tbl.get? {α : Type} : Tbl α → Nat → Option α
  | [], _ => none
  | (k, v) :: t, key => if k = key then some v else if key < k then none else Tbl.get? t key

/-- The entry of a key, or a default. -/
def Tbl.getD {α : Type} (t : Tbl α) (key : Nat) (d : α) : α := (Tbl.get? t key).getD d

/-- Add or replace the entry of a key. -/
def Tbl.set {α : Type} : Tbl α → Nat → α → Tbl α
  | [], key, v => [(key, v)]
  | (k, w) :: t, key, v =>
    if key < k then (key, v) :: (k, w) :: t else if k = key then (key, v) :: t else (k, w) :: Tbl.set t key v

/-- Remove the entry of a key. -/
def Tbl.del {α : Type} : Tbl α → Nat → Tbl α
  | [], _ => []
  | (k, w) :: t, key => if k = key then t else (k, w) :: Tbl.del t key

/-- Change the entry of a key, if there is one. -/
def Tbl.mod {α : Type} (t : Tbl α) (key : Nat) (f : α → α) : Tbl α :=
  match Tbl.get? t key with
  | some v => Tbl.set t key (f v)
  | none => t

/-- The first key from `lo` on, below `lo + n`, that is not in the table. -/
def Tbl.firstFree {α : Type} (t : Tbl α) (lo : Nat) : Nat → Option Nat
  | 0 => none
  | n + 1 => match Tbl.get? t lo with
    | none => some lo
    | some _ => Tbl.firstFree t (lo + 1) n

/-- A byte memory: listed bytes differ from zero, addresses strictly rising (log 4). -/
abbrev Mem := List Host.Cell

/-- The byte at an address: an unlisted byte is zero (log 4). -/
def Mem.byte : Mem → Nat → Byte
  | [], _ => 0
  | (k, v) :: t, a => if k = a then v else if a < k then 0 else Mem.byte t a

/-- Store one byte; storing zero removes the entry. -/
def Mem.put : Mem → Nat → Byte → Mem
  | [], a, b => if b = 0 then [] else [(a, b)]
  | (k, v) :: t, a, b =>
    if a < k then (if b = 0 then (k, v) :: t else (a, b) :: (k, v) :: t)
    else if k = a then (if b = 0 then t else (a, b) :: t)
    else (k, v) :: Mem.put t a b

/-- Store consecutive bytes. -/
def Mem.write : Mem → Nat → List Byte → Mem
  | m, _, [] => m
  | m, a, b :: bs => Mem.write (Mem.put m a b) (a + 1) bs

/-- Read consecutive bytes. -/
def Mem.read (m : Mem) (a : Nat) : Nat → List Byte
  | 0 => []
  | n + 1 => Mem.byte m a :: Mem.read m (a + 1) n

/-- Every listed address is at least `lo`, addresses rise strictly, and no listed byte is zero. -/
def Mem.wfFrom : Nat → Mem → Bool
  | _, [] => true
  | lo, (k, v) :: t => decide (lo ≤ k) && !decide (v = 0) && Mem.wfFrom (k + 1) t

/-- The canonical form. -/
def Mem.wf (m : Mem) : Bool := Mem.wfFrom 0 m

/-- The number that bytes spell in little-endian order (R5). -/
def leNat : List Byte → Nat
  | [] => 0
  | b :: bs => b.toNat + 256 * leNat bs

/-- The `n` low bytes of a number in little-endian order (R5). -/
def leBytes (x : Nat) : Nat → List Byte
  | 0 => []
  | n + 1 => BitVec.ofNat 8 x :: leBytes (x / 256) n

end Sys2Proof.Machine
end

