-- ==== Sys2Proof/Machine/TypesFabric.lean ====
section
/-! DEFINITION. Data of the cycle and run chapters: values, tokens, elements, matching sets, switch boxes, fault records,
blocks, instances and queues. -/

namespace Sys2Proof.Machine

/-- A token's value (R19, R20): null with the shape it stands for, poison with its origin (R21), a predicate, a scalar or
a vector. -/
inductive Val where
  | null (vec : Bool)
  | poison (origin : W64)
  | bit (b : Bool)
  | scalar (x : W64)
  | vector (x : W512)
deriving DecidableEq, Repr

/-- A token (R19): destination, source, tag and value. -/
structure Token where
  dx : Nat
  dy : Nat
  frm : Nat
  node : Nat
  port : Port
  sx : Nat
  sy : Nat
  tag : W64
  val : Val
deriving DecidableEq, Repr

/-- A node slot (R23): the record with its frame, node number and the resolved sites of D0 and D1; `bad` marks an
uncorrectable error in the record (R412). -/
structure NodeSlot where
  word : Rec
  frm : Nat
  node : Nat
  ctx : Nat
  rgn : Nat
  d0x : Nat
  d0y : Nat
  d1x : Nat
  d1y : Nat
  bad : Bool
deriving DecidableEq, Repr

/-- A stored operand and its first operand-store word (R26). -/
structure PortHold where
  val : Val
  word : Option Nat
deriving DecidableEq, Repr

/-- A matching entry (R26, R29): its key, what each port holds, and whether it is poisoned or parked (R251). `seen` counts
the ports of a poisoned entry that have been seen; `age` orders entries. -/
structure MatchEntry where
  e : Nat
  frm : Nat
  node : Nat
  tag : W64
  a : Option PortHold
  b : Option PortHold
  c : Option PortHold
  p : Option PortHold
  poisoned : Bool
  seen : List Port
  parked : Bool
  age : Nat
deriving DecidableEq, Repr

/-- A way of a set (R29, R251). -/
inductive Way where
  | free
  | reserved
  | held (m : MatchEntry)
deriving DecidableEq, Repr

/-- A set of a cluster (R27, R249): its ways, SPILLS, HEAD and TAIL, its spills in flight (R250), and one more than the cycle
of its last lookup (R30). -/
structure MatchSet where
  ways : List Way
  spills : Nat
  head : Nat
  tail : Nat
  flying : Nat
  looked : Nat
deriving DecidableEq, Repr

/-- A ready-queue entry (R35): slot, tag, operands, start order of its instance, the first cycle in which it may issue (R36),
and bypass count. -/
structure ReadyEntry where
  slot : Nat
  frm : Nat
  node : Nat
  tag : W64
  a : Option Val
  b : Option Val
  c : Option Val
  p : Option Val
  born : Nat
  since : Nat
  bypass : Nat
deriving DecidableEq, Repr

/-- Why the match stage holds a token (R35, R250, R438): `setBusy` repeats a lookup that met another of its set (R30). -/
inductive HoldWhy where
  | readyFull | sidingLookup | noRoom | setBusy
deriving DecidableEq, Repr

/-- A result of an element (R34): the destination field it is of, its token, the cycle in which it is written into its
output buffer (R36), and the firing that gave it. Of the results of one network and field, the first one stands in the buffer once its cycle has come; the
others wait in their units. -/
structure OutTok where
  which : Nat
  tok : Token
  due : Nat
  fid : Nat
deriving DecidableEq, Repr

/-- The fields of a fault record (R105). -/
structure FaultRec where
  cause : Nat
  vd : Nat
  ctx : Nat
  die : Nat
  ox : Nat
  oy : Nat
  ofrm : Nat
  onode : Nat
  eng : Bool
  rgn : Nat
  tag : W64
  addr : W64
  vala : W64
  valb : W64
  ticks : W64
  count : Nat
  detail : Nat
  sx : Nat
  sy : Nat
  via : Bool
deriving DecidableEq, Repr

/-- A loop window (R121, R122). -/
structure LoopWin where
  frm : Nat
  node : Nat
  outer : W64
  head : Nat
  adv : Nat
  k : Nat
  done : BitVec 64
  final : Option Nat
deriving DecidableEq, Repr

/-- An accumulator of REDA or REDX (R163): `held` are the ordered variant's values by position, `best` is REDX's winner
as (value, iteration count). -/
structure Accum where
  frm : Nat
  node : Nat
  outer : W64
  base : Nat
  k : Nat
  present : BitVec 32
  acc : Option Val
  poisoned : Option W64
  final : Option Nat
  held : List (Nat × Val)
  best : Option (W64 × Nat)
deriving DecidableEq, Repr

/-- A fragment held by a BLND window (R172). -/
structure Fragment where
  seq : Nat
  a : W512
  tag : W64
deriving DecidableEq, Repr

/-- A BLND reorder window (R172). -/
structure BlndWin where
  frm : Nat
  node : Nat
  addr : Nat
  next : Nat
  frags : List (Nat × Fragment)
deriving DecidableEq, Repr

/-- A leaf translation held by an M-element (R393, R394): `page` is the virtual address of the page, `size` its bytes, `near`
and `primary` the physical bases of the local and the primary copy, with their dies on a replica page. -/
structure TlbEntry where
  vd : Nat
  page : Nat
  size : Nat
  pte : W64
  near : Nat
  primary : Nat
  nearDie : Nat
  primDie : Nat
  used : Nat
deriving DecidableEq, Repr

/-- A firing (R33, R44 "a firing in progress"): where it comes from and its operands. -/
structure Firing where
  fid : Nat
  sid : Nat
  slot : Nat
  frm : Nat
  node : Nat
  ctx : Nat
  rgn : Nat
  tag : W64
  a : Option Val
  b : Option Val
  c : Option Val
  p : Option Val
  d0x : Nat
  d0y : Nat
  d1x : Nat
  d1y : Nat
deriving DecidableEq, Repr

/-- Why a firing waits as a parked entry (R251). -/
inductive ParkWhy where
  | loopWindow      -- R122
  | pool            -- R129, R130
  | accumulator     -- R163
  | blend           -- R172
  | reservation     -- R313
  | time            -- R225
  | debug           -- R221
  | engine          -- R211
deriving DecidableEq, Repr

/-- A firing that waits under a rule of its own (R251), with its row. Its matching entry, in a way of its set or in the
Siding, is marked parked; while it has none (`placed` false) it waits in the match stage. `released` marks one whose event has
come and whose entry the Siding has still to bring back. -/
structure Parked where
  i : Instr
  f : Firing
  why : ParkWhy
  since : Nat
  placed : Bool
  released : Bool
deriving DecidableEq, Repr

/-- An element (R14): node slots, input buffers, match stage, ready queue, output buffers, fault capture, the cycles from which
the divider and the float unit accept a node again (R36), and the tables of its own. A parked firing also holds its entry in
the cluster's set. `portHold` is the request that a failed translation holds at the head of the memory port, `portQueue` the
requests behind it whose translation has failed too (R199). -/
structure Element where
  slots : Tbl NodeSlot
  inC : Option Token
  inS : Option Token
  inV : Option Token
  lastIn : Nat
  held : Option (Token × HoldWhy)
  heldSince : Nat
  ready : List ReadyEntry
  outs : List OutTok
  capture : Option FaultRec
  dividerUntil : Nat
  floatUntil : Nat
  windows : List LoopWin
  accums : List Accum
  blnds : List BlndWin
  lfsrs : Tbl Nat
  tlb : List TlbEntry
  portHold : Option Nat
  portQueue : List Nat
  parked : List Parked
  withheld : List Net
  stopped : Bool
deriving DecidableEq, Repr

/-- A switch box of one network (R37, R40): input buffers, the cycle in which each input's token came (R38), the input each
output served last, and the cycle at which each output passed a token last. -/
structure SwitchBox where
  bufs : List (Dir × Token)
  came : List (Dir × Nat)
  last : List (Dir × Dir)
  passed : List (Dir × Nat)
deriving DecidableEq, Repr

/-- A value that a WRITE holds for commit (R115). -/
structure WriteHold where
  node : Nat
  vec : Bool
  reg : Nat
  val : Val
deriving DecidableEq, Repr

/-- The branch an instance has taken (R116): none yet, or taken with its successor, none for an end or a fault. -/
inductive Branch where
  | none
  | taken (target : Option Nat)
deriving DecidableEq, Repr

/-- A block instance (R242): its domain, start order and place in its activation, and the counts of R239. `wins` are the
loop windows freed, as BOUND node, outer tag and place in program order; `numbers` the activation numbers spawned and not
yet retired; `chain` the memory firings ordered so far, as activation tag, place in program order, and whether it ended its
chain (R181). -/
structure Inst where
  dom : Nat
  start : Nat
  seq : Nat
  fired : List Nat
  branch : Branch
  writes : List WriteHold
  wins : List (Nat × W64 × List Nat)
  numbers : List Nat
  chain : List (W64 × List Nat × Bool)
deriving DecidableEq, Repr

/-- A block as the loader knows it (R86, R87, R234, R356): its address, header, records, each node's level, activation base
and BOUND nodes by level (R180), the commit set, and each node's offset and slot once placed. -/
structure Block where
  addr : Nat
  hdr : Rec
  nodes : List Rec
  levels : List Nat
  bases : List Nat
  loops : List (List Nat)
  commit : List Nat
  places : List (Nat × Nat × Nat)
deriving DecidableEq, Repr

/-- A block frame (R235): the mapped block, the address of one that is being fetched, the instances held, and the cycle of
the last start. -/
structure Frame where
  block : Option Block
  filling : Option Nat
  insts : List Inst
  lastStart : Nat
deriving DecidableEq, Repr

/-- A start request of the block sequencer (R236): the cycle in which it reaches the sequencer (R238), block, domain, its order, the branch firing it comes from, which is the
origin of a fetch fault (R117), and the tokens of the delivery that it comes from, with the index of the MOV that takes
each (R314). -/
structure StartReq where
  due : Nat
  block : Nat
  dom : Nat
  order : Nat
  origin : Option Firing
  inject : List (Nat × Val)
deriving DecidableEq, Repr

/-- A queue slot (R315). -/
inductive QSlot where
  | free
  | reserved
  | written (v : Val)
deriving DecidableEq, Repr

/-- A queue instance (R312): counters, slots and the reservations that wait, oldest first. -/
structure QInst where
  queue : Nat
  depth : Nat
  resv : Nat
  head : Nat
  slots : Tbl QSlot
  waiting : List Nat
deriving DecidableEq, Repr

/-- A hitch slot (R192): whether in use, generation, stores covered, whether one was lost, whether an XFW completed on it,
its activation, and whether that has ended. -/
structure Hitch where
  used : Bool
  gen : Nat
  covers : List Nat
  lost : Bool
  waited : Bool
  act : W64
  ended : Bool
deriving DecidableEq, Repr

/-- A comparator's registers (R333). -/
structure Comparator where
  ctl : W64
  tag : W64
  val : W64
deriving DecidableEq, Repr

/-- Replica states (R320). -/
inductive ReplicaState where
  | placing | available | retiring | gone
deriving DecidableEq, Repr

/-- A region replica (R235, R317, R354): its entry of the relocation table, frames, start requests, queue instances,
hitches and debug registers. `stepping` is the frame and node of a step, and the firing that it let issue. `seqt` holds the counters of the region's SEQT nodes
by block and node, which outlive a block's stay in a frame (R173). -/
structure Region where
  ctx : Nat
  rgn : Nat
  actor : Nat
  replica : Nat
  source : Nat
  die : Nat
  x0 : Nat
  y0 : Nat
  shape : Nat
  state : ReplicaState
  frames : List Frame
  starts : List StartReq
  queues : List QInst
  hitches : List Hitch
  comps : List Comparator
  halted : Bool
  hit : BitVec 8
  stepping : Option (Nat × Nat × Option Nat)
  stopped : Bool
  seqt : Tbl (Tbl Nat)
deriving DecidableEq, Repr

/-- A Siding entry (R247). `wanted` marks the parked entry that its element has asked for next (R251). -/
structure SidEntry where
  m : MatchEntry
  rgn : Nat
  rx : Nat
  ry : Nat
  prev : Nat
  next : Nat
  refill : Bool
  wanted : Bool
  die : Nat
  cluster : Nat
  set : Nat
deriving DecidableEq, Repr

/-- A Siding bucket header (R247). -/
structure Bucket where
  span : Nat
  homecnt : Nat
  usemask : BitVec 8
deriving DecidableEq, Repr

/-- A spill on its way to the Siding engine (R249): its context, set key and entry. -/
structure Spill where
  ctx : Nat
  set : Nat
  m : MatchEntry
deriving DecidableEq, Repr

/-- A context's Siding (R246, R252). -/
structure Siding where
  base : W64
  size : Nat
  use : Nat
  entries : Tbl SidEntry
  buckets : Tbl Bucket
  waiting : Nat
  fullSince : Option Nat
deriving DecidableEq, Repr

/-- A queue reservation on its way (R313): the firing that asks or a device stream, the queue, key, value and the instance
chosen. -/
structure Reservation where
  f : Option Firing
  ctx : Nat
  queue : Nat
  key : W64
  val : Val
  rgn : Option Nat
  slot : Option Nat
  origin : Nat
deriving DecidableEq, Repr

/-- A request to the job scheduler's tag pool (R128): a SPAWN, or a RETIRE with its number; the cycle in which it reached
the scheduler, and the reply when served. -/
structure PoolReq where
  i : Instr
  f : Firing
  ret : Option Nat
  reached : Option Nat
  reply : Option (Option Nat)
deriving DecidableEq, Repr

/-- A READ waiting at the global file (R114, R254). -/
structure GlobalRead where
  f : Firing
  h : Hdr
  reg : Nat
  vec : Bool
deriving DecidableEq, Repr

/-- What a task of the agenda is: an event of the table, an element's issue (R35), the firing of a parked node, or the
delivery of a result by its element. -/
inductive Task where
  | ev (i : Instr)
  | issue (sid : Nat)
  | refire (i : Instr) (f : Firing)
deriving DecidableEq, Repr

/-- The all-zero firing. -/
def Firing.zero : Firing := ⟨0, 0, 0, 0, 0, 0, 0, 0, none, none, none, none, 0, 0, 0, 0⟩

/-- A free set of four ways (R26). -/
def MatchSet.empty : MatchSet := ⟨[.free, .free, .free, .free], 0, 0xFFFFFFFF, 0xFFFFFFFF, 0, 0⟩

/-- An element after reset (R30: the input served last counts as vector). -/
def Element.empty : Element :=
  ⟨[], none, none, none, 2, none, 0, [], [], none, 0, 0, [], [], [], [], [], none, [], [], [], false⟩

/-- A switch box after reset (R40: the input served last counts as local, which an absent entry says). -/
def SwitchBox.empty : SwitchBox := ⟨[], [], [], []⟩

def Frame.empty : Frame := ⟨none, none, [], 0⟩
def Hitch.empty : Hitch := ⟨false, 0, [], false, false, 0, false⟩
def Comparator.empty : Comparator := ⟨0, 0, 0⟩
def Bucket.empty : Bucket := ⟨0, 0, 0⟩

end Sys2Proof.Machine
end

