-- ==== Sys2Proof/Machine/TypesMemory.lean ====
section
/-! DEFINITION. Data of the memory chapters: operations in flight, home lines, copies, slices, vault banks, walkers. -/

namespace Sys2Proof.Machine

/-- One lane of a memory operation (R185): its addresses and home dies, bytes stored or loaded, the leaf's CC, KEY and REP,
whether it is translated, whether it has been bound or written, the replicas of its address as its translation found them
(R284, R394), and whether its page is of 256 MiB (R229). -/
structure Lane where
  idx : Nat
  va : W64
  pa : Nat
  prim : Nat
  home : Nat
  primHome : Nat
  size : Nat
  data : List Byte
  cc : Nat
  key : Nat
  rep : Bool
  ok : Bool
  bound : Bool
  reps : List (Nat × Nat)
  big : Bool
deriving DecidableEq, Repr

/-- Where an operation stands: not yet ordered (R181), waiting for the order of R182, being translated, held at the port
(R199), on its way, or performed. -/
inductive MemPhase where
  | resolving | ordered | translating | held | sent | acked | done
deriving DecidableEq, Repr

/-- A memory, engine or system M firing in flight (R181, R188, R201): the row, the firing, its place in program order
(R180), its access and how far it has performed. `pw` is the rts of a renewal's reply; `pws` holds the provisional timestamp
of each line that an early store has written (R271); `line` and `req` are the line and the sequence number of the request on
its way (R281); `flags` are those that return with the reply (R189). -/
structure MemOp where
  i : Instr
  f : Firing
  dom : Nat
  act : W64
  inst : Nat
  order : List Nat
  lsid : Nat
  isLoad : Bool
  isStore : Bool
  isVault : Bool
  g : Bool
  ord : Nat
  scope : Nat
  null : Bool
  lanes : List Lane
  phase : MemPhase
  resolved : Bool
  performed : Nat
  served : Bool
  covers : List Nat
  attached : List Nat
  pts : Stamp
  pw : Stamp
  pws : List (Nat × Stamp)
  ackW : Stamp
  line : Nat
  req : Nat
  flags : Nat
  reply : List Byte
  xack : Bool
  result : Option Val
  second : Option Val
  aux : Nat
  since : Nat
  tries : Nat
deriving DecidableEq, Repr

/-- What a locked home line keeps until its acknowledgement is confirmed (R281). -/
structure LineLock where
  op : Nat
  bytes : List Byte
  wts : Stamp
  rts : Stamp
deriving DecidableEq, Repr

/-- A home line (R261, R264, R281, R396): the die of its slice, timestamps, lock, the key it was filled under, the VD whose
ways it takes, and the cycle of its last use. -/
structure HomeLine where
  die : Nat
  wts : Stamp
  rts : Stamp
  lock : Option LineLock
  key : Nat
  vd : Nat
  used : Nat
deriving DecidableEq, Repr

/-- A leased copy in an L1 or in a die's L2 (R260, R263, R271): timestamps, bytes, valid marks, the stores whose bytes are
pending at each byte, the oldest first, and whether it is suspect (R282). -/
structure Copy where
  wts : Stamp
  rts : Stamp
  bytes : List Byte
  valid : List Bool
  pend : List (List Nat)
  suspect : Bool
  vd : Nat
  used : Nat
deriving DecidableEq, Repr

/-- A slice's memory and copy timestamps (R265). -/
structure SliceStamps where
  mts : Stamp
  cts : Stamp
deriving DecidableEq, Repr

/-- A vault bank: the requests that wait, the site served last, and the first cycle whose slot it has not used (R186). -/
structure VaultBank where
  waiting : List Nat
  last : Nat
  free : Nat
deriving DecidableEq, Repr

/-- A die's logical clock (R266): HZN, and the values it took with the cycles at which it took them, oldest first, as far
back as 4096 cycles. -/
structure Horizon where
  hzn : Stamp
  past : List (Nat × Stamp)
deriving DecidableEq, Repr

/-- A non-leaf entry held by a die's walkers (R393). -/
structure WalkEntry where
  vd : Nat
  addr : Nat
  pte : W64
deriving DecidableEq, Repr

/-- A miss on a 64 KiB page of a VD (R393): the die whose walkers serve it, the operations that wait for its walk, and whether a
walker walks. -/
structure Miss where
  die : Nat
  vd : Nat
  page : Nat
  ops : List Nat
  walking : Bool
deriving DecidableEq, Repr

/-- An invalidation that waits for the accesses that used a removed entry (R395). -/
structure Inval where
  vd : Nat
  ops : List Nat
deriving DecidableEq, Repr

/-- The bytes of the three byte spaces: device DRAM by physical address, host memory by PA[49:0], vaults by
2^31 * die + vault address (R177, R257, R388). -/
structure Memory where
  dram : Mem
  host : Mem
  vault : Mem
deriving DecidableEq, Repr

/-- Every space is in canonical form (log 4). -/
def Memory.wf (m : Memory) : Bool := m.dram.wf && m.host.wf && m.vault.wf

/-- The memory system but for the bytes: among the rest the misses of all dies, oldest first, and the VD whose miss each die's
walkers took last (R393). -/
structure MemSys where
  homes : Tbl HomeLine
  hbmKeys : Tbl Nat
  poisoned : Tbl Bool
  lost : Tbl Bool
  vaultPoison : Tbl Bool
  l2 : Tbl Copy
  l1 : Tbl Copy
  slices : Tbl SliceStamps
  banks : Tbl VaultBank
  horizons : List Horizon
  walkCache : Tbl (List WalkEntry)
  misses : List Miss
  walkTurn : List Nat
  ops : Tbl MemOp
  invals : Tbl Inval
  remap : Tbl Nat
  hostPts : List Stamp
  seqs : Tbl Nat
  unreachable : List (Nat × Nat)
deriving DecidableEq, Repr

def HomeLine.fresh (die : Nat) (mts : Stamp) (key vd used : Nat) : HomeLine := ⟨die, mts, mts, none, key, vd, used⟩

/-- The memory system after reset: nothing listed; timestamps zero (log 24). -/
def MemSys.reset : MemSys :=
  ⟨[], [], [], [], [], [], [], [], [], List.replicate 4 ⟨0, []⟩, [], [], [63, 63, 63, 63], [], [], [], [0, 0], [], []⟩

end Sys2Proof.Machine
end

