-- ==== Sys2Proof/Machine/TypesSystem.lean ====
section
/-! DEFINITION. Data of the engine, tenancy and service chapters: matrix units, jobs, groups, images, contexts, virtual
devices, launches, links and the management processors. -/

namespace Sys2Proof.Machine

/-! ### Matrix units -/

/-- A weight tile (R206): its type, the latching MXW's tag, and the bytes of its data and scale planes. -/
structure Tile where
  ty : Ty
  ltag : W64
  data : List Byte
  scales : List Byte
deriving DecidableEq, Repr

/-- A weight bank (R290, R292): empty, loading or loaded, REF, and the context whose MXW loaded it. -/
structure WBank where
  loading : Bool
  tile : Option Tile
  ref : Nat
  ctx : Nat
deriving DecidableEq, Repr

/-- An MX packet (R204) at a unit half until its reply, with how far it has come. `rows` counts rows issued or drained,
`acc` rows accumulated; `pts` is its agent's timestamp (R255), `waits` are the packets that an MXS.sync waits for, `held` the rows of a group of 24 that a drain
has read, each with the random values of its transposed elements. -/
structure MxEntry where
  op : Nat
  ty : Ty
  bank : Bool
  half : Bool
  sub : Nat
  arga : W64
  argb : W64
  ctrl : W64
  tag : W64
  dsta : BitVec 32
  dstb : BitVec 32
  ctx : Nat
  vd : Nat
  rgn : Nat
  memop : Nat
  serial : Nat
  started : Bool
  left : Bool
  rows : Nat
  acc : Nat
  flags : Nat
  status : Nat
  startAt : Nat
  pts : Stamp
  waits : List Nat
  held : List (List Nat × List Nat)
deriving DecidableEq, Repr

/-- A wavefront (R293, R294): the entry it belongs to, its row, the cycle of issue, and its block sums by column with
the flags they raised. -/
structure Wavefront where
  entry : Nat
  row : Nat
  wbank : Bool
  issued : Nat
  sums : List (List Nat)
  flags : Nat
  passed : Bool
deriving DecidableEq, Repr

/-- A matrix unit half (R289 to R297): entries not yet replied to, banks, accumulator rows (512 bank + row, 128 f32
values), OBASE by accumulator bank, whether OBASE restarts at the next ordered MXA, LFSRs by column, wavefronts, serials
running on the load, stream and drain paths, the accumulator banks with an uncorrectable error (R412), the bytes that drains
have ready for the vaults' next X slot (R258), and the cycle up to which busy cycles are counted (R226). -/
structure MxHalf where
  inbox : List MxEntry
  banks : List WBank
  acc : Tbl (List Nat)
  obase : List Nat
  ocleared : List Bool
  lfsrs : List Nat
  waves : List Wavefront
  load : Option Nat
  stream : Option Nat
  drain : Option Nat
  poisoned : List Nat
  outbox : List (Nat × List Byte)
  busyTo : Nat
deriving DecidableEq, Repr

/-! ### Copy engine -/

/-- Job states (R308). -/
inductive JobState where
  | waiting | checking | blocked | running | finishing | done
deriving DecidableEq, Repr

/-- What a job is (R301): a copy packet, an MXD hand-off, a context or VD job, or a launch seen as a job (R346). -/
inductive JobKind where
  | copy
  | handoff (half entry : Nat)
  | snap | ctxsv | ctxld
  | vdctl (sub : Nat)
  | launch
deriving DecidableEq, Repr

/-- An extent of a footprint (R212): base, length, and whether it is written. -/
structure Extent where
  base : Nat
  len : Nat
  write : Bool
deriving DecidableEq, Repr

/-- A tensor shape record (R302) with its box: base and scale plane as the record has them, sizes by dimension, byte
strides from dimension 1 on. -/
structure Tensor where
  base : Nat
  sbase : Nat
  fill : Nat
  fmt : Ty
  strict : Bool
  dims : List Nat
  strides : List Nat
  org : List Int
  box : List Nat
deriving DecidableEq, Repr

/-- A job of a virtual device (R286, R301, R308); jobs are accepted in the order of their numbers. `declared` marks a
footprint record (R212); `target` is the context that a context job names, or 64 + the output queue of a TRANSFORM; `area`
a save area, or the shape record of a hand-off; `sent`, `got`, `expected` count a TRANSFORM's tokens, `left` the
channel-cycles still to come; the last three are ADDR, VALA and VALB of its record. -/
structure Job where
  kind : JobKind
  die : Nat
  vd : Nat
  ctx : Nat
  queue : Option Nat
  state : JobState
  packet : List Byte
  extents : List Extent
  declared : Bool
  src : Option Tensor
  dst : Option Tensor
  stamp : W64
  sval : W64
  irq : Bool
  status : Nat
  flags : Nat
  bytes : Nat
  pts : Stamp
  target : Nat
  area : W64
  sent : Nat
  got : Nat
  expected : Nat
  left : Nat
  rows : List (Nat × List Byte)
  addr : W64
  vala : W64
  valb : W64
deriving DecidableEq, Repr

/-- A queue descriptor in service (R299, R344): what was sampled when ENABLE was set, and whether a fault stopped it. -/
structure Service where
  base : W64
  slots : Nat
  ctx : Nat
  die : Nat
  stopped : Bool
  bad : Bool
deriving DecidableEq, Repr

/-! ### Groups -/

/-- Group slot states (R309). -/
inductive GroupState where
  | empty | declaring | intact | leaving | broken
deriving DecidableEq, Repr

/-- A collective in progress at a member (R310): its firing, what it asks, the pieces of chunks that have come, by rank and
offset, their bytes in sum, the flags of the reduction, the latest wts of its accesses, whether its share is done, and whether
it has been accepted and has yet to read its source. -/
structure CollRun where
  op : Nat
  rep : CollRep
  src : Option Tensor
  dst : Option Tensor
  written : Nat
  chunks : List (Nat × Nat × List Byte)
  flags : Nat
  pts : Stamp
  shared : Bool
  go : Bool
deriving DecidableEq, Repr

/-- The coordinator's record of a paired COLL (R216, R310). -/
structure CollDesk where
  reports : List (Nat × CollRep)
  accepted : Bool
  shares : List Nat
deriving DecidableEq, Repr

/-- A member's view of a group slot of its context on its die (R309), kept under 2^24 RGNID + 256 CTXID + 4 slot + die.
`broken` says what the slot was before it began to declare, `grp` and `leave` the firings that wait on it, `remote` the ranks
on other packages that have declared, `left` the ranks that have left. -/
structure Group where
  state : GroupState
  key : W64
  list : List Byte
  count : Nat
  rank : Nat
  broken : Bool
  grp : Option Nat
  leave : Option Nat
  remote : List Nat
  left : List Nat
  run : Option CollRun
  desk : CollDesk
deriving DecidableEq, Repr

/-! ### Images and contexts -/

/-- An ACTORS record (R94). -/
structure ActorRec where
  first : Nat
  region : Nat
  inMask : W64
  outMask : W64
deriving DecidableEq, Repr

/-- A QUEUES record (R94). -/
structure QueueRec where
  depth : Nat
  slot : Nat
  produce : Nat
  consume : Nat
deriving DecidableEq, Repr

/-- A REGIONS record (R94), with the launch's SHAPE applied (R353). -/
structure RegionRec where
  shape : Nat
  minr : Nat
  maxr : Nat
  die : Nat
deriving DecidableEq, Repr

/-- A VAULT record (R94). -/
structure VaultRec where
  ofs : Nat
  bytes : Nat
  init : Nat
deriving DecidableEq, Repr

/-- An image's sections as loaded (R94). -/
structure Image where
  va : W64
  size : Nat
  blocksVA : Nat
  blocksBytes : Nat
  fpcm : Nat
  dcount : Nat
  lease : Nat
  siding : Nat
  dataBytes : Nat
  dataOfs : Nat
  vaultBytes : Nat
  entry : Nat
  actors : List ActorRec
  queues : List QueueRec
  regions : List RegionRec
  vaults : List VaultRec
  groups : List Nat
  digest : Nat
deriving DecidableEq, Repr

/-- Context states (R365). -/
inductive CtxState where
  | loading | running | stopped | freezing | frozen | saving | gone
deriving DecidableEq, Repr

/-- A top activation (R231, R233), kept by its domain: its actor, replica, link stack and instance count. -/
structure Act where
  actor : Nat
  rgn : Nat
  link : List Nat
  seq : Nat
deriving DecidableEq, Repr

/-- A context (R362): its registers, pools, tables and memory areas, DATA, fault ring, queue slots and checkpoint area by their
addresses; `equeues` are its engine queues (R311); `told` the
origins and tags of the faults whose record a sink has written (R106);
`lost` the places of the G = 0 stores that ended in XACK, by region and activation (R192, R282);
`paused` is the cycle since which its watchdog does not count (R364). -/
structure Ctx where
  vd : Nat
  priv : Nat
  state : CtxState
  launch : Nat
  image : Image
  cbase : Nat
  homeDie : Nat
  acts : Tbl Act
  pts : List (Nat × W64 × Stamp)
  lost : List (Nat × W64 × List Nat)
  fpcm : Nat
  fpstat : Nat
  lease : List Nat
  siding : Siding
  pool : List Nat
  globals : Tbl W64
  vglobals : Tbl W512
  pmaps : Tbl (List Nat)
  placing : Tbl (Nat × Nat)
  dataVA : W64
  ringVA : W64
  slotsVA : W64
  saveVA : W64
  vaultBase : Nat
  args : W64
  ways : Nat
  lastProgress : Nat
  ring : List FaultRec
  fcount : Nat
  exit : Option Nat
  holdGrowth : Bool
  paused : Option Nat
  waitingDom : List (Nat × Nat)
  equeues : List QInst
  told : List (W64 × W64)
deriving DecidableEq, Repr

/-- Launch states (R345). -/
inductive LaunchState where
  | blocked | checking | waiting | loading | running | ended
deriving DecidableEq, Repr

/-- A launch (R218, R345): `prio` is PRIO under the ceiling, `order` its place among the take-ups, `restore` the save of a
context that a checkpoint put back into Waiting, `since` the cycle of the last step, `stage` how far loading has come,
`drained` the cycle at which a DRAIN victim is decided again, `exit` the exit word once it is known. -/
structure Launch where
  vd : Nat
  queue : Nat
  die : Nat
  order : Nat
  prio : Nat
  state : LaunchState
  packet : List Byte
  ctx : Option Nat
  image : Option Image
  restore : Option Nat
  since : Nat
  stage : Nat
  drained : Option Nat
  exit : Option Nat
deriving DecidableEq, Repr

/-- A routed block in a die's image cache (R358): its key and the cycle of its last use. -/
structure Routed where
  key : Nat
  used : Nat
deriving DecidableEq, Repr

/-- A mapper request (R358): the block address and the frame that it is for, and the cycles of mapping still to come once
it is being served. -/
structure MapReq where
  ctx : Nat
  block : Nat
  rgn : Nat
  frm : Nat
  left : Option Nat
deriving DecidableEq, Repr

/-! ### Virtual devices -/

/-- A VD's credits at an arbiter (R373): credit left, and whether it waited for one. -/
structure Credit where
  left : Nat
  waited : Bool
deriving DecidableEq, Repr

/-- Stages of a way removal (R376). -/
inductive WayStage where
  | idle | quiesce | flush | rehash
deriving DecidableEq, Repr

/-- The registers of a virtual device (R399) and what belongs to it. STATE: 0 Absent, 1 Configured, 2 Active, 3 Stopped,
4 Resetting (R367). `idle` holds its credits at the arbiters that have listed none, by kind of arbiter (R373). -/
structure Vd where
  state : Nat
  force : Bool
  pceil : Nat
  err : Nat
  dbase : Nat
  dsize : Nat
  tiles : Nat
  shares : List Nat
  l2mask : BitVec 16
  l2new : BitVec 16
  wayStage : WayStage
  wdog : Nat
  mquota : Nat
  grow : Nat
  shrink : Nat
  hold : Bool
  wqbase : W64
  lqbase : W64
  ptroot : W64
  tlbseq : W64
  irqaddr : W64
  irqdata : Nat
  peerq : W64
  rplbase : W64
  rststat : W64
  idle : List Nat
  tracking : Bool
  dirty : Tbl W64
  supervisor : Option Nat
  jobSeq : Nat
  resetFrom : Option Nat
deriving DecidableEq, Repr

/-- Ownership of a matrix unit (R370) and a held write. -/
structure MxOwn where
  own0 : Nat
  own1 : Nat
  split : Bool
  gr0 : Bool
  gr1 : Bool
  held : Option W64
deriving DecidableEq, Repr

/-! ### Saves and snapshots -/

/-- A saved region replica (R382). -/
structure SavedRegion where
  rgn : Nat
  region : Region
  elements : Tbl Element
  sets : Tbl MatchSet
  boxes : Tbl SwitchBox
deriving DecidableEq, Repr

/-- The body of a save area, held beside the bytes of its header in memory (log 29): the context, its replicas, vault areas
by die, and what was in flight: operations that had not resolved or that the port held, register reads, tag pool requests,
reservations, spills and firings that were about to fire again. -/
structure Save where
  ctxid : Nat
  ctx : Ctx
  launch : Option Launch
  regions : List SavedRegion
  vaults : List (Nat × List Byte)
  ops : List (Nat × MemOp)
  reads : List (Nat × GlobalRead)
  pools : List (Nat × PoolReq)
  resvs : List (Nat × Reservation)
  spills : List (Nat × Spill)
  tasks : List Task
  lfsrs : List (Nat × List Nat)
  bytes : List Byte
deriving DecidableEq, Repr

/-- A context job or checkpoint in progress (R379 to R383): the context, its job (none for a checkpoint that the scheduler
makes), the save area, its KIND, whether the context was Frozen before, the replicas whose sequencer's marker has arrived, the body once the cut is
taken, the firings in flight at the cut (R381), and the VD's requests that had been accepted: jobs with a lower number, and
queues with their WIDX. -/
structure Snap where
  ctx : Nat
  job : Option Nat
  area : W64
  kind : Nat
  frozen : Bool
  markers : List Nat
  body : Option Save
  waits : List Nat
  upTo : Nat
  queues : List (Nat × Nat)
deriving DecidableEq, Repr

/-! ### Links and service -/

/-- A Drawbar port (R402, R403): next SEQ to send, next expected, the last 512 flits sent with their SEQ, the flits on their
way to the peer, the flits that wait for a credit with the VD that each is charged to (R371), the cycle of the last acknowledged
flit, since when it is down, and the SEQ from which it has asked its peer for a replay. -/
structure DbPort where
  seq : Nat
  expect : Nat
  kept : List (Nat × List Byte)
  sent : List (List Byte)
  waiting : List (Nat × List Byte)
  lastAck : Nat
  down : Option Nat
  asked : Option Nat
deriving DecidableEq, Repr

/-- A die's thermal state (R409, R410). -/
structure Thermal where
  allow : Nat
  cap : Nat
  own : Nat
  tj : Nat
  t0 : Nat
  t1 : Nat
  hot : BitVec 2
  acc : Nat
  accAt : Nat
  cut : Bool
deriving DecidableEq, Repr

/-- A capture slot (R425): its registers, and whether a launch has taken its ring for a replay since CTL was written (log 104). -/
structure Capture where
  ctl : W64
  base : W64
  ptr : W64
  used : Bool
deriving DecidableEq, Repr

/-- A capture slot at reset: LOG is 12 (R425). -/
def Capture.reset : Capture := ⟨BitVec.ofNat 64 (12 * 2 ^ 34), 0, 0, false⟩

/-- A record of a capture ring, as replay holds it (R425, R426). -/
structure CapRec where
  kind : Nat
  rgn : Nat
  dest : BitVec 32
  tag : W64
  payload : List Byte
deriving DecidableEq, Repr

/-- States of a layout request (R423). -/
inductive LayState where
  | idle | checking | prepared | committed | applying | recovering
deriving DecidableEq, Repr

/-- Layout requests (R422, R423): LAYADDR, the request's state, ERR, SEQ, FORCE and entries as MMIO offset and value, how many
have been applied, and which records of the latest SEQ the journal holds. -/
structure Journal where
  addr : W64
  state : LayState
  err : Nat
  seq : Nat
  force : Bool
  entries : List (Nat × W64)
  applied : Nat
  prepare : Bool
  commit : Bool
  done : Bool
deriving DecidableEq, Repr

end Sys2Proof.Machine
end

