-- ==== Sys2Proof/Machine/State.lean ====
section
/-! DEFINITION. The machine's state as plain data, the ways a step can stop, and the state after reset. -/

namespace Sys2Proof.Machine

/-- The cycle and run chapters' state: elements by site (sid = 1536 die + 64 y + x), matching sets by
64 * (384 die + cluster) + set, switch boxes by 3 sid + network, edge-port buffers by 128 die + 2 column + top. -/
structure Fabric where
  elements : Tbl Element
  sets : Tbl MatchSet
  boxes : Tbl SwitchBox
  edges : Tbl (List Token)
  spills : Tbl Spill
deriving DecidableEq, Repr

/-- Block sequencers and job schedulers: region replicas by 65536 CTXID + RGNID, requests on their way by serial number. -/
structure RunState where
  regions : Tbl Region
  reads : Tbl GlobalRead
  pools : Tbl PoolReq
  reservations : Tbl Reservation
deriving DecidableEq, Repr

/-- Engines: matrix unit halves by 128 die + 2 unit + half, jobs by serial number, queue descriptors in service by
128 VD + 64 (for launch queues) + queue, group slots by 2^24 RGNID + 256 CTXID + 4 slot + die. -/
structure EngState where
  halves : Tbl MxHalf
  jobs : Tbl Job
  services : Tbl Service
  groups : Tbl Group
  turn : Tbl Nat
deriving DecidableEq, Repr

/-- Tenancy: contexts by CTXID, virtual devices, launches, mapper requests and caches, saves, snapshots, buckets by arbiter
and VD. -/
structure TenState where
  ctxs : Tbl Ctx
  vds : Tbl Vd
  launches : Tbl Launch
  maps : Tbl MapReq
  caches : Tbl (List Routed)
  saves : Tbl Save
  snaps : Tbl Snap
  buckets : Tbl (Tbl Credit)
  counters : Tbl Nat
  vaultUse : List (Nat × Nat × Nat × Nat)
deriving DecidableEq, Repr

/-- Service: readiness (`up` marks the functions that are ready but for those they depend on, R408), the MP block, links.
`mpWrites` are the register writes that wait for an MP (R424), `attWait` the report requests not yet served with the VD to report
(R429), `hostWait` the accesses that wait at each host port, in the order in which they crossed it (R397), `hostReply` the value
that each port returned last. -/
structure SvcState where
  ready : W64
  up : W64
  fail : W64
  pkgid : Nat
  thermal : List Thermal
  drops : List Nat
  mxown : Tbl MxOwn
  keyown : Tbl Nat
  dbroute : Tbl Nat
  ports : Tbl DbPort
  siteret : Tbl Nat
  siteErrs : Tbl (List Nat)
  dbgsel : W64
  retreq : W64
  retstat : List Nat
  retlog : List Nat
  retiring : List (Nat × Nat)
  journal : Journal
  caps : List Capture
  replays : Tbl (List CapRec)
  attcert : List Byte
  attreq : W64
  attsel : W64
  attstat : W64
  fwDigest : List (List Byte)
  fwSvn : Nat
  mpDown : List Nat
  mpRecords : List FaultRec
  mpWrites : List (Nat × Reg × W64)
  attWait : List (W64 × Nat)
  hostWait : List (List (Nat × HostOp))
  hostReply : List Nat
deriving DecidableEq, Repr

/-- The state of the package. The last five fields are the model's own (logs 1 to 3): the agenda of due tasks, the counter
that free values are applied to, the number of the next firing, request or job, the firing being executed, and the cycle. -/
structure State where
  power : Bool
  fab : Fabric
  run : RunState
  bytes : Memory
  mem : MemSys
  eng : EngState
  ten : TenState
  svc : SvcState
  agenda : List (Nat × Task)
  free : Nat
  serial : Nat
  cur : Firing
  now : Nat
deriving DecidableEq, Repr

/-- How a step can stop with a fault. -/
inductive Fault where
  /-- A host access to a physical address that does not exist: the reserved window 01, or DRAM from DEV.DRAMSZ on (R388).
  Raised by HOST_ACCESS alone. Safe: the run stops, and the spec gives such an access no effect. -/
  | noSuchAddress (pa : Nat)
deriving DecidableEq, Repr

/-- Why an instruction has no meaning. -/
inductive Refusal where
  /-- The arm of the instruction has no meaning yet. Raised by `exec`'s arm alone. Safe. -/
  | notModelled (mnemonic : String)
deriving DecidableEq, Repr

/-- A VD after reset (R367, R368, R372, R375, R364, R245, R318, R399, R420). VD 0 alone is Active, and its buckets hold their
guarantees (log 86). -/
def Vd.reset (n : Nat) : Vd where
  state := if n = 0 then 2 else 0
  force := false
  pceil := 15
  err := 0
  dbase := 0
  dsize := if n = 0 then 256 else 0
  tiles := if n = 0 then 16 else 0
  shares := List.replicate 8 (if n = 0 then 64 else 0)
  l2mask := if n = 0 then 0xFFFF else 0
  l2new := if n = 0 then 0xFFFF else 0
  wayStage := .idle
  wdog := 30
  mquota := 4
  grow := 8
  shrink := 0
  hold := false
  wqbase := 0
  lqbase := 0
  ptroot := 0
  tlbseq := 0
  irqaddr := 0
  irqdata := 0
  peerq := 0
  rplbase := 0
  rststat := 0
  idle := if n = 0 then [16, 16, 16, 16, 16, 8, 16, 422, 588, 14, 256, 16] else List.replicate 12 0
  tracking := false
  dirty := []
  supervisor := none
  jobSeq := 0
  resetFrom := none

/-- THERM.d after reset (R409, R410). -/
def Thermal.reset : Thermal := ⟨255, 255, 255, 0, 0, 0, 0, 0, 0, false⟩

def SvcState.reset : SvcState where
  ready := 0
  up := 0
  fail := 0
  pkgid := 0xFFFF
  thermal := List.replicate 4 Thermal.reset
  drops := [0, 0]
  mxown := []
  keyown := [(0, 64)]
  dbroute := []
  ports := []
  siteret := []
  siteErrs := []
  dbgsel := 0
  retreq := 0
  retstat := List.replicate 8 1024
  retlog := []
  retiring := []
  journal := ⟨0, .idle, 0, 0, false, [], 0, false, false, false⟩
  caps := List.replicate 4 Capture.reset
  replays := []
  attcert := []
  attreq := 0
  attsel := 0
  attstat := 0
  fwDigest := [[], [], [], []]
  fwSvn := 0
  mpDown := []
  mpRecords := []
  mpWrites := []
  attWait := []
  hostWait := [[], []]
  hostReply := [0, 0]

/-- Capture slot k (R425). -/
def SvcState.cap (v : SvcState) (k : Nat) : Capture := v.caps.getD k Capture.reset

/-- The package right after reset (R406): registers at their reset values, nothing mapped, nothing in flight; the periodic
events of R266, R319, R371 and R409 are due (log 1). -/
def State.reset : State where
  power := true
  fab := ⟨[], [], [], [], []⟩
  run := ⟨[], [], [], []⟩
  bytes := ⟨[], [], []⟩
  mem := MemSys.reset
  eng := ⟨[], [], [], [], []⟩
  ten := ⟨[], [(0, Vd.reset 0)], [], [], [], [], [], [], [], []⟩
  svc := SvcState.reset
  agenda := [
    (256, .ev .bucketRefill), (256, .ev (.ptsDrift 0)), (256, .ev (.ptsDrift 1)), (256, .ev (.ptsDrift 2)),
    (256, .ev (.ptsDrift 3)), (1024, .ev .placementSample), (16384, .ev (.timestampSweep 0)),
    (16384, .ev (.timestampSweep 1)), (16384, .ev (.timestampSweep 2)), (16384, .ev (.timestampSweep 3))]
  free := 0
  serial := 1
  cur := Firing.zero
  now := 0

end Sys2Proof.Machine
end

