-- ==== Sys2Proof/Machine/Ops.lean ====
section
/-! DEFINITION. The named operations on the state: the command language that every meaning is written in, accessors,
scheduling, result tokens, and the taking of a fault (R33, R105, R106, R326 to R328). -/

namespace Sys2Proof.Machine

/-! ### Commands -/

/-- One change of the state. Bytes change only through the writes below, so their canonical form is kept; a task is put
some cycles ahead, so none is ever overdue. -/
inductive Prim where
  | fab (f : Fabric → Fabric)
  | blocks (f : RunState → RunState)
  | mem (f : MemSys → MemSys)
  | eng (f : EngState → EngState)
  | ten (f : TenState → TenState)
  | svc (f : SvcState → SvcState)
  | dram (a : Nat) (bs : List Byte)
  | host (a : Nat) (bs : List Byte)
  | vault (a : Nat) (bs : List Byte)
  | loseBytes
  | schedule (cycles : Nat) (t : Task)
  | drop (p : Task → Bool)
  | takeSerial
  | takeFree
  | setCur (f : Firing)
  | setPower (b : Bool)
  | rewind

/-- The place of an event among the events of one cycle (R8, log 1): a comparator's hit comes first (R334); the match stages take
their tokens by element index (R30) and the edge ports theirs before tokens move, and tokens move before elements issue, so
that a buffer that empties in a cycle can be filled in it (R39); the events of one state machine come in the order of the rows
of its table (R242, R292, R308, R315, R320, R345, R365, R369, R423); instances commit in the order of their regions (R254). -/
def eventRank : Instr → Nat
  | .comparatorHit .. => 0
  | .tokenArrive sid | .matchRetry sid => 1 + sid % 2 + 2 * (sid % 1536 / 64 % 2)
  | .sidingLookup _ => 5
  | .sidingRefill _ => 6
  | .mxPacketArrive .. => 7
  | .tokenHop .. => 8
  | .reservationGrant _ | .slotTakeUp .. | .launchLoadDone _ | .vdOpen _ | .laycmd => 10
  | .jobChecked _ | .vdActivate _ | .launchTakeUp .. | .journalAdvance => 11
  | .jobUnblock _ | .vdStop _ | .launchUnblock _ | .delivery .. => 12
  | .jobPayloadDone _ | .vdResume _ | .launchCheck _ | .replicaAvailable .. => 13
  | .jobStamp _ | .watchdogExpire _ | .sidefull _ | .launchGrant _ => 14
  | .replicaGone .. => 15
  | .preemptDecide _ => 40
  | .snapshotComplete _ => 41
  | .blockStart .. | .frameFilled .. => 42
  | .instanceCommit _ rgn .. => 50 + rgn % 65536
  | .stopWave _ => 100000
  | .mxAbort .. => 100001
  | .vdReset _ | .vdKill .. | .mpWatchdogReset _ => 100002
  | .vdResetQuiesced _ => 100003
  | .teardown _ => 100004
  | .vdClose _ => 100005
  | _ => 20

/-- The place of a task in its cycle: an element issues after the events above and before commits. -/
def Task.rank : Task → Nat
  | .ev i => eventRank i
  | .issue _ => 30
  | .refire .. => 25

/-- Insert a task after every task that is due earlier, or in its cycle with no higher place. -/
def agendaInsert : List (Nat × Task) → Nat → Task → List (Nat × Task)
  | [], d, t => [(d, t)]
  | (d', t') :: rest, d, t =>
    if d < d' || (d == d' && t.rank < t'.rank) then (d, t) :: (d', t') :: rest else (d', t') :: agendaInsert rest d t

/-- The change a `Prim` makes. -/
def Prim.run : Prim → State → State
  | .fab f, s => { s with fab := f s.fab }
  | .blocks f, s => { s with run := f s.run }
  | .mem f, s => { s with mem := f s.mem }
  | .eng f, s => { s with eng := f s.eng }
  | .ten f, s => { s with ten := f s.ten }
  | .svc f, s => { s with svc := f s.svc }
  | .dram a bs, s => { s with bytes := { s.bytes with dram := s.bytes.dram.write a bs } }
  | .host a bs, s => { s with bytes := { s.bytes with host := s.bytes.host.write a bs } }
  | .vault a bs, s => { s with bytes := { s.bytes with vault := s.bytes.vault.write a bs } }
  | .loseBytes, s => { s with bytes := ⟨[], [], []⟩ }
  | .schedule n t, s => { s with agenda := agendaInsert s.agenda (s.now + n) t }
  | .drop p, s => { s with agenda := s.agenda.filter (fun x => !p x.2) }
  | .takeSerial, s => { s with serial := s.serial + 1 }
  | .takeFree, s => { s with free := s.free + 1 }
  | .setCur f, s => { s with cur := f }
  | .setPower b, s => { s with power := b }
  | .rewind, s => { s with now := 0 }

/-- A command: nothing, one change, two commands in order, or a command chosen by the state it meets. -/
inductive Cmd where
  | skip
  | prim (p : Prim)
  | seq (a b : Cmd)
  | get (k : State → Cmd)

/-- Run a command. -/
def Cmd.exec : Cmd → State → State
  | .skip, s => s
  | .prim p, s => p.run s
  | .seq a b, s => b.exec (a.exec s)
  | .get k, s => (k s).exec s

/-- Commands in order. -/
def Cmd.all : List Cmd → Cmd
  | [] => .skip
  | [c] => c
  | c :: cs => .seq c (Cmd.all cs)

/-- One command for each element of a list, in order. -/
def Cmd.each {α : Type} : List α → (α → Cmd) → Cmd
  | [], _ => .skip
  | x :: xs, f => .seq (f x) (Cmd.each xs f)

def Cmd.when (b : Bool) (c : Cmd) : Cmd := if b then c else .skip

/-- A command for a value that is present. -/
def Cmd.opt {α : Type} (o : Option α) (f : α → Cmd) : Cmd := match o with | some x => f x | none => .skip

/-- The outcome of a meaning given as a command: always a next state. -/
def Cmd.next (c : Cmd) (s : State) : Host.Outcome State Fault Refusal := .next (c.exec s)

/-! ### Scheduling and numbering -/

/-- An event due after some cycles. -/
def after (n : Nat) (i : Instr) : Cmd := .prim (.schedule n (.ev i))
/-- A task due after some cycles. -/
def afterTask (n : Nat) (t : Task) : Cmd := .prim (.schedule n t)

/-- Whether an event is already due. -/
def State.isDue (s : State) (i : Instr) : Bool := s.agenda.any fun (_, t) => match t with | .ev j => j == i | _ => false

/-- Whether an event is already due in a cycle. -/
def State.isDueAt (s : State) (n : Nat) (i : Instr) : Bool :=
  s.agenda.any fun (d, t) => d == n && (match t with | .ev j => j == i | _ => false)

/-- An event after some cycles, unless it is due in that cycle already. -/
def afterOnce (n : Nat) (i : Instr) : Cmd := .get fun s => .when (!s.isDueAt (s.now + n) i) (after n i)

/-- Use a fresh serial number (log 3). -/
def withSerial (k : Nat → Cmd) : Cmd := .get fun s => .seq (.prim .takeSerial) (k s.serial)

/-- Use a fresh free value (log 2). -/
def withFree (k : W64 → Cmd) : Cmd := .get fun s => .seq (.prim .takeFree) (k (Config.freeValue s.free))

/-! ### Places -/

def dieOf (sid : Nat) : Nat := sid / 1536
def yOf (sid : Nat) : Nat := sid % 1536 / 64
def xOf (sid : Nat) : Nat := sid % 64
def sidAt (die x y : Nat) : Nat := 1536 * die + 64 * y + x
/-- Element index of a site in its cluster (R12). -/
def elemIndex (sid : Nat) : Nat := xOf sid % 2 + 2 * (yOf sid % 2)
/-- Cluster of a site (R16), counted over the package: 384 die + 32 cy + cx. -/
def clusterOf (sid : Nat) : Nat := 384 * dieOf sid + 32 * (yOf sid / 2) + xOf sid / 2

/-- Element types (R13). -/
inductive ElemType where
  | A | M | S | X
deriving DecidableEq, Repr

/-- R13. -/
def elemType (x y : Nat) : ElemType :=
  if x % 2 = 1 ∧ [1, 5, 9, 13, 17, 21].contains y then .M
  else if x % 2 = 0 ∧ [3, 11, 19].contains y then .S
  else if x % 4 = 3 ∧ [11, 12].contains y then .X
  else .A

def regionKey (ctx rgn : Nat) : Nat := 65536 * ctx + rgn
def netIndex : Net → Nat | .control => 0 | .scalar => 1 | .vector => 2
def boxKey (sid : Nat) (net : Net) : Nat := 3 * sid + netIndex net

/-- Columns and rows of a region shape (R94). -/
def shapeCols : Nat → Nat | 0 => 4 | 1 => 8 | 2 => 8 | _ => 16
def shapeRows : Nat → Nat | 0 => 4 | 1 => 4 | 2 => 8 | 3 => 8 | _ => 16
/-- 4 x 4 tiles of a shape (R353). -/
def shapeTiles (sh : Nat) : Nat := shapeCols sh * shapeRows sh / 16

/-! ### Accessors -/

def State.elem (s : State) (sid : Nat) : Element := s.fab.elements.getD sid Element.empty
def State.set? (s : State) (key : Nat) : MatchSet := s.fab.sets.getD key MatchSet.empty
def State.box (s : State) (key : Nat) : SwitchBox := s.fab.boxes.getD key SwitchBox.empty
def State.region? (s : State) (ctx rgn : Nat) : Option Region := s.run.regions.get? (regionKey ctx rgn)
def State.ctx? (s : State) (c : Nat) : Option Ctx := s.ten.ctxs.get? c

/-- Whether debug is enabled for a context (R332): DBGSEL names it with CTXEN. -/
def State.debugOn (s : State) (ctx : Nat) : Bool := s.svc.dbgsel.getLsbD 32 && s.svc.dbgsel.toNat / 2 ^ 16 % 2 ^ 16 == ctx
def State.vd (s : State) (n : Nat) : Vd := s.ten.vds.getD n (Vd.reset (n + 1))
def State.vdOfCtx (s : State) (c : Nat) : Nat := match s.ctx? c with | some x => x.vd | none => 0

def modElem (sid : Nat) (f : Element → Element) : Cmd :=
  .prim (.fab fun b => { b with elements := b.elements.set sid (f (b.elements.getD sid Element.empty)) })
def modSet (key : Nat) (f : MatchSet → MatchSet) : Cmd :=
  .prim (.fab fun b => { b with sets := b.sets.set key (f (b.sets.getD key MatchSet.empty)) })
def modBox (key : Nat) (f : SwitchBox → SwitchBox) : Cmd :=
  .prim (.fab fun b => { b with boxes := b.boxes.set key (f (b.boxes.getD key SwitchBox.empty)) })
def modRegion (ctx rgn : Nat) (f : Region → Region) : Cmd :=
  .prim (.blocks fun r => { r with regions := r.regions.mod (regionKey ctx rgn) f })
def modCtx (c : Nat) (f : Ctx → Ctx) : Cmd :=
  .prim (.ten fun t => { t with ctxs := t.ctxs.mod c f })
def modVd (n : Nat) (f : Vd → Vd) : Cmd :=
  .prim (.ten fun t => { t with vds := t.vds.set n (f (t.vds.getD n (Vd.reset (n + 1)))) })
def modOp (id : Nat) (f : MemOp → MemOp) : Cmd := .prim (.mem fun m => { m with ops := m.ops.mod id f })
def modJob (id : Nat) (f : Job → Job) : Cmd := .prim (.eng fun e => { e with jobs := e.jobs.mod id f })
def modLaunch (id : Nat) (f : Launch → Launch) : Cmd := .prim (.ten fun t => { t with launches := t.launches.mod id f })

/-- The region replica that covers a site (R354), with its key. -/
def State.regionAt (s : State) (sid : Nat) : Option (Nat × Region) :=
  s.run.regions.find? fun (_, r) => r.state != .gone && r.die == dieOf sid && r.x0 ≤ xOf sid && xOf sid < r.x0 + shapeCols r.shape
    && r.y0 ≤ yOf sid && yOf sid < r.y0 + shapeRows r.shape

/-- Every site of a region. -/
def Region.sites (r : Region) : List Nat :=
  (List.range (shapeRows r.shape)).flatMap fun j =>
    (List.range (shapeCols r.shape)).map fun i => sidAt r.die (r.x0 + i) (r.y0 + j)

/-- The regions of a context. -/
def State.regionsOf (s : State) (c : Nat) : List Region := (s.run.regions.map (·.2)).filter fun r => r.ctx == c && r.state != .gone

/-- TICKS (R102): cycles since the package left reset. -/
def State.ticks (s : State) : W64 := BitVec.ofNat 64 s.now

/-! ### Tags (R22) -/

def tagDomain (t : W64) : Nat := (t.extractLsb' 52 12).toNat
def tagDepth (t : W64) : Nat := (t.extractLsb' 48 4).toNat
def tagField (t : W64) (k : Nat) : Nat := natBits t.toNat (6 * k + 5) (6 * k)
/-- Level fields 0 to 7. -/
def tagFields (t : W64) : List Nat := (List.range 8).map (tagField t)
/-- A tag from a domain, a depth and level fields; fields at or above the depth are zero (R22). -/
def mkTag (dom depth : Nat) (fields : List Nat) : W64 :=
  let fs := (List.range 8).map fun k => if k < depth then fields.getD k 0 % 64 * 2 ^ (6 * k) else 0
  BitVec.ofNat 64 (dom % 4096 * 2 ^ 52 + depth % 16 * 2 ^ 48 + fs.foldl (· + ·) 0)
/-- The instance tag of a domain (R231). -/
def instTag (dom : Nat) : W64 := mkTag dom 0 []
/-- The tag with field k replaced. -/
def setField (t : W64) (k v : Nat) : W64 := mkTag (tagDomain t) (tagDepth t) ((tagFields t).set k v)
/-- The tag at depth d, its fields below d kept (R121 outer tag, R119). -/
def cutTag (t : W64) (d : Nat) : W64 := mkTag (tagDomain t) d (tagFields t)

/-! ### Tokens and results -/

/-- The network of a value (R20). -/
def Val.net : Val → Net
  | .null _ | .bit _ => .control
  | .poison _ | .scalar _ => .scalar
  | .vector _ => .vector

/-- The VEC flag (R19). -/
def Val.isVec : Val → Bool | .vector _ => true | .null v => v | _ => false
def Val.isNull : Val → Bool | .null _ => true | _ => false

/-- bits [63:0] of a value read as raw bits (R47). -/
def Val.word : Val → W64
  | .bit b => if b then 1 else 0
  | .scalar x => x
  | .vector x => x.setWidth 64
  | .poison o => o
  | .null _ => 0

/-- A value as 512 bits. -/
def Val.wide : Val → W512
  | .vector x => x
  | v => v.word.setWidth 512

/-- Dimension-order routing (R38): the output port of the box at (x, y). -/
def routeDir (x y dx dy : Nat) : Dir :=
  if x < dx then .east else if dx < x then .west
  else if dy = 25 then .south
  else if y < dy then .north else if dy < y then .south else .loc

/-- A result of an element (R34): it is written into its output buffer after `lat` cycles, or, while a token stands there, when
that token moves out (R39); its first hop comes a cycle after it is written (R38). -/
def putOut (sid fid which lat : Nat) (t : Token) : Cmd := .all [
  .get fun s => modElem sid fun e => { e with outs := e.outs ++ [⟨which, t, s.now + lat, fid⟩] },
  after (lat + 1) (.tokenHop sid t.val.net (routeDir (xOf sid) (yOf sid) t.dx t.dy))]

/-- The site of destination `which` of a firing (R23). -/
def Firing.destX (f : Firing) (which : Nat) : Nat := if which = 0 then f.d0x else f.d1x
def Firing.destY (f : Firing) (which : Nat) : Nat := if which = 0 then f.d0y else f.d1y

/-- The token of a result (R19, R74). -/
def Firing.token (f : Firing) (which : Nat) (d : Dest) (tag : W64) (v : Val) : Token where
  dx := f.destX which
  dy := f.destY which
  frm := f.frm
  node := d.node.toNat
  port := d.port
  sx := xOf f.sid
  sy := yOf f.sid
  tag := tag
  val := v

/-- Emit on one destination, if it is valid. -/
def emitOn (f : Firing) (which : Nat) (d : Dest) (lat : Nat) (tag : W64) (v : Val) : Cmd :=
  .when d.val (putOut f.sid f.fid which lat (f.token which d tag v))

/-- Emit one result on D0 and D1 (R74). -/
def emit (f : Firing) (h : Hdr) (lat : Nat) (tag : W64) (v : Val) : Cmd :=
  .seq (emitOn f 0 h.d0 lat tag v) (emitOn f 1 h.d1 lat tag v)

/-- Emit different results on D0 and D1. -/
def emit2 (f : Firing) (h : Hdr) (lat : Nat) (tag : W64) (v0 v1 : Val) : Cmd :=
  .seq (emitOn f 0 h.d0 lat tag v0) (emitOn f 1 h.d1 lat tag v1)

/-! ### Faults -/

/-- Fault causes (R104). -/
def causeIllegal : Nat := 0x01
def causeReserved : Nat := 0x02
def causeLegacy : Nat := 0x03
def causeDuptag : Nat := 0x04
def causeTagrange : Nat := 0x05
def causeTagdepth : Nat := 0x06
def causePoolempty : Nat := 0x07
def causeSidefull : Nat := 0x08
def causeXlate : Nat := 0x09
def causeProt : Nat := 0x0A
def causeAlign : Nat := 0x0B
def causeEcc : Nat := 0x0C
def causePageLost : Nat := 0x0D
def causeXack : Nat := 0x0E
def causeCollAbort : Nat := 0x0F
def causeEngine : Nat := 0x10
def causeBkpt : Nat := 0x11
def causeTrap : Nat := 0x12
def causeDivzero : Nat := 0x13
def causeVdreset : Nat := 0x14
def causeBlockfmt : Nat := 0x15
def causeQueuefmt : Nat := 0x16
def causeWatchdog : Nat := 0x17

/-- A poison origin (R21). -/
def mkOrigin (cause vd die x y frm node : Nat) : W64 :=
  BitVec.ofNat 64 (cause % 256 * 2 ^ 56 + vd % 64 * 2 ^ 50 + die % 4 * 2 ^ 48 + x % 64 * 2 ^ 42 + y % 32 * 2 ^ 37
    + frm % 4 * 2 ^ 35 + node % 128 * 2 ^ 28)

/-- The origin of a fault found at a firing's own node (R21). -/
def Firing.origin (f : Firing) (vd cause : Nat) : W64 :=
  mkOrigin cause vd (dieOf f.sid) (xOf f.sid) (yOf f.sid) f.frm f.node

/-- The 64 bytes of a record as one number (R105). -/
def FaultRec.bits (r : FaultRec) : W512 :=
  let q0 := r.cause % 256 + r.vd % 64 * 2 ^ 8 + r.ctx % 65536 * 2 ^ 16
  let q1 := r.die % 4 + r.ox % 64 * 4 + r.oy % 32 * 2 ^ 8 + r.ofrm % 4 * 2 ^ 13 + r.onode % 128 * 2 ^ 15
    + (if r.eng then 2 ^ 22 else 0) + r.rgn % 65536 * 2 ^ 32
  let q7 := r.count % 65536 + r.detail % 65536 * 2 ^ 16 + r.sx % 64 * 2 ^ 32 + r.sy % 32 * 2 ^ 38 + (if r.via then 2 ^ 43 else 0)
  BitVec.ofNat 512 (q0 + q1 * 2 ^ 64 + r.tag.toNat * 2 ^ 128 + r.addr.toNat * 2 ^ 192 + r.vala.toNat * 2 ^ 256
    + r.valb.toNat * 2 ^ 320 + r.ticks.toNat * 2 ^ 384 + q7 * 2 ^ 448)

/-- The record of a fault found at a node that writes it itself (R105): position of the node as origin and as writer. -/
def State.recordAt (s : State) (f : Firing) (cause : Nat) : FaultRec where
  cause := cause
  vd := s.vdOfCtx f.ctx
  ctx := f.ctx
  die := dieOf f.sid
  ox := xOf f.sid
  oy := yOf f.sid
  ofrm := f.frm
  onode := f.node
  eng := false
  rgn := f.rgn
  tag := f.tag
  addr := 0
  vala := 0
  valb := 0
  ticks := s.ticks
  count := 0
  detail := 0
  sx := xOf f.sid
  sy := yOf f.sid
  via := false

/-- The record of an engine's fault (R105, R202): the origin is an engine. -/
def State.engineRecord (s : State) (ctx die cause : Nat) (addr : W64) (detail : Nat) : FaultRec where
  cause := cause
  vd := s.vdOfCtx ctx
  ctx := ctx
  die := die
  ox := 0
  oy := 0
  ofrm := 0
  onode := 0
  eng := true
  rgn := 0
  tag := 0
  addr := addr
  vala := 0
  valb := 0
  ticks := s.ticks
  count := 0
  detail := detail
  sx := 0
  sy := 0
  via := false

/-- Whether a context has a handler actor: one that consumes queue 63 (R328). -/
def Ctx.hasHandler (c : Ctx) : Bool := c.image.actors.any fun a => a.inMask.getLsbD 63

/-- Send an interrupt message (R400): a 4-byte write of n32((SRC << 24) + IRQDATA) to IRQADDR in the host window. -/
def sendInterrupt (vd src : Nat) : Cmd := .get fun s =>
  let v := s.vd vd
  let a := v.irqaddr.toNat
  .when (a != 0 && natBits a 51 50 == 2 && a % 4 == 0 && (s.svc.ready.getLsbD 54 || s.svc.ready.getLsbD 55))
    (.prim (.host (a % 2 ^ 50) (leBytes ((src * 2 ^ 24 + v.irqdata) % 2 ^ 32) 4)))

/-- Ask for a device append of a value to a context's queue 63 with the any-key (R328); it is dropped when no slot is free. -/
def noticeAppend (ctx : Nat) (v : W64) : Cmd := withSerial fun n => .all [
  .prim (.blocks fun r => { r with reservations := r.reservations.set n ⟨none, ctx, 63, 0xFFFFFFFFFFFFFFFF, .scalar v, none, none, 0⟩ }),
  after 0 (.deviceQueueAppend n)]

/-- Write a fault record to the ring of the context that its CTX names (R327), and notify the handler (R328). -/
def writeRecord (r : FaultRec) : Cmd := .get fun s =>
  match s.ctx? r.ctx with
  | none => .prim (.svc fun v => { v with mpRecords := v.mpRecords ++ [r] })
  | some c =>
    if c.ring.length < 64 then .all [
      modCtx r.ctx fun c => { c with ring := c.ring ++ [r], fcount := (c.fcount + 1) % 2 ^ 32 },
      let notice := BitVec.ofNat 64 ((c.fcount + 1) % 2 ^ 32)
      if c.hasHandler then noticeAppend r.ctx notice
      else match (s.vd c.vd).supervisor with
        | some sup => match s.ctx? sup with
          | some sc => if sc.hasHandler then noticeAppend sup notice else sendInterrupt c.vd 3
          | none => sendInterrupt c.vd 3
        | none => sendInterrupt c.vd 3]
    else modCtx r.ctx fun c =>
      { c with ring := c.ring.modify 63 fun n => { n with count := (n.count + 1 + r.count) % 65536 } }

/-- Write a record to the ring of the supervisor context of a VD, if it has one (R252, R300, R364, R439). -/
def writeToSupervisor (vd : Nat) (r : FaultRec) : Cmd := .get fun s =>
  match (s.vd vd).supervisor with
  | some sup => writeRecord { r with ctx := sup }
  | none => sendInterrupt vd 3

/-- The record that a sink writes from a poison token (R105): the origin's fields, the sink's position and VIA. A record
that the origin element's capture holds supplies the values and the COUNT, and frees the capture (R32). Of one fault no
second record with the same origin and tag is written (R106). -/
def sinkPoison (f : Firing) (origin : W64) : Cmd := .get fun s =>
  let o := origin.toNat
  let die := natBits o 49 48
  let ox := natBits o 47 42
  let oy := natBits o 41 37
  let osid := sidAt die ox oy
  let node := natBits o 34 28
  let cap := match (s.elem osid).capture with
    | some c => if c.cause == natBits o 63 56 && c.onode == node && oy < 24 then some c else none
    | none => none
  let rgn := match s.regionAt osid with | some (_, r) => if oy < 24 then r.rgn else f.rgn | none => f.rgn
  let r : FaultRec := { s.recordAt f (natBits o 63 56) with
    vd := natBits o 55 50, die := die, ox := ox, oy := oy, ofrm := natBits o 36 35, onode := node, rgn := rgn, via := true }
  let r := match cap with | some c => { r with tag := c.tag, vala := c.vala, valb := c.valb, count := c.count } | none => r
  let told : Bool := match s.ctx? f.ctx with | some c => c.told.contains (origin, r.tag) | none => false
  .when (!told) (.all [
    writeRecord r,
    modCtx f.ctx fun c => { c with told := (origin, r.tag) :: c.told },
    .when cap.isSome (modElem osid fun e => { e with capture := none })])

/-- A new fault of an origin and a tag: its poison may write a record, whatever an earlier fault's did. Tags of another
depth are those under which poison of an earlier fault may have left a loop. -/
def freshFault (f : Firing) (origin : W64) : Cmd := modCtx f.ctx fun c =>
  { c with told := c.told.filter fun (o, t) => !(o == origin && (t == f.tag || tagDepth t != tagDepth f.tag)) }

/-- A further fault at an element whose capture is occupied adds 1 to its COUNT (R32). -/
def foldCapture (sid : Nat) : Cmd :=
  modElem sid fun e => { e with capture := e.capture.map fun c => { c with count := (c.count + 1) % 65536 } }

/-- The record of a fault found at an element (R32, R105). -/
def writeFault (sid : Nat) (r : FaultRec) : Cmd := .seq (foldCapture sid) (writeRecord r)

/-- Emit poison on every valid destination; a node with none acts as a sink (R326). -/
def emitPoison (f : Firing) (h : Hdr) (lat : Nat) (tag : W64) (origin : W64) : Cmd :=
  if h.d0.val || h.d1.val then emit f h lat tag (.poison origin) else sinkPoison f origin

/-- Take a fault at a node that is no sink: poison whose origin is the node itself (R10, R33, R76). -/
def raiseFault (f : Firing) (h : Hdr) (lat : Nat) (cause : Nat) : Cmd := .get fun s =>
  let o := f.origin (s.vdOfCtx f.ctx) cause
  .all [foldCapture f.sid, freshFault f o, emitPoison f h lat f.tag o]

/-- Take a fault at a sink: the node writes its own record and emits null (R198, R202). -/
def raiseAtSink (f : Firing) (h : Hdr) (lat : Nat) (vec : Bool) (r : FaultRec) : Cmd :=
  .seq (writeFault f.sid r) (emit f h lat f.tag (.null vec))

/-- An uncorrectable error in a site's node slots or matching store (R417): four within 24 hours retire the site. -/
def siteError (sid : Nat) : Cmd := .get fun s =>
  let recent := ((s.svc.siteErrs.getD sid []).filter fun t => s.now < t + Config.errorSpan) ++ [s.now]
  .seq (.prim (.svc fun v => { v with siteErrs := v.siteErrs.set sid recent }))
    (.when (4 ≤ recent.length) (after 0 (.siteRetire (dieOf sid) (xOf sid) (yOf sid))))

/-! ### Commit and progress -/

/-- Ask the block sequencer to look at an instance's commit conditions (R239). -/
def tryCommit (ctx rgn frm dom : Nat) : Cmd := after 0 (.instanceCommit ctx rgn frm dom)

def modFrame (ctx rgn frm : Nat) (g : Frame → Frame) : Cmd :=
  modRegion ctx rgn fun r => { r with frames := r.frames.modify frm g }

/-- Change the uncommitted instance of a domain in a frame (R236: there is at most one). -/
def modInst (ctx rgn frm dom : Nat) (g : Inst → Inst) : Cmd :=
  modFrame ctx rgn frm fun fr => { fr with insts := fr.insts.map fun i => if i.dom = dom then g i else i }

/-- The uncommitted instance of a domain in a frame. -/
def State.inst? (s : State) (ctx rgn frm dom : Nat) : Option Inst :=
  match s.region? ctx rgn with
  | some r => match r.frames[frm]? with
    | some fr => fr.insts.find? fun i => i.dom == dom
    | none => none
  | none => none

/-- The context's watchdog returns to zero (R364). -/
def progress (ctx : Nat) : Cmd := .get fun s => modCtx ctx fun c => { c with lastProgress := s.now }

/-- Add to a per-VD counter of a die (R226); key 2^20 VD + 4 number + die. -/
def count (die vd number n : Nat) : Cmd :=
  let key := 2 ^ 20 * vd + 4 * number + die
  .prim (.ten fun t => { t with counters := t.counters.set key ((t.counters.getD key 0 + n) % 2 ^ 64) })

/-- Record that a node has fired: for its instance's commit set (R239 item 2), the watchdog (R364) and CNTR 0 (R226). -/
def markFired (f : Firing) : Cmd := .get fun s => .all [
  modInst f.ctx f.rgn f.frm (tagDomain f.tag) fun i =>
    if f.tag = instTag i.dom ∧ ¬ i.fired.contains f.node then { i with fired := i.fired ++ [f.node] } else i,
  progress f.ctx,
  count (dieOf f.sid) (s.vdOfCtx f.ctx) 0 1,
  tryCommit f.ctx f.rgn f.frm (tagDomain f.tag)]

/-- OR flags into the context's FPSTAT (R59). -/
def orFlags (ctx flags : Nat) : Cmd := .when (flags != 0) (modCtx ctx fun c => { c with fpstat := c.fpstat ||| flags })

end Sys2Proof.Machine
end

