-- ==== Sys2Proof/Machine/Operands.lean ====
section
/-! DEFINITION. Operand forms: the ports a node collects and their shapes (R24, R107, R175), operand values, literals
(R100), lanes and masks (R47, R78), and the order in which poison, null and predication decide a firing (R33, R75). -/

namespace Sys2Proof

open Sys2Proof.Machine

/-! ### Ports and shapes -/

/-- The shape a port expects (R25): a scalar token, a vector token, or either. -/
inductive Shape where
  | sc | vec | either
deriving DecidableEq, Repr

def Shape.of (v : Bool) : Shape := if v then .vec else .sc
def Shape.accepts : Shape → Bool → Bool | .sc, v => !v | .vec, v => v | .either, _ => true

/-- The data ports a node collects, with their shapes, and the shapes of its results on D0 and D1 (the VEC flag of a null
result, R19, R33). -/
structure Sig where
  a : Option Shape
  b : Option Shape
  c : Option Shape
  r0 : Bool
  r1 : Bool
deriving DecidableEq, Repr

def Sig.none : Sig := ⟨Option.none, Option.none, Option.none, false, false⟩
/-- One operand and a result of the shapes given. -/
def Sig.one (a : Shape) (r : Bool) : Sig := ⟨some a, Option.none, Option.none, r, r⟩
/-- Two operands; operand b gives way to LIT when `l` (R24, R77). -/
def Sig.two (a : Shape) (l : Bool) (b : Shape) (r : Bool) : Sig := ⟨some a, if l then Option.none else some b, Option.none, r, r⟩
def Sig.three (a : Shape) (l : Bool) (b c : Shape) (r : Bool) : Sig :=
  ⟨some a, if l then Option.none else some b, some c, r, r⟩

/-- One operand in the node's shape. -/
def CommonNode.sig1 (f : CommonNode) : Sig := Sig.one (.of f.v) f.v
/-- Two operands in the node's shape. -/
def CommonNode.sig2 (f : CommonNode) : Sig := Sig.two (.of f.v) f.l (.of f.v) f.v
/-- Three operands in the node's shape. -/
def CommonNode.sig3 (f : CommonNode) : Sig := Sig.three (.of f.v) f.l (.of f.v) (.of f.v) f.v

/-- The header of a node row. -/
def Instr.hdr (i : Instr) : Hdr :=
  match i.view with
  | some v => v.hdr
  | none => ⟨0, .always, .i8, ⟨false, 0, .a⟩, ⟨false, 0, .a⟩, 0⟩

/-- The operand ports of a node row (R110, R119, R131, R142, R150, R158, R162, R166, R178, R203, R220). -/
def Instr.sig : Instr → Sig
  | .mov f | .nullg f | .sink f | .br f | .callb f | .retb f | .bri f | .write f => Sig.one (.of f.v) f.v
  | .steer f => ⟨some (.of f.v), some .sc, none, f.v, f.v⟩
  | .merge f => ⟨some (.of f.v), some (.of f.v), none, f.v, f.v⟩
  | .gate f => ⟨some (.of f.v), some .either, none, f.v, f.v⟩
  | .const f => if f.sub = 0 then Sig.one (.of f.v) f.v else { Sig.none with r0 := f.v, r1 := f.v }
  | .read f => { Sig.none with r0 := f.v, r1 := f.v }
  | .enter f | .next f | .exit f | .retire f => Sig.one (.of f.v) f.v
  | .bound f => ⟨some (.of f.v), some .sc, none, f.v, f.v⟩
  | .tagget f => Sig.one (.of f.v) false
  | .tagcmp _ => Sig.one .sc false
  | .tagset f => Sig.two (.of f.v) f.l .sc f.v
  | .spawn f => Sig.two (.of f.v) f.l (.of f.v) f.v
  | .retag f => ⟨some (.of f.v), some .sc, none, f.v, f.v⟩
  | .add f | .sub f | .mul f | .mulh f | .div f | .rem f | .and f | .or f | .xor f | .andn f | .shl f | .shr f | .sar f
  | .rot f | .bfe f | .min f | .max f | .cmp f | .lea f => f.sig2
  | .addc f | .subb f => Sig.three .sc f.l .sc .sc false
  | .mad f | .bfi f | .sel f => f.sig3
  | .clz f | .ctz f | .popc f | .brev f | .abs f => f.sig1
  | .fadd f | .fsub f | .fmul f | .fmin f | .fmax f | .fcmp f | .fdiv f | .fscale f => f.sig2
  | .fma f | .fnma f => f.sig3
  | .fsqrt f | .frcp f | .frsq f | .fexp2 f | .flog2 f | .fsin f | .fcos f | .ftanh f | .frnd f | .fclass f | .fabs f
  | .fneg f => f.sig1
  | .cvt f => f.sig1
  | .qnt f => ⟨some .vec, if f.l then none else some .sc, if f.sty = .f32 then some .vec else none, true, true⟩
  | .dqnt _ | .unpack _ => Sig.one .vec true
  | .bscl f => Sig.two .vec f.l .sc true
  | .pack _ => Sig.two .vec false .vec true
  | .srnd f => Sig.two (.of f.v) f.l .sc f.v
  | .vbcast _ => Sig.one .sc true
  | .vext f => Sig.two .vec f.l .sc false
  | .vins f => Sig.three .vec f.l .sc .sc true
  | .vshuf _ | .vexpd _ => Sig.two .vec false .vec true
  | .vcmpr _ => { Sig.two .vec false .vec true with r1 := false }
  | .vred _ | .vcnt _ => Sig.one .vec false
  | .vscan _ => Sig.one .vec true
  | .vdot _ => Sig.two .vec false .vec false
  | .vmask f => if f.sub = 0 then Sig.one .vec false else Sig.one .sc true
  | .reda f => Sig.two (.of f.v) false .sc f.v
  | .redx _ => Sig.two .sc false .sc false
  | .edge _ => Sig.one .vec false
  | .box4 _ => { Sig.three .vec false .vec .vec true with r1 := false }
  | .tri1 _ => { Sig.two .vec false .vec true with r1 := false }
  | .txq _ => Sig.two .vec false .sc true
  | .blnd _ => Sig.three .vec false .sc .sc false
  | .seqt _ => Sig.one .sc false
  | .route f => Sig.three (.of f.v) f.l .sc .sc false
  | .ld _ | .pref _ | .xfi _ | .xfw _ => Sig.one .sc false
  | .ldv _ => Sig.one .sc true
  | .st _ | .stmc _ | .atom _ | .mwait _ => Sig.two .sc false .sc false
  | .stv _ => Sig.two .sc false .vec true
  | .ldg _ => Sig.two .sc false .vec true
  | .sts _ => Sig.three .sc false .vec .vec true
  | .vld f => Sig.one .sc f.v
  | .vst f => Sig.two .sc false (.of f.v) f.v
  | .cas _ => Sig.three .sc false .sc .sc false
  | .fence f | .bnd f => Sig.one (.of f.v) f.v
  | .mxw _ => Sig.two .sc false .sc false
  | .mxa _ | .mxd _ | .grp _ | .coll _ => Sig.three .sc false .sc .sc false
  | .mxsStat _ | .mxsClr _ | .mxsSync _ | .grpxLeave _ | .grpxBreak _ => Sig.one .sc false
  | .ceq _ | .lnch _ => Sig.one .vec false
  | .trap f | .poisMake f | .bkpt f => Sig.one (.of f.ty.isBlock) f.ty.isBlock
  | .poisTest f => ⟨some (.of f.ty.isBlock), none, none, false, f.ty.isBlock⟩
  | .frec _ => Sig.one .sc true
  | .retryResume _ | .retrySkip _ => Sig.two .sc false .sc false
  | .rdsr _ | .cntr _ | .timeNow _ | .done _ => Sig.one .sc false
  | .wrsr f | .timeUntil f | .timeAfter f => Sig.two .sc f.l .sc false
  | .snap _ | .ctxsv _ | .ctxld _ => Sig.three .sc false .sc .sc false
  | .vdctlStop _ | .vdctlResume _ | .vdctlReset _ | .vdctlTrackon _ | .vdctlTrackoff _ | .dirty _ =>
    Sig.two .sc false .sc false
  | _ => Sig.none

/-- The shape a port of a node expects; none when the port is outside the required mask (R24, R25). -/
def Sig.port (g : Sig) (pred : Pred) : Port → Option Shape
  | .a => g.a
  | .b => g.b
  | .c => g.c
  | .p => if pred = .always then Option.none else some .sc

/-- The required mask (R24). -/
def Sig.required (g : Sig) (pred : Pred) : List Port :=
  [.a, .b, .c, .p].filter fun q => (g.port pred q).isSome

end Sys2Proof

namespace Sys2Proof.Machine

/-! ### Values -/

end Sys2Proof.Machine

namespace Sys2Proof

open Sys2Proof.Machine

/-- A scalar result of a type: a pr travels as one bit, every other scalar zero-filled to 64 bits (R20, R47). -/
def Ty.scalarVal (t : Ty) (x : Nat) : Val := if t = .pr then .bit (x % 2 = 1) else .scalar (BitVec.ofNat 64 (x % 2 ^ t.width))

/-- A value that a node of a type passes on (R47): of a scalar, the bits of the type, zeros above. -/
def Ty.pass (t : Ty) (v : Val) : Val := match v with
  | .bit _ | .scalar _ => t.scalarVal v.word.toNat
  | .vector _ | .null _ | .poison _ => v

end Sys2Proof

namespace Sys2Proof.Machine

/-- Operand value, or a null scalar where the port is empty. -/
def orNull (v : Option Val) : Val := v.getD (.null false)

/-- A scalar operand read as raw bits of a width (R47). -/
def Val.low (v : Val) (w : Nat) : Nat := v.word.toNat % 2 ^ w

/-- Lane j of width w. -/
def laneOf (x : Nat) (w j : Nat) : Nat := x / 2 ^ (w * j) % 2 ^ w

/-- Pack lanes of width w, lane 0 lowest. -/
def packLanes (w : Nat) : List Nat → Nat
  | [] => 0
  | x :: xs => x % 2 ^ w + 2 ^ w * packLanes w xs

/-- A vector value of lanes. -/
def vecVal (w : Nat) (xs : List Nat) : Val := .vector (BitVec.ofNat 512 (packLanes w xs))

/-- The lanes of a vector operand. -/
def Val.lanes (v : Val) (w : Nat) : List Nat :=
  let x := v.wide.toNat
  (List.range (512 / w)).map (laneOf x w)

/-- Whether lane j of n is enabled (R78). -/
def laneOn (mask : BitVec 16) (n j : Nat) : Bool := mask.getLsbD (16 * j / n)

end Sys2Proof.Machine

namespace Sys2Proof

open Sys2Proof.Machine

/-- A literal read as an operand of a type (R100): sign-extended for i*, the f32 encoding widened for f64, the low 16 bits
for f16 and bf16, else zero-extended; reduced to the type's width (R47). -/
def Ty.literal (t : Ty) (lit : BitVec 32) : Nat :=
  match t with
  | .i8 | .i16 | .i32 | .i64 => (lit.signExtend 64).toNat % 2 ^ t.width
  | .f64 => (fpToFp Fmt.f32 Fmt.f64 { Fpcm.ieee with nanm := 1 } .rne lit.toNat).bits
  | _ => lit.toNat % 2 ^ t.width

/-- A literal as an operand of the node's type and shape (R107: with V = 1 in every lane). -/
def Ty.literalVal (t : Ty) (v : Bool) (lit : BitVec 32) : Val :=
  if v then vecVal t.width (List.replicate (512 / t.width) (t.literal lit)) else t.scalarVal (t.literal lit)

/-- Operand b, or LIT read as an operand of TY when L = 1 (R107, R132). -/
def CommonNode.opB (f : CommonNode) (b : Option Val) : Val := if f.l then f.ty.literalVal f.v f.lit else orNull b

end Sys2Proof

namespace Sys2Proof.Machine

/-- Operand b, or LIT read as an unsigned number (R100). -/
def litOr (l : Bool) (lit : BitVec 32) (b : Option Val) : W64 := if l then lit.setWidth 64 else (orNull b).word

/-- Compute lane by lane (R78, R132) or once on the scalar; `dis` is a disabled lane's value; flags are ORed. -/
def evalLanes (v : Bool) (w : Nat) (mask : BitVec 16) (ops : List Val) (dis : List Nat → Nat) (op : List Nat → Res) :
    Nat × Nat :=
  if v then
    let n := 512 / w
    let rs := (List.range n).map fun j =>
      let xs := ops.map fun o => laneOf o.wide.toNat w j
      if laneOn mask n j then op xs else ⟨dis xs, 0⟩
    (packLanes w (rs.map (·.bits)), rs.foldl (fun a r => a ||| r.flags) 0)
  else
    let r := op (ops.map (·.low w))
    (r.bits, r.flags)

/-- The value of an `evalLanes` result. -/
def resultVal (v : Bool) (t : Ty) (x : Nat) : Val := if v then .vector (BitVec.ofNat 512 x) else t.scalarVal x

/-- A disabled lane passes operand a (R78). -/
def passA (xs : List Nat) : Nat := xs.headD 0

/-! ### The firing rule -/

/-- The origin of the poisoned operand on the lowest port (R33 rule 1). -/
def Firing.poison? (f : Firing) : Option W64 :=
  [f.a, f.b, f.c, f.p].findSome? fun v => match v with | some (.poison o) => some o | _ => none

/-- Whether some operand is null (R33 rule 2). -/
def Firing.hasNull (f : Firing) : Bool :=
  [f.a, f.b, f.c, f.p].any fun v => match v with | some (.null _) => true | _ => false

/-- Whether the predicate matches PRED; a value that is no pr is read in bit 0 (R74, R75). -/
def Firing.predOk (f : Firing) (pred : Pred) : Bool :=
  match pred with
  | .always => true
  | .ifTrue => (orNull f.p).word.getLsbD 0
  | .ifFalse => !(orNull f.p).word.getLsbD 0

/-- A null firing: a null operand or a predicate that does not match (R33 rule 2). -/
def Firing.off (f : Firing) (pred : Pred) : Bool := f.hasNull || !f.predOk pred

/-- Emit null in the result's shape. -/
def emitNull (f : Firing) (h : Hdr) (g : Sig) (lat : Nat) (tag : W64) : Cmd :=
  emit2 f h lat tag (.null g.r0) (.null g.r1)

/-- R33 on a node whose results carry `tag`: poison, then null, then the computation. -/
def node (f : Firing) (h : Hdr) (g : Sig) (lat : Nat) (tag : W64) (k : Cmd) : Cmd :=
  .seq (markFired f) (match f.poison? with
    | some o => emitPoison f h lat tag o
    | none => if f.off h.pred then emitNull f h g lat tag else k)

/-- A node of the standard form: one result on both destinations (R33 rule 3, R74). -/
def compute (f : Firing) (h : Hdr) (g : Sig) (lat : Nat) (v : Val) : Cmd := node f h g lat f.tag (emit f h lat f.tag v)

/-- A standard node whose result comes with FPSTAT flags (R59). -/
def computeFlags (f : Firing) (h : Hdr) (g : Sig) (lat : Nat) (r : Val × Nat) : Cmd :=
  node f h g lat f.tag (.seq (orFlags f.ctx r.2) (emit f h lat f.tag r.1))

end Sys2Proof.Machine
end

