-- ==== Sys2Proof/Machine/Capture.lean ====
section
/-! DEFINITION. Capture and replay (R425, R426): the records of a capture ring, and what a replaying context takes from it. -/

namespace Sys2Proof.Machine

/-- A reply destination in a packet (R204). -/
def destWord (d : Dest) (x y frm : Nat) : Nat :=
  (if d.val then 1 else 0) + x % 64 * 2 + y % 32 * 2 ^ 7 + frm % 4 * 2 ^ 12 + d.node.toNat * 2 ^ 14 + d.port.code.toNat * 2 ^ 21

/-- The DESTA word of a firing's destination. -/
def Firing.destA (f : Firing) (which : Nat) (d : Dest) : Nat := destWord d (f.destX which) (f.destY which) f.frm

/-- A value as the payload of a record: 64 bytes for a vector, else 16. -/
def Val.payload : Val → List Byte
  | .vector x => leBytes x.toNat 64
  | v => leBytes v.word.toNat 16

/-- A record's value. -/
def CapRec.val (r : CapRec) : Val :=
  if r.payload.length = 64 then .vector (BitVec.ofNat 512 (leNat r.payload)) else .scalar (BitVec.ofNat 64 (leNat (r.payload.take 8)))

/-- The bytes of a record (R425). -/
def CapRec.bytes (r : CapRec) : List Byte :=
  leBytes r.kind 1 ++ leBytes r.payload.length 1 ++ leBytes r.rgn 2 ++ leBytes r.dest.toNat 4 ++ leBytes r.tag.toNat 8 ++ r.payload

/-- Store bytes in the DRAM at home, with a new version of each line. -/
def mpWrite (pa : Nat) (bs : List Byte) : Cmd := .seq (.prim (.dram pa bs)) (.prim (.mem fun m => { m with
  homes := m.homes.map fun (l, h) => (l, if pa / 128 ≤ l && l ≤ (pa + bs.length - 1) / 128 then { h with wts := h.rts + 1, rts := h.rts + 1 } else h) }))

/-- Capture slot k takes a record (R425): a full ring sets OVF and stops it. -/
def captureTo (k : Nat) (r : CapRec) : Cmd := .get fun s =>
  let c := s.svc.cap k
  let bs := r.bytes
  let put := fun (x : Capture) => Cmd.prim (.svc fun v => { v with caps := v.caps.set k x })
  if !c.ctl.getLsbD 0 || c.ctl.getLsbD 1 then .skip
  else if 2 ^ max 12 (min 32 (natBits c.ctl.toNat 39 34)) < c.ptr.toNat + bs.length then put { c with ctl := c.ctl ||| 2 }
  else .seq (mpWrite (c.base.toNat + c.ptr.toNat) bs) (put { c with ptr := c.ptr + BitVec.ofNat 64 bs.length })

/-- A record of a region is written to every capture slot that watches it. -/
def capture (ctx : Nat) (r : CapRec) : Cmd := .get fun s =>
  Cmd.each (s.svc.caps.zipIdx.filter fun (c, _) => c.ctl.getLsbD 0 && natBits c.ctl.toNat 17 2 == ctx &&
    (natBits c.ctl.toNat 33 18 == 0xFFFF || natBits c.ctl.toNat 33 18 == r.rgn)) fun (_, k) => captureTo k r

/-- Whether a context replays a ring (R426). -/
def State.replaying (s : State) (ctx : Nat) : Bool := (s.svc.replays.get? ctx).isSome

/-- The next record of a kind for a region, destination and tag that a replaying context has left, and its removal. -/
def State.replayed (s : State) (ctx kind rgn : Nat) (dest : Option Nat) (tag : W64) : Option (CapRec × Cmd) :=
  match s.svc.replays.get? ctx with
  | none => none
  | some rs => match rs.find? fun r => r.kind == kind && r.tag == tag && r.rgn == rgn &&
      (match dest with | some d => r.dest.toNat == d | none => true) with
    | some r => some (r, .prim (.svc fun v => { v with replays := v.replays.set ctx (rs.erase r) }))
    | none => none

end Sys2Proof.Machine
end

