-- ==== Sys2Proof/Machine/Rates.lean ====
section
/-! DEFINITION. Rate buckets (R371 to R374) and the thermal allowance (R409, R410). -/

namespace Sys2Proof.Machine

/-! ### Thermal allowance -/

/-- Whether cycle `t` is an issue cycle under R410; `acc` is the accumulator before cycle `accAt`. The hardware cut admits
none (R424). -/
def Thermal.issueCycle (th : Thermal) (t : Nat) : Bool :=
  !th.cut && decide ((th.acc + (t - th.accAt) * th.allow) / 255 < (th.acc + (t + 1 - th.accAt) * th.allow) / 255)

/-- ALLOW takes a new value, which counts from the cycle after `t` (R410). -/
def Thermal.setAllow (th : Thermal) (t a : Nat) : Thermal :=
  { th with acc := (th.acc + (t + 1 - th.accAt) * th.allow) % 255, accAt := t + 1, allow := a }

def State.thermal (s : State) (die : Nat) : Thermal := s.svc.thermal.getD die Thermal.reset
def State.issueCycle (s : State) (die : Nat) : Bool := (s.thermal die).issueCycle s.now

/-! ### Buckets -/

/-- An arbiter: its class (R371) and its place. -/
def arbiter (k place : Nat) : Nat := 2 ^ 40 * k + place
def arbiterClass (key : Nat) : Nat := key / 2 ^ 40
def arbiterPlace (key : Nat) : Nat := key % 2 ^ 40

def dirIndex : Dir → Nat | .north => 0 | .south => 1 | .east => 2 | .west => 3 | .loc => 4
def issueArbiter (sid : Nat) : Nat := arbiter 0 sid
/-- An output port of a switch box. -/
def portArbiter (box : Nat) (d : Dir) : Nat := arbiter 1 (5 * box + dirIndex d)
def sliceArbiter (die slice : Nat) : Nat := arbiter 2 (64 * die + slice)
def hbmArbiter (stack : Nat) : Nat := arbiter 3 stack
def couplerArbiter (src dst : Nat) : Nat := arbiter 4 (4 * src + dst)
def drawbarArbiter (port : Nat) (out : Bool) : Nat := arbiter 5 (2 * port + if out then 1 else 0)
def engineArbiter (die : Nat) : Nat := arbiter 6 die
def mapperArbiter (die : Nat) : Nat := arbiter 7 die

/-- The kind of an arbiter: those of one kind have one capacity (R371). Kinds 0 to 3 are element issue on each die, 4 and 5 the
ports of the scalar and control networks and of the vector network, 6 to 11 classes 2 to 7. -/
def arbiterKind (key : Nat) : Nat := match arbiterClass key with
  | 0 => dieOf (arbiterPlace key)
  | 1 => if arbiterPlace key / 5 % 3 = 2 then 5 else 4
  | k => k + 4

/-- The class of a kind of arbiter. -/
def kindClass (kind : Nat) : Nat := if kind < 4 then 0 else if kind < 6 then 1 else kind - 4

/-- The capacity C of a kind of arbiter (R371). -/
def State.capacity (s : State) (kind : Nat) : Nat :=
  if kind < 4 then 256 * (s.thermal kind).allow / 255 else [256, 128, 256, 6752, 9411, 235, 4096, 256].getD (kind - 4) 0

/-- The guarantee G of a VD at a kind of arbiter (R372). -/
def State.guarantee (s : State) (kind vd : Nat) : Nat :=
  max 1 (s.capacity kind * (s.vd vd).shares.getD (kindClass kind) 0 / 1024)

/-- The credit of a VD at an arbiter that has listed nothing of it (R373). -/
def State.idleCredit (s : State) (key vd : Nat) : Credit := ⟨(s.vd vd).idle.getD (arbiterKind key) 0, false⟩

/-- What a refill leaves of an idle VD's credits (R373): it lends what it has not spent of G, and keeps the rest of G. -/
def State.idleRefill (s : State) (vd : Nat) : List Nat := (s.vd vd).idle.zipIdx.map fun (u, kind) =>
  let g := s.guarantee kind vd
  g - min u g

def State.credit (s : State) (key vd : Nat) : Credit :=
  match s.ten.buckets.get? key with
  | some t => match t.get? vd with | some c => c | none => s.idleCredit key vd
  | none => s.idleCredit key vd

def State.hasCredit (s : State) (key vd : Nat) : Bool := (s.credit key vd).left != 0

def setCredit (key vd : Nat) (c : Credit) : Cmd :=
  .prim (.ten fun t => { t with buckets := t.buckets.set key ((t.buckets.getD key []).set vd c) })

/-- Spend credits (R371). -/
def spend (key vd n : Nat) : Cmd := .get fun s =>
  let c := s.credit key vd
  setCredit key vd { c with left := c.left - n }

/-- Mark that a VD waited only for a credit (R373). -/
def markWaited (key vd : Nat) : Cmd := .get fun s => setCredit key vd { s.credit key vd with waited := true }

/-- The credits of the VDs of one arbiter after a refill (R373): for each Active or Stopped VD its new credit, what it
borrowed and what it lent. -/
def refillArbiter (s : State) (key : Nat) (vds : List Nat) : List (Nat × Nat × Nat × Nat) :=
  let rows := vds.map fun v => (v, s.guarantee (arbiterKind key) v, s.credit key v)
  let lent := rows.map fun (_, g, c) => min c.left g
  let pool := lent.foldl (· + ·) 0
  let waiting := rows.filter fun (_, _, c) => c.waited
  let total := (waiting.map fun (_, g, _) => g).foldl (· + ·) 0
  let share := fun (g : Nat) => if total = 0 then 0 else pool * g / total
  let given := (waiting.map fun (_, g, _) => share g).foldl (· + ·) 0
  let rest := if waiting.isEmpty then 0 else pool - given
  rows.map fun (v, g, c) =>
    let back := min c.left g
    let extra := if c.waited then
        let rank := (waiting.findIdx? fun (w, _, _) => w == v).getD 0
        share g + rest / waiting.length + (if rank < rest % waiting.length then 1 else 0)
      else 0
    (v, g - back + extra, extra, back)

end Sys2Proof.Machine
end

