-- ==== Sys2Proof/Machine/Issue.lean ====
section
/-! DEFINITION. Issue (R34, R35, R45, R334): which ready entry an element issues, and what a step runs next. -/

namespace Sys2Proof.Machine

/-- Node classes that an open hold at the memory port keeps back (R199): memory, engine and system M. -/
def portNode (i : Instr) : Bool :=
  match i.view with
  | some (.mem ..) | some (.eng ..) | some (.sysM ..) => true
  | _ => false

/-- Nodes that use the divider (R36). -/
def usesDivider : Instr → Bool
  | .div _ | .rem _ | .fdiv _ | .fsqrt _ => true
  | _ => false

/-- The divider's busy time (R36). -/
def dividerTime (t : Ty) (v : Bool) : Nat := if t.width = 64 then 20 else if v then 16 else 12

/-- Nodes that keep the float unit busy for a second cycle (R36). -/
def usesFloat (i : Instr) : Bool :=
  match i.view with
  | some (.common op _) => 0x40 ≤ op && op < 0x60 && !usesDivider i
  | _ => false

/-- Cycles for which the float unit is busy after a node: two after an f64 FMA (R36). -/
def floatTime : Instr → Nat
  | .fma f | .fnma f => if f.ty = .f64 then 2 else 1
  | _ => 1

/-- Cycles from issue to the first result that a node can write (R36): a null or poison result of a memory, engine or system node
comes at once. -/
def resultTime (i : Instr) : Nat :=
  match i.view with
  | some (.common op f) =>
    if usesDivider i then dividerTime f.ty f.v else if op < 0x40 then 1
    else if 0x4C ≤ op && op ≤ 0x50 then 8 else 4
  | _ => 1

/-- Stores that take an entry of the M-element's share of the region store buffer (R188), from the cycle they issue, when address
and value are known (R181), until they have performed at die scope. -/
def takesStoreEntry : Instr → Bool
  | .st _ | .stv _ | .sts _ | .vst _ | .stmc _ => true
  | _ => false

/-- Whether a result leaves an output buffer to another that is written in cycle `w` (R34, log 48): it is written later than that
one moves out, or it moves out before. A written token is taken to move out in the next cycle, and one on the vector network in
the cycle after that at the latest (R38, R40); one that has not moved out in its cycle blocks its buffer until it does. -/
def OutTok.givesWay (o : OutTok) (now w : Nat) : Bool :=
  let gap := if o.tok.val.net == .vector then 2 else 1
  decide (w + gap ≤ o.due) || (decide (now ≤ o.due) && decide (o.due + gap ≤ w))

/-- Whether the element's output buffers for a node's possible results are empty, or will be before the first of these results is
written (R34): poison travels on the scalar network, null on the control network. -/
def outsFree (e : Element) (now lat : Nat) (h : Hdr) (g : Sig) : Bool :=
  e.outs.all fun o => o.givesWay now (now + lat) ||
    !((o.which = 0 && h.d0.val && (o.tok.val.net != .vector || g.r0)) ||
      (o.which = 1 && h.d1.val && (o.tok.val.net != .vector || g.r1)))

/-- Whether the unit that a node needs can accept it (R35, R36, R188, R192, R194, R199). -/
def State.unitFree (s : State) (sid : Nat) (e : Element) (ctx rgn : Nat) (i : Instr) : Bool :=
  (!usesDivider i || e.dividerUntil ≤ s.now) && (!usesFloat i || e.floatUntil ≤ s.now) && (!portNode i || e.portHold.isNone) &&
  (!takesStoreEntry i || (s.mem.ops.filter fun (_, o) =>
    o.f.sid == sid && takesStoreEntry o.i && !o.null && o.phase != .done && o.performed = 0).length < 32) &&
  (match i with
   | .xfi _ => (match s.region? ctx rgn with
      | some r => r.hitches.length < 32 || r.hitches.any fun h => !h.used
      | none => true)
   | .mwait _ => (s.mem.ops.filter fun (_, o) =>
      o.f.sid == sid && (match o.i with | .mwait _ => true | _ => false) && o.phase != .done).length < 8
   | _ => true)

/-- EA of a firing before any index: a + LIT (R176, R330). -/
def baseEA (f : Firing) (i : Instr) : W64 :=
  let l := match i.view with | some (.mem _ m) => m.l | _ => false
  (orNull f.a).word + (if l then i.hdr.lit.signExtend 64 else 0)

/-- The index of a lane of LDG or STS, and whether it makes an access (R185). -/
def gatherIndexes (f : MemNode) (c : Firing) : List (Nat × Nat) :=
  let w := f.ty.width
  (((orNull c.b).lanes w).zipIdx.map fun (k, j) => (j, k)).filter fun (_, k) => !(f.sub == 1 && k == 2 ^ w - 1)

/-- The address of a lane of LDG or STS (R185). -/
def gatherEA (f : MemNode) (c : Firing) (k : Nat) : W64 :=
  baseEA c (.ld f) + ((BitVec.ofNat f.ty.width k).signExtend 64) * BitVec.ofNat 64 (f.ty.width / 8)

/-- The virtual addresses that a memory node would translate (R176, R185). -/
def firingAddrs (i : Instr) (f : Firing) : List W64 := match i with
  | .ld _ | .st _ | .ldv _ | .stv _ | .atom _ | .cas _ | .stmc _ | .mwait _ | .pref _ => [baseEA f i]
  | .ldg n | .sts n => (gatherIndexes n f).map fun (_, k) => gatherEA n f k
  | _ => []

def TlbEntry.covers (e : TlbEntry) (vd : Nat) (va : W64) : Bool :=
  e.vd == vd && decide (e.page ≤ va.toNat) && decide (va.toNat < e.page + e.size)

def State.tlbFind (s : State) (sid vd : Nat) (va : W64) : Option TlbEntry := (s.elem sid).tlb.find? fun e => e.covers vd va

/-- Whether an M-element can take the misses of a memory firing (R393): it has fewer than 8 outstanding, or the firing misses
nothing. -/
def State.missFree (s : State) (sid vd : Nat) (i : Instr) (f : Firing) : Bool :=
  (s.mem.ops.filter fun (_, o) => o.f.sid == sid && o.phase == .translating && o.lanes.any fun l => !l.ok).length < 8 ||
  f.poison?.isSome || f.off i.hdr.pred || (firingAddrs i f).all fun va => (s.tlbFind sid vd va).isSome

/-- Whether a context's nodes may issue on a site: its VD is Active, the context runs, its region is not stopped (R45,
R365, R369). -/
def State.mayIssue (s : State) (e : Element) (ctx rgn : Nat) : Bool :=
  !e.stopped && (s.vd (s.vdOfCtx ctx)).state == 2 &&
  (match s.ctx? ctx with | some c => c.state == .running | none => false) &&
  (match s.region? ctx rgn with | some r => !r.stopped | none => true)

/-- Whether a halted region lets a node issue: only the node of a step (R334, R335). -/
def State.haltAllows (s : State) (ctx rgn frm nodeNo : Nat) : Bool :=
  match s.region? ctx rgn with
  | some r => !r.halted || r.stepping == some (frm, nodeNo, none)
  | none => true

/-- The firing of a ready entry of a slot. A record with an uncorrectable error makes the node see poison of its own origin in
place of operand a (R412, log 31). -/
def ReadyEntry.firing (r : ReadyEntry) (sl : NodeSlot) (s : State) (sid fid : Nat) : Firing :=
  let f : Firing := {
    fid := fid, sid := sid, slot := r.slot, frm := sl.frm, node := sl.node, ctx := sl.ctx, rgn := sl.rgn,
    tag := r.tag, a := r.a, b := r.b, c := r.c, p := r.p,
    d0x := sl.d0x, d0y := sl.d0y, d1x := sl.d1x, d1y := sl.d1y }
  if sl.bad then { f with a := some (.poison (f.origin (s.vdOfCtx f.ctx) causeEcc)) } else f

/-- A ready entry with its slot and what its record decodes to. -/
structure Candidate where
  entry : ReadyEntry
  slot : NodeSlot
  instr : Except Reject Instr
  free : Bool
  credit : Bool
deriving Repr

/-- Age order of R35 rule 3. -/
def ReadyEntry.before (x y : ReadyEntry) : Bool :=
  x.born < y.born || (x.born == y.born && (x.since < y.since || (x.since == y.since && x.slot < y.slot)))

def State.candidate (s : State) (sid : Nat) (e : Element) (r : ReadyEntry) : Option Candidate :=
  match e.slots.get? r.slot with
  | none => none
  | some sl =>
    let d := decode sl.word
    let fits := match d with
      | .ok i => outsFree e s.now (resultTime i) (match i.view with | some v => v.hdr | none => (RawNode.unpack sl.word).hdr .always) i.sig && s.unitFree sid e sl.ctx sl.rgn i &&
          s.missFree sid (s.vdOfCtx sl.ctx) i (r.firing sl s sid 0)
      | .error _ => outsFree e s.now 1 ((RawNode.unpack sl.word).hdr .always) Sig.none
    some ⟨r, sl, d, fits && s.mayIssue e sl.ctx sl.rgn && s.haltAllows sl.ctx sl.rgn sl.frm sl.node && s.issueCycle (dieOf sid),
      s.hasCredit (issueArbiter sid) (s.vdOfCtx sl.ctx)⟩

/-- The oldest of a list of candidates (R35 rule 3). -/
def oldest : List Candidate → Option Candidate
  | [] => none
  | c :: cs => match oldest cs with
    | none => some c
    | some d => if d.entry.before c.entry then some d else some c

/-- The entry that issues: any whose bypass count has reached 64 first, then the oldest tag (R35). -/
def choose (cs : List Candidate) : Option Candidate :=
  let ok := cs.filter fun c => c.free && c.credit
  match oldest (ok.filter fun c => 64 ≤ c.entry.bypass) with
  | some c => some c
  | none => oldest ok

/-- The firing of a chosen entry. -/
def Candidate.firing (c : Candidate) (s : State) (sid fid : Nat) : Firing := c.entry.firing c.slot s sid fid

def ReadyEntry.same (x y : ReadyEntry) : Bool := x.slot == y.slot && x.tag == y.tag && x.since == y.since

/-- The state changes of an issue: the entry leaves, eligible entries passed over count a bypass, the credit is spent. -/
def issueEffect (sid : Nat) (cs : List Candidate) (c : Candidate) (i : Except Reject Instr) : Cmd := .get fun s => .all [
  modElem sid fun e => { e with
    ready := (e.ready.filter fun r => !r.same c.entry).map fun r =>
      if cs.any (fun d => d.free && d.credit && d.entry.same r) then { r with bypass := r.bypass + 1 } else r
    slots := if c.slot.bad then e.slots.mod c.entry.slot (fun sl => { sl with bad := false }) else e.slots
    dividerUntil := match i with
      | .ok (.div f) | .ok (.rem f) | .ok (.fdiv f) | .ok (.fsqrt f) => s.now + dividerTime f.ty f.v
      | _ => e.dividerUntil
    floatUntil := match i with
      | .ok j => if usesFloat j then s.now + floatTime j else e.floatUntil
      | .error _ => e.floatUntil },
  spend (issueArbiter sid) (s.vdOfCtx c.slot.ctx) 1]

/-- Entries that waited only for a credit: mark their VDs and count the cycle (R226 0x001, R373). -/
def issueWaits (sid : Nat) (cs : List Candidate) : Cmd := .get fun s =>
  Cmd.each ((cs.filter fun c => c.free && !c.credit).map (fun c => s.vdOfCtx c.slot.ctx)).dedup fun v =>
    .seq (markWaited (issueArbiter sid) v) (count (dieOf sid) v 1 1)

/-- A halted region's step has issued its node (R335). -/
def stepTaken (sl : NodeSlot) (fid : Nat) : Cmd := modRegion sl.ctx sl.rgn fun r =>
  if r.halted && r.stepping == some (sl.frm, sl.node, none) then { r with stepping := some (sl.frm, sl.node, some fid) } else r

/-- Whether a parked firing may fire again in a halted region: only that of a step (R334, R335). -/
def State.refireAllowed (s : State) (f : Firing) : Bool :=
  match s.region? f.ctx f.rgn with
  | some r => !r.halted || r.stepping == some (f.frm, f.node, none) || r.stepping == some (f.frm, f.node, some f.fid)
  | none => true

/-- What the machine does next: only a change of state, an instruction to run, or a record that no element accepts. -/
inductive Next where
  | idle (s : State)
  | exec (i : Instr) (s : State)
  | illegal (record : Rec) (s : State)

/-- The entries of the ready queue that may issue by now (R35, R36): a start that finds the queue full waits behind it (log 87). -/
def Element.queued (e : Element) (now : Nat) : List ReadyEntry :=
  (e.ready.take Config.readyDepth).filter fun r => r.since ≤ now

/-- An element issues at most one entry a cycle (R35). The issued node runs a cycle later in the numbering of R36, which
only its result latency shows. A record that no element accepts runs as ILLEGAL_OPCODE_FIRE (R75, R76, R91). -/
def issueNext (sid : Nat) (s : State) : Next :=
  let e := s.elem sid
  let cs := (e.queued s.now).filterMap (s.candidate sid e)
  let again := fun (t : State) => if (t.elem sid).ready.isEmpty then t else (afterTask 1 (.issue sid)).exec t
  let s1 := (issueWaits sid cs).exec s
  match choose cs with
  | none => .idle (again s1)
  | some c =>
    let s2 := again ((Cmd.all [.prim .takeSerial, issueEffect sid cs c c.instr, stepTaken c.slot s1.serial]).exec s1)
    let s3 := { s2 with cur := c.firing s2 sid s1.serial }
    match c.instr with
    | .ok i => .exec i s3
    | .error _ => .illegal c.slot.word s3

/-- The step's choice: the earliest task of the agenda; with none, a cycle passes. A parked firing fires again only where
issue is allowed (R35, R45, R228, R334). A package without power acts only on
PACKAGE_RESET (R406). -/
def State.next (s : State) : Next :=
  match s.agenda with
  | [] => .idle { s with now := s.now + 1 }
  | (due, task) :: rest =>
    let s' := { s with agenda := rest, now := max s.now due }
    if s.power then
      match task with
      | .ev i => .exec i s'
      | .refire i f =>
        if (s'.ctx? f.ctx).isNone then .idle s'
        else if s'.mayIssue (s'.elem f.sid) f.ctx f.rgn && s'.refireAllowed f then .exec i { s' with cur := f }
        else .idle ((afterTask 1 (.refire i f)).exec s')
      | .issue sid => issueNext sid s'
    else match task with
      | .ev .packageReset => .exec .packageReset s'
      | _ => .idle s'

/-! ### Placing one record -/

def Image.bare : Image :=
  ⟨0, 0, 0, 0, 0, 4096, 64, 0, 0, 0, 0, 0, [⟨0, 0, 0, 0⟩], [], [⟨0, 1, 1, 0xFF⟩], [], [], 0⟩

def Siding.bare : Siding := ⟨0, 64, 0, [], [], 0, none⟩

/-- A running context of VD 0 with nothing in its memory areas; the page of its record ring is the last of the address space. -/
def Ctx.bare : Ctx where
  vd := 0
  priv := 2
  state := .running
  launch := 0
  image := Image.bare
  cbase := 0
  homeDie := 0
  acts := [(0, ⟨0, 0, [], 1⟩)]
  pts := []
  lost := []
  fpcm := 0
  fpstat := 0
  lease := [64, 64, 64, 64]
  siding := Siding.bare
  pool := List.range 4096
  globals := []
  vglobals := []
  pmaps := []
  placing := []
  dataVA := 0
  ringVA := 0xFFFFFFFFFFFF0000
  slotsVA := 0
  saveVA := 0
  vaultBase := 0
  args := 0
  ways := 256
  lastProgress := 0
  ring := []
  fcount := 0
  exit := none
  holdGrowth := false
  paused := none
  waitingDom := []
  equeues := []
  told := []

/-- A 4 x 4 region at the origin of die 0 with one block instance of domain 0 in frame 0. -/
def Region.bare : Region where
  ctx := 0
  rgn := 0
  actor := 0
  replica := 0
  source := 0
  die := 0
  x0 := 0
  y0 := 0
  shape := 0
  state := .available
  frames := [⟨none, none, [⟨0, 1, 0, [], .none, [], [], [], []⟩], 1⟩, Frame.empty, Frame.empty, Frame.empty]
  starts := []
  queues := []
  hitches := List.replicate 32 Hitch.empty
  comps := List.replicate 8 Comparator.empty
  halted := false
  hit := 0
  stepping := none
  stopped := false
  seqt := []

/-- An operand for a port: a zero of the port's shape. -/
def Shape.zero : Shape → Val | .vec => .vector 0 | _ => .scalar 0

/-- Place one record in slot 0 of the M-element (1, 1) of die 0 with all its operands present, so that the next step issues
it (log 32): its context, region and instance, a ready entry, an issue credit, an issue cycle, and the element's issue at
the head of the agenda. -/
def State.placeRecord (s : State) (w : Rec) : State :=
  let sid := 65
  let (g, pred) := match decode w with
    | .ok i => (i.sig, match i.view with | some v => v.hdr.pred | none => .always)
    | .error _ => (Sig.none, .always)
  let slot : NodeSlot := ⟨w, 0, 0, 0, 0, 1, 1, 1, 1, false⟩
  let entry : ReadyEntry := {
    slot := 0, frm := 0, node := 0, tag := 0, a := g.a.map Shape.zero, b := g.b.map Shape.zero, c := g.c.map Shape.zero,
    p := match pred with | .always => none | .ifTrue => some (.bit true) | .ifFalse => some (.bit false),
    born := 1, since := 0, bypass := 0 }
  let e : Element := { s.elem sid with
    slots := (s.elem sid).slots.set 0 slot, ready := [entry], outs := [], stopped := false, portHold := none, portQueue := [],
    dividerUntil := 0, floatUntil := 0 }
  let th := s.thermal 0
  { s with
    power := true
    fab := { s.fab with elements := s.fab.elements.set sid e }
    run := { s.run with regions := s.run.regions.set (regionKey 0 0) Region.bare }
    mem := { s.mem with ops := s.mem.ops.filter fun (_, o) => o.f.sid != sid }
    ten := { s.ten with
      ctxs := s.ten.ctxs.set 0 Ctx.bare
      vds := s.ten.vds.set 0 { s.vd 0 with state := 2 }
      buckets := s.ten.buckets.set (issueArbiter sid) ((s.ten.buckets.getD (issueArbiter sid) []).set 0 ⟨1, false⟩) }
    svc := { s.svc with thermal := s.svc.thermal.set 0 { th with allow := max 1 th.allow, acc := 254, accAt := s.now } }
    agenda := (s.now, .issue sid) :: s.agenda }

end Sys2Proof.Machine
end

