-- ==== Sys2Proof/Machine/Flags.lean ====
section
/-! DEFINITION. Flags: the reduction of an exact integer with its SA flag (R48), carry and borrow (R133), the FPCM in
force (R61), and writes to FPSTAT (R59, R224). -/

namespace Sys2Proof.Machine

/-- R48: reduce an exact integer to a type, by wrapping or, with SAT, by clamping with FPSTAT.SA. -/
def reduceInt (t : Ty) (sat : Bool) (x : Int) : Res :=
  if sat then
    if x < Ty.lo t then ⟨wrapTo t.width (Ty.lo t), fSA⟩
    else if Ty.hi t < x then ⟨wrapTo t.width (Ty.hi t), fSA⟩
    else ⟨wrapTo t.width x, 0⟩
  else ⟨wrapTo t.width x, 0⟩

/-- R133: the sum of two w-bit patterns and a carry, with its carry out. -/
def addCarry (w a b c : Nat) : Nat × Bool := ((a + b + c) % 2 ^ w, 2 ^ w ≤ a + b + c)

/-- R133: the difference of two w-bit patterns and a borrow, with its borrow out. -/
def subBorrow (w a b c : Nat) : Nat × Bool := ((a + 2 * 2 ^ w - b - c) % 2 ^ w, a < b + c)

/-- The compatibility modes of a context (R61). -/
def State.fpcm (s : State) (ctx : Nat) : Fpcm := match s.ctx? ctx with | some c => Fpcm.ofNat c.fpcm | none => Fpcm.ieee

/-- A write of ones clears FPSTAT bits (R59, R224). -/
def clearFpstat (old v : Nat) : Nat := old - (old &&& v % 65536)

end Sys2Proof.Machine
end

