-- ==== Sys2Proof/Machine/Order.lean ====
section
/-! DEFINITION. Program order (R180), the wave chain (R181), the order within one activation (R182, R183) and the agents'
timestamps (R262, R266). -/

namespace Sys2Proof.Machine

/-! ### Blocks and loop windows -/

/-- The block mapped in a frame. -/
def State.frameBlock (s : State) (ctx rgn frm : Nat) : Option Block :=
  match s.region? ctx rgn with
  | some r => match r.frames[frm]? with | some fr => fr.block | none => none
  | none => none

/-- The block that a firing's frame maps. -/
def State.blockOf (s : State) (f : Firing) : Option Block := s.frameBlock f.ctx f.rgn f.frm

def LoopWin.isKey (w : LoopWin) (frm nodeNo : Nat) (outer : W64) : Bool := w.frm == frm && w.node == nodeNo && w.outer == outer

/-- Position of an iteration in a window: its distance from HEAD. -/
def LoopWin.pos (w : LoopWin) (i : Nat) : Nat := (i + 64 - w.head % 64) % 64

/-- The site of a node of a block in a region. -/
def Region.siteOf (r : Region) (b : Block) (nodeNo : Nat) : Nat :=
  let (dx, dy, _) := b.places.getD nodeNo (0, 0, 0)
  sidAt r.die (r.x0 + dx) (r.y0 + dy)

/-- The open loop window of a BOUND node for an outer tag (R121). -/
def State.windowOf (s : State) (ctx rgn frm : Nat) (b : Block) (bound : Nat) (outer : W64) : Option LoopWin :=
  match s.region? ctx rgn with
  | some r => (s.elem (r.siteOf b bound)).windows.find? fun w => w.isKey frm bound outer
  | none => none

/-! ### The fields that order a node -/

/-- LSID and the wave and ordering fields of a node that has them (R81, R82, R84, R85). -/
structure WaveFields where
  lsid : Nat
  prv : Nat
  nxt : Nat
  last : Bool
  g : Bool
  ord : Nat
  scope : Nat
deriving DecidableEq, Repr

end Sys2Proof.Machine

namespace Sys2Proof

open Sys2Proof.Machine

def Instr.wave (i : Instr) : Option WaveFields :=
  match i.view with
  | some (.mem _ f) => some ⟨f.lsid.toNat, f.prv.toNat, f.nxt.toNat, f.last, f.g, f.ord.toNat, f.scope.toNat⟩
  | some (.eng _ f) => some ⟨f.lsid.toNat, f.prv.toNat, f.nxt.toNat, f.last, false, 0, 0⟩
  | some (.sysM _ f) => some ⟨f.lsid.toNat, f.prv.toNat, f.nxt.toNat, f.last, false, 0, 0⟩
  | _ => none

def Instr.waveD (i : Instr) : WaveFields := i.wave.getD ⟨0, 31, 31, false, false, 0, 0⟩

end Sys2Proof

namespace Sys2Proof.Machine

/-- The memory nodes of a block with their LSIDs. -/
def Block.memNodes (b : Block) : List (Nat × Nat) :=
  b.nodes.zipIdx.filterMap fun (w, n) => match decode w with
    | .ok i => i.wave.map fun x => (n, x.lsid)
    | .error _ => none

/-- The loops that a node lies in, one for each level below its own (R180): the BOUND node of each. -/
def Block.path (b : Block) (nodeNo : Nat) : List Nat := b.loops.getD nodeNo []
def Block.base (b : Block) (nodeNo : Nat) : Nat := b.bases.getD nodeNo 0

/-- Position of a loop, named by its path, for the activations that begin at `base` (R180). -/
def Block.position (b : Block) (base : Nat) (path : List Nat) : Nat :=
  (b.memNodes.filter fun (n, _) => b.base n == base && (b.path n).take path.length == path).foldl
    (fun m (_, l) => min m l) 99

/-- LSIDs of the memory nodes that lie directly in an iteration of the loop named by a path. -/
def Block.lsidsIn (b : Block) (base : Nat) (path : List Nat) : List Nat :=
  (b.memNodes.filter fun (n, _) => b.base n == base && b.path n == path).map (·.2)

/-- The loops directly inside an iteration of the loop named by a path, with their positions. -/
def Block.inner (b : Block) (base : Nat) (path : List Nat) : List (Nat × Nat) :=
  ((b.memNodes.filterMap fun (n, _) =>
    if b.base n == base && path.length < (b.path n).length && (b.path n).take path.length == path then
      (b.path n)[path.length]?
    else none).dedup).map fun c => (c, b.position base (path ++ [c]))

/-- The activation tag of a firing (R231, R232): its tag cut to the depth at which its activation begins. -/
def State.actTag (s : State) (f : Firing) : W64 :=
  match s.blockOf f with
  | some b => cutTag f.tag (b.base f.node)
  | none => instTag (tagDomain f.tag)

/-- Sequence number of the instance of a firing (R242). -/
def State.seqOf (s : State) (f : Firing) : Nat :=
  match s.inst? f.ctx f.rgn f.frm (tagDomain f.tag) with | some i => i.seq | none => 0

/-- Place of a firing in program order, but for its LSID (R180): the instance's number, then for each loop its position and
the iteration ordinal, taken when the firing issues. -/
def State.orderPrefix (s : State) (f : Firing) : List Nat :=
  s.seqOf f :: match s.blockOf f with
    | none => []
    | some b =>
      let path := b.path f.node
      let base := b.base f.node
      (List.range (path.length - base)).flatMap fun j =>
        let k := base + j
        let bound := path.getD k 0
        let field := tagField f.tag k
        let ordinal := match s.windowOf f.ctx f.rgn f.frm b bound (cutTag f.tag k) with
          | some w => (w.adv + w.pos field) % 4294967296
          | none => field
        [b.position base (path.take (k + 1)), ordinal]

/-- Program order on places (R180): ordinals, at the even places from 2 on, compare as serial numbers. -/
def placeBefore : Nat → List Nat → List Nat → Bool
  | k, x :: xs, y :: ys =>
    if x = y then placeBefore (k + 1) xs ys
    else if k != 0 && k % 2 == 0 then serialBefore x y else decide (x < y)
  | _, _, _ => false

/-- X is before Y in program order: both belong to one activation (R180). -/
def MemOp.before (x y : MemOp) : Bool :=
  x.f.ctx == y.f.ctx && x.act == y.act && placeBefore 0 x.order y.order

/-! ### The chain (R181) -/

/-- Whether LSID `l` of the iteration at a place has resolved with everything before it, or lies beyond a LAST. -/
def Inst.has (n : Inst) (act : W64) (place : List Nat) (l : Nat) : Bool :=
  n.chain.any fun (a, o, last) => a == act && (o == place ++ [l] || (last && o.dropLast == place && (o.getLast?).getD 99 < l))

def Inst.hasLast (n : Inst) (act : W64) (place : List Nat) : Bool :=
  n.chain.any fun (a, o, last) => a == act && last && o.dropLast == place

/-- No firing of an activation whose place begins so waits to be ordered. -/
def State.noneOpen (s : State) (ctx : Nat) (act : W64) (place : List Nat) : Bool :=
  s.mem.ops.all fun (_, o) => o.resolved || o.f.ctx != ctx || o.act != act || o.order.take place.length != place

/-- A loop instance is over: its window has been freed and none of its firings waits; or it lies beyond a LAST. -/
def State.loopOver (s : State) (f : Firing) (n : Inst) (act : W64) (place : List Nat) (loop pos : Nat) : Bool :=
  ((n.wins.any fun (bound, outer, q) => bound == loop && q == place && cutTag outer (tagDepth act) == act) &&
    s.noneOpen f.ctx act (place ++ [pos])) ||
  n.chain.any fun (a, o, last) => a == act && last && o.dropLast == place && (o.getLast?).getD 99 < pos

/-- The chain of an iteration or instance has ended (R181). -/
def State.chainEnded (s : State) (f : Firing) (b : Block) (n : Inst) (act : W64) (path place : List Nat) : Bool :=
  n.hasLast act place ||
  ((b.lsidsIn (tagDepth act) path).all (fun l => n.has act place l) &&
    (b.inner (tagDepth act) path).all fun (c, p) => s.loopOver f n act place c p)

/-- Whether the BOUND of an iteration of a loop instance has fired, so that no token of it is left (R123). -/
def State.boundDone (s : State) (f : Firing) (b : Block) (n : Inst) (outer : W64) (loop : Nat) (outerPlace : List Nat)
    (ordinal : Nat) : Bool :=
  match s.windowOf f.ctx f.rgn f.frm b loop outer with
  | some w =>
    serialBefore ordinal w.adv || w.done.getLsbD ((w.head + (ordinal + 4294967296 - w.adv) % 4294967296) % 64)
  | none => n.wins.any fun (bound, o, q) => bound == loop && o == outer && q == outerPlace

/-- The iterations before an iteration of a loop: whether their chains have ended, or none when the search goes on to the
enclosing iteration. -/
def State.iterationsBefore (s : State) (f : Firing) (b : Block) (n : Inst) (act : W64) (path outerPlace : List Nat) (pos : Nat)
    (outer : W64) : Nat → Nat → Option Bool
  | 0, _ => some true
  | fuel + 1, u =>
    if u = 0 then none
    else
      let place := outerPlace ++ [pos, u - 1]
      if s.chainEnded f b n act path place then some true
      else if s.boundDone f b n outer (path.getLast?.getD 0) outerPlace (u - 1) && s.noneOpen f.ctx act place then
        if n.chain.any fun (a, o, _) => a == act && o.take place.length == place then some true
        else State.iterationsBefore s f b n act path outerPlace pos outer fuel (u - 1)
      else some false

/-- The earlier instances of the activation: their chains have ended (R181). -/
def State.instancesBefore (s : State) (f : Firing) (act : W64) (n : Inst) : Bool :=
  tagDepth act != 0 ||
  match s.region? f.ctx f.rgn with
  | none => true
  | some r => r.frames.zipIdx.all fun (fr, frm) => fr.insts.all fun m =>
      m.dom != n.dom || !(m.seq < n.seq) ||
      match fr.block with
      | none => true
      | some b => s.chainEnded { f with frm := frm } b m act [] [m.seq]

/-- Everything before position `pos` of the iteration `j` loops deep has resolved (R181, PRV = any). -/
def State.allBefore (s : State) (f : Firing) (b : Block) (n : Inst) (act : W64) (path place : List Nat) : Nat → Nat → Bool
  | j, pos =>
    let base := tagDepth act
    let here := path.take (base + j)
    let at_ := place.take (1 + 2 * j)
    (b.lsidsIn base here).all (fun l => pos ≤ l || n.has act at_ l) &&
    (b.inner base here).all (fun (c, p) => pos ≤ p || s.loopOver f n act at_ c p) &&
    match j with
    | 0 => s.instancesBefore f act n
    | j' + 1 =>
      let mine := place.getD (1 + 2 * j') 0
      match s.iterationsBefore f b n act here (place.take (1 + 2 * j')) mine (cutTag f.tag (base + j')) 65
          (place.getD (2 + 2 * j') 0) with
      | some x => x
      | none => State.allBefore s f b n act path place j' mine

/-- Whether the store buffer may order a firing (R181). A firing of no known block or instance waits for nothing. -/
def State.chainReady (s : State) (o : MemOp) : Bool :=
  match s.blockOf o.f, s.inst? o.f.ctx o.f.rgn o.f.frm o.dom with
  | some b, some n =>
    let w := o.i.waveD
    let path := b.path o.f.node
    let base := b.base o.f.node
    let place := o.order.dropLast
    let mine := b.lsidsIn base path
    let u := (place.getLast?).getD 0
    if w.prv != 31 && mine.contains w.prv && w.prv < o.lsid then n.has o.act place w.prv
    else if w.prv != 31 && mine.contains w.prv && 1 < place.length && u != 0 then
      n.has o.act (place.dropLast ++ [u - 1]) w.prv
    else s.allBefore o.f b n o.act path place (path.length - base) o.lsid
  | _, _ => true

/-- Whether a non-null LAST firing of a lower LSID has come before in the same iteration (R181): a firing in a loop inside
that iteration counts by its loop's position there (R180). -/
def State.pastLast (s : State) (o : MemOp) : Bool :=
  match s.inst? o.f.ctx o.f.rgn o.f.frm o.dom with
  | some n => n.chain.any fun (a, p, last) =>
      a == o.act && last && p.dropLast == o.order.take (p.length - 1) && (p.getLast?).getD 99 < o.order.getD (p.length - 1) 0
  | none => false

/-- A firing is ordered: it counts in its instance's chain (R181, R239 item 4). -/
def orderOp (id : Nat) (o : MemOp) : Cmd := .all [
  modOp id fun o => { o with resolved := true },
  modInst o.f.ctx o.f.rgn o.f.frm o.dom fun n =>
    { n with chain := n.chain ++ [(o.act, o.order, !o.null && o.i.waveD.last)] },
  tryCommit o.f.ctx o.f.rgn o.f.frm o.dom]

/-! ### Logical time (R261, R262, R266) -/

/-- Whether a timestamp lies 2^14 to 2^15 behind HZN (R266). -/
def staleBehind (hzn t : Stamp) : Bool := decide (16384 ≤ (hzn - t).toNat) && decide ((hzn - t).toNat < 32768)

def State.horizon (s : State) (die : Nat) : Horizon := s.mem.horizons.getD die ⟨0, []⟩
def State.hzn (s : State) (die : Nat) : Stamp := (s.horizon die).hzn

/-- HZN as it was 4096 cycles earlier (R266). -/
def State.hznBefore (s : State) (die : Nat) : Stamp :=
  match ((s.horizon die).past.filter fun (c, _) => c + 4096 ≤ s.now).getLast? with | some (_, v) => v | none => 0

/-- HZN takes a value. -/
def setHzn (die : Nat) (v : Stamp) : Cmd := .get fun s =>
  let h := s.horizon die
  let keep := h.past.filter fun (c, _) => s.now < c + 4096
  let base := ((h.past.filter fun (c, _) => c + 4096 ≤ s.now).getLast?).toList
  .prim (.mem fun m => { m with horizons := m.horizons.set die ⟨v, base ++ keep ++ [(s.now, v)]⟩ })

/-- A die issues or receives a timestamp (R266). -/
def bumpHzn (die : Nat) (t : Stamp) : Cmd := .get fun s =>
  let v := Stamp.max (s.hzn die) t
  .when (v != s.hzn die) (setHzn die v)

/-- The pts floor (R266). -/
def floorPts (hzn p : Stamp) : Stamp := if staleBehind hzn p then hzn - 16384 else p

/-- The pts of an activation, kept at its region (R255, R262, R266). -/
def State.pts (s : State) (ctx rgn die : Nat) (act : W64) : Stamp :=
  match s.ctx? ctx with
  | some c => match c.pts.find? fun (r, a, _) => r == rgn && a == act with
    | some (_, _, p) => floorPts (s.hzn die) p
    | none => s.hzn die
  | none => s.hzn die

def State.opPts (s : State) (o : MemOp) : Stamp := s.pts o.f.ctx o.f.rgn (dieOf o.f.sid) o.act

/-- An activation's pts takes a value; its die has received it (R262, R266). -/
def setPts (ctx rgn die : Nat) (act : W64) (p : Stamp) : Cmd := .seq
  (modCtx ctx fun c => { c with pts := (c.pts.filter fun (r, a, _) => !(r == rgn && a == act)) ++ [(rgn, act, p)] })
  (bumpHzn die p)

/-- Raise an activation's pts (R262 to R264). -/
def raisePts (o : MemOp) (t : Stamp) : Cmd := .get fun s =>
  setPts o.f.ctx o.f.rgn (dieOf o.f.sid) o.act (Stamp.max (s.opPts o) t)

/-- An activation begins: its pts starts at its die's HZN (R262). -/
def beginPts (ctx rgn die : Nat) (act : W64) : Cmd := .get fun s => setPts ctx rgn die act (s.hzn die)

/-- Activations of a region end: their timestamps go (R262), and their hitches wait for no XFW (R192). -/
def endActs (ctx rgn : Nat) (gone : W64 → Bool) : Cmd := .seq
  (modCtx ctx fun c => { c with
    pts := c.pts.filter fun (_, a, _) => !gone a
    lost := c.lost.filter fun (r, a, _) => !(r == rgn && gone a) })
  (modRegion ctx rgn fun r => { r with hitches := r.hitches.map fun h => { h with ended := h.ended || gone h.act } })

/-- Whether an activation has a G = 0 store before a place that was lost (R192, R282). -/
def State.lostBefore (s : State) (o : MemOp) : Bool := match s.ctx? o.f.ctx with
  | some c => c.lost.any fun (r, a, p) => r == o.f.rgn && a == o.act && placeBefore 0 p o.order
  | none => false

end Sys2Proof.Machine
end

