-- ==== Sys2Proof/Machine/Lines.lean ====
section
/-! DEFINITION. Physical places and the homes of lines (R259, R388, R397), home lines and the sets that hold them (R260, R261,
R264, R265), and the issue cap (R266). -/

namespace Sys2Proof.Machine

/-! ### Physical places -/

/-- The window of a physical address (R388): 0 DRAM, 1 reserved, 2 host, 3 MMIO. -/
def paWindow (pa : Nat) : Nat := natBits pa 51 50

/-- The home die of an ordinary line (R259); a host line has the die of its port (R397), a register die 0 (R437). While the
port that PA[7] names is not ready, the other serves (R397, R408). -/
def State.homeDie (s : State) (pa : Nat) : Nat :=
  match paWindow pa with
  | 2 =>
    let up := fun p => s.svc.ready.getLsbD (54 + p)
    let want := natBits pa 7 7
    2 * (if up want || !up (1 - want) then want else 1 - want)
  | 3 => 0
  | _ => natBits pa 8 7 ^^^ natBits pa 20 19 ^^^ natBits pa 32 31

/-- Whether the L2 of a die is ready (R407, R408). -/
def State.l2Ready (s : State) (die : Nat) : Bool := s.svc.ready.getLsbD (8 + die)
/-- The home slice (R259). -/
def homeSlice (pa : Nat) : Nat := natBits pa 14 9 ^^^ natBits pa 26 21 ^^^ natBits pa 38 33
/-- The home stack, of the home die's two (R259), counted over the package. -/
def State.homeStack (s : State) (pa : Nat) : Nat := 2 * s.homeDie pa + (natBits pa 15 15 ^^^ natBits pa 27 27)
/-- The set of a slice (R259). -/
def homeSet (pa : Nat) : Nat := natBits pa 24 15

/-- Bytes at a physical address: DRAM or host memory (R388). -/
def State.physRead (s : State) (pa n : Nat) : List Byte :=
  if paWindow pa = 2 then s.bytes.host.read (pa % 2 ^ 50) n else s.bytes.dram.read pa n

/-- Store bytes at a physical address. -/
def physWrite (pa : Nat) (bs : List Byte) : Cmd :=
  if paWindow pa = 2 then .prim (.host (pa % 2 ^ 50) bs) else .prim (.dram pa bs)

/-- The 64-byte units that bytes lie in. -/
def unitsOf (pa n : Nat) : List Nat := (List.range ((pa + n + 63) / 64 - pa / 64)).map (pa / 64 + ·)

/-- Whether some byte lies in a poisoned unit (R412), or in a lost one (R416). -/
def State.poisonedAt (s : State) (pa n : Nat) : Bool :=
  paWindow pa == 0 && (unitsOf pa n).any fun u => s.mem.poisoned.getD u false
def State.lostAt (s : State) (pa n : Nat) : Bool := paWindow pa == 0 && (unitsOf pa n).any fun u => s.mem.lost.getD u false

/-- A write that covers a whole unit cleans it (R412, R416). -/
def cleanUnits (pa n : Nat) : Cmd :=
  let whole := (unitsOf pa n).filter fun u => pa ≤ 64 * u && 64 * u + 64 ≤ pa + n
  .when (paWindow pa == 0 && !whole.isEmpty) (.prim (.mem fun m => { m with
    poisoned := m.poisoned.filter fun (u, _) => !whole.contains u, lost := m.lost.filter fun (u, _) => !whole.contains u }))

/-! ### Home lines -/

def sliceKey (die slice : Nat) : Nat := 64 * die + slice
def l1Key (sid line : Nat) : Nat := sid * 2 ^ 46 + line
def l2Key (die line : Nat) : Nat := die * 2 ^ 46 + line

def State.stamps (s : State) (die slice : Nat) : SliceStamps := s.mem.slices.getD (sliceKey die slice) ⟨0, 0⟩

def modStamps (die slice : Nat) (f : SliceStamps → SliceStamps) : Cmd :=
  .prim (.mem fun m => { m with
    slices := m.slices.set (sliceKey die slice) (f (m.slices.getD (sliceKey die slice) ⟨0, 0⟩)) })

/-- The plaintext of a home line: a line held in HBM under another key than the one it was filled with decrypts to other
bytes (R396, log 7). -/
def State.homeBytes (s : State) (line : Nat) : List Byte :=
  let raw := s.bytes.dram.read (128 * line) 128
  match s.mem.homes.get? line, s.mem.hbmKeys.get? line with
  | some h, some k =>
    if h.key = k then raw else raw.zipIdx.map fun (b, i) => Config.wrongKeyByte h.key k (128 * line + i) b
  | _, _ => raw

/-- A line in a set (R260): a copy or a home line, its number, its last use, and whether it must stay: a locked home line
(R281) and a copy with pending bytes (R271) do. -/
structure Held where
  copy : Bool
  line : Nat
  used : Nat
  stays : Bool
deriving DecidableEq, Repr

/-- Whether some byte of a copy is pending (R271). -/
def Copy.pending (c : Copy) : Bool := c.pend.any fun p => !p.isEmpty

/-- The lines that a VD holds in the set of a line in a die's slice (R260). -/
def State.setHolds (s : State) (die line vd : Nat) : List Held :=
  let here := fun (l : Nat) => homeSlice (128 * l) == homeSlice (128 * line) && homeSet (128 * l) == homeSet (128 * line)
  (s.mem.homes.filterMap fun (l, h) =>
    if h.die == die && h.vd == vd && here l then some ⟨false, l, h.used, h.lock.isSome⟩ else none) ++
  (s.mem.l2.filterMap fun (key, c) =>
    let l := key % 2 ^ 46
    if key / 2 ^ 46 == die && c.vd == vd && here l then some ⟨true, l, c.used, c.pending⟩ else none)

/-- Ways a VD may allocate in (R375, R376). -/
def State.waysOf (s : State) (vd : Nat) : Nat :=
  let v := s.vd vd
  let m := v.l2mask &&& v.l2new
  ((List.range 16).filter fun i => m.getLsbD i).length

/-- When a set holds more lines of a VD than its ways, the least recently used that may leave does (R260, R265). -/
def trimSet (die line vd : Nat) : Cmd := .get fun s =>
  let held := s.setHolds die line vd
  let free := held.filter fun x => !x.stays && x.line != line
  let low := free.foldl (fun m x => min m x.used) s.now
  .when (s.waysOf vd < held.length) (match free.find? fun x => x.used == low with
    | some x => after 0 (.homeEvict die x.line x.copy)
    | none => .skip)

/-- Whether a line that a die's slice does not hold finds no way: every line of the VD in the set must stay (R260). -/
def State.noWay (s : State) (die line vd : Nat) : Bool :=
  let here := (match s.mem.homes.get? line with | some h => h.die == die | none => false) || (s.mem.l2.get? (l2Key die line)).isSome
  !here && max 1 (s.waysOf vd) ≤ ((s.setHolds die line vd).filter (·.stays)).length

/-- The home holds a line: a use of it, or a fill from HBM with wts = rts = MTS (R265). -/
def fillHome (die line vd key : Nat) : Cmd := .get fun s =>
  match s.mem.homes.get? line with
  | some _ => .seq (.prim (.mem fun m => { m with homes := m.homes.mod line fun h => { h with used := s.now } })) (count die vd 6 1)
  | none =>
    let mts := (s.stamps die (homeSlice (128 * line))).mts
    .all [
      .prim (.mem fun m => { m with homes := m.homes.set line (HomeLine.fresh die mts key vd s.now) }),
      count die vd 7 1,
      count die vd (0x18 + s.homeStack (128 * line)) 128,
      trimSet die line vd]

/-- Bytes written at home under a line's key: the whole line is then held under it (R396). -/
def homeWrite (pa : Nat) (bs : List Byte) : Cmd := .get fun s =>
  let line := pa / 128
  let key := match s.mem.homes.get? line with | some h => h.key | none => s.mem.hbmKeys.getD line 0
  .all [
    .when (s.homeBytes line != s.bytes.dram.read (128 * line) 128) (.prim (.dram (128 * line) (s.homeBytes line))),
    .prim (.dram pa bs),
    .prim (.mem fun m => { m with hbmKeys := m.hbmKeys.set line key }),
    cleanUnits pa bs.length]

/-- A home line takes a new wts = rts (R264). -/
def stampHome (die line : Nat) (w : Stamp) : Cmd := .seq
  (.prim (.mem fun m => { m with homes := m.homes.mod line fun h => { h with wts := w, rts := w } })) (bumpHzn die w)

/-- The issue cap (R266). -/
def State.beyondCap (s : State) (die : Nat) (t : Stamp) : Bool := !Stamp.notAfter t (s.hznBefore die + 4096)

/-- Whether a line is locked (R281). -/
def State.lockedLine (s : State) (line : Nat) : Bool :=
  match s.mem.homes.get? line with | some h => h.lock.isSome | none => false

/-- Whether an access waits at a home: the line is locked (R281), or there is no way for it (R260). -/
def State.homeBusy (s : State) (home line vd : Nat) : Bool := s.lockedLine line || s.noWay home line vd

/-- rts and wts of a line at home: those it holds, else the slice's MTS (R265). -/
def State.homeRts (s : State) (home line : Nat) : Stamp :=
  match s.mem.homes.get? line with | some h => h.rts | none => (s.stamps home (homeSlice (128 * line))).mts
def State.homeWts (s : State) (home line : Nat) : Stamp :=
  match s.mem.homes.get? line with | some h => h.wts | none => (s.stamps home (homeSlice (128 * line))).mts

/-- Home locks a line for a store from another die, and keeps what it was (R281). -/
def lockHome (op line : Nat) : Cmd := .get fun s => .prim (.mem fun m => { m with
  homes := m.homes.mod line fun h => { h with lock := some ⟨op, s.homeBytes line, h.wts, h.rts⟩ } })

end Sys2Proof.Machine
end

