-- ==== Sys2Proof/Machine/Translate.lean ====
section
/-! DEFINITION. Page tables and walks (R388 to R394), TLBs (R393), the held port (R199), and permission checks (R391,
R198). -/

namespace Sys2Proof.Machine

/-! ### Page-table entries (R390) -/

def pteV (p : W64) : Bool := p.getLsbD 0
def pteLeaf (p : W64) : Bool := p.getLsbD 1
def pteR (p : W64) : Bool := p.getLsbD 2
def pteW (p : W64) : Bool := p.getLsbD 3
def pteX (p : W64) : Bool := p.getLsbD 4
def pteD (p : W64) : Bool := p.getLsbD 5
def pteRep (p : W64) : Bool := p.getLsbD 6
def pteCC (p : W64) : Nat := natBits p.toNat 9 8
def pteBase (p : W64) : Nat := natBits p.toNat 51 16 * 65536
def pteKey (p : W64) : Nat := natBits p.toNat 59 52

/-- Whether an entry at a level keeps R390: reserved bits zero, LEAF where it may be, nothing but V, LEAF and PPN in a
non-leaf entry, and the PPN of a large leaf aligned. -/
def pteLegal (level : Nat) (p : W64) : Bool :=
  let x := p.toNat
  let reserved := natBits x 7 7 == 0 && natBits x 15 10 == 0 && natBits x 63 60 == 0
  if pteLeaf p then reserved && level ≤ 1 && (level != 1 || natBits x 27 16 == 0)
  else reserved && level != 0 && natBits x 6 2 == 0 && natBits x 9 8 == 0 && natBits x 59 52 == 0

/-- How a walk ends: in fault XLATE or PAGE_LOST with DETAIL, or with a translation (R391, R416). -/
inductive WalkEnd where
  | fails (cause detail : Nat)
  | leaf (e : TlbEntry) (at_ : Nat)
deriving DecidableEq, Repr

/-- A walk: its end, and the entries it read above the leaf, as (address, entry). -/
structure Walk where
  finish : WalkEnd
  read : List WalkEntry
deriving DecidableEq, Repr

/-- The translation of a leaf at a level (R391, R394), on a die. -/
def State.leafEnd (s : State) (die vd level addr : Nat) (va : W64) (p : W64) : WalkEnd :=
  let size := if level = 1 then 2 ^ 28 else 65536
  let page := va.toNat / size * size
  let base := pteBase p
  let win := paWindow base
  if win = 1 then .fails causeXlate 13
  else if win = 0 && Config.dramSize < base + (if pteRep p then 64 else size) then .fails causeXlate 13
  else if (win = 0 && 2 ≤ pteCC p) || (win = 2 && pteCC p != 2) || (win = 3 && pteCC p != 3) then .fails causeXlate 12
  else if win = 3 && natBits base 49 26 != 0 then .fails causeXlate 13
  else if pteRep p then
    let record := (List.range 4).map fun d => leNat (s.physRead (base + 8 * d) 8)
    let valid := fun (e : Nat) => e % 2 == 1
    let primDie := (record.findIdx? valid).getD 0
    let first := record.find? valid
    let outside := record.any fun e => valid e && paWindow (natBits e 51 16 * 65536) != 0
    match first with
    | none => .fails causeXlate 12
    | some e0 =>
      if outside then .fails causeXlate 12
      else
        let mine := record.getD die 0
        let near := if valid mine then mine else e0
        .leaf ⟨vd, page, size, p, natBits near 51 16 * 65536, natBits e0 51 16 * 65536, if valid mine then die else primDie, primDie,
          s.now⟩ addr
  else .leaf ⟨vd, page, size, p, base, base, 0, 0, s.now⟩ addr

/-- Walk from a level down (R389, R391). -/
def State.walkFrom (s : State) (die vd : Nat) (va : W64) : Nat → Nat → Walk
  | level, table =>
    let index := natBits va.toNat (16 + 12 * level + 11) (16 + 12 * level)
    let addr := table + 8 * index
    if s.lostAt addr 8 then ⟨.fails causePageLost level, []⟩
    else if s.poisonedAt addr 8 then ⟨.fails causeXlate 14, []⟩
    else
      let p := BitVec.ofNat 64 (leNat (s.physRead addr 8))
      if !pteV p then ⟨.fails causeXlate level, []⟩
      else if !pteLegal level p then ⟨.fails causeXlate (8 + level), []⟩
      else if pteLeaf p then ⟨s.leafEnd die vd level addr va p, []⟩
      else match level with
        | 0 => ⟨.fails causeXlate 8, []⟩
        | l + 1 =>
          let w := State.walkFrom s die vd va l (pteBase p)
          { w with read := ⟨vd, addr, p⟩ :: w.read }

/-- Whether an entry that a walk reads lies in a locked line (R281). -/
def State.walkLocked (s : State) (w : Walk) : Bool :=
  (w.read.any fun e => s.lockedLine (e.addr / 128)) || match w.finish with | .leaf _ a => s.lockedLine (a / 128) | .fails _ _ => false

/-- The walker stores an entry with its CAS at home (R392): the line takes a new version (R264). -/
def writePte (vd addr : Nat) (p : W64) : Cmd := .get fun s =>
  let line := addr / 128
  let home := s.homeDie addr
  if paWindow addr = 2 then physWrite addr (leBytes p.toNat 8)
  else .all [
    fillHome home line vd (s.mem.hbmKeys.getD line 0),
    .get fun t => stampHome home line (t.homeRts home line + 1),
    homeWrite addr (leBytes p.toNat 8)]

/-- A walk of a VD's table (R389). -/
def State.walk (s : State) (die vd : Nat) (va : W64) : Walk := s.walkFrom die vd va 3 (s.vd vd).ptroot.toNat

/-- Cycles of an L1 miss whose line is held at a home (R188). -/
def missCycles (die home : Nat) : Nat := if die = home then 32 else 72

/-- Cycles of a home read from a die (R188): an L1 miss, and 160 more when the home must fill from HBM. -/
def State.readCycles (s : State) (die pa : Nat) : Nat :=
  missCycles die (s.homeDie pa) + if paWindow pa = 0 && (s.mem.homes.get? (pa / 128)).isNone then 160 else 0

/-- Cycles of a walk (R188, R393). -/
def State.walkCycles (s : State) (die vd : Nat) (va : W64) : Nat :=
  let w := s.walk die vd va
  let cache := s.mem.walkCache.getD die []
  (w.read.map fun e => if cache.any fun c => c.vd == vd && c.addr == e.addr then 20 else s.readCycles die e.addr).foldl (· + ·) 0
    + (match w.finish with | .leaf _ a => s.readCycles die a | .fails _ _ => 32)

/-- The walkers of a die keep the non-leaf entries of a walk, at most 1024, the oldest leaving first (R393). -/
def cacheWalk (die : Nat) (es : List WalkEntry) : Cmd := .prim (.mem fun m =>
  let old := (m.walkCache.getD die []).filter fun c => es.all fun e => !(e.vd == c.vd && e.addr == c.addr)
  let all := old ++ es
  { m with walkCache := m.walkCache.set die (all.drop (all.length - 1024)) })

/-! ### TLBs -/

/-- The least recently used of a list of entries leaves when there are more than 64 (R393). -/
def trimTlb (es : List TlbEntry) : List TlbEntry :=
  if es.length ≤ 64 then es
  else
    let low := es.foldl (fun m e => min m e.used) (es.headD ⟨0, 0, 0, 0, 0, 0, 0, 0, 0⟩).used
    match es.findIdx? fun e => e.used == low with | some k => es.eraseIdx k | none => es

/-- Install a translation in an M-element's TLB. -/
def installTlb (sid : Nat) (e : TlbEntry) : Cmd :=
  modElem sid fun x => { x with tlb := trimTlb ((x.tlb.filter fun o => !(o.vd == e.vd && o.page == e.page && o.size == e.size)) ++ [e]) }

/-- A use of a translation. -/
def touchTlb (sid vd : Nat) (va : W64) : Cmd := .get fun s =>
  modElem sid fun x => { x with tlb := x.tlb.map fun e => if e.covers vd va then { e with used := s.now } else e }

/-! ### Translating an operation -/

/-- The physical address of a virtual one under an entry (R394). -/
def TlbEntry.phys (e : TlbEntry) (va : W64) : Nat := e.near + (va.toNat - e.page)
def TlbEntry.physPrimary (e : TlbEntry) (va : W64) : Nat := e.primary + (va.toNat - e.page)

/-- The copies of a replica page that hold an address: die and physical address (R394). -/
def State.replicas (s : State) (e : TlbEntry) (va : W64) : List (Nat × Nat) :=
  if !pteRep e.pte then []
  else (List.range 4).filterMap fun d =>
    let x := leNat (s.physRead (pteBase e.pte + 8 * d) 8)
    if x % 2 = 1 then some (d, natBits x 51 16 * 65536 + (va.toNat - e.page)) else none

/-- A lane with its translation, the home dies of the line under it (R259, R283), and its replicas as the walker found
them (R284, R394). -/
def State.laneUnder (s : State) (l : Lane) (e : TlbEntry) : Lane :=
  let pa := e.phys l.va
  let rep := pteRep e.pte
  { l with
    pa := pa, prim := e.physPrimary l.va, cc := pteCC e.pte, key := pteKey e.pte, rep := rep, ok := true,
    reps := s.replicas e l.va, big := e.size != 65536,
    home := if rep then e.nearDie else s.homeDie pa, primHome := if rep then e.primDie else s.homeDie pa }

def addOp (id : Nat) (o : MemOp) : Cmd := .prim (.mem fun m => { m with ops := m.ops.set id o })
def State.op? (s : State) (id : Nat) : Option MemOp := s.mem.ops.get? id

def MemOp.isPref (o : MemOp) : Bool := match o.i with | .pref _ => true | _ => false
def MemOp.isRmw (o : MemOp) : Bool := o.isLoad && o.isStore

/-- A result that reaches a site after a snapshot's cut, of a firing from before it, is channel state (R380, R381). -/
def Save.reply (x : Save) (rgn sid which : Nat) (t : Token) : Save :=
  { x with regions := x.regions.map fun r => if r.rgn = rgn then
      { r with elements := r.elements.mod sid fun e => { e with outs := e.outs ++ [⟨which, t, 0, 0⟩] } } else r }

/-- The results of a memory operation or request go to D0 and D1 (R74), and into the snapshots that wait for them. -/
def emitReply (o : MemOp) (lat : Nat) (v0 v1 : Val) : Cmd :=
  let f := o.f
  let h := o.i.hdr
  let record := fun (x : Save) (which : Nat) (d : Dest) (v : Val) =>
    if d.val then x.reply f.rgn f.sid which (f.token which d f.tag v) else x
  .seq (emit2 f h lat f.tag v0 v1) (.get fun s => Cmd.each (s.ten.snaps.filter fun (_, n) => n.ctx == f.ctx && n.waits.contains f.fid)
    fun (k, _) => .prim (.ten fun t => { t with snaps := t.snaps.mod k fun n => { n with
      body := n.body.map fun x => record (record x 0 h.d0 v0) 1 h.d1 v1 } }))

/-- Null goes out on a firing's destinations, shaped as its results (R198). -/
def nullResult (o : MemOp) : Cmd := emitReply o 1 (.null o.i.sig.r0) (.null o.i.sig.r1)

/-- An operation resolves as a null firing (R181, R198). -/
def nullOp (id : Nat) : Cmd := .seq
  (modOp id fun o => { o with null := true, isLoad := false, isStore := false, phase := .resolving, lanes := [] })
  (after 0 (.storeResolve id))

/-- A fault at a memory node (R198): its own record, with ADDR; null on its destinations; a null firing. -/
def faultOp (id : Nat) (o : MemOp) (cause detail : Nat) (addr : W64) : Cmd := .get fun s =>
  .all [writeFault o.f.sid { s.recordAt o.f cause with addr := addr, detail := detail }, nullResult o, nullOp id]

/-- Where an area of a launch lies; every one begins on a 64 KiB boundary (R246, log 5). -/
def areaVA (launch kind : Nat) : Nat := (Config.placeVA launch kind).toNat / 65536 * 65536

/-- Bytes of the queue slots of every replica that an image allows (R312). -/
def Image.slotBytes (m : Image) : Nat := m.queues.zipIdx.foldl (fun n (q, k) => n + q.slot * q.depth *
  (match m.actors.find? fun a => a.inMask.getLsbD k with | some a => (m.regions.getD a.region ⟨0, 1, 1, 0xFF⟩).maxr | none => 1)) 0

/-- Whether bytes lie in the pages of a Siding, a fault ring or queue slots of a VD, which no node may touch (R246, R312, R327). -/
def State.inHidden (s : State) (vd va n : Nat) : Bool := s.ten.ctxs.any fun (_, c) => c.vd == vd &&
  [(c.siding.base.toNat, 257 * c.siding.size), (c.ringVA.toNat, 4096), (c.slotsVA.toNat, c.image.slotBytes)].any fun (a, k) =>
    decide (va < a + (k + 65535) / 65536 * 65536) && decide (a < va + n)

/-- The permission that a lane lacks (R391, R198). A PREF needs read permission (R195). -/
def State.laneForbidden (s : State) (o : MemOp) (l : Lane) : Bool :=
  let vd := s.vdOfCtx o.f.ctx
  match s.tlbFind o.f.sid vd l.va with
  | none => false
  | some e =>
    let p := e.pte
    let owner := s.svc.keyown.getD (pteKey p) 0
    (o.isLoad && !pteR p) || (o.isStore && !pteW p) || (!pteR p && !pteW p) || (pteCC p == 3 && vd != 0) ||
    (pteCC p == 3 && (match o.i with | .atom _ | .cas _ | .stmc _ => true | _ => false)) || owner != 64 + vd ||
    s.inHidden vd l.va.toNat l.size

/-- All lanes are translated: the permission checks, then D (R392), then the operation has resolved (R181). A PREF that may
not read ends silently (R195). -/
def checkedOp (id : Nat) : Cmd := .get fun s =>
  match s.op? id with
  | none => .skip
  | some o =>
    let vd := s.vdOfCtx o.f.ctx
    match o.lanes.find? fun l => s.laneForbidden o l with
    | some l => if o.isPref then nullOp id else faultOp id o causeProt 0 l.va
    | none =>
      let clean := o.isStore && o.lanes.any fun l => match s.tlbFind o.f.sid vd l.va with | some e => !pteD e.pte | none => true
      if clean then after 32 (.dirtyBitSet id)
      else .seq (modOp id fun o => { o with phase := .resolving }) (after 0 (.storeResolve id))

/-- The walkers of a die (R393): one that is free takes the oldest miss of the VD that is next in turn after the one served last,
among the 256 misses in the queue. -/
def startWalk (die : Nat) : Cmd := .get fun s =>
  let mine := s.mem.misses.filter fun m => m.die == die
  let queue := (mine.filter fun m => !m.walking).take 256
  let turn := s.mem.walkTurn.getD die 63
  let next := ((List.range 64).map fun k => (turn + 1 + k) % 64).findSome? fun vd => queue.find? fun m => m.vd == vd
  Cmd.opt next fun m => .when ((mine.filter (·.walking)).length < 32) (.seq
    (.prim (.mem fun x => { x with
      misses := x.misses.map fun y => if y = m then { y with walking := true } else y
      walkTurn := x.walkTurn.set die m.vd }))
    (Cmd.opt m.ops.head? fun op => after (s.walkCycles die m.vd (BitVec.ofNat 64 (65536 * m.page))) (.tlbMissWalk op)))

/-- A miss of an operation joins the walk for the same page and VD on its die, or asks the walkers for one (R393). -/
def askWalk (id die vd page : Nat) : Cmd := .get fun s =>
  let same := fun (m : Miss) => m.die == die && m.vd == vd && m.page == page
  if s.mem.misses.any same then .prim (.mem fun x => { x with
      misses := x.misses.map fun m => if same m then { m with ops := m.ops ++ [id] } else m })
  else .seq (.prim (.mem fun x => { x with misses := x.misses ++ [⟨die, vd, page, [id], false⟩] })) (startWalk die)

/-- Translate the lanes of an operation from the TLB; a miss walks (R393). -/
def translateOp (id : Nat) : Cmd := .get fun s =>
  match s.op? id with
  | none => .skip
  | some o =>
    let vd := s.vdOfCtx o.f.ctx
    let lanes := o.lanes.map fun l => match s.tlbFind o.f.sid vd l.va with | some e => s.laneUnder l e | none => { l with ok := false }
    .all [
      Cmd.each (lanes.filter (·.ok)) fun l => touchTlb o.f.sid vd l.va,
      modOp id fun o => { o with lanes := lanes, phase := .translating },
      match lanes.find? fun l => !l.ok with
      | none => checkedOp id
      | some l => .seq (count (dieOf o.f.sid) vd 5 1) (askWalk id (dieOf o.f.sid) vd (l.va.toNat / 65536))]

/-- The mask of the lanes that make an access (R199). -/
def MemOp.pendingMask (o : MemOp) : W64 := o.lanes.foldl (fun m l => m ||| (1#64 <<< l.idx)) 0

/-- The record in a ring that a hold wrote. -/
def FaultRec.sameHold (r x : FaultRec) : Bool := x.cause == r.cause && x.onode == r.onode && x.ofrm == r.ofrm && x.tag == r.tag &&
  x.ox == r.ox && x.oy == r.oy && x.die == r.die

/-- TRANSLATION_HOLD (R199, R330): the request stays at the head of its port with an XLATE record; a hold that fails again
adds to the COUNT of its record, and once a handler has taken that record it writes another, whose COUNT tells the repeats
(log 74). A request that fails while another is held stands behind it in the port, and holds in its turn. -/
def holdOp (id : Nat) (o : MemOp) (cause detail : Nat) (va : W64) : Cmd := .get fun s =>
  let r : FaultRec := { s.recordAt o.f cause with
    detail := detail, addr := va, vala := baseEA o.f o.i, valb := o.pendingMask }
  let repeated := fun (x : FaultRec) => if r.sameHold x then { x with count := (x.count + 1) % 65536 } else x
  let told := match s.ctx? o.f.ctx with | some c => c.ring.any r.sameHold | none => false
  if (s.elem o.f.sid).portHold.isSome then modElem o.f.sid fun e => { e with portQueue := e.portQueue ++ [id] }
  else .all [
    foldCapture o.f.sid,
    if o.tries = 0 || !told then writeRecord { r with count := o.tries % 65536 }
    else modCtx o.f.ctx fun c => { c with ring := c.ring.map repeated },
    modOp id fun o => { o with phase := .held, tries := o.tries + 1 },
    modElem o.f.sid fun e => { e with portHold := some id }]

/-- The end of a walk for an operation that waits for it (R199, R393): the translation goes into its TLB, or the request is held
or faults. One whose lane lies in another page by now asks again. -/
def walked (w : Walk) (page id : Nat) : Cmd := .get fun s => Cmd.opt (s.op? id) fun o =>
  let vd := s.vdOfCtx o.f.ctx
  match o.lanes.find? fun l => (s.tlbFind o.f.sid vd l.va).isNone with
  | none => translateOp id
  | some l =>
    if l.va.toNat / 65536 ≠ page then translateOp id
    else match w.finish with
      | .leaf e _ => .seq (installTlb o.f.sid e) (translateOp id)
      | .fails cause detail =>
        if o.isPref then nullOp id
        else if cause = causeXlate then holdOp id o cause detail l.va
        else faultOp id o cause detail l.va

/-- The miss that a walk for an operation serves: the one that it heads, else its own. -/
def State.missOf (s : State) (id : Nat) : Option Miss :=
  (s.mem.misses.find? fun m => m.walking && m.ops.head? == some id).orElse fun _ => (s.op? id).bind fun o =>
    (o.lanes.find? fun l => (s.tlbFind o.f.sid (s.vdOfCtx o.f.ctx) l.va).isNone).map fun l =>
      ⟨dieOf o.f.sid, s.vdOfCtx o.f.ctx, l.va.toNat / 65536, [id], true⟩

/-- TLB_MISS_WALK (R393): a walker walks for a page that a TLB does not translate, and every operation that waits for the page
goes on. -/
def execTlbMissWalk (op : Nat) (s : State) : Host.Outcome State Fault Refusal :=
  Cmd.next (match s.missOf op with
    | none => Cmd.opt (s.op? op) fun _ => translateOp op
    | some m =>
      let w := s.walk m.die m.vd (BitVec.ofNat 64 (65536 * m.page))
      if s.walkLocked w then after 1 (.tlbMissWalk op)
      else .all [
        cacheWalk m.die w.read,
        .prim (.mem fun x => { x with misses := x.misses.filter fun y => !(y = m) }),
        Cmd.each m.ops (walked w m.page),
        startWalk m.die]) s

/-- DIRTY_BIT_SET (R392): the walker sets D with a CAS at home; a leaf that has changed is walked again. -/
def execDirtyBitSet (op : Nat) (s : State) : Host.Outcome State Fault Refusal :=
  Cmd.next (match s.op? op with
    | none => .skip
    | some o =>
      let vd := s.vdOfCtx o.f.ctx
      let die := dieOf o.f.sid
      match o.lanes.find? fun l => match s.tlbFind o.f.sid vd l.va with | some e => !pteD e.pte | none => true with
      | none => checkedOp op
      | some l => match s.tlbFind o.f.sid vd l.va, (s.walk die vd l.va).finish with
        | some e, .leaf now at_ =>
          if s.lockedLine (at_ / 128) then after 1 (.dirtyBitSet op)
          else if now.pte ||| 32 = e.pte ||| 32 then
            let p := now.pte ||| 32
            .all [
              writePte vd at_ p,
              installTlb o.f.sid { now with pte := p },
              checkedOp op]
          else .seq (installTlb o.f.sid now) (translateOp op)
        | _, _ =>
          .seq (modElem o.f.sid fun x => { x with tlb := x.tlb.filter fun e => !e.covers vd l.va })
            (translateOp op)) s

/-- A range of addresses cut at line boundaries: start and length of each piece. -/
def pieces (va n : Nat) : List (Nat × Nat) :=
  if n = 0 then []
  else (List.range ((va + n - 1) / 128 + 1 - va / 128)).map fun k =>
    let l := va / 128 + k
    let lo := max va (128 * l)
    (lo, min (va + n) (128 * l + 128) - lo)

/-- Engines and the loader translate without a TLB of the fabric (R202, R300, R391): the physical address, or the cause
and DETAIL of the failure. The hidden areas are the Siding engine's and the device's own, which ask for no permission (R246).
A write sets D (R392). -/
def State.engineTranslate (s : State) (die vd : Nat) (va : W64) (rd wr ex : Bool) : Except (Nat × Nat) TlbEntry :=
  match (s.walk die vd va).finish with
  | .fails cause detail => .error (cause, detail)
  | .leaf e _ =>
    let p := e.pte
    if (rd && !pteR p) || (wr && !pteW p) || (ex && !pteX p) || (pteCC p == 3 && vd != 0) ||
        ((rd || wr || ex) && s.inHidden vd va.toNat 1) || s.svc.keyown.getD (pteKey p) 0 != 64 + vd then .error (causeProt, 0)
    else .ok e

/-- The queue and launch descriptors that lie in a line (R299, R344): VD, queue, and whether it is a launch queue. -/
def State.descriptorsIn (s : State) (line : Nat) : List (Nat × Nat × Bool) :=
  s.ten.vds.flatMap fun (n, v) => [(v.wqbase, false), (v.lqbase, true)].flatMap fun (b, launch) =>
    if b = 0 || v.state = 0 then []
    else
      let entry := fun (a : W64) => (s.engineTranslate 0 n a true false false).toOption
      let e0 := entry b
      let e1 := entry (b + 4032)
      (List.range 64).filterMap fun q =>
        let a := b + BitVec.ofNat 64 (64 * q)
        let e := match e0 with | some e => if e.covers n a then some e else e1 | none => e1
        match e with
        | some e => if e.phys a / 128 = line then some (n, q, launch) else none
        | none => none

/-- D of a leaf, set by an engine's or the host's write (R392). -/
def setDirty (die vd : Nat) (va : W64) : Cmd := .get fun s =>
  match (s.walk die vd va).finish with
  | .leaf e at_ => .when (!pteD e.pte) (writePte vd at_ (e.pte ||| 32))
  | .fails _ _ => .skip

end Sys2Proof.Machine
end

