-- ==== Sys2Proof/Machine/Coherence.lean ====
section
/-! DEFINITION. Lines, homes and copies (R259 to R274), lost acknowledgements (R281, R282), replicas (R283, R284), and the
periodic clock events (R266). -/

namespace Sys2Proof.Machine

/-! ### Notifications and credits -/

/-- Waiters on a line are told of a write (R194, R300). -/
def notifyLine (line : Nat) : Cmd := .get fun s =>
  let armed := s.mem.ops.any fun (_, o) => (match o.i with | .mwait _ => true | _ => false) && o.phase == .sent &&
    o.lanes.any fun l => l.pa / 128 == line
  .when (armed || !s.eng.services.isEmpty || !(s.descriptorsIn line).isEmpty) (after 0 (.homeNotify line))

/-- The dirty bit of a frame is set while its VD tracks writes (R229). -/
def dirtyFrame (fr : Nat) : Cmd := Cmd.opt (Config.frameOwner fr) fun (n, k) => .get fun s =>
  .when ((s.vd n).tracking && k < Config.frameCount n) (modVd n fun v => { v with
    dirty := v.dirty.set (k / 64) (v.dirty.getD (k / 64) 0 ||| (1#64 <<< (k % 64))) })

/-- Dirty tracking of a write to DRAM (R229): a frame's bit, in the order of its VD's partition layout (log 27); through a
256 MiB page, all the bits of that page. -/
def markDirty (pa : Nat) (big : Bool) : Cmd := .get fun s =>
  let first := if big then pa / 2 ^ 28 * 4096 else pa / 65536
  .when (paWindow pa == 0 && s.ten.vds.any fun (_, v) => v.tracking)
    (Cmd.each (if big then (List.range 4096).map (first + ·) else [first]) dirtyFrame)

/-- One credit each at the arbiters a request passes (R371), or a wait for the next cycle. -/
def gate (vd : Nat) (arbs : List (Nat × Nat)) (retry : Instr) (k : Cmd) : Cmd := .get fun s =>
  match arbs.find? fun (a, _) => !s.hasCredit a vd with
  | some (a, _) => .seq (markWaited a vd) (after 1 retry)
  | none => .seq (Cmd.each arbs fun (a, n) => spend a vd n) k

/-- The arbiters of a request from a die to a line's home (R371), the way back among them: `back` credits of the coupler. -/
def State.arbiters (s : State) (die home pa back : Nat) : List (Nat × Nat) :=
  if paWindow pa != 0 then []
  else [(sliceArbiter home (homeSlice pa), 1)] ++
    (if die = home then [] else [(couplerArbiter die home, 1), (couplerArbiter home die, back)]) ++
    (if (s.mem.homes.get? (pa / 128)).isNone then [(hbmArbiter (s.homeStack pa), 2)] else [])

/-! ### Copies -/

/-- The provisional timestamp of an early store in a line (R271). -/
def MemOp.pwAt (o : MemOp) (line : Nat) : Stamp := match o.pws.find? fun (l, _) => l == line with | some (_, w) => w | none => o.pw

/-- The byte that an operation stores at an address: its highest lane there (R185). -/
def MemOp.storedAt (o : MemOp) (pa : Nat) : Option Byte :=
  (o.lanes.reverse.find? fun l => decide (l.pa ≤ pa) && decide (pa < l.pa + l.data.length)).map fun l => l.data.getD (pa - l.pa) 0

/-- Whether a store's pending bytes in a line show at a pts (R271). -/
def State.shows (s : State) (p : Stamp) (line id : Nat) : Bool :=
  match s.op? id with | some o => Stamp.notAfter (o.pwAt line) p | none => false

/-- What a copy shows at a byte for a pts (R271): the last store pending there from whose pw on it reads, else a valid byte.
A byte that is pending and not valid shows its first store at any pts: no earlier value is held, and a reader of the die
may not see a later one first (R274, log 111). -/
def State.copyByte (s : State) (c : Copy) (p : Stamp) (line k : Nat) : Option (Byte × Option Nat) :=
  let marks := c.pend.getD k []
  let byteOf := fun (id : Nat) => ((s.op? id).bind fun o => o.storedAt (128 * line + k)).map fun b => (b, some id)
  match (marks.filter (s.shows p line)).getLast? with
  | some id => byteOf id
  | none => if c.valid.getD k false then some (c.bytes.getD k 0, none) else marks.head?.bind byteOf

/-- Bytes of a copy with the pending stores they come from. -/
def State.copyBytes (s : State) (c : Copy) (p : Stamp) (line off n : Nat) : Option (List Byte × List Nat) :=
  let xs := (List.range n).map fun k => s.copyByte c p line (off + k)
  if xs.all (·.isSome) then some (xs.map fun x => (x.getD (0, none)).1, (xs.filterMap fun x => (x.getD (0, none)).2).dedup)
  else none

/-- The wts of the version that a copy shows. -/
def State.copyWts (s : State) (c : Copy) (line : Nat) (ids : List Nat) : Stamp :=
  ids.foldl (fun w id => match s.op? id with | some o => Stamp.max w (o.pwAt line) | none => w) c.wts

/-- LEASE of a context on a die (R267). -/
def State.leaseOf (s : State) (ctx die : Nat) : Nat := match s.ctx? ctx with | some c => c.lease.getD die 64 | none => 64

/-- Put a copy into an M-element's L1: 64 sets of 8 ways, the least recently used leaving (R260). -/
def putL1 (sid line : Nat) (c : Copy) : Cmd := .prim (.mem fun m =>
  let m1 := m.l1.set (l1Key sid line) c
  let mine := m1.filter fun (k, _) => k / 2 ^ 46 == sid && k % 64 == line % 64
  let low := mine.foldl (fun a (_, x) => min a x.used) c.used
  let victim := if mine.length ≤ 8 then none else (mine.find? fun (k, x) => x.used == low && k != l1Key sid line).map (·.1)
  { m with l1 := match victim with | some k => m1.del k | none => m1 })

/-- A store's bytes in the L1 of its M-element (R260): write-through with the store's timestamp; `ids` marks them pending. -/
def storeL1 (sid pa : Nat) (bs : List Byte) (w : Stamp) (ids : List Nat) : Cmd := .prim (.mem fun m =>
  { m with l1 := m.l1.mod (l1Key sid (pa / 128)) fun c =>
      let inside := fun (k : Nat) => decide (pa % 128 ≤ k) && decide (k < pa % 128 + bs.length)
      { c with
        wts := Stamp.max c.wts w
        bytes := c.bytes.zipIdx.map fun (b, k) => if inside k then bs.getD (k - pa % 128) 0 else b
        valid := c.valid.zipIdx.map fun (b, k) => b || inside k
        pend := c.pend.zipIdx.map fun (b, k) => if inside k then ids else b } })

/-- The L1 copy made from what a die's L2 shows (R260): its lease ends before pending bytes it does not show. -/
def State.l1From (s : State) (c : Copy) (p : Stamp) (line : Nat) : Copy :=
  let shown := (List.range 128).map fun k => s.copyByte c p line k
  let marks := (shown.filterMap fun x => (x.getD (0, none)).2).dedup
  let hidden := c.pend.flatten.dedup.filterMap fun i => match s.op? i with
    | some o => if marks.contains i || s.shows p line i then none else some (o.pwAt line) | none => none
  { c with
    bytes := shown.map fun x => (x.getD (0, none)).1
    valid := shown.map (·.isSome)
    pend := shown.map fun x => (x.getD (0, none)).2.toList
    wts := s.copyWts c line marks
    rts := hidden.foldl (fun r w => if Stamp.notAfter w r then w - 1 else r) c.rts
    used := s.now }

/-! ### Loads (R263, R267, R271, R272) -/

/-- What a load finds on its die: bytes with their latency, pending stores and the version's wts; or nothing; or a suspect
copy, whose loads wait (R282). -/
inductive Find where
  | hit (bs : List Byte) (lat : Nat) (ids : List Nat) (wts : Stamp) (fill : Option Copy) (grant : Option Stamp)
  | miss
  | wait
deriving DecidableEq, Repr

/-- Look for a lane on the path (R263): the L1, then the die's L2. -/
def State.findLane (s : State) (o : MemOp) (l : Lane) : Find :=
  let sid := o.f.sid
  let die := dieOf sid
  let line := l.pa / 128
  let p := s.opPts o
  if l.cc != 0 || o.isRmw then .miss
  else
    let c2 := if l.home = die then none else s.mem.l2.get? (l2Key die line)
    if (match c2 with | some c => c.suspect | none => false) then .wait
    else
      let underL2 : Bool := match c2 with | some c => Stamp.notAfter p c.rts | none => true
      let try2 : Find := match c2 with
        | some c => match s.copyBytes c p line (l.pa % 128) l.size with
          | some (bs, ids) =>
            if Stamp.notAfter p c.rts || c.pending then
              let r := if Stamp.notAfter p c.rts then c.rts
                else Stamp.max c.rts (p + BitVec.ofNat 16 (s.leaseOf o.f.ctx die))
              .hit bs 32 ids (s.copyWts c line ids) (some (s.l1From { c with rts := r } p line)) (some r)
            else .miss
          | none => .miss
        | none => .miss
      match s.mem.l1.get? (l1Key sid line) with
      | some c =>
        let k := l.pa % 128
        if Stamp.notAfter p c.rts && underL2 && (List.range l.size).all (fun j => c.valid.getD (k + j) false) then
          let ids := ((List.range l.size).flatMap fun j => c.pend.getD (k + j) []).dedup
          .hit ((List.range l.size).map fun j => c.bytes.getD (k + j) 0) 6 (ids.filter fun i => (s.op? i).isSome) c.wts none none
        else try2
      | none => try2

/-- Bind lanes of an operation: their bytes, the pending stores attached (R272), and the pts raised (R263). -/
def bindLanes (id : Nat) (o : MemOp) (pick : Lane → Option (List Byte)) (ids : List Nat) (w : Stamp) : Cmd := .seq
  (modOp id fun x => { x with
    lanes := x.lanes.map fun l => if l.bound then l else match pick l with | some bs => { l with data := bs, bound := true } | none => l
    attached := (x.attached ++ ids).dedup })
  (raisePts o w)

/-- Operations that are complete and attach no live store leave the table (R272). -/
def reapOps : Cmd := .prim (.mem fun m => { m with
  ops := m.ops.filter fun (_, o) => !(o.phase == .done && o.resolved && o.attached.all fun a =>
    match m.ops.get? a with | some x => x.phase == .done | none => true) })

/-- An operation performs at every scope and completes. -/
def finishOp (id : Nat) : Cmd := .get fun s =>
  match s.op? id with
  | none => .skip
  | some o => .all [
      modOp id fun o => { o with performed := 3, phase := .done },
      .when o.resolved (tryCommit o.f.ctx o.f.rgn o.f.frm o.dom),
      reapOps]

/-- The value that a load's lanes give (R184 to R186): a skipped lane of a gather is 0. -/
def MemOp.value (o : MemOp) : Val :=
  match o.lanes, o.i with
  | ls, .ldg f =>
    let n := f.ty.width / 8
    vecVal f.ty.width ((List.range (64 / n)).map fun j => match ls.find? fun l => l.idx == j with | some l => leNat l.data | none => 0)
  | l :: _, .ldv _ => .vector (BitVec.ofNat 512 (leNat l.data))
  | l :: _, .vld f => if f.v then .vector (BitVec.ofNat 512 (leNat l.data)) else .scalar (BitVec.ofNat 64 (leNat l.data))
  | l :: _, _ => .scalar (BitVec.ofNat 64 (leNat l.data))
  | [], _ => .scalar 0

/-- A load has bound every lane: its result goes out after some cycles. -/
def finishLoad (id lat : Nat) : Cmd := .get fun s =>
  match s.op? id with
  | none => .skip
  | some o => .seq (.when (!o.isPref) (emitReply o lat o.value o.value)) (finishOp id)

/-- Whether an access brings its line into the L1: all but PREF.l2 (R195). -/
def MemOp.fillsL1 (o : MemOp) : Bool := match o.i with | .pref f => f.sub == 0 | _ => true

/-- Half of the way to a home and back (R188). -/
def halfWay (die home : Nat) : Nat := missCycles die home / 2

/-- Serve the lanes of a load: those found on the die bind at once, the first that is not found goes to its home. -/
def loadStep (id lat : Nat) : Nat → Cmd
  | 0 => .skip
  | fuel + 1 => .get fun s =>
    match s.op? id with
    | none => .skip
    | some o => match o.lanes.find? fun l => !l.bound with
      | none => finishLoad id lat
      | some l =>
        let die := dieOf o.f.sid
        match s.findLane o l with
        | .wait => .seq (modOp id fun x => { x with phase := .ordered }) (after 1 (.storeResolve id))
        | .hit bs t ids w fill grant => .all [
            bindLanes id o (fun x => if x.idx == l.idx then some bs else none) ids w,
            Cmd.opt grant fun r => .prim (.mem fun m => { m with
              l2 := m.l2.mod (l2Key die (l.pa / 128)) fun c => { c with rts := r, used := s.now } }),
            Cmd.opt fill fun c => .seq (count die (s.vdOfCtx o.f.ctx) 6 1) (.when o.fillsL1 (putL1 o.f.sid (l.pa / 128) c)),
            loadStep id (max lat t) fuel]
        | .miss => .seq
            (modOp id fun x => { x with phase := .sent, pts := s.opPts o, aux := s.leaseOf o.f.ctx die })
            (after (halfWay die l.home) (.leaseRenewal id))

/-- LEASE_RENEWAL (R263): home extends rts and replies with the line; a home-only line and a host line are read without a
lease (R268, R390). -/
def execLeaseRenewal (op : Nat) (s : State) : Host.Outcome State Fault Refusal :=
  Cmd.next (match s.op? op with
    | none => .skip
    | some o => match o.lanes.find? fun l => !l.bound with
      | none => .skip
      | some l =>
        let die := dieOf o.f.sid
        let line := l.pa / 128
        let vd := s.vdOfCtx o.f.ctx
        if paWindow l.pa = 2 then
          .seq (modOp op fun x => { x with reply := s.physRead (128 * line) 128, ackW := x.pts, pw := x.pts })
            (after (halfWay die l.home) (.renewalReply op))
        else if s.homeBusy l.home line vd then after 1 (.leaseRenewal op)
        else
          let rts := s.homeRts l.home line
          let lease := l.cc == 0
          let new := if lease then Stamp.max rts (o.pts + BitVec.ofNat 16 o.aux) else rts
          let extra := if (s.mem.homes.get? line).isNone then 160 else 0
          if s.beyondCap l.home new then after 1 (.leaseRenewal op)
          else gate vd (s.arbiters die l.home l.pa 2) (.leaseRenewal op) (.all [
            fillHome l.home line vd l.key,
            .prim (.mem fun m => { m with homes := m.homes.mod line fun h => { h with rts := new } }),
            bumpHzn l.home new,
            .get fun t => modOp op fun x => { x with reply := t.homeBytes line, pw := new, ackW := t.homeWts l.home line },
            after (halfWay die l.home + extra) (.renewalReply op)])) s

/-- The unit of a lane that cannot be read: the fault it takes (R412, R416). -/
def State.laneError (s : State) (l : Lane) : Option Nat :=
  if l.cc == 3 then none
  else if s.lostAt l.pa l.size then some causePageLost
  else if s.poisonedAt l.pa l.size then some causeEcc
  else none

/-- Bytes of a line that can be read. -/
def State.readable (s : State) (line : Nat) : List Bool :=
  (List.range 128).map fun k =>
    !(s.mem.poisoned.getD (2 * line + k / 64) false) && !(s.mem.lost.getD (2 * line + k / 64) false)

/-- A copy after a renewal (R271): only bytes that are not pending take the reply. -/
def Copy.renewed (c fresh : Copy) : Copy :=
  let keep := fun (k : Nat) => !(c.pend.getD k []).isEmpty
  { fresh with
    bytes := fresh.bytes.zipIdx.map fun (b, k) => if keep k then c.bytes.getD k 0 else b
    valid := fresh.valid.zipIdx.map fun (b, k) => if keep k then c.valid.getD k false else b
    pend := c.pend, rts := Stamp.max c.rts fresh.rts, suspect := c.suspect }

/-- RENEWAL_REPLY (R263): the copies on the path take the reply and the lanes of the line bind. A lane in error fails the
node, with the address of the lowest lane that fails (R198). -/
def execRenewalReply (op : Nat) (s : State) : Host.Outcome State Fault Refusal :=
  Cmd.next (match s.op? op with
    | none => .skip
    | some o => match o.lanes.find? fun l => !l.bound with
      | none => .skip
      | some l =>
        let die := dieOf o.f.sid
        let line := l.pa / 128
        let vd := s.vdOfCtx o.f.ctx
        let failed := fun (x : Lane) => if x.bound then none else (s.laneError x).map fun c => (x, c)
        match if o.lanes.any fun x => x.pa / 128 == line && (failed x).isSome then
            o.lanes.findSome? fun x => if x.pa / 128 == line || s.findLane o x == .miss then failed x else none else none with
        | some (x, cause) => if o.isPref then nullOp op else faultOp op o cause 0 x.va
        | none =>
          let pick := fun (x : Lane) => if x.pa / 128 == line then some ((o.reply.drop (x.pa % 128)).take x.size) else none
          if l.cc != 0 then .all [bindLanes op o pick [] o.ackW, loadStep op 0 65]
          else
            let fresh : Copy := ⟨o.ackW, o.pw, o.reply, s.readable line, List.replicate 128 [], false, vd, s.now⟩
            if l.home = die then
              .all [.when o.fillsL1 (putL1 o.f.sid line fresh), bumpHzn die o.pw,
                bindLanes op o pick [] o.ackW, loadStep op 0 65]
            else
              let old := s.mem.l2.get? (l2Key die line)
              let newer : Bool := match old with | some c => !Stamp.notAfter c.wts o.ackW | none => false
              let merged : Copy := match old with | some c => c.renewed fresh | none => fresh
              if newer then loadStep op 0 65
              else .all [
                .prim (.mem fun m => { m with l2 := m.l2.set (l2Key die line) merged }),
                trimSet die line vd,
                bumpHzn die o.pw,
                .get fun t =>
                  let p := t.opPts o
                  let c := t.l1From merged p line
                  let ids := c.pend.flatten.dedup
                  .seq (.when o.fillsL1 (putL1 o.f.sid line c))
                    (bindLanes op o (fun x => if x.pa / 128 == line then some ((c.bytes.drop (x.pa % 128)).take x.size) else none)
                      ids (t.copyWts merged line ids)),
                loadStep op 0 65]) s

/-! ### Stores, ATOM and CAS (R264, R270, R271, R189, R190) -/

/-- A store that is not G = 1 and goes to another die's home (R271); replica lines are never forwarded early (R283). -/
def MemOp.early (o : MemOp) (l : Lane) : Bool :=
  o.isStore && !o.isVault && !o.g && !o.isRmw && l.cc != 3 && paWindow l.pa == 0 && !l.rep && l.home != dieOf o.f.sid

/-- Every lane of a store goes early. -/
def MemOp.allEarly (o : MemOp) : Bool := !o.lanes.isEmpty && o.lanes.all o.early

/-- The write goes to the primary's home and from there to every replica (R284). -/
def MemOp.multi (o : MemOp) : Bool := match o.i with | .stmc _ | .atom _ | .cas _ => o.lanes.any (·.rep) | _ => false

/-- PENDING_STORE_WRITE (R271 steps 1 and 2): the bytes of a lane go into the die's L2 copy as pending, at pw. -/
def pendingWrite (id : Nat) (o : MemOp) (l : Lane) : Cmd := .get fun s =>
  let die := dieOf o.f.sid
  let line := l.pa / 128
  let vd := s.vdOfCtx o.f.ctx
  let cts := (s.stamps die (homeSlice l.pa)).cts
  let c := match s.mem.l2.get? (l2Key die line) with
    | some c => c
    | none => ⟨cts, cts, List.replicate 128 0, List.replicate 128 false, List.replicate 128 [], false, vd, s.now⟩
  let pw := Stamp.max (s.opPts o) (c.rts + 1)
  let off := l.pa % 128
  .all [
    .prim (.mem fun m => { m with l2 := m.l2.set (l2Key die line) { c with
      used := s.now
      pend := c.pend.zipIdx.map fun (b, k) => if off ≤ k && k < off + l.data.length then (b.filter fun i => i != id) ++ [id] else b } }),
    modOp id fun x => { x with pws := (x.pws.filter fun (n, _) => n != line) ++ [(line, Stamp.max (x.pwAt line) pw)] },
    raisePts o pw,
    storeL1 o.f.sid l.pa l.data pw [id],
    trimSet die line vd]

/-- The new value of ATOM (R189): with its flags, or none when nothing is written. -/
def atomNew (f : MemNode) (old b : Nat) : Option Nat × Nat :=
  let w := f.ty.width
  let x := readInt f.ty old
  let y := readInt f.ty b
  match f.sub.toNat with
  | 0 => (some ((old + b) % 2 ^ w), 0)
  | 1 => (some (old &&& b), 0)
  | 2 => (some (old ||| b), 0)
  | 3 => (some (old ^^^ b), 0)
  | 4 => (if x ≤ y then none else some b, 0)
  | 5 => (if y ≤ x then none else some b, 0)
  | 6 => (some b, 0)
  | _ => let r := fpAdd (Fmt.ofTy f.ty) Fpcm.ieee .rne old b; (some r.bits, r.flags)

/-- What an ATOM or CAS does to the old value at its home: the value written, its flags, and CAS's success. -/
def MemOp.atHome (o : MemOp) (old : Nat) : Option Nat × Nat × Bool :=
  match o.i with
  | .atom f => let (n, fl) := atomNew f old ((orNull o.f.b).low f.ty.width); (n, fl, true)
  | .cas f =>
    let ok := old == (orNull o.f.b).low f.ty.width
    (if ok then some ((orNull o.f.c).low f.ty.width) else none, 0, ok)
  | _ => (none, 0, true)

/-- What a request does at home to the old bytes of a lane: the bytes it stores there, if any, its flags, and CAS's success. -/
def MemOp.effect (o : MemOp) (l : Lane) (old : List Byte) : Option (List Byte) × Nat × Bool :=
  if o.isRmw then let (n, fl, ok) := o.atHome (leNat old); (n.map fun v => leBytes v l.size, fl, ok) else (some l.data, 0, true)

/-- What an operation keeps of its request at home until the reply: the version's timestamp, the old value and success of an
ATOM or CAS, its flags, which return with the reply (R189), and the bytes stored. -/
def MemOp.replied (o : MemOp) (w : Stamp) (old : List Byte) (done : Lane → Bool) (eff : Lane → Option (List Byte) × Nat × Bool)
    (first : Lane) : MemOp :=
  let (_, fl, ok) := eff first
  { o with
    served := true
    ackW := w
    flags := o.flags ||| fl
    result := if o.isRmw then some (.scalar (BitVec.ofNat 64 (leNat old))) else none
    second := if o.isRmw then some (.bit ok) else none
    lanes := o.lanes.map fun y => if done y then { y with bound := true, data := (eff y).1.getD y.data } else y }

/-- An operation's next unwritten lanes: those of the line of its first. -/
def MemOp.group (o : MemOp) : List Lane :=
  match o.lanes.find? fun l => !l.bound with
  | none => []
  | some l => o.lanes.filter fun x => !x.bound && x.pa / 128 == l.pa / 128

/-- Pending stores of a die reach one home in the order in which they were written (R271). -/
def State.earlierPending (s : State) (id : Nat) (o : MemOp) (home : Nat) : Bool :=
  s.mem.ops.any fun (k, x) => x.allEarly && x.performed == 1 && !x.xack && dieOf x.f.sid == dieOf o.f.sid && k != id &&
    (x.since < o.since || (x.since == o.since && k < id)) && x.lanes.any fun l => !l.bound && l.home == home

/-- A request leaves for the home of the next unwritten line, with a sequence number of its own (R281) and the writer's
pts. -/
def sendStore (id : Nat) : Cmd := withSerial fun req => .get fun s => match s.op? id with
  | none => .skip
  | some o => match o.group with
    | [] => .skip
    | l :: _ =>
      let home := if o.multi then l.primHome else l.home
      .seq (modOp id fun x => { x with phase := .sent, pts := s.opPts o, line := l.pa / 128, req := req })
        (after (halfWay (dieOf o.f.sid) home) (if o.multi then .replicaStore id else .homeStore id))

/-- The last request that a home has applied from a source (R281). -/
def seqKey (home sid : Nat) : Nat := 8192 * home + sid

/-- Whether home has applied the request of an operation that is on its way (R281): its sequence record says so, or a later
request has followed it. -/
def State.applied (s : State) (o : MemOp) : Bool :=
  let mine := o.lanes.filter fun l => l.pa / 128 == o.line
  (mine.any fun l => s.mem.seqs.get? (seqKey (if o.multi then l.primHome else l.home) o.f.sid) == some o.req) || mine.all (·.bound)

/-- HOME_STORE (R264, R189, R190): a store, ATOM or CAS performs at its home line. At a home on its own die it performs there
and then at every scope (R270), and the writer's pts is raised with it (log 112). -/
def execHomeStore (op : Nat) (s : State) : Host.Outcome State Fault Refusal :=
  Cmd.next (match s.op? op with
    | none => .skip
    | some o => match o.group with
      | [] => .skip
      | l :: more =>
        let die := dieOf o.f.sid
        let home := l.home
        let line := l.pa / 128
        let vd := s.vdOfCtx o.f.ctx
        let host := paWindow l.pa == 2
        let early := o.early l
        let w := Stamp.max o.pts (s.homeRts home line + 1)
        let old := if host then s.physRead l.pa l.size else ((s.homeBytes line).drop (l.pa % 128)).take l.size
        let eff := fun (x : Lane) => o.effect x old
        let writes := (eff l).1.isSome
        let back := halfWay die home + (if o.isRmw then 4 else 0) +
          (if !host && (s.mem.homes.get? line).isNone then 160 else 0)
        if o.xack then .skip
        else if !host && s.homeBusy home line vd then after 1 (.homeStore op)
        else if early && s.earlierPending op o home then after 1 (.homeStore op)
        else if !host && writes && s.beyondCap home w then after 1 (.homeStore op)
        else if o.isRmw && (s.laneError l).isSome then faultOp op o ((s.laneError l).getD causeEcc) 0 l.va
        else gate vd (s.arbiters die home l.pa 1) (.homeStore op) (.all [
          .when (!host) (fillHome home line vd l.key),
          .when (!host && !early && home != die && writes) (lockHome op line),
          .when (!host && writes) (stampHome home line w),
          .get fun t => modOp op fun x =>
            x.replied (if host then x.pts else t.homeWts home line) old (fun y => !y.bound && y.pa / 128 == line) eff l,
          Cmd.each (l :: more) fun x => Cmd.opt (eff x).1 fun bs => .all [
            if host then physWrite x.pa bs else homeWrite x.pa bs,
            markDirty x.pa x.big,
            .when (home == die && !early) (storeL1 o.f.sid x.pa bs w [])],
          .when (home == die && !host && !o.isRmw) (.seq (raisePts o w) (.get fun t => modOp op fun x =>
            if x.lanes.all (·.bound) then { x with performed := 3, since := t.now } else x)),
          .prim (.mem fun m => { m with seqs := m.seqs.set (seqKey home o.f.sid) o.req }),
          .when writes (notifyLine line),
          after back (.homeAck op)])) s

/-- The pending marks of a store leave a line's copies on its die; `f` gives each byte that the store had there, and whether
it is valid. -/
def dropMarks (id : Nat) (o : MemOp) (line : Nat) (f : Copy → Nat → Byte × Bool) (stamp : Copy → Copy) : Cmd :=
  let die := dieOf o.f.sid
  let clear := fun (c : Copy) =>
    let mine := fun (k : Nat) => (c.pend.getD k []).contains id
    { c with
      bytes := c.bytes.zipIdx.map fun (b, k) => if mine k then (f c k).1 else b
      valid := c.valid.zipIdx.map fun (b, k) => if mine k then (f c k).2 else b
      pend := c.pend.map fun p => p.filter fun i => i != id }
  .prim (.mem fun m => { m with
    l2 := m.l2.mod (l2Key die line) fun c => clear (stamp c)
    l1 := m.l1.map fun (k, c) => (k, if k % 2 ^ 46 = line && dieOf (k / 2 ^ 46) = die then clear c else c) })

/-- The copy of a line after its home has acknowledged an early store (R271 step 4): it takes home's wts and rts. Where a
later version has come into the copy meanwhile, the store's bytes there are no longer known (log 111). -/
def ackCopy (id : Nat) (o : MemOp) (line : Nat) : Cmd :=
  let newer := fun (c : Copy) => !Stamp.notAfter c.wts o.ackW
  dropMarks id o line (fun c k => ((o.storedAt (128 * line + k)).getD 0, !newer c))
    (fun c => if newer c then c else { c with wts := o.ackW, rts := o.ackW })

/-- Free the hitch slots of a region whose stores are all acknowledged and whose XFW has completed or whose activation has
ended (R192). A slot with a lost store stays until its activation ends (log 113). -/
def freeHitches (ctx rgn : Nat) : Cmd := .get fun s =>
  modRegion ctx rgn fun r => { r with hitches := r.hitches.map fun h =>
    let acked := h.covers.all fun c => match s.op? c with | some o => o.phase == .done | none => true
    if h.used && acked && (h.ended || (h.waited && !h.lost)) then { h with used := false, covers := [] } else h }

/-- HOME_ACK (R264, R271): the acknowledgement of the line just written reaches the writer, and the next line goes out. -/
def execHomeAck (op : Nat) (s : State) : Host.Outcome State Fault Refusal :=
  Cmd.next (match s.op? op with
    | none => .skip
    | some o =>
      let die := dieOf o.f.sid
      let written := o.lanes.filter fun l => l.bound && l.pa / 128 == o.line
      if o.xack then .skip
      else .all [
        .when (written.any o.early) (ackCopy op o o.line),
        raisePts o o.ackW,
        Cmd.each (written.filter fun l => !o.early l && !o.isRmw && (l.home != die || o.multi)) fun l =>
          storeL1 o.f.sid l.pa l.data o.ackW [],
        .when (s.mem.homes.any fun (_, x) => match x.lock with | some k => k.op == op | none => false)
          (after 36 (.ackConfirm op)),
        if !o.group.isEmpty then sendStore op
        else .all [
          orFlags o.f.ctx o.flags,
          .when o.isRmw (emitReply o 0 (o.result.getD (.scalar 0))
            (match o.i with | .cas _ => o.second.getD (.bit false) | _ => o.result.getD (.scalar 0))),
          finishOp op,
          freeHitches o.f.ctx o.f.rgn]]) s

/-- ACK_CONFIRM (R281): home unlocks the lines that the operation locked. -/
def execAckConfirm (op : Nat) (s : State) : Host.Outcome State Fault Refusal :=
  Cmd.next (.prim (.mem fun m => { m with homes := m.homes.map fun (k, h) =>
    (k, match h.lock with | some x => if x.op = op then { h with lock := none } else h | none => h) })) s

/-- COUPLER_REPEAT (R281): a repeated request that home has applied gets the recorded acknowledgement; else it is applied. -/
def execCouplerRepeat (op : Nat) (s : State) : Host.Outcome State Fault Refusal :=
  Cmd.next (match s.op? op with
    | none => .skip
    | some o => if o.phase == .done || o.xack then .skip
      else if s.applied o then after 0 (.homeAck op)
      else after 0 (if o.multi then .replicaStore op else .homeStore op)) s

/-! ### Lost acknowledgements (R282) -/

/-- The lane of the request that is on its way. -/
def MemOp.lineLane (o : MemOp) : Option Lane := (o.lanes.find? fun l => l.pa / 128 == o.line).orElse fun _ => o.lanes.head?

/-- The value that a store stores, in bits [63:0] (R282 VALA), of the line whose request is lost; the operand of an ATOM or
CAS that home has not applied (log 113). -/
def MemOp.storedWord (o : MemOp) : W64 :=
  match (o.lineLane.map (·.data)).getD [] with
  | [] => match o.i with | .cas _ => (orNull o.f.c).word | .atom _ => (orNull o.f.b).word | _ => 0
  | bs => BitVec.ofNat 64 (leNat (bs.take 8))

/-- An XACK record of a store (R282). -/
def xackRecord (s : State) (o : MemOp) (vala valb : W64) (detail : Nat) : FaultRec :=
  { s.recordAt o.f causeXack with
    addr := match o.lanes with | l :: _ => l.va | [] => 0
    vala := vala, valb := valb, detail := detail }

/-- A lost G = 0 store makes the XFW of every hitch that covers it emit 0, and of every hitch that a later XFI makes (R192,
R193, R282). -/
def loseStore (op : Nat) (o : MemOp) : Cmd := .when (o.isStore && !o.isVault && !o.g && !o.isRmw) (.seq
  (modRegion o.f.ctx o.f.rgn fun r => { r with hitches := r.hitches.map fun h => if h.covers.contains op then { h with lost := true } else h })
  (modCtx o.f.ctx fun c => { c with lost := c.lost ++ [(o.f.rgn, o.act, o.order)] }))

/-- A lost operation ends. -/
def endLost (op : Nat) (o : MemOp) : Cmd := .all [
  modOp op fun x => { x with xack := true, lanes := x.lanes.map fun l => { l with bound := true } },
  loseStore op o, finishOp op, freeHitches o.f.ctx o.f.rgn]

/-- Home gives the lines that an operation has locked their previous bytes, wts and rts (R281). -/
def unwriteLocked (op : Nat) : Cmd := .get fun s => Cmd.each s.mem.homes fun (line, h) => match h.lock with
  | some x => .when (x.op == op) (.seq (.prim (.dram (128 * line) x.bytes))
      (.prim (.mem fun m => { m with homes := m.homes.mod line fun h => { h with wts := x.wts, rts := x.rts, lock := none } })))
  | none => .skip

/-- ACK_TIMEOUT (R281, R282): 64 microseconds pass without confirmation, and the store ends in XACK. What is still under way
for it is lost with it. -/
def execAckTimeout (op : Nat) (lost : Loss) (s : State) : Host.Outcome State Fault Refusal :=
  Cmd.next (match s.op? op with
    | none => .skip
    | some o =>
      let die := dieOf o.f.sid
      let lines := ((o.lanes.filter o.early).map fun l => l.pa / 128).dedup
      let near := match o.lineLane with
        | some l => paWindow l.pa == 0 && (if o.multi then l.primHome else l.home) == die | none => true
      if o.phase != .sent || near || !o.isStore || o.isVault then .skip
      else if lines.isEmpty then
        .all [unwriteLocked op, writeFault o.f.sid (xackRecord s o o.storedWord 0 0), .when o.isRmw (nullResult o), endLost op o]
      else if lost = .unreachable then .all [
        .prim (.mem fun m => { m with
          l2 := lines.foldl (fun t line => t.del (l2Key die line)) m.l2
          l1 := m.l1.filter fun (_, c) => !(c.pend.any (·.contains op))
          unreachable := (m.unreachable ++ ((o.lanes.filter o.early).map fun l => (o.f.ctx, l.home))).dedup }),
        writeFault o.f.sid (xackRecord s o o.storedWord 0 2), endLost op o]
      else if o.tries = 0 then .all [
        .prim (.mem fun m => { m with
          l2 := lines.foldl (fun t line => t.mod (l2Key die line) fun c => { c with suspect := c.suspect || c.pend.any (·.contains op) }) m.l2 }),
        modOp op fun x => { x with tries := 1, xack := true },
        after 72 (.ackTimeout op lost)]
      else
        let home := match o.lineLane with
          | some l => BitVec.ofNat 64 (leNat ((((s.homeBytes o.line).drop (l.pa % 128)).take l.size).take 8))
          | none => 0
        .all [
          Cmd.each lines fun line => dropMarks op o line (fun _ k => ((s.homeBytes line).getD k 0, true))
            (fun c => { c with suspect := false }),
          writeFault o.f.sid (xackRecord s o o.storedWord home (if s.applied o then 1 else 0)), endLost op o]) s

end Sys2Proof.Machine
end

