-- ==== Sys2Proof/Machine/Siding.lean ====
section
/-! DEFINITION. The Siding's table (R247 to R249), its bytes at SIDBASE (R246, R247), and the Siding engine's accesses. -/

namespace Sys2Proof.Machine

def noSlot : Nat := 0xFFFFFFFF

/-- KEY of a Siding entry (R247). -/
def sidingKey (rgn rx ry frm node : Nat) : W64 :=
  BitVec.ofNat 64 (rgn % 65536 + rx % 16 * 2 ^ 16 + ry % 16 * 2 ^ 20 + frm % 4 * 2 ^ 24 + node % 128 * 2 ^ 26)

/-- The home bucket of a key (R248). -/
def homeBucket (size : Nat) (tag key : W64) : Nat :=
  ((tag ^^^ (key * 0x9E3779B97F4A7C15)).toNat / 2 ^ 40) % (size / 8)

def SidEntry.key (n : SidEntry) : W64 := sidingKey n.rgn n.rx n.ry n.m.frm n.m.node
def Siding.home (d : Siding) (n : SidEntry) : Nat := homeBucket d.size n.m.tag n.key

/-- The lowest free slot of a bucket. -/
def Siding.slotIn (d : Siding) (bucket : Nat) : Option Nat := d.entries.firstFree (8 * bucket) 8

/-- The first bucket from `home` on with a free slot: the slot and its distance (R248). -/
def Siding.place (d : Siding) (home : Nat) (dist : Nat) : Nat → Option (Nat × Nat)
  | 0 => none
  | fuel + 1 => match d.slotIn ((home + dist) % (d.size / 8)) with
    | some k => some (k, dist)
    | none => Siding.place d home (dist + 1) fuel

/-- Insert an entry (R248): span, home count and use mask of the headers follow. -/
def Siding.insert (d : Siding) (n : SidEntry) : Option (Nat × Siding) :=
  let home := d.home n
  match d.place home 0 (d.size / 8) with
  | none => none
  | some (k, dist) =>
    let b := d.buckets.getD home Bucket.empty
    let bs := d.buckets.set home { b with span := max b.span dist, homecnt := b.homecnt + 1 }
    let u := bs.getD (k / 8) Bucket.empty
    some (k, { d with
      entries := d.entries.set k n, use := d.use + 1,
      buckets := bs.set (k / 8) { u with usemask := u.usemask ||| (1#8 <<< (k % 8)) } })

/-- Remove an entry and mend its set's chain (R247, R248). The full counter restarts at zero (R252). -/
def Siding.remove (d : Siding) (k : Nat) : Siding :=
  match d.entries.get? k with
  | none => d
  | some n =>
    let home := d.home n
    let b := d.buckets.getD home Bucket.empty
    let cnt := b.homecnt - 1
    let bs := d.buckets.set home { b with homecnt := cnt, span := if cnt = 0 then 0 else b.span }
    let u := bs.getD (k / 8) Bucket.empty
    let es := (d.entries.del k)
    let es := es.mod n.prev fun p => { p with next := n.next }
    let es := es.mod n.next fun p => { p with prev := n.prev }
    { d with
      entries := es, use := d.use - 1, waiting := 0, fullSince := none,
      buckets := bs.set (k / 8) { u with usemask := u.usemask &&& ~~~(1#8 <<< (k % 8)) } }

/-! ### Its bytes -/

def Val.isVector : Val → Bool | .vector _ | .null true => true | _ => false
def Val.isPoison : Val → Bool | .poison _ => true | _ => false

/-- STATE of an entry (R247). The operands of a poisoned entry are gone: each port seen counts as present and poisoned (log 82). -/
def SidEntry.stateWord (n : SidEntry) : Nat :=
  let bit := fun (b : Bool) (k : Nat) => if b then 2 ^ k else 0
  let data := [(Port.a, n.m.a), (Port.b, n.m.b), (Port.c, n.m.c)].zipIdx
  let seen := fun (q : Port) => n.m.poisoned && n.m.seen.contains q
  let flags := data.map fun ((q, h), k) =>
    let is := fun (p : Val → Bool) => match h with | some x => p x.val | none => false
    bit (h.isSome || seen q) k + bit (is Val.isVector) (5 + k) + bit (is Val.isNull) (8 + k) + bit (is Val.isPoison || seen q) (11 + k)
  let pred := match n.m.p with | some x => x.val.word.getLsbD 0 | none => false
  flags.sum + bit (n.m.p.isSome || seen .p) 3 + bit pred 4 + bit n.m.parked 14 + 2 ^ 15 + bit n.refill 16

/-- The 256 bytes of an entry (R247). -/
def SidEntry.bytes (n : SidEntry) : List Byte :=
  let val := fun (h : Option PortHold) => leBytes (match h with | some x => x.val.wide.toNat | none => 0) 64
  leBytes n.m.tag.toNat 8 ++ leBytes n.key.toNat 8 ++ leBytes n.stateWord 8 ++ leBytes n.prev 4 ++ leBytes n.next 4 ++
    leBytes (n.die % 4 + n.cluster % 512 * 4 + n.set % 64 * 2048) 8 ++ List.replicate 24 0 ++ val n.m.a ++ val n.m.b ++ val n.m.c

/-- The 8 bytes of a bucket header (R247). -/
def Bucket.bytes (b : Bucket) : List Byte :=
  leBytes (b.span % 2 ^ 24 + b.homecnt % 2 ^ 24 * 2 ^ 24 + b.usemask.toNat * 2 ^ 48) 8

/-- Write bytes of a hidden area at home (R246): the pages need no node permission, and no copy is kept. -/
def areaWrite (die vd va : Nat) (bs : List Byte) : Cmd := Cmd.each (pieces va bs.length) fun (a, l) => .get fun s =>
  match s.engineTranslate die vd (BitVec.ofNat 64 a) false false false with
  | .error _ => .skip
  | .ok e =>
    let pa := e.phys (BitVec.ofNat 64 a)
    let data := (bs.drop (a - va)).take l
    let home := if pteRep e.pte then e.nearDie else s.homeDie pa
    .all [
      setDirty die vd (BitVec.ofNat 64 a),
      if paWindow pa = 2 then physWrite pa data
      else .seq (fillHome home (pa / 128) vd (pteKey e.pte)) (.get fun t =>
        let w := match t.mem.homes.get? (pa / 128) with | some h => h.rts + 1 | none => 0
        .seq (stampHome home (pa / 128) w) (homeWrite pa data)),
      markDirty pa (e.size != 65536)]

/-- The keys under which two tables differ. -/
def Tbl.changed {α : Type} [DecidableEq α] (old new : Tbl α) : List Nat :=
  (old.map (·.1) ++ new.map (·.1)).dedup.filter fun k => old.get? k != new.get? k

/-- Change a context's Siding, and with it the bytes of the entries and headers that change (R246, R249). Of a freed entry only
STATE is written, as zero (log 82). -/
def modSiding (ctx die : Nat) (g : Siding → Siding) : Cmd := .get fun s => Cmd.opt (s.ctx? ctx) fun c =>
  let d := g c.siding
  let base := d.base.toNat
  .all [
    modCtx ctx fun c => { c with siding := d },
    Cmd.each (Tbl.changed c.siding.entries d.entries) fun k => match d.entries.get? k with
      | some n => areaWrite die c.vd (base + 256 * k) n.bytes
      | none => areaWrite die c.vd (base + 256 * k + 16) (leBytes 0 8),
    Cmd.each (Tbl.changed c.siding.buckets d.buckets) fun k =>
      areaWrite die c.vd (base + 256 * d.size + 8 * k) (d.buckets.getD k Bucket.empty).bytes]

/-- Cycles of one access of a die's Siding engine to an entry (R249): the home read of R188; its translations are held (log 82). -/
def State.sidingCycles (s : State) (ctx die k : Nat) : Nat := match s.ctx? ctx with
  | none => 32
  | some c => match s.engineTranslate die c.vd (c.siding.base + BitVec.ofNat 64 (256 * k)) false false false with
    | .ok e => s.readCycles die (e.phys (c.siding.base + BitVec.ofNat 64 (256 * k)))
    | .error _ => 32

/-- The cycles of the access to the first entry of a key's home bucket. -/
def State.bucketCycles (s : State) (ctx die : Nat) (tag key : W64) : Nat := match s.ctx? ctx with
  | some c => s.sidingCycles ctx die (8 * homeBucket c.siding.size tag key)
  | none => 32

end Sys2Proof.Machine
end

