-- ==== Sys2Proof/Machine/Matching.lean ====
section
/-! DEFINITION. The matching store (R26, R27, R29), spills (R249), and parked firings (R251). -/

namespace Sys2Proof.Machine

/-! ### Keys and sets -/

/-- The set of a key (R27). -/
def setIndex (e frm node : Nat) (tag : W64) : Nat :=
  let h := (tagFields tag).foldl (fun a x => a ^^^ x) 0
  (h ^^^ (node % 64) ^^^ (32 * (node / 64 % 2)) ^^^ (8 * frm) ^^^ (16 * e)) % 64

/-- The set of a key at a site, over the package. -/
def setKeyAt (sid frm node : Nat) (tag : W64) : Nat := 64 * clusterOf sid + setIndex (elemIndex sid) frm node tag

/-- The site of an element index in the cluster of a set. -/
def siteOfSet (key e : Nat) : Nat :=
  let cl := key / 64
  sidAt (cl / 384) (2 * (cl % 32) + e % 2) (2 * (cl % 384 / 32) + e / 2)

def MatchEntry.isKey (m : MatchEntry) (e frm node : Nat) (tag : W64) : Bool :=
  m.e == e && m.frm == frm && m.node == node && m.tag == tag

/-- The way that holds a key. -/
def MatchSet.find (t : MatchSet) (e frm node : Nat) (tag : W64) : Option (Nat × MatchEntry) :=
  t.ways.zipIdx.findSome? fun (w, k) => match w with
    | .held m => if m.isKey e frm node tag then some (k, m) else none
    | _ => none

/-- Used ways: held and reserved ones (R245, R251). -/
def MatchSet.used (t : MatchSet) : Nat := (t.ways.filter fun w => w != .free).length

/-- The lowest-numbered free way, under a quota (R27, R245). -/
def MatchSet.freeWay (t : MatchSet) (quota : Nat) : Option Nat :=
  if quota ≤ t.used then none else t.ways.findIdx? fun w => w == .free

/-- The quota of a context (R245). -/
def State.quota (s : State) (ctx : Nat) : Nat := match s.ctx? ctx with | some c => c.ways | none => 4

def setWay (key k : Nat) (w : Way) : Cmd := modSet key fun t => { t with ways := t.ways.set k w }

/-! ### Operand store -/

/-- Words that an operand takes on a port (R26): a predicate takes none on port p, and one on a data port. -/
def Val.words (p : Port) : Val → Nat
  | .vector _ => 8
  | .scalar _ | .poison _ => 1
  | .bit _ => if p = .p then 0 else 1
  | .null _ => 0

/-- The words that an entry holds: first word and length. -/
def MatchEntry.words (m : MatchEntry) : List (Nat × Nat) :=
  [(Port.a, m.a), (.b, m.b), (.c, m.c), (.p, m.p)].filterMap fun (q, h) => match h with
    | some x => x.word.map fun w0 => (w0, x.val.words q)
    | none => none

/-- The words in use at a site: first word and length. -/
def State.usedWords (s : State) (sid : Nat) : List (Nat × Nat) :=
  let base := 64 * clusterOf sid
  (s.fab.sets.filter fun (k, _) => base ≤ k && k < base + 64).flatMap fun (_, t) =>
    t.ways.flatMap fun w => match w with
      | .held m => if m.e == elemIndex sid then m.words else []
      | _ => []

/-- Whether `n` words from `w` are free. -/
def wordsFree (used : List (Nat × Nat)) (w n : Nat) : Bool := used.all fun (b, l) => w + n ≤ b || b + l ≤ w

/-- The lowest free place for `n` words at multiples of `n`, among `fuel` places from `k` on (R26). -/
def findWords (used : List (Nat × Nat)) (n k : Nat) : Nat → Option Nat
  | 0 => none
  | fuel + 1 => if wordsFree used (k * n) n then some (k * n) else findWords used n (k + 1) fuel

/-- Place one operand of a port. The answer is none when the store lacks space. -/
def placeOperand (used : List (Nat × Nat)) (p : Port) (v : Val) : Option PortHold :=
  match v.words p with
  | 0 => some ⟨v, none⟩
  | n => (findWords used n 0 (1024 / n)).map fun w => ⟨v, some w⟩

/-- Place the operands of an entry in turn, port a first. -/
def MatchEntry.place (m : MatchEntry) (used : List (Nat × Nat)) : Option MatchEntry :=
  let one := fun (u : List (Nat × Nat)) (p : Port) (h : Option PortHold) => match h with
    | none => some (none, u)
    | some x => match placeOperand u p x.val with
      | none => none
      | some g => some (some g, match g.word with | some w => (w, x.val.words p) :: u | none => u)
  match one used .a m.a with
  | none => none
  | some (a, u1) => match one u1 .b m.b with
    | none => none
    | some (b, u2) => match one u2 .c m.c with
      | none => none
      | some (c, u3) => (one u3 .p m.p).map fun (p, _) => { m with a := a, b := b, c := c, p := p }

/-- An entry without its words, as a spill carries it (R249). -/
def MatchEntry.bare (m : MatchEntry) : MatchEntry :=
  let off := fun (h : Option PortHold) => h.map fun x => { x with word := none }
  { m with a := off m.a, b := off m.b, c := off m.c, p := off m.p }

def MatchEntry.port (m : MatchEntry) : Port → Option PortHold
  | .a => m.a | .b => m.b | .c => m.c | .p => m.p
def MatchEntry.setPort (m : MatchEntry) (p : Port) (h : PortHold) : MatchEntry :=
  match p with
  | .a => { m with a := some h } | .b => { m with b := some h } | .c => { m with c := some h } | .p => { m with p := some h }
def MatchEntry.present (m : MatchEntry) : List Port := [.a, .b, .c, .p].filter fun p => (m.port p).isSome

/-! ### Waking held tokens (R438) -/

/-- The parked firing that waits in the match stage for its entry (R251). -/
def Element.unplaced (e : Element) : Option Parked := e.parked.find? fun p => !p.placed

/-- The sets in which the match stage waits for room: that of its held token, and that of its unplaced parked firing. -/
def Element.roomSets (e : Element) (sid : Nat) : List Nat :=
  (match e.held with | some (t, .noRoom) => [setKeyAt sid t.frm t.node t.tag] | _ => []) ++
  (match e.unplaced with | some p => [setKeyAt sid p.f.frm p.f.node p.f.tag] | none => [])

/-- Whether the match stage waits for room. -/
def Element.waits (e : Element) : Bool := !(e.roomSets 0).isEmpty

/-- Elements that wait for room in a set look again. -/
def wakeSet (key : Nat) : Cmd := .get fun s =>
  Cmd.each (((List.range 4).map (siteOfSet key)).filter fun sid => ((s.elem sid).roomSets sid).contains key) fun sid =>
    afterOnce 1 (.matchRetry sid)

/-- Elements of a context that wait for room look again. -/
def wakeCtx (ctx : Nat) : Cmd := .get fun s =>
  Cmd.each (s.fab.elements.filterMap fun (sid, e) =>
    if e.waits then (match s.regionAt sid with | some (_, r) => if r.ctx = ctx then some sid else none | none => none)
    else none) fun sid => afterOnce 1 (.matchRetry sid)

/-- The context whose region holds a set's cluster. -/
def State.ctxOfSet (s : State) (key : Nat) : Nat := match s.regionAt (siteOfSet key 0) with | some (_, r) => r.ctx | none => 65536

/-- A way frees (R251, R438): it is reserved for a refill while the set has spills. -/
def freeWayOf (key k : Nat) : Cmd := .get fun s =>
  if (s.set? key).spills = 0 then .seq (setWay key k .free) (wakeSet key)
  else .seq (setWay key k .reserved) (after (s.sidingCycles (s.ctxOfSet key) (key / 64 / 384) (s.set? key).head) (.sidingRefill key))

/-! ### The Siding -/

/-- Free a Siding entry of a set (R248, R249): HEAD, TAIL and SPILLS follow, and held tokens look again. -/
def freeSiding (ctx key k : Nat) : Cmd := .get fun s =>
  match s.ctx? ctx with
  | none => .skip
  | some c => match c.siding.entries.get? k with
    | none => .skip
    | some n => .all [
        modSiding ctx (key / 64 / 384) fun d => d.remove k,
        modSet key fun t => { t with
          spills := t.spills - 1
          head := if t.head = k then n.next else t.head
          tail := if t.tail = k then n.prev else t.tail },
        wakeSet key, wakeCtx ctx]

/-- The Siding entry of a key, searched in its chain of buckets (R248). -/
def State.sidingFind (s : State) (ctx rgn rx ry frm node : Nat) (tag : W64) : Option (Nat × SidEntry) :=
  match s.ctx? ctx with
  | none => none
  | some c => c.siding.entries.find? fun (_, n) =>
      n.rgn == rgn && n.rx == rx && n.ry == ry && n.m.frm == frm && n.m.node == node && n.m.tag == tag

/-- Spills of a context that are still on their way. -/
def State.flying (s : State) (ctx : Nat) : Nat := (s.fab.spills.filter fun (_, p) => p.ctx == ctx).length

/-- Whether one more entry can be spilled from a set (R249, R252). -/
def State.canSpill (s : State) (ctx key : Nat) : Bool :=
  (s.set? key).spills != 65535 &&
  (match s.ctx? ctx with | some c => c.siding.use + s.flying ctx < c.siding.size | none => false)

/-- Cycles of a Siding engine's access for a key of a site (R249). -/
def State.keyCycles (s : State) (sid frm node : Nat) (tag : W64) : Nat := match s.regionAt sid with
  | some (_, r) => s.bucketCycles r.ctx (dieOf sid) tag (sidingKey r.rgn (xOf sid - r.x0) (yOf sid - r.y0) frm node)
  | none => 32

/-- Spill an entry (R249): SPILLS counts at once, the engine inserts it later. -/
def spill (ctx key : Nat) (m : MatchEntry) : Cmd := .get fun s => withSerial fun n => .all [
  modSet key fun t => { t with spills := t.spills + 1, flying := t.flying + 1 },
  .prim (.fab fun b => { b with spills := b.spills.set n ⟨ctx, key, m⟩ }),
  count (key / 64 / 384) (s.vdOfCtx ctx) 2 1,
  after (s.keyCycles (siteOfSet key m.e) m.frm m.node m.tag) (.sidingInsert n)]

/-- The oldest parked entry of a set (R251). -/
def MatchSet.oldestParked (t : MatchSet) : Option (Nat × MatchEntry) :=
  t.ways.zipIdx.foldl (fun best (w, k) => match w with
    | .held m => if m.parked then (match best with
        | some (_, b) => if m.age < b.age then some (k, m) else best
        | none => some (k, m)) else best
    | _ => best) none

/-! ### Parked firings -/

/-- The matching entry of a parked firing, without words. -/
def Firing.parkedEntry (f : Firing) (age : Nat) : MatchEntry where
  e := elemIndex f.sid
  frm := f.frm
  node := f.node
  tag := f.tag
  a := f.a.map fun v => ⟨v, none⟩
  b := f.b.map fun v => ⟨v, none⟩
  c := f.c.map fun v => ⟨v, none⟩
  p := f.p.map fun v => ⟨v, none⟩
  poisoned := false
  seen := []
  parked := true
  age := age

def Parked.isFiring (p : Parked) (f : Firing) : Bool := p.f.fid == f.fid && p.f.node == f.node && p.f.tag == f.tag && p.f.frm == f.frm

/-- Whether a parked firing is the one of an entry. -/
def Parked.isOf (p : Parked) (m : MatchEntry) : Bool :=
  p.placed && elemIndex p.f.sid == m.e && p.f.frm == m.frm && p.f.node == m.node && p.f.tag == m.tag

/-- Change the parked record of a firing. -/
def modParked (f : Firing) (g : Parked → Parked) : Cmd :=
  modElem f.sid fun e => { e with parked := e.parked.map fun q => if q.isFiring f then g q else q }

/-! ### The full counter (R252) -/

/-- A token begins to wait for a slot of a full Siding: the context's full counter runs. -/
def startFull (ctx : Nat) : Cmd := .get fun s => match s.ctx? ctx with
  | some c => .when (c.siding.fullSince.isNone && c.siding.size ≤ c.siding.use + s.flying ctx) (.seq
      (modCtx ctx fun c => { c with siding := { c.siding with fullSince := some s.now } })
      (after (Config.fullLimit - c.siding.waiting) (.sidefull ctx)))
  | none => .skip

/-- The full counter pauses while no token of the context waits. -/
def pauseFull (ctx : Nat) : Cmd := .get fun s =>
  let waits := s.fab.elements.any fun (k, e) => e.waits && (match s.regionAt k with | some (_, x) => x.ctx == ctx | none => false)
  .when (!waits) (modCtx ctx fun c => { c with siding := { c.siding with
    waiting := c.siding.waiting + (match c.siding.fullSince with | some t => s.now - t | none => 0), fullSince := none } })

/-- Where the entry of a parked firing goes (R29, R251): a free way with its words, the way of the oldest parked entry of a full
set, which spills, or the Siding; with room in neither it waits in the match stage (R252, R438). -/
def placeParked (f : Firing) (age : Nat) : Cmd := .get fun s =>
  let key := setKeyAt f.sid f.frm f.node f.tag
  let set := s.set? key
  let n := f.parkedEntry age
  let placed := modParked f fun p => { p with placed := true }
  let away := fun (c : Cmd) => if s.canSpill f.ctx key then .seq c placed else startFull f.ctx
  match n.place (s.usedWords f.sid), set.freeWay (s.quota f.ctx) with
  | some m, some k => .seq (setWay key k (.held m)) placed
  | some m, none => match set.oldestParked with
    | some (k, old) => away (.seq (spill f.ctx key old.bare) (setWay key k (.held m)))
    | none => away (spill f.ctx key n)
  | none, _ => away (spill f.ctx key n)

/-- Park a firing (R251): it waits under a rule of its own, with an entry. -/
def park (i : Instr) (f : Firing) (why : ParkWhy) : Cmd := .get fun s =>
  .seq (modElem f.sid fun e => { e with parked := e.parked ++ [⟨i, f, why, s.now, false, false⟩] }) (placeParked f s.now)

/-- The element asks for its parked entry in the Siding to come back next, into a way that is free or that frees (R251). -/
def askRefill (f : Firing) (k : Nat) : Cmd := .get fun s =>
  let key := setKeyAt f.sid f.frm f.node f.tag
  .seq (modCtx f.ctx fun c => { c with siding := { c.siding with entries := c.siding.entries.mod k fun n => { n with wanted := true } } })
    (match (s.set? key).freeWay (s.quota f.ctx) with
     | some w => .seq (setWay key w .reserved) (after (s.sidingCycles f.ctx (dieOf f.sid) k) (.sidingRefill key))
     | none => .skip)

/-- Where the entry of a parked firing stands: in a way of its set, in a slot of its context's Siding, or in neither. -/
inductive ParkPlace where
  | way (k : Nat)
  | slot (k : Nat)
  | flying
  | nowhere
deriving DecidableEq, Repr

def State.parkPlace (s : State) (p : Parked) : ParkPlace :=
  let f := p.f
  if !p.placed then .nowhere
  else match (s.set? (setKeyAt f.sid f.frm f.node f.tag)).find (elemIndex f.sid) f.frm f.node f.tag with
    | some (k, m) => if m.parked then .way k else .nowhere
    | none => match s.region? f.ctx f.rgn with
      | none => .nowhere
      | some r => match s.sidingFind f.ctx f.rgn (xOf f.sid - r.x0) (yOf f.sid - r.y0) f.frm f.node f.tag with
        | some (k, n) => if n.m.parked then .slot k else .nowhere
        | none => .flying

/-- A parked firing leaves its element: its row runs as `c` says, and the match stage goes on if it waited there. -/
def leaveParked (p : Parked) (c : Cmd) : Cmd := .all [
  modElem p.f.sid fun e => { e with parked := e.parked.filter fun q => !q.isFiring p.f },
  .when (!p.placed) (afterOnce 1 (.tokenArrive p.f.sid)),
  c]

/-- The event that a parked firing waits for has come (R251): with its entry in a way, or with none, it goes on as `c` says; from
the Siding its entry has to be refilled first, and it goes on when the entry lands. -/
def unparkThen (p : Parked) (c : Cmd) : Cmd := .get fun s =>
  match s.parkPlace p with
  | .way k => .seq (leaveParked p c) (freeWayOf (setKeyAt p.f.sid p.f.frm p.f.node p.f.tag) k)
  | .slot k => .seq (modParked p.f fun q => { q with released := true }) (askRefill p.f k)
  | .flying => modParked p.f fun q => { q with released := true }
  | .nowhere => leaveParked p c

/-- Release a parked firing: its node fires again. -/
def release (p : Parked) : Cmd := .when (!p.released) (unparkThen p (afterTask 0 (.refire p.i p.f)))

/-- The entry of a released firing has come back into a way: its node fires again. A firing that waits for a cycle (R225) or for its
region's end (R230) looks at what it waits for once more. -/
def landParked (p : Parked) : Cmd :=
  if p.why == .time || p.why == .engine then afterTask 0 (.refire p.i p.f) else unparkThen p (afterTask 0 (.refire p.i p.f))

/-- A parked firing is given up with its entry, wherever that rests. -/
def forgetParked (p : Parked) : Cmd := .get fun s =>
  let key := setKeyAt p.f.sid p.f.frm p.f.node p.f.tag
  let mine := fun (n : Spill) => n.m.parked && n.m.isKey (elemIndex p.f.sid) p.f.frm p.f.node p.f.tag && n.set == key
  match s.parkPlace p with
  | .way k => leaveParked p (freeWayOf key k)
  | .slot k => leaveParked p (freeSiding p.f.ctx key k)
  | .flying => leaveParked p (.all [
      .when (s.fab.spills.any fun (_, n) => mine n) (modSet key fun t => { t with spills := t.spills - 1, flying := t.flying - 1 }),
      .prim (.fab fun b => { b with spills := b.spills.filter fun (_, n) => !mine n }),
      wakeSet key, wakeCtx p.f.ctx])
  | .nowhere => leaveParked p .skip

/-- Release every parked firing of an element that a test picks, oldest first. -/
def releaseWhere (sid : Nat) (ok : Parked → Bool) : Cmd := .get fun s => Cmd.each ((s.elem sid).parked.filter ok) release

/-- BLND firings of a die that wait for a tile look again (R172). -/
def wakeBlends (die : Nat) : Cmd := .get fun s =>
  Cmd.each (s.fab.elements.filter fun (sid, e) => dieOf sid == die && e.parked.any fun p => p.why == .blend) fun (sid, _) =>
    releaseWhere sid fun p => p.why == .blend

end Sys2Proof.Machine
end

