-- ==== Sys2Proof/Machine/Homes.lean ====
section
/-! DEFINITION. Evictions, notifications and MWAIT's reads (R265, R194), replica stores (R284), the clocks (R266), and the
vaults (R177, R186, R257, R258). -/

namespace Sys2Proof.Machine

/-! ### Evictions and notifications -/

/-- HOME_EVICT (R265): a home line goes to HBM and raises MTS; a copy is dropped and raises CTS. A locked line and pending
bytes stay. -/
def execHomeEvict (die line : Nat) (copy : Bool) (s : State) : Host.Outcome State Fault Refusal :=
  let slice := homeSlice (128 * line)
  Cmd.next (if copy then match s.mem.l2.get? (l2Key die line) with
      | some c => .when (!c.pending) (.seq
          (modStamps die slice fun t => { t with cts := Stamp.max t.cts c.rts })
          (.prim (.mem fun m => { m with l2 := m.l2.del (l2Key die line) })))
      | none => .skip
    else match s.mem.homes.get? line with
      | some h => .when (h.lock.isNone && h.die == die) (.seq
          (modStamps die slice fun t => { t with mts := Stamp.max t.mts h.rts })
          (.prim (.mem fun m => { m with homes := m.homes.del line })))
      | none => .skip) s

/-- A queue or launch descriptor that waits for its slot looks again (R300). -/
def reread (key : Nat) : Cmd :=
  if key % 128 < 64 then after 0 (.slotTakeUp (key / 128) (key % 64)) else after 0 (.launchTakeUp (key / 128) (key % 64))

/-- HOME_NOTIFY (R194, R299, R300): armed MWAITs of the line and waiting queue slots read again, and a descriptor in the line
is looked at for a change of ENABLE. -/
def execHomeNotify (line : Nat) (s : State) : Host.Outcome State Fault Refusal :=
  Cmd.next (.all [
    Cmd.each (s.descriptorsIn line) fun (vd, q, launch) => after 0 (.queueEnable vd q launch),
    Cmd.each (s.mem.ops.filter fun (_, o) => (match o.i with | .mwait _ => true | _ => false) && o.phase == .sent &&
        o.lanes.any fun l => l.pa / 128 == line) fun (id, o) =>
      .seq (modOp id fun x => { x with aux := 1 })
        (after (halfWay (dieOf o.f.sid) ((o.lanes.head?.map (·.home)).getD 0)) (.mwaitPoll id)),
    Cmd.each (s.eng.services.filter fun (_, x) => !x.stopped) fun (key, _) => reread key]) s

/-- The condition of MWAIT (R194). -/
def mwaitHolds (f : MemNode) (v b : W64) : Bool :=
  match f.sub.toNat with | 0 => decide (b.toNat ≤ v.toNat) | 1 => v != b | _ => v == b

/-- MWAIT_POLL (R194): the value is read at home; a test that fails waits for a notification, or 1024 cycles. -/
def execMwaitPoll (op : Nat) (s : State) : Host.Outcome State Fault Refusal :=
  Cmd.next (match s.op? op with
    | none => .skip
    | some o => match o.i, o.lanes with
      | .mwait f, l :: _ =>
        let die := dieOf o.f.sid
        let line := l.pa / 128
        let host := paWindow l.pa == 2
        let bytes := if host then s.physRead l.pa 8 else ((s.homeBytes line).drop (l.pa % 128)).take 8
        let v := BitVec.ofNat 64 (leNat bytes)
        let wts := s.homeWts l.home line
        if o.phase != .sent || (o.aux = 0 && s.now < o.since) then .skip
        else if !host && s.homeBusy l.home line (s.vdOfCtx o.f.ctx) then after 1 (.mwaitPoll op)
        else match s.laneError l with
          | some cause => faultOp op o cause 0 l.va
          | none => .seq (.when (!host) (fillHome l.home line (s.vdOfCtx o.f.ctx) l.key))
            (if mwaitHolds f v (orNull o.f.b).word then .all [
                .when (!host) (raisePts o wts),
                emit o.f f.toHdr (halfWay die l.home) o.f.tag (.scalar v),
                finishOp op]
              else .seq (modOp op fun x => { x with aux := 0, since := s.now + 1024 }) (after 1024 (.mwaitPoll op)))
      | _, _ => .skip) s

/-! ### Replica pages (R283, R284) -/

/-- REPLICA_STORE (R284, R187, R189): every replica of the line takes the value under one timestamp. For a writer on another
die than the primary's the replicas stay locked until the acknowledgement is confirmed (R281, log 112). -/
def execReplicaStore (op : Nat) (s : State) : Host.Outcome State Fault Refusal :=
  Cmd.next (match s.op? op with
    | none => .skip
    | some o => match o.lanes.find? fun l => !l.bound with
      | none => .skip
      | some l =>
        let die := dieOf o.f.sid
        let vd := s.vdOfCtx o.f.ctx
        let w := l.reps.foldl (fun p (d, pa) => Stamp.max p (s.homeRts d (pa / 128) + 1)) o.pts
        let old := ((s.homeBytes (l.prim / 128)).drop (l.prim % 128)).take l.size
        let eff := fun (x : Lane) => o.effect x old
        let bs := ((eff l).1).getD []
        let writes := (eff l).1.isSome
        if o.xack then .skip
        else if l.reps.any fun (d, pa) => s.homeBusy d (pa / 128) vd || (writes && s.beyondCap d w) then after 1 (.replicaStore op)
        else if o.isRmw && (s.laneError { l with pa := l.prim }).isSome then
          faultOp op o ((s.laneError { l with pa := l.prim }).getD causeEcc) 0 l.va
        else .all [
          Cmd.each l.reps fun (d, pa) => .seq (fillHome d (pa / 128) vd l.key) (.when writes (.all [
            .when (die != l.primHome) (lockHome op (pa / 128)),
            stampHome d (pa / 128) w,
            homeWrite pa bs,
            markDirty pa l.big,
            notifyLine (pa / 128)])),
          .get fun t => modOp op fun x =>
            x.replied (if writes then w else t.homeWts l.primHome (l.prim / 128)) old (fun y => !y.bound) eff l,
          .prim (.mem fun m => { m with seqs := m.seqs.set (seqKey l.primHome o.f.sid) o.req }),
          after (halfWay die l.primHome + if o.isRmw then 4 else 0) (.homeAck op)]) s

/-! ### Clocks (R266) -/

/-- Ask for the next run of a periodic event, at the next multiple of its period. -/
def periodic (n : Nat) (i : Instr) : Cmd := .get fun s => .when (!s.isDue i) (after (n - s.now % n) i)

/-- One drift step of a pts (R266). -/
def driftPts (hzn p : Stamp) : Stamp := floorPts hzn (p + 1)

/-- The die of a region of a context. -/
def State.dieOfRegion (s : State) (ctx rgn : Nat) : Nat := match s.region? ctx rgn with | some r => r.die | none => 0

/-- PTS_DRIFT (R266): HZN and every pts on the die rise by 1; every 1024 cycles the couplers send HZN. -/
def execPtsDrift (die : Nat) (s : State) : Host.Outcome State Fault Refusal :=
  let h := s.hzn die + 1
  Cmd.next (.all [
    setHzn die h,
    .prim (.ten fun t => { t with ctxs := t.ctxs.map fun (k, c) => (k, { c with
      pts := c.pts.map fun (r, a, p) => if s.dieOfRegion k r = die then (r, a, driftPts h p) else (r, a, p) }) }),
    .prim (.eng fun e => { e with
      jobs := e.jobs.map fun (k, j) => (k, if j.die = die then { j with pts := driftPts h j.pts } else j)
      groups := e.groups.map fun (k, g) => (k, if k % 4 = die then
        { g with run := g.run.map fun r => { r with pts := driftPts h r.pts } } else g)
      halves := e.halves.map fun (k, x) => (k, if k / 128 = die then
        { x with inbox := x.inbox.map fun n => { n with pts := driftPts h n.pts } } else x) }),
    .prim (.mem fun m => { m with hostPts := m.hostPts.zipIdx.map fun (p, k) => if 2 * k = die then driftPts h p else p }),
    .when (s.now % 1024 == 0) (Cmd.each ((List.range 4).filter fun d => d != die) fun d => after 36 (.hznMessage die d h)),
    periodic 256 (.ptsDrift die)]) s

/-- HZN_MESSAGE (R266): the receiver raises its HZN. -/
def execHznMessage (_src dst : Nat) (hzn : Stamp) (s : State) : Host.Outcome State Fault Refusal := (bumpHzn dst hzn).next s

/-- MTS and CTS of every slice of a die under the sweeper; a slice that lists none has those of reset (log 24). -/
def sweepSlices (fix : Stamp → Stamp) (die : Nat) (t : Tbl SliceStamps) : Tbl SliceStamps :=
  (List.range 64).foldl (fun t k =>
    let x := t.getD (sliceKey die k) ⟨0, 0⟩
    let y : SliceStamps := ⟨fix x.mts, fix x.cts⟩
    if y = x then t else t.set (sliceKey die k) y) t

/-- TIMESTAMP_SWEEP (R266): values too far behind HZN are raised, and such copies dropped. -/
def execTimestampSweep (die : Nat) (s : State) : Host.Outcome State Fault Refusal :=
  let h := s.hzn die
  let raised := h - 8192
  let fix := fun (t : Stamp) => if staleBehind h t then raised else t
  let drop := fun (c : Copy) => (staleBehind h c.rts || staleBehind h c.wts) && !c.pending
  Cmd.next (.seq
    (.prim (.mem fun m => { m with
      homes := m.homes.map fun (k, x) => (k, if x.die = die && x.lock.isNone && (staleBehind h x.wts || staleBehind h x.rts) then
        { x with wts := raised, rts := if staleBehind h x.rts then raised else Stamp.max x.rts raised } else x)
      slices := sweepSlices fix die m.slices
      l2 := m.l2.filter fun (k, c) => !(k / 2 ^ 46 == die && drop c)
      l1 := m.l1.filter fun (k, c) => !(dieOf (k / 2 ^ 46) == die && drop c) }))
    (periodic 16384 (.timestampSweep die))) s

/-! ### Vaults -/

/-- The vault address of a firing (R177): a + LIT. -/
def vaultAddr (f : Firing) (l : Bool) (lit : BitVec 32) : BitVec 32 := (orNull f.a).word.setWidth 32 + (if l then lit else 0)

/-- The checks of R177 on `n` bytes at a vault address, for a context. -/
def State.vaultAllowed (s : State) (ctx : Nat) (va n : Nat) : Bool :=
  match s.ctx? ctx with
  | some c => va < 2 ^ 31 && va / 2 ^ 24 < 96 && c.vaultBase ≤ va && va + n ≤ c.vaultBase + c.image.vaultBytes
  | none => false

/-- A byte of a die's vaults in the vault byte space. -/
def vaultByte (die va : Nat) : Nat := 2 ^ 31 * die + va

/-- Hops between two vaults in the 16 x 6 mesh (R186). -/
def vaultHops (u v : Nat) : Nat := (max u v % 16 + min u v % 16 - 2 * min (u % 16) (v % 16)) + (max (u / 16) (v / 16) - min (u / 16) (v / 16))
/-- The vault above a site (R17). -/
def vaultAbove (sid : Nat) : Nat := xOf sid / 4 + 16 * (yOf sid / 4)
/-- The bank of a vault address, over the package (R257). -/
def bankOf (va : Nat) : Nat := va / 2 ^ 24 * 32 + natBits va 10 6
def bankKey (die bank : Nat) : Nat := 4096 * die + bank

/-- Cycles to the next E slot (R186). -/
def eSlotWait (now : Nat) : Nat := match now % 4 with | 1 => 2 | 2 => 1 | _ => 0

/-- Cycles to the next E slot that a bank has not used (R186): each serves one access (R258). -/
def toESlot (now free : Nat) : Nat := (free - now) + eSlotWait (max now free)

/-- Words of 8 bytes with an uncorrectable error (R412). -/
def State.vaultBad (s : State) (die va n : Nat) : Bool :=
  (List.range ((va + n + 7) / 8 - va / 8)).any fun k => s.mem.vaultPoison.getD (2 ^ 28 * die + va / 8 + k) false

/-- A vault write; a write of a whole word cleans it (R412). -/
def vaultWrite (die va : Nat) (bs : List Byte) : Cmd := .seq (.prim (.vault (vaultByte die va) bs))
  (.prim (.mem fun m => { m with vaultPoison := m.vaultPoison.filter fun (k, _) =>
    !(k / 2 ^ 28 == die && va ≤ 8 * (k % 2 ^ 28) && 8 * (k % 2 ^ 28) + 8 ≤ va + bs.length) }))

def State.vaultRead (s : State) (die va n : Nat) : List Byte := s.bytes.vault.read (vaultByte die va) n

/-- VAULT_REQUEST_ARRIVE (R257): the request waits at its bank for an E slot. -/
def execVaultRequestArrive (op : Nat) (s : State) : Host.Outcome State Fault Refusal :=
  Cmd.next (match s.op? op with
    | none => .skip
    | some o => match o.lanes with
      | [] => .skip
      | l :: _ =>
        let die := dieOf o.f.sid
        let bank := bankOf l.pa
        let key := bankKey die bank
        let b := s.mem.banks.getD key ⟨[], 1535, 0⟩
        .seq (.prim (.mem fun m => { m with banks := m.banks.set key { b with waiting := b.waiting ++ [op] } }))
          (.when b.waiting.isEmpty (after (toESlot s.now b.free) (.vaultSlotServe die bank)))) s

/-- Round-robin by site number 64y + x after the site served last (R186). -/
def State.nextAtBank (s : State) (b : VaultBank) : Option (Nat × MemOp) :=
  let rank := fun (o : MemOp) => (o.f.sid % 1536 + 1536 - b.last % 1536 - 1) % 1536
  (b.waiting.filterMap fun id => (s.op? id).map fun o => (id, o)).foldl (fun best x => match best with
    | none => some x
    | some y => if rank x.2 < rank y.2 then some x else some y) none

/-- VAULT_SLOT_SERVE (R258, R186): the bank serves one access in its wheel slot. -/
def execVaultSlotServe (die bank : Nat) (s : State) : Host.Outcome State Fault Refusal :=
  let key := bankKey die bank
  Cmd.next (match s.mem.banks.get? key with
    | none => .skip
    | some b => match s.nextAtBank b with
      | none => .prim (.mem fun m => { m with banks := m.banks.set key { b with waiting := [] } })
      | some (id, o) =>
        let b' : VaultBank := ⟨b.waiting.filter fun x => x != id, o.f.sid % 1536, s.now + 1⟩
        if toESlot s.now b.free != 0 then after (toESlot s.now b.free) (.vaultSlotServe die bank)
        else .all [
          .prim (.mem fun m => { m with banks := m.banks.set key b' }),
          .when (!b'.waiting.isEmpty) (after (toESlot s.now (s.now + 1)) (.vaultSlotServe die bank)),
          match o.lanes with
          | [] => .skip
          | l :: _ =>
            if o.isStore then .all [vaultWrite die l.pa l.data, finishOp id, wakeBlends die]
            else if s.vaultBad die l.pa l.size then faultOp id o causeEcc 0 (BitVec.ofNat 64 l.pa)
            else .seq (modOp id fun x => { x with lanes := [{ l with data := s.vaultRead die l.pa l.size, bound := true }] })
              (finishLoad id 10)]) s

end Sys2Proof.Machine
end

