-- ==== Sys2Proof/Machine/MemoryOps.lean ====
section
/-! DEFINITION. The memory class (R175 to R199): what each node asks for, the order in which the store buffer lets accesses
perform (R181 to R183), forwarding, fences, hitches and waits. -/

namespace Sys2Proof.Machine

/-! ### Accesses in flight -/

/-- A new operation of a firing, with no lanes. -/
def newOp (i : Instr) (f : Firing) (s : State) : MemOp :=
  let w := i.waveD
  { i := i, f := f, dom := tagDomain f.tag, act := s.actTag f, inst := s.seqOf f, order := s.orderPrefix f ++ [w.lsid],
    lsid := w.lsid, isLoad := false, isStore := false, isVault := false, g := w.g, ord := w.ord, scope := w.scope, null := false,
    lanes := [], phase := .resolving, resolved := false, performed := 0, served := false, covers := [], attached := [], pts := 0,
    pw := 0, pws := [], ackW := 0, line := 0, req := 0, flags := 0, reply := [], xack := false, result := none, second := none, aux := 0, since := 0, tries := 0 }

/-- One lane that is still to be translated. -/
def newLane (idx : Nat) (va : W64) (size : Nat) (data : List Byte) : Lane :=
  ⟨idx, va, 0, 0, 0, 0, size, data, 0, 0, false, false, false, [], false⟩

/-- The course of a memory, engine or system M node up to its own work (R33, R75, R198, R202): poison is recorded, a null
firing resolves as null, else `k` goes on with a new operation. -/
def memNode (i : Instr) (f : Firing) (k : Nat → MemOp → Cmd) : Cmd := withSerial fun id => .seq (markFired f) (.get fun s =>
  let o := newOp i f s
  match f.poison? with
  | some p => .all [addOp id o, sinkPoison f p, nullResult o, nullOp id]
  | none => if f.off i.hdr.pred then .all [addOp id o, nullResult o, nullOp id] else k id o)

/-- An operation without an address has resolved. -/
def plainOp (id : Nat) (o : MemOp) : Cmd := .seq (addOp id o) (after 0 (.storeResolve id))

/-- An operation on virtual addresses: the alignment of `base` first (R198), then translation (R393). -/
def addressOp (id : Nat) (o : MemOp) (base : W64) (align : Nat) : Cmd :=
  .seq (addOp id o) (if base.toNat % align != 0 then faultOp id o causeAlign 0 base else translateOp id)

/-- An operation on a vault address (R177, R198): ALIGN, then PROT. -/
def vaultOp (id : Nat) (o : MemOp) (f : Firing) (l : Bool) (lit : BitVec 32) (size : Nat) (data : List Byte) : Cmd := .get fun s =>
  let va := (vaultAddr f l lit).toNat
  let lane : Lane := { newLane 0 (BitVec.ofNat 64 va) size data with pa := va, prim := va, ok := true }
  let o := { o with isVault := true, lanes := [lane] }
  .seq (addOp id o)
    (if va % size != 0 then faultOp id o causeAlign 0 lane.va
     else if 2 ^ 32 ≤ (orNull f.a).word.toNat || !s.vaultAllowed f.ctx va size then faultOp id o causeProt 0 lane.va
     else after 0 (.storeResolve id))

/-! ### Order (R182, R183, R191 to R193, R196) -/

/-- Whether a store still keeps its bytes in the store buffer: it has neither been acknowledged nor gone early. -/
def MemOp.buffered (x : MemOp) : Bool := x.isStore && x.phase != .done && !(x.allEarly && 1 ≤ x.performed)

/-- Whether two operations share a byte (R182). -/
def MemOp.overlaps (x y : MemOp) : Bool :=
  x.isVault == y.isVault && x.lanes.any fun a => y.lanes.any fun b => a.pa < b.pa + b.size && b.pa < a.pa + a.size

/-- Bytes of a lane that earlier stores of the activation still hold, the latest in program order first (R182). -/
def State.forward (s : State) (o : MemOp) (l : Lane) : Option (List Byte) :=
  let stores := s.mem.ops.filterMap fun (_, x) => if x.buffered && !x.isRmw && x.before o && x.isVault == o.isVault then some x else none
  let byteAt := fun (a : Nat) => stores.foldl (fun (best : Option (MemOp × Byte)) x =>
    match x.lanes.reverse.find? fun y => decide (y.pa ≤ a) && decide (a < y.pa + y.data.length) with
    | none => best
    | some y => match best with
      | some (b, _) => if b.before x then some (x, y.data.getD (a - y.pa) 0) else best
      | none => some (x, y.data.getD (a - y.pa) 0)) none
  let bs := (List.range l.size).map fun k => byteAt (l.pa + k)
  if l.cc != 3 && bs.all (·.isSome) then some (bs.map fun x => match x with | some (_, b) => b | none => 0) else none

def MemOp.isFence (o : MemOp) : Bool := match o.i with | .fence _ => true | _ => false
def MemOp.isBnd (o : MemOp) : Bool := match o.i with | .bnd _ => true | _ => false
def MemOp.isXfw (o : MemOp) : Bool := match o.i with | .xfw _ => true | _ => false
def MemOp.isXfi (o : MemOp) : Bool := match o.i with | .xfi _ => true | _ => false
def MemOp.isMwait (o : MemOp) : Bool := match o.i with | .mwait _ => true | _ => false

/-- Whether an operation is a release: it waits until every earlier access has performed at its SCOPE (R182, R191, R196). -/
def MemOp.releases (o : MemOp) : Bool := o.ord == 2 || o.ord == 3 || o.isBnd

/-- Whether an earlier operation X of the activation holds Y back (R182, R183, R191, R193, R271). -/
def State.holds (s : State) (x y : MemOp) : Bool :=
  let done := 1 ≤ x.performed
  if x.null || x.isPref || x.phase == .done then false
  else
    (!done && (x.isXfw || x.ord == 1 || x.ord == 3)) ||
    (!done && x.isFence && y.isStore) ||
    (y.releases && x.performed < max 1 y.scope) ||
    (y.isFence && y.ord == 1 && x.isLoad && !done) ||
    (y.isStore && x.isStore && (if x.allEarly || y.allEarly then !done else x.phase != .done)) ||
    (x.overlaps y &&
      ((y.isStore && y.g && x.isStore && !x.g) || (x.isLoad && !done) ||
       (x.buffered && y.isLoad && (y.isStore || y.isMwait || !(y.lanes.all fun l => (s.forward y l).isSome || !({ y with lanes := [l] }).overlaps x)))))

/-- Pending stores whose bytes the activation has read and that are not acknowledged (R272). -/
def State.attachedLive (s : State) (o : MemOp) : Bool :=
  s.mem.ops.any fun (_, x) => x.f.ctx == o.f.ctx && x.act == o.act && x.attached.any fun a =>
    match s.op? a with | some st => st.phase != .done | none => false

/-- The G = 0 stores of the activation before an operation that home has not acknowledged (R192), but for those lost (see
`lostBefore`). -/
def State.uncovered (s : State) (o : MemOp) : List Nat :=
  s.mem.ops.filterMap fun (k, x) => if x.isStore && !x.g && !x.isVault && !x.isRmw && x.phase != .done && x.before o &&
    (match x.i with | .st _ | .stv _ | .sts _ => true | _ => false) then some k else none

/-- A free hitch slot of a region (R192): the lowest. -/
def Region.freeHitch (r : Region) : Option Nat := r.hitches.findIdx? fun h => !h.used

/-- Whether an ordered operation may perform now. -/
def State.mayPerform (s : State) (id : Nat) (o : MemOp) : Bool :=
  o.null || o.isPref ||
  ((s.mem.ops.all fun (k, x) => k == id || !x.before o || !s.holds x o) &&
   !(o.releases && 2 ≤ o.scope && s.attachedLive o) &&
   !(o.isXfi && (!(s.uncovered o).isEmpty || s.lostBefore o) && (match s.region? o.f.ctx o.f.rgn with | some r => r.freeHitch.isNone | none => false)))

/-! ### Performing -/

/-- XFI (R192): allocates a hitch, or gives the empty hitch. -/
def performXfi (id : Nat) (o : MemOp) : Cmd := .get fun s =>
  let covers := s.uncovered o
  match if covers.isEmpty && !s.lostBefore o then none else (s.region? o.f.ctx o.f.rgn).bind (·.freeHitch) with
  | none => .seq (emit o.f o.i.hdr 1 o.f.tag (.scalar 0x07FF)) (finishOp id)
  | some k =>
    let gen := match s.region? o.f.ctx o.f.rgn with | some r => ((r.hitches.getD k Hitch.empty).gen + 1) % 2047 | none => 0
    .all [
      modRegion o.f.ctx o.f.rgn fun r => { r with hitches := r.hitches.set k ⟨true, gen, covers, s.lostBefore o, false, o.act, false⟩ },
      emit o.f o.i.hdr 1 o.f.tag (.scalar (BitVec.ofNat 64 (2048 * k + gen))),
      finishOp id]

/-- XFW (R193): waits until every covered store is acknowledged or lost. -/
def performXfw (id : Nat) (o : MemOp) : Cmd := .get fun s =>
  let a := (orNull o.f.a).word.toNat % 65536
  let answer := fun (b : Bool) => Cmd.seq (emit o.f o.i.hdr 1 o.f.tag (.bit b)) (finishOp id)
  match s.region? o.f.ctx o.f.rgn with
  | none => answer true
  | some r =>
    let h := r.hitches.getD (a / 2048) Hitch.empty
    if a = 0x07FF || !h.used || h.gen != a % 2048 then answer true
    else if h.covers.all fun c => match s.op? c with | some x => x.phase == .done | none => true then
      .all [
        modRegion o.f.ctx o.f.rgn fun r => { r with hitches := r.hitches.modify (a / 2048) fun h => { h with waited := true } },
        answer (!h.lost),
        freeHitches o.f.ctx o.f.rgn]
    else after 1 (.storeResolve id)

/-- A store, ATOM, CAS or STMC that may perform leaves for its homes (R264, R271, R284). An early store first takes its
place in the die's copies, for which there must be ways (R260). -/
def performStore (id : Nat) (o : MemOp) : Cmd := .get fun s =>
  let die := dieOf o.f.sid
  let early := o.lanes.filter o.early
  if early.any fun l => s.noWay die (l.pa / 128) (s.vdOfCtx o.f.ctx) then after 1 (.storeResolve id)
  else .all [
    modOp id fun x => { x with since := s.now, performed := if x.allEarly then 1 else 0 },
    Cmd.each early fun l => .get fun t => match t.op? id with | some x => pendingWrite id x l | none => .skip,
    sendStore id]

/-- BND gives its timestamp to those whose operands may depend on its token (R196): the activations of the VD on the dies of
its scope take it, and those that begin later start from the die's HZN (R262, log 114). -/
def shareTime (o : MemOp) : Cmd := .get fun s =>
  let die := dieOf o.f.sid
  let p := s.opPts o
  let vd := s.vdOfCtx o.f.ctx
  let inScope := fun (d : Nat) => 2 ≤ o.scope || d == die
  .seq
    (.prim (.ten fun t => { t with ctxs := t.ctxs.map fun (k, c) => (k, if c.vd = vd then
      { c with pts := c.pts.map fun (r, a, q) => (r, a, if inScope (s.dieOfRegion k r) then Stamp.max q p else q) } else c) }))
    (Cmd.each ((List.range 4).filter inScope) fun d => bumpHzn d p)

/-- The accesses of an operation of the memory class begin. -/
def performOp (id : Nat) (o : MemOp) : Cmd := .get fun s =>
  let die := dieOf o.f.sid
  if o.null || (o.isPref && o.lanes.isEmpty) then finishOp id
  else if o.lanes.any fun l => s.mem.unreachable.contains (o.f.ctx, l.home) && !o.isVault then
    if o.isPref then finishOp id
    else .all [writeFault o.f.sid (xackRecord s o o.storedWord 0 2), nullResult o, loseStore id o, finishOp id]
  else if o.lanes.any fun l => !o.isVault && l.cc != 3 && paWindow l.pa == 0 && !s.l2Ready l.home then
    if o.isPref then finishOp id else faultOp id o causePageLost 0 ((o.lanes.head?.map (·.va)).getD 0)
  else match o.i with
    | .fence _ => .seq (emit o.f o.i.hdr 1 o.f.tag (o.i.hdr.ty.pass (orNull o.f.a))) (finishOp id)
    | .bnd _ => .all [shareTime o, emit o.f o.i.hdr 1 o.f.tag (o.i.hdr.ty.pass (orNull o.f.a)), finishOp id]
    | .xfi _ => performXfi id o
    | .xfw _ => performXfw id o
    | _ =>
      let direct := o.isLoad && !o.isStore && !o.isMwait && !o.isPref
      let lanes := if direct then o.lanes.map fun l => match s.forward o l with
        | some bs => { l with data := bs, bound := true } | none => l else o.lanes
      let o := { o with lanes := lanes }
      .seq (modOp id fun x => { x with lanes := lanes }) (
        if direct && lanes.all (·.bound) then finishLoad id 6
        else match lanes.find? fun l => !l.bound with
          | none => finishOp id
          | some l =>
            if o.isVault then .seq (modOp id fun x => { x with phase := .sent })
              (after (vaultHops (vaultAbove o.f.sid) (l.pa / 2 ^ 24)) (.vaultRequestArrive id))
            else if lanes.any fun x => !x.bound && x.cc == 3 then .seq (modOp id fun x => { x with phase := .sent }) (after (halfWay die 0) (.mmioAccess id))
            else if o.isMwait then .seq (modOp id fun x => { x with phase := .sent, aux := 1 }) (after (halfWay die l.home) (.mwaitPoll id))
            else if o.isStore then performStore id o
            else loadStep id 0 65)

/-- The unit work of a row that is no memory node begins once the operation is ordered; see the engine and system files. -/
def MemOp.isMemory (o : MemOp) : Bool := match o.i.view with | some (.mem ..) => true | _ => false

/-- STORE_RESOLVE (R181, R182): the store buffer orders a resolved firing after its predecessors, and lets it perform when
the firings before it allow; until then it looks again each cycle. A non-null firing past a LAST takes fault ILLEGAL and
resolves as a null store. `engine` starts a request of an engine or system M node. -/
def resolveOp (op : Nat) (engine : Nat → MemOp → Cmd) : Cmd := .get fun s =>
  match s.op? op with
  | none => .skip
  | some o =>
    let again := after 1 (.storeResolve op)
    if o.phase == .done || o.phase == .sent || o.phase == .translating || o.phase == .held then .skip
    else if !o.resolved && !s.chainReady o then again
    else if !o.resolved && !o.null && !o.isPref && s.pastLast o then .all [
      writeFault o.f.sid { s.recordAt o.f causeIllegal with addr := match o.lanes with | l :: _ => l.va | [] => 0 },
      nullResult o, nullOp op]
    else
      let orders := o.isMemory || o.null
      .all [
        .when (!o.resolved && orders) (orderOp op o),
        .when (o.phase == .resolving) (modOp op fun x => { x with phase := .ordered }),
        .get fun t => match t.op? op with
          | none => .skip
          | some x => if t.mayPerform op x then (if orders then performOp op x else engine op x) else again]

/-! ### The rows -/

/-- A load of one lane. -/
def loadNode (i : Instr) (f : MemNode) (s : State) (size : Nat) : Host.Outcome State Fault Refusal :=
  (memNode i s.cur fun id o =>
    let ea := baseEA s.cur (.ld f)
    addressOp id { o with isLoad := true, lanes := [newLane 0 ea size []] } ea size).next s

/-- A store of one lane. -/
def storeNode (i : Instr) (f : MemNode) (s : State) (size : Nat) : Host.Outcome State Fault Refusal :=
  (memNode i s.cur fun id o =>
    let ea := baseEA s.cur (.ld f)
    addressOp id { o with isStore := true, lanes := [newLane 0 ea size (leBytes (orNull s.cur.b).wide.toNat size)] } ea size).next s

/-- LD (R184). -/
def execLd (f : MemNode) (s : State) : Host.Outcome State Fault Refusal := loadNode (.ld f) f s (f.ty.width / 8)
/-- ST (R184). -/
def execSt (f : MemNode) (s : State) : Host.Outcome State Fault Refusal := storeNode (.st f) f s (f.ty.width / 8)
/-- LDV (R184). -/
def execLdv (f : MemNode) (s : State) : Host.Outcome State Fault Refusal := loadNode (.ldv f) f s 64
/-- STV (R184). -/
def execStv (f : MemNode) (s : State) : Host.Outcome State Fault Refusal := storeNode (.stv f) f s 64

/-- The lanes of LDG and STS that make an access, with their addresses (R185). -/
def gatherLanes (f : MemNode) (c : Firing) (data : List (List Byte)) : List Lane :=
  (gatherIndexes f c).map fun (j, k) => newLane j (gatherEA f c k) (f.ty.width / 8) (data.getD j [])

/-- LDG (R185). -/
def execLdg (f : MemNode) (s : State) : Host.Outcome State Fault Refusal :=
  (memNode (.ldg f) s.cur fun id o =>
    addressOp id { o with isLoad := true, lanes := gatherLanes f s.cur [] } (baseEA s.cur (.ld f)) (f.ty.width / 8)).next s

/-- STS (R185). -/
def execSts (f : MemNode) (s : State) : Host.Outcome State Fault Refusal :=
  let data := ((orNull s.cur.c).lanes f.ty.width).map fun x => leBytes x (f.ty.width / 8)
  (memNode (.sts f) s.cur fun id o =>
    addressOp id { o with isStore := true, lanes := gatherLanes f s.cur data } (baseEA s.cur (.ld f)) (f.ty.width / 8)).next s

/-- Bytes of a vault access (R186). -/
def vaultSize (f : MemNode) : Nat := if f.v then 64 else f.ty.width / 8

/-- VLD (R186). -/
def execVld (f : MemNode) (s : State) : Host.Outcome State Fault Refusal :=
  (memNode (.vld f) s.cur fun id o => vaultOp id { o with isLoad := true } s.cur f.l f.lit (vaultSize f) []).next s

/-- VST (R186). -/
def execVst (f : MemNode) (s : State) : Host.Outcome State Fault Refusal :=
  (memNode (.vst f) s.cur fun id o => vaultOp id { o with isStore := true } s.cur f.l f.lit (vaultSize f)
    (leBytes (orNull s.cur.b).wide.toNat (vaultSize f))).next s

/-- A read-modify-write at home: both a load and a store for order (R182). -/
def rmwNode (i : Instr) (f : MemNode) (s : State) : Host.Outcome State Fault Refusal :=
  (memNode i s.cur fun id o =>
    let ea := baseEA s.cur (.ld f)
    let size := f.ty.width / 8
    addressOp id { o with isLoad := true, isStore := true, lanes := [newLane 0 ea size []] } ea size).next s

/-- ATOM (R189). -/
def execAtom (f : MemNode) (s : State) : Host.Outcome State Fault Refusal := rmwNode (.atom f) f s
/-- CAS (R190). -/
def execCas (f : MemNode) (s : State) : Host.Outcome State Fault Refusal := rmwNode (.cas f) f s
/-- STMC (R187): on a replica page it writes every replica; else it is ST with G = 1. -/
def execStmc (f : MemNode) (s : State) : Host.Outcome State Fault Refusal := storeNode (.stmc f) f s (f.ty.width / 8)

/-- FENCE (R191). -/
def execFence (f : MemNode) (s : State) : Host.Outcome State Fault Refusal := (memNode (.fence f) s.cur plainOp).next s
/-- XFI (R192). -/
def execXfi (f : MemNode) (s : State) : Host.Outcome State Fault Refusal := (memNode (.xfi f) s.cur plainOp).next s
/-- XFW (R193). -/
def execXfw (f : MemNode) (s : State) : Host.Outcome State Fault Refusal := (memNode (.xfw f) s.cur plainOp).next s

/-- MWAIT (R194). -/
def execMwait (f : MemNode) (s : State) : Host.Outcome State Fault Refusal :=
  (memNode (.mwait f) s.cur fun id o =>
    let ea := baseEA s.cur (.ld f)
    addressOp id { o with isLoad := true, lanes := [newLane 0 ea 8 []] } ea 8).next s

/-- PREF (R195): never faults; it resolves at issue, and its line comes into the L1 or the die's L2 by a request of its own
that nothing waits for. -/
def execPref (f : MemNode) (s : State) : Host.Outcome State Fault Refusal :=
  (memNode (.pref f) s.cur fun id o => .all [
    plainOp id o,
    withSerial fun own =>
      let ea := baseEA s.cur (.ld f)
      .seq (addOp own { o with isLoad := true, resolved := true, lanes := [newLane 0 ea 1 []] }) (translateOp own)]).next s

/-- BND (R196): a null value still performs the release, and null goes out. -/
def execBnd (f : MemNode) (s : State) : Host.Outcome State Fault Refusal :=
  let c := s.cur
  Cmd.next (if c.poison?.isNone && c.predOk f.pred && !(orNull c.p).isNull then
      withSerial fun id => .seq (markFired c) (.get fun s => plainOp id (newOp (.bnd f) c s))
    else memNode (.bnd f) c plainOp) s

end Sys2Proof.Machine
end

