-- ==== Sys2Proof/Machine/EngineMem.lean ====
section
/-! DEFINITION. Memory as engines reach it (R255, R262, R263, R268, R287): reads at an engine's timestamp, G = 1 writes at
home, engine fault records (R202), and the writing of status words and stamps (R307, R439, R400). -/

namespace Sys2Proof.Machine

/-- What an engine does with a page; `any` asks for no permission, where the access has been checked before. -/
inductive Use where
  | read | write | image | any
deriving DecidableEq, Repr

/-- Translate for an engine or the loader: the entry, or a cause with its DETAIL. -/
def State.engEntry (s : State) (die vd : Nat) (va : Nat) (u : Use) : Except (Nat × Nat) TlbEntry :=
  if 2 ^ 64 ≤ va then .error (causeXlate, 3)
  else s.engineTranslate die vd (BitVec.ofNat 64 va) (u == .read) (u == .write) (u == .image)

/-- The home die of an address under an entry. -/
def State.entryHome (s : State) (e : TlbEntry) (va : Nat) : Nat :=
  if pteRep e.pte then e.nearDie else s.homeDie (e.phys (BitVec.ofNat 64 va))

/-- The first piece of a range that an engine may not use: cause, DETAIL and address. -/
def State.engError (s : State) (die vd va n : Nat) (u : Use) : Option (Nat × Nat × Nat) :=
  (pieces va n).findSome? fun (a, l) => match s.engEntry die vd a u with
    | .error (c, d) => some (c, d, a)
    | .ok e =>
      let pa := e.phys (BitVec.ofNat 64 a)
      if paWindow pa == 0 && !s.l2Ready (s.entryHome e a) then some (causePageLost, 0, a)
      else if u == .write || pteCC e.pte == 3 then none
      else if s.lostAt pa l then some (causePageLost, 0, a)
      else if s.poisonedAt pa l then some (causeEcc, 0, a) else none

/-- What an engine asks of a home: a read there, a write at a pts, or a renewal at a pts with a lease. -/
inductive Ask where
  | home
  | store (p : Stamp)
  | renew (p : Stamp) (lease : Nat)
deriving DecidableEq, Repr

/-- Whether an engine's access to a range waits: at home for a locked line (R281), a way (R260) or the issue cap (R266), on the
die for a suspect copy (R282). -/
def State.engWaits (s : State) (die vd va n : Nat) (ask : Ask) : Bool :=
  (pieces va n).any fun (a, _) => match s.engEntry die vd a .any with
    | .error _ => false
    | .ok e =>
      let pa := e.phys (BitVec.ofNat 64 a)
      let line := pa / 128
      let home := s.entryHome e a
      let copy := if home = die then none else s.mem.l2.get? (l2Key die line)
      paWindow pa == 0 && (s.homeBusy home line vd || (match ask with
        | .home => false
        | .store p => s.beyondCap home (Stamp.max (floorPts (s.hzn die) p) (s.homeRts home line + 1))
        | .renew p lease => match copy with
          | some c => c.suspect || (!Stamp.notAfter (floorPts (s.hzn die) p) c.rts &&
              s.beyondCap home (Stamp.max (s.homeRts home line) (floorPts (s.hzn die) p + BitVec.ofNat 16 lease)))
          | none => s.beyondCap home (Stamp.max (s.homeRts home line) (floorPts (s.hzn die) p + BitVec.ofNat 16 lease))))

/-- The arbiters that an engine's access to a range passes on its way to the homes of its lines (R371): none for a line whose
leased copy on the die serves it. -/
def State.engArbiters (s : State) (die vd va n : Nat) (ask : Ask) : List (Nat × Nat) :=
  (pieces va n).flatMap fun (a, _) => match s.engEntry die vd a .any with
    | .error _ => []
    | .ok e =>
      let pa := e.phys (BitVec.ofNat 64 a)
      let home := s.entryHome e a
      let near := match ask with
        | .renew p _ => home != die && pteCC e.pte == 0 && (match s.mem.l2.get? (l2Key die (pa / 128)) with
          | some c => Stamp.notAfter (floorPts (s.hzn die) p) c.rts && !c.suspect
          | none => false)
        | _ => false
      if near then [] else s.arbiters die home pa (match ask with | .store _ => 1 | _ => 2)

/-- One piece read at a timestamp (R263): the leased copy of the engine's die when there is one, else home. -/
def State.engPiece (s : State) (die vd a l : Nat) (p : Stamp) (lease : Option Nat) : List Byte × Stamp :=
  match s.engEntry die vd a .any with
  | .error _ => (List.replicate l 0, p)
  | .ok e =>
    let pa := e.phys (BitVec.ofNat 64 a)
    let line := pa / 128
    if paWindow pa = 2 then (s.physRead pa l, p)
    else
      let atHome := (((s.homeBytes line).drop (pa % 128)).take l, s.homeWts (s.entryHome e a) line)
      if lease.isNone || pteCC e.pte != 0 || s.entryHome e a = die then atHome
      else match s.mem.l2.get? (l2Key die line) with
        | some c => if Stamp.notAfter p c.rts && !c.suspect then
            match s.copyBytes c p line (pa % 128) l with
            | some (bs, ids) => (bs, s.copyWts c line ids)
            | none => atHome
          else atHome
        | none => atHome

/-- Bytes of a range as an engine reads them, with its pts after the read (R263). -/
def State.engBytes (s : State) (die vd va n : Nat) (p : Stamp) (lease : Option Nat) : List Byte × Stamp :=
  let p := floorPts (s.hzn die) p
  (pieces va n).foldl (fun (acc, w) (a, l) => let (bs, x) := s.engPiece die vd a l p lease; (acc ++ bs, Stamp.max w x)) ([], p)

/-- wts of the line of an address, read at home (R262). -/
def State.wtsAt (s : State) (die vd va : Nat) : Stamp := match s.engEntry die vd va .any with
  | .error _ => s.hzn die
  | .ok e => s.homeWts (s.entryHome e va) (e.phys (BitVec.ofNat 64 va) / 128)

/-- The L2 copy of a line that an engine's renewal leaves on its die (R268). -/
def State.engCopy (s : State) (die line : Nat) (wts rts : Stamp) (vd : Nat) : Copy :=
  let fresh : Copy := ⟨wts, rts, s.homeBytes line, s.readable line, List.replicate 128 [], false, vd, s.now⟩
  match s.mem.l2.get? (l2Key die line) with | some c => c.renewed fresh | none => fresh

/-- The reads of a range: the homes' use, and the leases that they renew (R263, R268). -/
def engTouch (die vd va n : Nat) (p : Stamp) (lease : Option Nat) : Cmd :=
  Cmd.each (pieces va n) fun (a, _) => .get fun s => match s.engEntry die vd a .any with
    | .error _ => .skip
    | .ok e =>
      let pa := e.phys (BitVec.ofNat 64 a)
      let line := pa / 128
      let home := s.entryHome e a
      .when (paWindow pa == 0) (.seq (fillHome home line vd (pteKey e.pte)) (match lease with
        | none => .skip
        | some n => .when (pteCC e.pte == 0) (.get fun t => match t.mem.homes.get? line with
          | none => .skip
          | some h =>
            let q := floorPts (t.hzn die) p
            let new := Stamp.max h.rts (q + BitVec.ofNat 16 n)
            let held := match t.mem.l2.get? (l2Key die line) with | some c => Stamp.notAfter q c.rts | none => false
            .when (!held && !t.beyondCap home new) (.all [
              .prim (.mem fun m => { m with homes := m.homes.mod line fun h => { h with rts := new } }),
              bumpHzn home new,
              .when (home != die) (.seq
                (.prim (.mem fun m => { m with l2 := m.l2.set (l2Key die line) (t.engCopy die line h.wts new vd) }))
                (trimSet die line vd))]))))

/-- A line homed off the writer's die stays locked until its acknowledgement is confirmed (R281): two ways over the couplers
(log 112). -/
def lockAway (die home line : Nat) : Cmd := .get fun s => .when (home != die && !s.lockedLine line)
  (withSerial fun id => .seq (lockHome id line) (after 72 (.ackConfirm id)))

/-- Writes of an engine: G = 1 at home, each line with a new wts (R264, R281, R287); D and the dirty bitmap follow (R392, R229).
`raise` takes each wts. -/
def engWriteAs (u : Use) (die vd va : Nat) (bs : List Byte) (p : Stamp) (raise : Stamp → Cmd) : Cmd :=
  Cmd.each (pieces va bs.length) fun (a, l) => .get fun s => match s.engEntry die vd a u with
    | .error _ => .skip
    | .ok e =>
      let pa := e.phys (BitVec.ofNat 64 a)
      let line := pa / 128
      let data := (bs.drop (a - va)).take l
      let home := s.entryHome e a
      .all [
        setDirty die vd (BitVec.ofNat 64 a),
        if paWindow pa = 2 then physWrite pa data
        else .seq (fillHome home line vd (pteKey e.pte)) (.get fun t =>
          let w := Stamp.max (floorPts (t.hzn die) p) (t.homeRts home line + 1)
          .all [lockAway die home line, stampHome home line w, homeWrite pa data, raise w]),
        markDirty pa (e.size != 65536),
        notifyLine line]

def engWrite (die vd va : Nat) (bs : List Byte) (p : Stamp) (raise : Stamp → Cmd) : Cmd := engWriteAs .write die vd va bs p raise

/-- A little-endian number at an address, read at home. -/
def State.engNat (s : State) (die vd va n : Nat) : Nat := leNat (s.engBytes die vd va n 0 none).1

/-- A fault record of an engine to a context's ring (R202, R327). -/
def engFault (ctx die cause addr detail : Nat) : Cmd := .get fun s =>
  writeRecord (s.engineRecord ctx die cause (BitVec.ofNat 64 addr) detail)

/-- The record of a unit's failed request: cause ENGINE with DETAIL = STATUS, and RGN, TAG and ADDR of the request (R202). -/
def engineStatus (f : Firing) (cause status : Nat) (addr : W64) : Cmd := .get fun s =>
  writeRecord { s.engineRecord f.ctx (dieOf f.sid) cause addr status with rgn := f.rgn, tag := f.tag }

/-- A record to the handler of a VD's supervisor context (R299, R300). -/
def supervisorFault (vd die cause addr : Nat) : Cmd := .get fun s =>
  writeToSupervisor vd { s.engineRecord 0 die cause (BitVec.ofNat 64 addr) 0 with vd := vd }

/-! ### Jobs -/

/-- An empty job. -/
def Job.blank (die vd ctx : Nat) : Job where
  kind := .copy
  die := die
  vd := vd
  ctx := ctx
  queue := none
  state := .waiting
  packet := []
  extents := []
  declared := false
  src := none
  dst := none
  stamp := 0
  sval := 0
  irq := false
  status := 0
  flags := 0
  bytes := 0
  pts := 0
  target := 0
  area := 0
  sent := 0
  got := 0
  expected := 0
  left := 0
  rows := []
  addr := 0
  vala := 0
  valb := 0

def setJob (n : Nat) (j : Job) : Cmd := .prim (.eng fun e => { e with jobs := e.jobs.set n j })
def dropJob (n : Nat) : Cmd := .prim (.eng fun e => { e with jobs := e.jobs.del n })
def State.job? (s : State) (n : Nat) : Option Job := s.eng.jobs.get? n

/-- Whether the writing of a stamp, and of a word after it, waits at home. -/
def State.stampWaits (s : State) (die vd stamp : Nat) (word : Bool) (p : Stamp) : Bool :=
  s.engWaits die vd stamp (if word then 16 else 8) (.store p)

/-- The writing of a word and then a stamp (R307, R439): `word` at stamp + 8 when there is one, then the
8 bytes of `sval` at the stamp, a release that covers the word (R287). `fail` gets the cause and the address when either
cannot be written; `written` follows when both are. -/
def writeStamp (die vd stamp : Nat) (word : Option Nat) (sval : Nat) (p : Stamp) (fail : Nat → Nat → Cmd)
    (written : Cmd) : Cmd := .get fun s =>
  let bad := match word with
    | some _ => match s.engError die vd (stamp + 8) 8 .write with | some x => some x | none => s.engError die vd stamp 8 .write
    | none => s.engError die vd stamp 8 .write
  match bad with
  | some (cause, _, a) => fail (if cause = causeProt then causeProt else causeXlate) a
  | none => .all [
      (match word with | some w => engWrite die vd (stamp + 8) (leBytes w 8) p (fun _ => .skip) | none => .skip),
      .get fun t => engWrite die vd stamp (leBytes sval 8)
        (if word.isSome then Stamp.max p (t.wtsAt die vd (stamp + 8)) else p) (fun _ => .skip),
      written]

end Sys2Proof.Machine
end

