-- ==== Sys2Proof/Machine/Tags.lean ====
section
/-! DEFINITION. Tag instructions (R119 to R130): tag rewriting, loop windows, and requests to the tag pool. -/

namespace Sys2Proof.Machine

/-- A node whose results carry a tag of its own (R119, R120): a fault gives way to arriving poison (R106). A wrong level or depth
faults also where the firing is null or predicated off, which R119 leaves open (log 47). -/
def tagNode (f : Firing) (h : Hdr) (g : Sig) (fault : Option Nat) (tag : W64) (v : Val) : Cmd :=
  match fault with
  | none => node f h g 1 tag (emit f h 1 tag v)
  | some cause => .seq (markFired f) (match f.poison? with
    | some o => emitPoison f h 1 f.tag o
    | none => raiseFault f h 1 cause)

/-- ILLEGAL unless a condition holds. -/
def illegalUnless (b : Bool) : Option Nat := if b then none else some causeIllegal

/-- ENTER (R119, R120). -/
def execEnter (f : TagNode) (s : State) : Host.Outcome State Fault Refusal :=
  let c := s.cur
  let d := tagDepth c.tag
  let fault := if 8 ≤ d then some causeTagdepth else illegalUnless (f.lvl.toNat == d)
  (tagNode c f.toHdr (Instr.enter f).sig fault (mkTag (tagDomain c.tag) (d + 1) ((tagFields c.tag).set d 0)) (f.ty.pass (orNull c.a))).next s

/-- EXIT (R119, R120). -/
def execExit (f : TagNode) (s : State) : Host.Outcome State Fault Refusal :=
  let c := s.cur
  let d := tagDepth c.tag
  (tagNode c f.toHdr (Instr.exit f).sig (illegalUnless (d != 0 && f.lvl.toNat + 1 == d)) (cutTag c.tag (d - 1))
    (f.ty.pass (orNull c.a))).next s

/-! ### Loop windows (R121, R122) -/

/-- Whether an iteration lies at or after FINAL. An iteration that is not in the window any more lies before HEAD; with k = 64
the one just before HEAD has the number of the window's last, and is taken for it unless it is FINAL itself (log 120). -/
def LoopWin.pastFinal (w : LoopWin) (i : Nat) : Bool := match w.final with
  | some fi => i == fi || (w.pos fi < w.pos i && w.pos i < min w.k 63)
  | none => false

/-- k of a window: KB + 1 of its BOUND, which lies on the same element (R121). -/
def Element.boundK (e : Element) (frm nodeNo : Nat) : Nat :=
  match e.slots.find? fun (_, sl) => sl.frm == frm && sl.node == nodeNo with
  | some (_, sl) => match decode sl.word with | .ok (.bound b) => b.kb.toNat + 1 | _ => 64
  | none => 64

/-- "Advance" of R122: whether the window is freed, and the window after. -/
def LoopWin.advance (w : LoopWin) : Nat → Bool × LoopWin
  | 0 => (false, w)
  | fuel + 1 =>
    if w.done.getLsbD w.head then
      let w' := { w with done := w.done &&& ~~~(1#64 <<< w.head) }
      if w.final = some w.head then (true, w')
      else LoopWin.advance { w' with head := (w.head + 1) % 64, adv := (w.adv + 1) % 4294967296 } fuel
    else (false, w)

/-- The window of a key, opened when a place is free; without one the firing parks (R122). `k` goes on with the window. -/
def withWindow (i : Instr) (f : Firing) (nodeNo : Nat) (outer : W64) (k : LoopWin → Cmd) : Cmd := .get fun s =>
  let e := s.elem f.sid
  match e.windows.find? fun w => w.isKey f.frm nodeNo outer with
  | some w => k w
  | none =>
    if e.windows.length < Config.windowCount then
      let w : LoopWin := ⟨f.frm, nodeNo, outer, 0, 0, e.boundK f.frm nodeNo, 0, none⟩
      .seq (modElem f.sid fun e => { e with windows := e.windows ++ [w] }) (k w)
    else park i f .loopWindow

def setWindow (sid : Nat) (w : LoopWin) : Cmd :=
  modElem sid fun e => { e with windows := e.windows.map fun x => if x.isKey w.frm w.node w.outer then w else x }

/-- A NEXT's window key and iteration. -/
def nextKey (f : TagNode) (c : Firing) : Nat × W64 × Nat :=
  (f.lit.toNat % 128, cutTag c.tag f.lvl.toNat, tagField c.tag f.lvl.toNat)

/-- A parked NEXT of a window with its iteration. -/
def Parked.nextOf (p : Parked) (w : LoopWin) : Option Nat :=
  match p.i with
  | .next f => let (n, outer, i) := nextKey f p.f; if w.isKey p.f.frm n outer then some i else none
  | _ => none

/-- Whether a parked firing waits for some window to free. -/
def Parked.waitsWindow (p : Parked) (ws : List LoopWin) : Bool :=
  match p.why with
  | .loopWindow => ws.all fun w => match p.i with
    | .bound _ => !w.isKey p.f.frm p.f.node (cutTag p.f.tag (tagDepth p.f.tag - 1))
    | _ => (p.nextOf w).isNone
  | _ => false

/-- Insert by a key, stably. -/
def insertBy {α : Type} (key : α → Nat) (x : α) : List α → List α
  | [] => [x]
  | y :: ys => if key x < key y then x :: y :: ys else y :: insertBy key x ys
def sortBy {α : Type} (key : α → Nat) (xs : List α) : List α := xs.foldl (fun acc x => insertBy key x acc) []

/-- After a BOUND (R122): parked NEXTs that are admissible fire, oldest iteration first; those at or after FINAL take fault
ILLEGAL. -/
def settleWindow (sid : Nat) (w : LoopWin) (freed : Bool) : Cmd := .get fun s =>
  let e := s.elem sid
  let mine := sortBy (·.1) (e.parked.filterMap fun p => (p.nextOf w).map fun i => (w.pos i, i, p))
  .all [
    Cmd.each mine fun (_, i, p) =>
      if freed || w.pastFinal i then
        let drop := Cmd.seq (forgetParked p) (markFired p.f)
        match p.i.view with
        | some v => .seq drop (raiseFault p.f v.hdr 1 causeIllegal)
        | none => drop
      else .when (w.pos ((i + 1) % 64) < w.k) (release p),
    .when freed (.all [
      modElem sid fun e => { e with windows := e.windows.filter fun x => !x.isKey w.frm w.node w.outer },
      releaseWhere sid fun p => p.waitsWindow e.windows])]

/-- NEXT (R119, R122). -/
def execNext (f : TagNode) (s : State) : Host.Outcome State Fault Refusal :=
  let c := s.cur
  let h := f.toHdr
  let d := tagDepth c.tag
  let lvl := f.lvl.toNat
  let g := (Instr.next f).sig
  if d = 0 ∨ lvl + 1 ≠ d then (tagNode c h g (some causeIllegal) c.tag (f.ty.pass (orNull c.a))).next s else
  let (n, outer, i) := nextKey f c
  let i' := (i + 1) % 64
  let tag := setField c.tag lvl i'
  (withWindow (.next f) c n outer fun w =>
    if c.poison?.isSome then tagNode c h g none tag (f.ty.pass (orNull c.a))
    else if w.pastFinal i then tagNode c h g (some causeIllegal) c.tag (f.ty.pass (orNull c.a))
    else if w.pos i' < w.k then tagNode c h g none tag (f.ty.pass (orNull c.a))
    else park (.next f) c .loopWindow).next s

/-- BOUND (R119, R122, R123): its window update comes first, also for a null, poison or predicated-off firing. -/
def execBound (f : TagNode) (s : State) : Host.Outcome State Fault Refusal :=
  let c := s.cur
  let h := f.toHdr
  let d := tagDepth c.tag
  let lvl := f.lvl.toNat
  let g := (Instr.bound f).sig
  if d = 0 ∨ lvl + 1 ≠ d then (tagNode c h g (some causeIllegal) c.tag (f.ty.pass (orNull c.a))).next s else
  let outer := cutTag c.tag lvl
  let j := tagField c.tag lvl
  (withWindow (.bound f) c c.node outer fun w =>
    let late := match w.final with | some fi => w.pos fi < w.pos j | none => false
    if w.k ≤ w.pos j || w.done.getLsbD j || late then tagNode c h g (some causeIllegal) c.tag (f.ty.pass (orNull c.a))
    else
      let goes := c.poison?.isNone && !c.off h.pred && (orNull c.b).word.getLsbD 0
      let w1 := { w with done := w.done ||| (1#64 <<< j), final := if goes then w.final else some j }
      let (freed, w2) := w1.advance 65
      .all [
        setWindow c.sid w2,
        .when freed (modInst c.ctx c.rgn c.frm (tagDomain c.tag) fun ins => { ins with
          wins := ins.wins ++ [(c.node, outer, (s.orderPrefix c).dropLast.dropLast)] }),
        settleWindow c.sid (if freed then w1 else w2) freed,
        tagNode c h g none c.tag (f.ty.pass (orNull c.a)),
        tryCommit c.ctx c.rgn c.frm (tagDomain c.tag)]).next s

/-! ### Reading and rewriting tags -/

/-- TAGGET (R124). -/
def execTagget (f : TagNode) (s : State) : Host.Outcome State Fault Refusal :=
  let c := s.cur
  let t := c.tag
  let d := tagDepth t
  let l := f.lvl.toNat
  let x := match f.sub.toNat with
    | 0 => if l < d then tagField t l else 0
    | 1 => d
    | 2 => t.toNat
    | 3 => tagDomain t
    | _ => if l + 1 < d then tagField t l + 64 * tagField t (l + 1) else 0
  (compute c f.toHdr (Instr.tagget f).sig 1 (f.ty.scalarVal x)).next s

/-- TAGSET (R125): b is operand b or LIT. -/
def execTagset (f : TagNode) (s : State) : Host.Outcome State Fault Refusal :=
  let c := s.cur
  let h := f.toHdr
  let l := f.lvl.toNat
  let v := natBits (litOr f.l f.lit c.b).toNat 5 0
  let g := (Instr.tagset f).sig
  Cmd.next (if c.poison?.isSome || c.off h.pred then tagNode c h g none c.tag (f.ty.pass (orNull c.a))
    else tagNode c h g (illegalUnless (l < tagDepth c.tag)) (setField c.tag l v) (f.ty.pass (orNull c.a))) s

/-- RETAG (R126): the tag comes from operand b; a null a or b gives null under a's tag. -/
def execRetag (f : TagNode) (s : State) : Host.Outcome State Fault Refusal :=
  let c := s.cur
  let h := f.toHdr
  let b := (orNull c.b).word
  let dom := if f.sub = 0 then tagDomain c.tag else tagDomain b
  let d := tagDepth b
  let high := (List.range 8).any fun k => decide (d ≤ k) && tagField b k != 0
  let t := BitVec.ofNat 64 (b.toNat % 2 ^ 52 + dom * 2 ^ 52)
  let inRange := match s.ctx? c.ctx with | some x => x.cbase ≤ dom && dom < x.cbase + x.image.dcount | none => true
  let g := (Instr.retag f).sig
  let fault := if 8 < d || high then some causeIllegal else if !inRange then some causeTagrange else none
  Cmd.next (if c.poison?.isSome || c.off h.pred then tagNode c h g none c.tag (f.ty.pass (orNull c.a))
    else tagNode c h g fault t (f.ty.pass (orNull c.a))) s

/-- TAGCMP (R127). -/
def execTagcmp (f : TagNode) (s : State) : Host.Outcome State Fault Refusal :=
  let c := s.cur
  let t := c.tag
  let u := (orNull c.a).word
  let l := f.lvl.toNat
  let deep := decide (l < tagDepth t) && decide (l < tagDepth u)
  let r := match f.sub.toNat with
    | 0 => t == u
    | 1 => tagDomain t == tagDomain u && deep && (List.range l).all fun k => tagField t k == tagField u k
    | _ => let x := (tagField u l + 64 - tagField t l) % 64
           deep && decide (1 ≤ x) && decide (x ≤ 31)
  (compute c f.toHdr (Instr.tagcmp f).sig 1 (.bit r)).next s

/-! ### The tag pool (R128 to R130) -/

/-- Cycles from an element to the job scheduler of the context's home die, one way (R128). -/
def poolLatency (s : State) (f : Firing) : Nat :=
  match s.ctx? f.ctx with | some c => if c.homeDie = dieOf f.sid then 6 else 15 | none => 6

/-- Send a request to the pool; the operands stay held until the reply (R129, R130). -/
def askPool (i : Instr) (f : Firing) (ret : Option Nat) : Cmd := .get fun s => withSerial fun n => .all [
  .prim (.blocks fun r => { r with pools := r.pools.set n ⟨i, f, ret, none, none⟩ }),
  after (poolLatency s f) (.poolRequest n)]

/-- SPAWN (R119, R129): asks the pool for an activation number. -/
def execSpawn (f : TagNode) (s : State) : Host.Outcome State Fault Refusal :=
  let c := s.cur
  let d := tagDepth c.tag
  let fault := if 7 ≤ d then some causeTagdepth else illegalUnless (f.lvl.toNat == d)
  Cmd.next (match fault with
    | some e => tagNode c f.toHdr (Instr.spawn f).sig (some e) c.tag (f.ty.pass (orNull c.a))
    | none => askPool (.spawn f) c none) s

/-- RETIRE (R119, R130): returns the activation number of its tag. -/
def execRetire (f : TagNode) (s : State) : Host.Outcome State Fault Refusal :=
  let c := s.cur
  let d := tagDepth c.tag
  let l := f.lvl.toNat
  Cmd.next (if d < 2 ∨ l + 2 ≠ d then tagNode c f.toHdr (Instr.retire f).sig (some causeIllegal) c.tag (f.ty.pass (orNull c.a))
    else askPool (.retire f) c (some (tagField c.tag l + 64 * tagField c.tag (l + 1)))) s

/-- A number that a SPAWN is granted: the instance counts it until its RETIRE (R239 item 6). -/
def grantPool (n : Nat) (q : PoolReq) (number : Nat) : Cmd := .get fun s => .all [
  modCtx q.f.ctx fun c => { c with pool := c.pool.drop 1 },
  modInst q.f.ctx q.f.rgn q.f.frm (tagDomain q.f.tag) fun i => { i with numbers := i.numbers ++ [number] },
  .prim (.blocks fun r => { r with pools := r.pools.set n { q with reply := some (some number) } }),
  after (poolLatency s q.f) (.poolReply n)]

/-- Serve the SPAWN requests that wait at a context's pool, oldest first (R128). -/
def servePool (ctx : Nat) : Nat → Cmd
  | 0 => .skip
  | fuel + 1 => .get fun s =>
    let waiting := sortBy (fun x : Nat × PoolReq => (x.2.reached).getD 0) (s.run.pools.filter fun (_, q) =>
      q.f.ctx == ctx && q.ret.isNone && q.reached.isSome && q.reply.isNone)
    match s.ctx? ctx, waiting with
    | some c, (n, q) :: _ => match c.pool with
      | number :: _ => .seq (grantPool n q number) (servePool ctx fuel)
      | [] => .skip
    | _, _ => .skip

/-- A number goes back: the instance that spawned it counts it no more (R239 item 6). -/
def returnNumber (ctx number : Nat) : Cmd := .get fun s => Cmd.each (s.regionsOf ctx) fun r =>
  Cmd.each r.frames.zipIdx fun (f, frm) => Cmd.each (f.insts.filter fun i => i.numbers.contains number) fun i => .seq
    (modInst ctx r.rgn frm i.dom fun i => { i with numbers := i.numbers.erase number }) (tryCommit ctx r.rgn frm i.dom)

/-- POOL_REQUEST (R128 to R130): the request reaches the scheduler. -/
def execPoolRequest (rq : Nat) (s : State) : Host.Outcome State Fault Refusal :=
  Cmd.next (match s.run.pools.get? rq with
    | none => .skip
    | some q =>
      let q' := { q with reached := some s.now }
      match q.ret with
      | none => .seq (.prim (.blocks fun r => { r with pools := r.pools.set rq q' })) (servePool q.f.ctx 1)
      | some n =>
        let isFree := match s.ctx? q.f.ctx with | some c => c.pool.contains n | none => true
        .all [
          .when (!isFree) (modCtx q.f.ctx fun c => { c with pool := c.pool ++ [n] }),
          .when (!isFree) (returnNumber q.f.ctx n),
          .prim (.blocks fun r => { r with
            pools := r.pools.set rq { q' with reply := some (if isFree then none else some n) } }),
          after (poolLatency s q.f) (.poolReply rq),
          servePool q.f.ctx 1]) s

/-- POOL_REPLY (R129, R130): the node's results go out under its new tag. -/
def execPoolReply (rq : Nat) (s : State) : Host.Outcome State Fault Refusal :=
  Cmd.next (match s.run.pools.get? rq with
    | none => .skip
    | some q =>
      let c := q.f
      let d := tagDepth c.tag
      let reply := q.reply.getD none
      .all [
        .prim (.blocks fun r => { r with pools := r.pools.del rq }),
        match q.i, reply with
        | .spawn f, some n =>
          let tag := mkTag (tagDomain c.tag) (d + 2) (((tagFields c.tag).set d (n % 64)).set (d + 1) (n / 64 % 64))
          let vb := if f.l then f.ty.literalVal f.v f.lit else f.ty.pass (orNull c.b)
          .seq (beginPts c.ctx c.rgn (dieOf c.sid) tag)
            (node c f.toHdr (Instr.spawn f).sig 1 tag (emit2 c f.toHdr 1 tag (f.ty.pass (orNull c.a)) vb))
        | .retire f, some _ => .all [
            endActs c.ctx c.rgn fun a => a == c.tag,
            freeHitches c.ctx c.rgn,
            modInst c.ctx c.rgn c.frm (tagDomain c.tag) fun n => { n with chain := n.chain.filter fun (a, _) => a != c.tag },
            tagNode c f.toHdr (Instr.retire f).sig none (cutTag c.tag (d - 2)) (f.ty.pass (orNull c.a))]
        | .retire f, none => tagNode c f.toHdr (Instr.retire f).sig (some causeIllegal) c.tag (f.ty.pass (orNull c.a))
        | _, _ => .skip,
        tryCommit c.ctx c.rgn c.frm (tagDomain c.tag)]) s

end Sys2Proof.Machine
end

