-- ==== Sys2Proof/Machine/Engine.lean ====
section
/-! DEFINITION. The engine class (R200 to R218): what each node checks and sends, replies and resolution (R201), the append
to work and launch queues (R211, R218), groups and collectives at a member (R213 to R217, R309, R310), and STORE_RESOLVE. -/

namespace Sys2Proof.Machine

/-! ### Requests and replies -/

/-- Operand a as 64-bit numbers; the bytes of a 512-bit packet. -/
def Firing.argA (f : Firing) : Nat := (orNull f.a).word.toNat
def Firing.argB (f : Firing) : Nat := (orNull f.b).word.toNat
def Firing.argC (f : Firing) : Nat := (orNull f.c).word.toNat
def Firing.packet (f : Firing) : List Byte := leBytes (orNull f.a).wide.toNat 64

/-- A little-endian field of a packet. -/
def field (bs : List Byte) (off n : Nat) : Nat := leNat ((bs.drop off).take n)

end Sys2Proof.Machine

namespace Sys2Proof

open Sys2Proof.Machine

/-- The scopes of a release at dispatch (R203): none, die, package, system. -/
def Instr.dispatchScope : Instr → Option Nat
  | .mxw _ | .mxa _ | .mxd _ => some 1
  | .mxsStat _ | .mxsClr _ | .mxsSync _ => none
  | .ceq _ | .grp _ => some 2
  | _ => some 3

end Sys2Proof

namespace Sys2Proof.Machine

/-- The request of an engine node, with its release at dispatch (R203). -/
def MemOp.request (o : MemOp) : MemOp :=
  match o.i.dispatchScope with | some sc => { o with ord := 2, scope := sc } | none => o

/-- Whether D0 of a row is valid: then it resolves when its reply is delivered (R201). -/
def MemOp.replies (o : MemOp) : Bool := o.i.hdr.d0.val

/-- A request has been accepted (R201): with no D0 it has resolved. -/
def acceptOp (id : Nat) : Cmd := .get fun s => match s.op? id with
  | none => .skip
  | some o => .when (!o.replies) (.all [.when (!o.resolved) (orderOp id o), finishOp id])

/-- A request whose reply is still to come has been accepted: with no D0 it resolves now (R201). -/
def acceptEarly (id : Nat) : Cmd := .get fun s => match s.op? id with
  | none => .skip
  | some o => .when (!o.replies) (.all [
      .when (!o.resolved) (orderOp id o),
      modOp id fun x => { x with performed := 3 },
      tryCommit o.f.ctx o.f.rgn o.f.frm o.dom])

/-- The reply of a request goes to D0 and D1 (R201, R74); with a D0 it resolves once the token has been delivered. -/
def replyOp (id : Nat) (v0 v1 : Val) : Cmd := .get fun s => match s.op? id with
  | none => .skip
  | some o => .all [
      emitReply o 1 v0 v1,
      .when o.i.hdr.d0.val (capture o.f.ctx ⟨2, o.f.rgn, BitVec.ofNat 32 (o.f.destA 0 o.i.hdr.d0), o.f.tag, v0.payload⟩),
      .when o.i.hdr.d1.val (capture o.f.ctx ⟨2, o.f.rgn, BitVec.ofNat 32 (o.f.destA 1 o.i.hdr.d1), o.f.tag, v1.payload⟩),
      if o.replies then .seq (modOp id fun x => { x with phase := .acked }) (after 1 (.storeResolve id)) else acceptOp id]

def replyWord (id : Nat) (x : Nat) : Cmd := replyOp id (.scalar (BitVec.ofNat 64 x)) (.scalar (BitVec.ofNat 64 x))

/-- Whether the reply token of a request is still on its way to D0. -/
def State.replyFlying (s : State) (o : MemOp) : Bool :=
  let d := o.i.hdr.d0
  let mine := fun (t : Token) => t.dx == o.f.d0x && t.dy == o.f.d0y && t.frm == o.f.frm && t.node == d.node.toNat &&
    t.port == d.port && t.tag == o.f.tag
  let e := s.elem (sidAt (dieOf o.f.sid) o.f.d0x o.f.d0y)
  ((s.elem o.f.sid).outs.any fun x => mine x.tok) || (s.fab.boxes.any fun (_, b) => b.bufs.any fun (_, t) => mine t) ||
    ([e.inC, e.inS, e.inV].any fun x => match x with | some t => mine t | none => false)

/-! ### Matrix unit packets (R204) -/

/-- The half of a unit that a node names, in effect: key, owner and grant (R204, R370). -/
def State.mxTarget (s : State) (die unit half : Nat) : Nat × Nat × Bool :=
  let own := s.svc.mxown.getD (64 * die + unit) ⟨0, 0, false, false, false, none⟩
  let second := own.split && half == 1
  (128 * die + 2 * unit + (if second then 1 else 0), if second then own.own1 else own.own0, if second then own.gr1 else own.gr0)

/-- The VD to which a unit half is granted (R370), by the half's key. -/
def State.halfOwner (s : State) (key : Nat) : Option Nat :=
  let (k, owner, granted) := s.mxTarget (key / 128) (key % 128 / 2) (key % 2)
  if granted && k == key then some owner else none

end Sys2Proof.Machine

namespace Sys2Proof

open Sys2Proof.Machine

/-- OP of an MX packet. -/
def Instr.mxOp : Instr → Nat
  | .mxw _ => 1 | .mxa _ => 2 | .mxd _ => 3 | _ => 4

/-- The fields of an engine node. -/
def Instr.engD (i : Instr) : EngNode :=
  match i.view with
  | some (.eng _ f) => f
  | _ => { toHdr := i.hdr, bank := false, half := false, lsid := 0, unit := 0, prv := 31, nxt := 31, last := false }

end Sys2Proof

namespace Sys2Proof.Machine

/-- The 64 bytes of an MX packet (R204). -/
def State.mxPacket (s : State) (o : MemOp) : List Byte :=
  let f := o.i.engD
  let c := o.f
  let wide := match o.i with | .mxd _ => (c.argC / 2 ^ 20 % 4 == 1 || c.argC / 2 ^ 20 % 4 == 2) | _ => false
  leBytes o.i.mxOp 1 ++ leBytes f.ty.code.toNat 1 ++ leBytes ((if f.bank then 1 else 0) + (if f.half then 2 else 0)) 1 ++
  leBytes f.sub.toNat 1 ++ leBytes c.argA 4 ++ leBytes c.argB 4 ++ leBytes (if wide then c.argA / 2 ^ 32 else 0) 4 ++
  leBytes c.argC 8 ++ leBytes c.tag.toNat 8 ++ leBytes (destWord f.d0 c.d0x c.d0y c.frm) 4 ++
  leBytes (destWord f.d1 c.d1x c.d1y c.frm) 4 ++ leBytes c.ctx 2 ++ leBytes (s.vdOfCtx c.ctx) 1 ++ leBytes 0 13 ++
  leBytes (if wide then c.argB / 2 ^ 32 else 0) 8

/-- Send an MX packet to the unit's edge port (R204). -/
def sendMx (id : Nat) (o : MemOp) : Cmd := .get fun s =>
  let f := o.i.engD
  let t : Token := {
    dx := 2 * (f.unit.toNat % 32)
    dy := if f.unit.toNat < 32 then 25 else 24
    frm := o.f.frm
    node := o.f.node
    port := .a
    sx := xOf o.f.sid
    sy := yOf o.f.sid
    tag := o.f.tag
    val := .vector (BitVec.ofNat 512 (leNat (s.mxPacket o))) }
  .seq (modOp id fun x => { x with phase := .sent }) (putOut o.f.sid o.f.fid 2 1 t)

/-- An MX node (R204): the grant is checked at firing. -/
def mxNode (i : Instr) (f : EngNode) (s : State) : Host.Outcome State Fault Refusal :=
  (memNode i s.cur fun id o => .get fun s =>
    let (_, owner, granted) := s.mxTarget (dieOf s.cur.sid) f.unit.toNat (if f.half then 1 else 0)
    if !granted || owner != s.vdOfCtx s.cur.ctx then .seq (addOp id o) (faultOp id o causeProt 0 0)
    else plainOp id o.request).next s

/-- MXW (R206). -/
def execMxw (f : EngNode) (s : State) : Host.Outcome State Fault Refusal := mxNode (.mxw f) f s
/-- MXA (R207). -/
def execMxa (f : EngNode) (s : State) : Host.Outcome State Fault Refusal := mxNode (.mxa f) f s
/-- MXD (R208). -/
def execMxd (f : EngNode) (s : State) : Host.Outcome State Fault Refusal := mxNode (.mxd f) f s
/-- MXS.stat (R209). -/
def execMxsStat (f : EngNode) (s : State) : Host.Outcome State Fault Refusal := mxNode (.mxsStat f) f s
/-- MXS.clr (R209). -/
def execMxsClr (f : EngNode) (s : State) : Host.Outcome State Fault Refusal := mxNode (.mxsClr f) f s
/-- MXS.sync (R209). -/
def execMxsSync (f : EngNode) (s : State) : Host.Outcome State Fault Refusal := mxNode (.mxsSync f) f s

/-! ### Queue appends (R211, R218) -/

/-- The check of a copy packet at CEQ and at take-up (R211). -/
def copyPacketOk (p : List Byte) : Bool :=
  1 ≤ field p 0 1 && field p 0 1 ≤ 5 && field p 1 1 < 4 && field p 3 1 == 0 && field p 56 7 == 0 && field p 24 8 % 8 == 0

/-- The check of a launch packet at LNCH and at take-up (R218). -/
def launchPacketOk (p : List Byte) : Bool :=
  (field p 32 1 ≤ 4 || field p 32 1 == 255) && field p 33 1 < 16 && field p 60 3 == 0 && field p 48 8 % 8 == 0

/-- Whether a slot count is a power of two from 2 to 65536 (R299). -/
def slotsOk (n : Nat) : Bool := 2 ≤ n && n ≤ 65536 && 2 ^ Nat.log2 n == n

/-- A slot that a CEQ or LNCH has claimed and not filled is voided (R211, R300): the device
writes there whatever the leaf permits. -/
def voidClaim (o : MemOp) : Cmd := .get fun s =>
  let vd := s.vdOfCtx o.f.ctx
  let die := dieOf o.f.sid
  let v := s.vd vd
  let table : Option Nat := match o.i with | .ceq _ => some v.wqbase.toNat | .lnch _ => some v.lqbase.toNat | _ => none
  Cmd.opt table fun t => .when (o.aux != 0 && !o.resolved && o.phase != .acked && o.phase != .done) (
    let desc := t + 64 * o.i.engD.unit.toNat
    let slots := s.engNat die vd (desc + 24) 4
    let slot := s.engNat die vd desc 8 + 64 * ((o.aux - 1) % max 1 slots)
    engWriteAs .any die vd (slot + 63) [0x02] (s.hzn die) fun _ => .skip)

/-- An access of a CEQ's M-element that fails (R211): XLATE holds the port, another cause ends the node; a claim that was made
is voided. -/
def appendFails (id : Nat) (o : MemOp) (cause detail va : Nat) : Cmd :=
  if cause = causeXlate then
    .seq (modOp id fun x => { x with lanes := [newLane 0 (BitVec.ofNat 64 va) 8 []] }) (holdOp id o causeXlate detail (BitVec.ofNat 64 va))
  else .seq (voidClaim o) (faultOp id o cause 0 (BitVec.ofNat 64 va))

/-- CEQ and LNCH once their release allows (R211): `aux` 0 before the claim, else 1 more than the claimed index. -/
def appendOp (id : Nat) (o : MemOp) (launch : Bool) : Cmd := .get fun s =>
  let die := dieOf o.f.sid
  let vd := s.vdOfCtx o.f.ctx
  let v := s.vd vd
  let desc := (if launch then v.lqbase else v.wqbase).toNat + 64 * o.i.engD.unit.toNat
  let again := after 8 (.storeResolve id)
  let mine := fun (w : Stamp) => raisePts o w
  match s.engError die vd desc 32 .read, s.engError die vd desc 32 .write with
  | some (cause, detail, a), _ | none, some (cause, detail, a) => appendFails id o cause detail a
  | none, none =>
    if s.engWaits die vd desc 64 (.store (s.opPts o)) then again
    else
      let d := (s.engBytes die vd desc 64 0 none).1
      let base := field d 0 8
      let slots := field d 24 4
      let widx := field d 8 8
      if o.aux = 0 then
        if !slotsOk slots || base % 64 != 0 || field d 31 1 % 2 = 0 then faultOp id o causeQueuefmt 0 (BitVec.ofNat 64 desc)
        else .all [
          engTouch die vd desc 64 0 none,
          engWrite die vd (desc + 8) (leBytes (widx + 1) 8) (s.opPts o) mine,
          modOp id fun x => { x with aux := widx + 1 },
          after (missCycles die 0) (.storeResolve id)]
      else
        let i := o.aux - 1
        let slot := base + 64 * (i % slots)
        if slots ≤ i - field d 16 8 then again
        else match s.engError die vd slot 64 .write with
          | some (cause, detail, a) => appendFails id o cause detail a
          | none =>
            if s.engWaits die vd slot 64 (.store (s.opPts o)) then again
            else .all [
              engWrite die vd slot (o.f.packet.take 63) (s.opPts o) mine,
              .get fun t => engWrite die vd (slot + 63) [0x01] (t.opPts o) mine,
              if o.replies then replyWord id i else .seq (replyWord id i) (acceptOp id)]

/-- CEQ (R211). -/
def execCeq (f : EngNode) (s : State) : Host.Outcome State Fault Refusal :=
  (memNode (.ceq f) s.cur fun id o =>
    if copyPacketOk s.cur.packet then plainOp id o.request else .seq (addOp id o) (faultOp id o causeQueuefmt 0 0)).next s

/-- LNCH (R218). -/
def execLnch (f : EngNode) (s : State) : Host.Outcome State Fault Refusal :=
  (memNode (.lnch f) s.cur fun id o =>
    if launchPacketOk s.cur.packet then plainOp id o.request else .seq (addOp id o) (faultOp id o causeQueuefmt 0 0)).next s

/-! ### Groups (R213, R309) -/

/-- The key of a member's view of a group slot: of its context on a die, for a region. -/
def groupKey (ctx slot die rgn : Nat) : Nat := 2 ^ 24 * rgn + 256 * ctx + 4 * slot + die
def groupDie (gk : Nat) : Nat := gk % 4
def groupSlot (gk : Nat) : Nat := gk / 4 % 64
def groupCtx (gk : Nat) : Nat := gk / 256 % 2 ^ 16
def groupRgn (gk : Nat) : Nat := gk / 2 ^ 24

def CollDesk.empty : CollDesk := ⟨[], false, []⟩
def Group.empty : Group := ⟨.empty, 0, [], 0, 0, false, none, none, [], [], none, CollDesk.empty⟩

def State.group (s : State) (gk : Nat) : Group := s.eng.groups.getD gk Group.empty
def modGroup (gk : Nat) (g : Group → Group) : Cmd :=
  .prim (.eng fun e => { e with groups := e.groups.set gk (g (e.groups.getD gk Group.empty)) })

/-- The GRP status word (R213). -/
def groupStatus (status rank count : Nat) : Nat := status + rank % 65536 * 2 ^ 8 + count % 65536 * 2 ^ 24

/-- A member of a list: package, die, RGNID (R213). -/
def memberAt (list : List Byte) (k : Nat) : Nat × Nat × Nat := (field list (8 * k) 2, natBits (field list (8 * k) 8) 17 16, field list (8 * k + 4) 2)
def memberReserved (list : List Byte) (k : Nat) : Bool :=
  natBits (field list (8 * k) 8) 31 18 != 0 || natBits (field list (8 * k) 8) 63 48 != 0
def members (list : List Byte) : List (Nat × Nat × Nat) := (List.range (list.length / 8)).map (memberAt list)

/-- Whether a package number is this package (R404). -/
def State.isHere (s : State) (pkg : Nat) : Bool := pkg == s.svc.pkgid

/-- The ranks of the firing region in a list. -/
def State.ranksOf (s : State) (list : List Byte) (f : Firing) : List Nat :=
  ((members list).zipIdx.filter fun ((p, d, r), _) => s.isHere p && d == dieOf f.sid && r == f.rgn).map (·.2)

/-- The VDs whose contexts hold a region of an RGNID on a die of this package. -/
def State.vdsOfRegion (s : State) (die rgn : Nat) : List Nat :=
  (s.run.regions.filter fun (_, r) => r.die == die && r.rgn == rgn && r.state != .gone).map fun (_, r) => s.vdOfCtx r.ctx

/-- The views of the slot that a firing names, of all members on its die: that it is the slot of a context's table (R213). -/
def State.slotViews (s : State) (f : Firing) (slot : Nat) : List (Nat × Group) :=
  s.eng.groups.filter fun (k, g) => g.state != .empty && k % 2 ^ 24 == groupKey f.ctx slot (dieOf f.sid) 0

/-- The member that a COLL or GRPX acts for: that of its region, or the lowest-ranked one of the slot (log 117). -/
def State.memberKey (s : State) (f : Firing) (slot : Nat) : Nat :=
  let own := groupKey f.ctx slot (dieOf f.sid) f.rgn
  let vs := s.slotViews f slot
  if vs.any fun (k, _) => k == own then own
  else match vs.foldl (fun (b : Option (Nat × Group)) x => match b with
      | some y => if x.2.rank < y.2.rank then some x else some y | none => some x) none with
    | some (k, _) => k | none => own

/-- The checks of GRP on its list (R213, R404): the STATUS of the first that fails. -/
def State.groupFails (s : State) (f : Firing) (list : List Byte) (count : Nat) : Option Nat :=
  let ms := members list
  let unrouted := ms.any fun (p, _, _) => !s.isHere p && s.svc.dbroute.getD p 0 == 0
  if count < 2 || 1024 < count || (List.range ms.length).any (memberReserved list) || unrouted then some 4
  else if (s.ranksOf list f).length != 1 then some 2
  else if ms.any fun (p, d, r) => s.isHere p && !(s.vdsOfRegion d r).isEmpty && !(s.vdsOfRegion d r).contains (s.vdOfCtx f.ctx) then some 5
  else none

/-- Whether another member of a slot declares a group there that does not list the firing's region, or the region itself
declares already: a GRP waits for it. -/
def State.slotTaken (s : State) (f : Firing) (slot : Nat) : Bool :=
  (s.slotViews f slot).any fun (_, g) => g.state == .declaring && (s.ranksOf g.list f).length != 1

/-- GRP once its release allows (R213, R309): the list is read at home and checked, the slot declares, and the members are
compared. -/
def groupOp (id : Nat) (o : MemOp) : Cmd := .get fun s =>
  let die := dieOf o.f.sid
  let vd := s.vdOfCtx o.f.ctx
  let slot := o.i.engD.unit.toNat
  let gk := groupKey o.f.ctx slot die o.f.rgn
  let g := s.group gk
  let count := o.f.argC
  let size := 8 * min count 1024
  let fail := fun (st : Nat) => Cmd.seq (modOp id fun x => { x with phase := .sent }) (.seq (replyWord id (groupStatus st 0 count)) (acceptOp id))
  if !s.svc.ready.getLsbD (36 + die) || g.state == .declaring || s.slotTaken o.f slot then after 1 (.storeResolve id)
  else if (s.slotViews o.f slot).any fun (_, x) => x.state == .intact || x.state == .leaving then fail 3
  else if count < 2 || 1024 < count then fail 4
  else match s.engError die vd o.f.argA size .read with
    | some (cause, detail, a) => appendFails id o cause detail a
    | none =>
      let list := (s.engBytes die vd o.f.argA size 0 none).1
      match s.groupFails o.f list count with
      | some st => fail st
      | none => .all [
          engTouch die vd o.f.argA size 0 none,
          modOp id fun x => { x with phase := .sent },
          modGroup gk fun _ => { Group.empty with
            state := .declaring, key := BitVec.ofNat 64 o.f.argB, list := list, count := count,
            rank := (s.ranksOf list o.f).headD 0, broken := g.state == .broken, grp := some id },
          acceptEarly id,
          after 1 (.groupDeclared (BitVec.ofNat 64 o.f.argB))]

/-- GRP (R213). -/
def execGrp (f : EngNode) (s : State) : Host.Outcome State Fault Refusal :=
  (memNode (.grp f) s.cur fun id o => plainOp id o.request).next s

/-! ### Collectives and GRPX (R214 to R217) -/

/-- The members on this package that were declared with the same key and list: rank and key. -/
def State.groupPeers (s : State) (g : Group) : List (Nat × Nat) :=
  (s.eng.groups.filter fun (_, x) => x.key == g.key && x.list == g.list && x.state != .empty).map fun (k, x) => (x.rank, k)

/-- The slot of the coordinator, rank 0 (R216). -/
def State.coordinator (s : State) (g : Group) : Option Nat := ((s.groupPeers g).find? fun (r, _) => r == 0).map (·.2)

/-- Cycles of a message between two dies of the package. -/
def hopCycles (a b : Nat) : Nat := if a = b then 16 else 36

/-- COLL once its release allows (R214): on a slot that is not intact it completes with BROKEN; else the member's unit
checks its boxes and reports (R310 step 1). The boxes are read by `start`, which the collective file supplies. -/
def collOp (id : Nat) (o : MemOp) (start : Nat → MemOp → Nat → Cmd) : Cmd := .get fun s =>
  let gk := s.memberKey o.f o.i.engD.unit.toNat
  let g := s.group gk
  let live := g.state == .intact || (g.state == .leaving && (match g.leave with | some l => id < l | none => false))
  match live with
  | true => if g.run.isSome then after 1 (.storeResolve id) else start id o gk
  | false => .all [modOp id fun x => { x with phase := .sent }, replyWord id 2, acceptOp id]

/-- COLL (R214). -/
def execColl (f : EngNode) (s : State) : Host.Outcome State Fault Refusal :=
  (memNode (.coll f) s.cur fun id o => plainOp id o.request).next s

/-- GRPX.leave (R217). -/
def execGrpxLeave (f : EngNode) (s : State) : Host.Outcome State Fault Refusal :=
  (memNode (.grpxLeave f) s.cur fun id o => plainOp id o.request).next s
/-- GRPX.break (R217). -/
def execGrpxBreak (f : EngNode) (s : State) : Host.Outcome State Fault Refusal :=
  (memNode (.grpxBreak f) s.cur fun id o => plainOp id o.request).next s

end Sys2Proof.Machine
end

