-- ==== Sys2Proof/Machine/Fabric.lean ====
section
/-! DEFINITION. Switch boxes (R37 to R42), the admission and matching of tokens (R25 to R32, R44), the Siding engine (R246 to
R253), and the stop wave (R45). -/

namespace Sys2Proof.Machine

/-! ### Switch boxes -/

/-- The VD that owns a domain (R368, R371): VD 0 when none does. -/
def State.vdOfDomain (s : State) (dom : Nat) : Nat :=
  match s.ten.vds.find? fun (_, v) => v.state != 0 && v.dbase ≤ dom && dom < v.dbase + v.dsize with | some (n, _) => n | none => 0

def dirBack : Dir → Dir | .north => .south | .south => .north | .east => .west | .west => .east | .loc => .loc
/-- The inputs in the order of R40. -/
def dirOrder : List Dir := [.north, .south, .east, .west, .loc]
def inputIndex (d : Dir) : Nat := (dirOrder.idxOf? d).getD 4

def Token.routeAt (t : Token) (sid : Nat) : Dir := routeDir (xOf sid) (yOf sid) t.dx t.dy

/-- The token in an output buffer (R34, R39): of the results of one destination field and network, the one written first. -/
def Element.buffer (e : Element) (now which : Nat) (net : Net) : Option OutTok :=
  e.outs.foldl (fun best o =>
    if o.which != which || o.tok.val.net != net || now < o.due then best
    else match best with
      | some b => if o.due < b.due then some o else best
      | none => some o) none

/-- What the output buffers of an element offer to an output of its box (R37): of the two, the token written first (R41). A buffer
offers its token from the cycle after it is written. -/
def State.localOffer (s : State) (sid : Nat) (net : Net) (out : Dir) : Option OutTok :=
  let ready := fun (which : Nat) => ((s.elem sid).buffer s.now which net).filter fun o => o.due < s.now && o.tok.routeAt sid == out
  match ready 0, ready 1, ready 2 with
  | some x, some y, _ => if y.due < x.due then some y else some x
  | some x, none, _ => some x
  | none, some y, _ => some y
  | none, none, z => z

/-- The token that an input of a box offers to an output (R37, R40): one that came in this very cycle moves on in the next
(R38). -/
def State.offer (s : State) (sid : Nat) (net : Net) (out input : Dir) : Option Token :=
  match input with
  | .loc => (s.localOffer sid net out).map (·.tok)
  | d =>
    let b := s.box (boxKey sid net)
    match b.bufs.find? fun (i, _) => i == d with
    | some (_, t) => if t.routeAt sid = out && !b.came.any (fun (i, c) => i == d && c == s.now) then some t else none
    | none => none

/-- The site beyond an output of a box; none at the edges. -/
def neighbour (sid : Nat) (out : Dir) : Option Nat :=
  match out with
  | .north => if yOf sid < 23 then some (sid + 64) else none
  | .south => if 0 < yOf sid then some (sid - 64) else none
  | .east => if xOf sid < 63 then some (sid + 1) else none
  | .west => if 0 < xOf sid then some (sid - 1) else none
  | .loc => some sid

/-- Take the offered token away. The buffer that it leaves is ready in the same cycle (R39): the next result of its unit is written
into an output buffer, and the box that feeds an input buffer may send into it. -/
def takeOffer (sid : Nat) (net : Net) (out input : Dir) (t : Token) : Cmd :=
  match input with
  | .loc => .get fun s => Cmd.opt ((s.localOffer sid net out).filter fun o => o.tok == t) fun o => .seq
      (modElem sid fun e => { e with outs := e.outs.erase o })
      (.get fun s' => Cmd.opt ((s'.elem sid).buffer s.now o.which net) fun n => .seq
        (modElem sid fun e => { e with outs := e.outs.map fun x => if x == n then { x with due := max x.due s.now } else x })
        (afterOnce 1 (.tokenHop sid net (n.tok.routeAt sid))))
  | d => .seq (modBox (boxKey sid net) fun b => { b with bufs := b.bufs.filter fun (i, _) => i != d })
      (Cmd.opt (neighbour sid d) fun n => .get fun s =>
        .when (dirOrder.any fun i => (s.offer n net (dirBack d) i).isSome) (afterOnce 0 (.tokenHop n net (dirBack d))))

/-- A step of the round-robin of R40: inputs in order, starting after the one served last. -/
def State.rrInputs (s : State) (sid : Nat) (net : Net) (out : Dir) : List Dir :=
  let last := match (s.box (boxKey sid net)).last.find? fun (o, _) => o == out with | some (_, d) => d | none => .loc
  (List.range 5).map fun k => dirOrder.getD ((inputIndex last + 1 + k) % 5) .loc

def edgeKey (die col : Nat) (top : Bool) : Nat := 128 * die + 2 * col + (if top then 1 else 0)
def State.edge (s : State) (k : Nat) : List Token := s.fab.edges.getD k []
def setEdge (k : Nat) (ts : List Token) : Cmd := .prim (.fab fun f => { f with edges := f.edges.set k ts })

def Element.input (e : Element) : Net → Option Token | .control => e.inC | .scalar => e.inS | .vector => e.inV
def setInput (sid : Nat) (net : Net) (t : Option Token) : Cmd := modElem sid fun e => match net with
  | .control => { e with inC := t } | .scalar => { e with inS := t } | .vector => { e with inV := t }

/-- A comparator of R333 against a token. -/
def Comparator.hits (c : Comparator) (t : Token) : Bool :=
  let x := c.ctl.toNat
  let anyn := x.testBit 3
  let tagEq := tagDomain c.tag == tagDomain t.tag && tagDepth c.tag == tagDepth t.tag &&
    (List.range 8).all fun k => !x.testBit (15 + k) || tagField c.tag k == tagField t.tag k
  let valEq := match t.val with | .null _ | .poison _ => false | v => v.word == c.val
  x.testBit 0 && natBits x 5 4 == t.port.code.toNat && (anyn || (natBits x 12 6 == t.node && natBits x 14 13 == t.frm)) &&
    (!x.testBit 1 || tagEq) && (!x.testBit 2 || valEq)

/-- The comparators of a site's region that a token hits, in a context with debug enabled (R332, R333). -/
def State.hitsAt (s : State) (sid : Nat) (t : Token) : List Nat :=
  match s.regionAt sid with
  | some (_, r) =>
    if s.debugOn r.ctx then
      r.comps.zipIdx.filterMap fun (c, k) => if c.hits t then some k else none
    else []
  | none => []

/-- The record of a fault that a place of the fabric finds (R25, R31, R42): the place as origin and as writer. -/
def State.fabricRecord (s : State) (sid ctx : Nat) (t : Token) (cause : Nat) : FaultRec :=
  let f := { Firing.zero with sid := sid, ctx := ctx, tag := t.tag, frm := t.frm, node := t.node }
  { s.recordAt f cause with rgn := match s.regionAt sid with | some (_, r) => r.rgn | none => 0 }

/-- The context that owns a site's region; a number that names none sends the record to the MP. -/
def State.ctxAt (s : State) (sid : Nat) : Nat := match s.regionAt sid with | some (_, r) => r.ctx | none => 65536

/-- Whether the receiver of a hop is ready (R39): nothing moves into a stopped box (R45). -/
def State.receiverReady (s : State) (sid : Nat) (net : Net) (out : Dir) : Bool :=
  match out with
  | .loc => ((s.elem sid).input net).isNone
  | d => match neighbour sid d with
    | some n => !(s.elem n).stopped && !(s.box (boxKey n net)).bufs.any fun (i, _) => i == dirBack d
    | none => (s.edge (edgeKey (dieOf sid) (xOf sid) (d == .north))).isEmpty

/-- The input buffers of an element look for a token in the next cycle. -/
def wakeInput (sid : Nat) : Cmd := .get fun s =>
  .when (!s.isDue (.tokenArrive sid)) (after 1 (.tokenArrive sid))

/-- An input buffer withholds its token (R334). -/
def withhold (sid : Nat) (net : Net) : Cmd := modElem sid fun e =>
  { e with withheld := if e.withheld.contains net then e.withheld else e.withheld ++ [net] }

/-- A token has moved to the receiver of a hop. One that a comparator hits is withheld at once, in the cycle of the hit (R334). A token that an edge port does not take is discarded with a record to the ring of
the context whose region holds the box's site (R25, log 43). -/
def deliverHop (sid : Nat) (net : Net) (out : Dir) (t : Token) : Cmd := .get fun s =>
  match out with
  | .loc => .all [
      setInput sid net (some t),
      .when (!(s.hitsAt sid t).isEmpty) (withhold sid net),
      Cmd.each (s.hitsAt sid t) fun k => after 0 (.comparatorHit sid net k),
      wakeInput sid]
  | d => match neighbour sid d with
    | some n => .seq (modBox (boxKey n net) fun b => { b with
          bufs := b.bufs ++ [(dirBack d, t)], came := (b.came.filter fun (i, _) => i != dirBack d) ++ [(dirBack d, s.now)] })
        (after 1 (.tokenHop n net (t.routeAt n)))
    | none =>
      if (d == .north && t.dy == 24) || (d == .south && t.dy == 25) then
        .seq (setEdge (edgeKey (dieOf sid) (xOf sid) (d == .north)) [t])
          (after 1 (.mxPacketArrive (dieOf sid) (xOf sid) (d == .north)))
      else writeRecord (s.fabricRecord sid (s.ctxAt sid) t causeIllegal)

/-- TOKEN_HOP (R38 to R40, R25): an output of a switch box passes one token, when the receiver is ready and the token's VD
holds a credit. -/
def execTokenHop (sid : Nat) (net : Net) (out : Dir) (s : State) : Host.Outcome State Fault Refusal :=
  let key := boxKey sid net
  let port := portArbiter key out
  let offers := (s.rrInputs sid net out).filterMap fun i => (s.offer sid net out i).map fun t => (i, t)
  let passedAt := match (s.box key).passed.find? fun (o, _) => o == out with | some (_, c) => c + 1 | none => 0
  let busy := s.now < passedAt || (net == .vector && s.now = passedAt && passedAt != 0)
  let again := afterOnce 1 (.tokenHop sid net out)
  Cmd.next (
    if offers.isEmpty || (s.elem sid).stopped then .skip
    else if busy || !s.receiverReady sid net out then again
    else
      let poor := offers.filter fun (_, t) => !s.hasCredit port (s.vdOfDomain (tagDomain t.tag))
      .seq (Cmd.each ((poor.map fun (_, t) => s.vdOfDomain (tagDomain t.tag)).dedup) fun v => markWaited port v) (
        match offers.find? fun (_, t) => s.hasCredit port (s.vdOfDomain (tagDomain t.tag)) with
        | none => again
        | some (i, t) => .all [
            takeOffer sid net out i t,
            spend port (s.vdOfDomain (tagDomain t.tag)) 1,
            modBox key fun b => { b with
              last := (b.last.filter fun (o, _) => o != out) ++ [(out, i)]
              passed := (b.passed.filter fun (o, _) => o != out) ++ [(out, s.now)] },
            deliverHop sid net out t])) s

/-! ### Slots and firings of an element -/

/-- The slot of (FRM, NODE) at an element (R23). -/
def Element.slotOf (e : Element) (frm nodeNo : Nat) : Option (Nat × NodeSlot) :=
  e.slots.find? fun (_, sl) => sl.frm == frm && sl.node == nodeNo

/-- The row of a record whether or not its limits hold, with PRED: the ports that its node collects (R24). A reserved PRED is not
00, so it asks for port p; a SUB that names no row leaves the opcode its operands; a record whose opcode has no row collects
port a (log 49). -/
def slotPorts (w : Rec) : Sig × Pred :=
  let r := RawNode.unpack w
  let p := (Pred.unpack r.pred).getD .ifTrue
  match Instr.build r p with
  | some i => (i.sig, p)
  | none => match Instr.build { r with sub := 0 } p with
    | some i => (i.sig, p)
    | none => ({ Sig.none with a := some .either }, p)

/-- The firing of a slot's node, for a result that the element emits on its own (R29, R253). -/
def slotFiring (sid slot : Nat) (sl : NodeSlot) (tag : W64) : Firing where
  fid := 0
  sid := sid
  slot := slot
  frm := sl.frm
  node := sl.node
  ctx := sl.ctx
  rgn := sl.rgn
  tag := tag
  a := none
  b := none
  c := none
  p := none
  d0x := sl.d0x
  d0y := sl.d0y
  d1x := sl.d1x
  d1y := sl.d1y

/-- Emit poison of a cause from a slot's node on its valid destinations; a node with none writes the record itself (R326). -/
def emitFrom (f : Firing) (w : Rec) (cause : Nat) : Cmd := .get fun s =>
  let o := f.origin (s.vdOfCtx f.ctx) cause
  .seq (freshFault f o) (emitPoison f ((RawNode.unpack w).hdr .always) 0 f.tag o)

/-- A complete group of operands enters the ready queue (R35); it may issue after `lat` cycles: two for a token that is looked up,
which stands in the match stage meanwhile (R36). -/
def pushReady (lat sid slot : Nat) (sl : NodeSlot) (tag : W64) (a b c p : Option Val) : Cmd := .get fun s =>
  let born := match s.inst? sl.ctx sl.rgn sl.frm (tagDomain tag) with | some i => i.start | none => 0
  .seq (modElem sid fun e => { e with ready := e.ready ++ [⟨slot, sl.frm, sl.node, tag, a, b, c, p, born, s.now + lat, 0⟩] })
    (.when (!s.agenda.any fun (_, t) => t == .issue sid) (afterTask lat (.issue sid)))

def MatchEntry.operand (m : MatchEntry) (q : Port) : Option Val := (m.port q).map (·.val)

/-- A fresh entry for a token. -/
def freshEntry (sid : Nat) (t : Token) (h : PortHold) (age : Nat) : MatchEntry :=
  (⟨elemIndex sid, t.frm, t.node, t.tag, none, none, none, none, false, [], false, age⟩ : MatchEntry).setPort t.port h

/-- Hold the token in the match stage (R35, R250, R252). -/
def holdToken (sid : Nat) (t : Token) (why : HoldWhy) : Cmd := .get fun s =>
  let since := match (s.elem sid).held with | some (u, _) => if u = t then (s.elem sid).heldSince else s.now | none => s.now
  .all [
    modElem sid fun e => { e with held := some (t, why), heldSince := since },
    match why with
    | .readyFull | .setBusy => after 1 (.matchRetry sid)
    | .sidingLookup => after (s.keyCycles sid t.frm t.node t.tag) (.sidingLookup sid)
    | .noRoom => startFull (s.ctxAt sid)]

/-- The match stage goes on: what it held is done with, and inputs are taken again. -/
def unhold (sid : Nat) : Cmd := .seq (modElem sid fun e => { e with held := none }) (.get fun s =>
  .seq (wakeInput sid) (pauseFull (s.ctxAt sid)))

/-- The values of DUPTAG (R32): the capture takes the first fault, poison goes out, and the entry becomes poisoned. -/
def dupTag (sid slot : Nat) (sl : NodeSlot) (t : Token) (earlier : Val) : Cmd := .get fun s =>
  let f := slotFiring sid slot sl t.tag
  let r := { s.recordAt f causeDuptag with vala := earlier.word, valb := t.val.word }
  .seq (modElem sid fun e => { e with capture := match e.capture with
      | some c => some { c with count := (c.count + 1) % 65536 }
      | none => some r })
    (emitFrom f sl.word causeDuptag)

/-- The poisoned form of an entry: its operands are gone, and the ports it had count as seen. -/
def MatchEntry.poison (m : MatchEntry) : MatchEntry :=
  { m with a := none, b := none, c := none, p := none, poisoned := true, seen := m.present, parked := false }

/-- A parked firing of a key is gone with its entry. -/
def dropParked (sid : Nat) (m : MatchEntry) : Cmd := .when m.parked
  (modElem sid fun e => { e with parked := e.parked.filter fun p => !p.isOf m })

/-- Words that a kept entry would need for one more value, or none when they do not fit. -/
def State.fits (s : State) (sid : Nat) (p : Port) (v : Val) : Option PortHold := placeOperand (s.usedWords sid) p v

/-- Allocate a new entry for a token, or spill it, or hold it (R29, R249, R251, R252). -/
def allocate (sid : Nat) (ctx : Nat) (t : Token) : Cmd := .get fun s =>
  let key := setKeyAt sid t.frm t.node t.tag
  let set := s.set? key
  let spillIt := fun (bare : PortHold) => Cmd.seq (spill ctx key (freshEntry sid t bare s.now)) (unhold sid)
  match s.fits sid t.port t.val with
  | none => if s.canSpill ctx key then spillIt ⟨t.val, none⟩ else holdToken sid t .noRoom
  | some h =>
    match set.freeWay (s.quota ctx) with
    | some k => .seq (setWay key k (.held (freshEntry sid t h s.now))) (unhold sid)
    | none =>
      if !s.canSpill ctx key then holdToken sid t .noRoom
      else match set.oldestParked with
        | some (k, m) => .all [spill ctx key m.bare, setWay key k (.held (freshEntry sid t h s.now)), unhold sid]
        | none => spillIt ⟨t.val, none⟩

/-- The lookup of a token in its set (R28, R29, R250). `bypass` is set once the Siding has been searched. Of two lookups of one
cycle in one set the second repeats in the next cycle (R30). -/
def lookupToken (sid slot : Nat) (sl : NodeSlot) (t : Token) (bypass : Bool) : Cmd := .get fun s =>
  let (g, pred) := slotPorts sl.word
  let need := g.required pred
  let key := setKeyAt sid t.frm t.node t.tag
  let set := s.set? key
  let full := Config.readyDepth ≤ (s.elem sid).ready.length
  let fire := fun (m : MatchEntry) =>
    let v := fun (q : Port) => if q = t.port then some t.val else m.operand q
    pushReady 2 sid slot sl t.tag (v .a) (v .b) (v .c) (v .p)
  if need.length ≤ 1 then
    if full then holdToken sid t .readyFull
    else .seq (fire ⟨0, 0, 0, 0, none, none, none, none, false, [], false, 0⟩) (unhold sid)
  else if set.looked = s.now + 1 then holdToken sid t .setBusy
  else .seq (modSet key fun x => { x with looked := s.now + 1 }) (match set.find (elemIndex sid) t.frm t.node t.tag with
    | some (k, m) =>
      if m.poisoned then
        if m.seen.contains t.port then .seq (foldCapture sid) (unhold sid)
        else
          let seen := m.seen ++ [t.port]
          .seq (if need.all seen.contains then freeWayOf key k else setWay key k (.held { m with seen := seen })) (unhold sid)
      else match m.port t.port with
        | some h => .all [
            dropParked sid m, dupTag sid slot sl t h.val,
            (if need.all m.present.contains then freeWayOf key k else setWay key k (.held m.poison)),
            unhold sid]
        | none =>
          if need.all fun q => q == t.port || m.present.contains q then
            if full then holdToken sid t .readyFull
            else .all [fire m, freeWayOf key k, unhold sid]
          else match s.fits sid t.port t.val with
            | some h => .seq (setWay key k (.held (m.setPort t.port h))) (unhold sid)
            | none =>
              if s.canSpill sl.ctx key then
                .all [spill sl.ctx key (m.setPort t.port ⟨t.val, none⟩).bare, freeWayOf key k, unhold sid]
              else holdToken sid t .noRoom
    | none =>
      if set.spills != 0 && !bypass then holdToken sid t .sidingLookup else allocate sid sl.ctx t)

/-- What an element does with an arriving token (R25, R31, R241): the domain check, its instance, its slot and shape, then the
lookup. A poison token stands for no shape and is taken at any port (log 43). The records go to the ring of the context whose
region holds the site; that of a TAGRANGE token to the context that owns the sending site, and for an edge port, which no
context owns, to the receiving one (log 43). -/
def matchToken (sid : Nat) (t : Token) (bypass : Bool) : Cmd := .get fun s =>
  match s.regionAt sid with
  | none => .seq (writeRecord (s.fabricRecord sid 65536 t causeIllegal)) (unhold sid)
  | some (_, r) =>
    let dom := tagDomain t.tag
    let inRun : Bool := match s.ctx? r.ctx with | some c => c.cbase ≤ dom && dom < c.cbase + c.image.dcount | none => false
    if !inRun then
      let from_ := sidAt (dieOf sid) t.sx t.sy
      let owner := if t.sy < 24 then s.ctxAt from_ else r.ctx
      .all [
        count (dieOf sid) (s.vdOfCtx r.ctx) 4 1,
        writeRecord { s.fabricRecord sid owner t causeTagrange with ox := t.sx, oy := t.sy },
        unhold sid]
    else if (s.inst? r.ctx r.rgn t.frm dom).isNone then unhold sid
    else
      let bad := Cmd.seq (writeFault sid (s.fabricRecord sid r.ctx t causeIllegal)) (unhold sid)
      match (s.elem sid).slotOf t.frm t.node with
      | none => bad
      | some (slot, sl) =>
        let (g, pred) := slotPorts sl.word
        match g.port pred t.port with
        | none => bad
        | some sh =>
          let shaped := match t.val with | .poison _ => true | v => sh.accepts v.isVec
          if shaped then lookupToken sid slot sl t bypass else bad

/-- The network whose input an element serves next (R30). -/
def Element.nextInput (e : Element) : Option (Net × Token) :=
  let nets := [Net.control, .scalar, .vector]
  (List.range 3).findSome? fun k =>
    let n := nets.getD ((e.lastIn + 1 + k) % 3) .control
    if e.withheld.contains n then none else (e.input n).map fun t => (n, t)

/-- TOKEN_ARRIVE (R29, R30): an element admits one token. -/
def execTokenArrive (sid : Nat) (s : State) : Host.Outcome State Fault Refusal :=
  let e := s.elem sid
  Cmd.next (
    if e.stopped || e.held.isSome || e.unplaced.isSome then .skip
    else match e.nextInput with
      | none => .skip
      | some (n, t) => .all [
          setInput sid n none,
          modElem sid fun e => { e with lastIn := netIndex n },
          matchToken sid t false]) s

/-- MATCH_RETRY (R30, R35, R438): a held token is looked up again, and a parked firing without an entry looks for room again. -/
def execMatchRetry (sid : Nat) (s : State) : Host.Outcome State Fault Refusal :=
  Cmd.next (.when (!(s.elem sid).stopped) (.seq
    (match (s.elem sid).held with
     | some (t, .noRoom) | some (t, .readyFull) | some (t, .setBusy) => matchToken sid t false
     | _ => .skip)
    (Cmd.opt (s.elem sid).unplaced fun p => .all [placeParked p.f p.since, pauseFull p.f.ctx, wakeInput sid]))) s

/-- An uncorrectable error in a matching entry (R29): it poisons the entry, or, in its key, frees it with a record. -/
def matchError (set way : Nat) (keyBad : Bool) : Cmd := .get fun s =>
  match (s.set? set).ways[way]? with
    | some (.held m) =>
      let sid := siteOfSet set m.e
      match (s.elem sid).slotOf m.frm m.node with
      | none => .skip
      | some (slot, sl) =>
        if keyBad then .all [
          siteError sid,
          foldCapture sid,
          dropParked sid m,
          writeRecord (s.fabricRecord (siteOfSet set 0) sl.ctx ⟨0, 0, 0, 0, .a, 0, 0, 0, .null false⟩ causeEcc),
          freeWayOf set way]
        else if m.poisoned then .skip
        else .all [
          siteError sid,
          foldCapture sid,
          dropParked sid m,
          emitFrom (slotFiring sid slot sl m.tag) sl.word causeEcc,
          setWay set way (.held m.poison)]
    | _ => .skip

/-- MATCH_ECC_ERROR (R29). -/
def execMatchEccError (set way : Nat) (keyBad : Bool) (s : State) : Host.Outcome State Fault Refusal :=
  (matchError set way keyBad).next s

/-! ### The Siding engine -/

/-- The site of a Siding entry. -/
def State.siteOfEntry (s : State) (ctx : Nat) (n : SidEntry) : Option Nat :=
  (s.region? ctx n.rgn).map fun r => sidAt r.die (r.x0 + n.rx) (r.y0 + n.ry)

/-- SIDING_INSERT (R248, R249): a spilled entry goes to its bucket and to the tail of its set. -/
def execSidingInsert (sp : Nat) (s : State) : Host.Outcome State Fault Refusal :=
  Cmd.next (match s.fab.spills.get? sp with
    | none => .skip
    | some p =>
      let gone := Cmd.prim (.fab fun b => { b with spills := b.spills.del sp })
      let sid := siteOfSet p.set p.m.e
      match s.ctx? p.ctx, s.regionAt sid with
      | some c, some (_, r) =>
        let set := s.set? p.set
        let n : SidEntry := {
          m := p.m
          rgn := r.rgn
          rx := xOf sid - r.x0
          ry := yOf sid - r.y0
          prev := set.tail
          next := noSlot
          refill := false
          wanted := false
          die := dieOf sid
          cluster := clusterOf sid % 384
          set := p.set % 64 }
        match c.siding.insert n with
        | none => after 1 (.sidingInsert sp)
        | some (k, d) => .all [
            gone,
            modSiding p.ctx (dieOf sid) fun _ => { d with entries := d.entries.mod set.tail fun e => { e with next := k } },
            modSet p.set fun t => { t with flying := t.flying - 1, tail := k, head := if t.head = noSlot then k else t.head },
            Cmd.opt ((s.elem sid).parked.find? fun q => p.m.parked && q.released && q.isOf p.m) fun q => askRefill q.f k]
      | _, _ => gone) s

/-- SIDING_LOOKUP (R250): after every spill of the set in flight has been inserted, the key is searched in its chain. -/
def execSidingLookup (sid : Nat) (s : State) : Host.Outcome State Fault Refusal :=
  Cmd.next (match (s.elem sid).held with
    | some (t, .sidingLookup) =>
      let key := setKeyAt sid t.frm t.node t.tag
      let set := s.set? key
      let again := after 1 (.sidingLookup sid)
      match s.regionAt sid, (s.elem sid).slotOf t.frm t.node with
      | some (_, r), some (slot, sl) =>
        let (g, pred) := slotPorts sl.word
        let need := g.required pred
        if (s.elem sid).stopped then .skip
        else if (set.find (elemIndex sid) t.frm t.node t.tag).isSome || set.spills = 0 then matchToken sid t false
        else if set.flying != 0 then again
        else match s.sidingFind r.ctx r.rgn (xOf sid - r.x0) (yOf sid - r.y0) t.frm t.node t.tag with
          | none => matchToken sid t true
          | some (k, n) =>
            let m := n.m
            let keep := fun (m' : MatchEntry) => modSiding r.ctx (dieOf sid) fun d => { d with
              entries := d.entries.mod k fun e => { e with m := m' } }
            if n.refill then again
            else if m.poisoned then
              let seen := m.seen ++ [t.port]
              if m.seen.contains t.port then .seq (foldCapture sid) (unhold sid)
              else .seq (if need.all seen.contains then freeSiding r.ctx key k else keep { m with seen := seen }) (unhold sid)
            else match m.port t.port with
              | some h => .all [
                  dropParked sid m, dupTag sid slot sl t h.val,
                  (if need.all m.present.contains then freeSiding r.ctx key k else keep m.poison), unhold sid]
              | none =>
                if need.all fun q => q == t.port || m.present.contains q then
                  if Config.readyDepth ≤ (s.elem sid).ready.length then again
                  else
                    let v := fun (q : Port) => if q = t.port then some t.val else m.operand q
                    .all [pushReady 2 sid slot sl t.tag (v .a) (v .b) (v .c) (v .p), freeSiding r.ctx key k, unhold sid]
                else .seq (keep (m.setPort t.port ⟨t.val, none⟩)) (unhold sid)
      | _, _ => unhold sid
    | _ => .skip) s

/-- The chain of a set from an entry on (R249). -/
def Siding.chain (d : Siding) (k : Nat) : Nat → List (Nat × SidEntry)
  | 0 => []
  | fuel + 1 => match d.entries.get? k with
    | some n => (k, n) :: Siding.chain d n.next fuel
    | none => []

/-- The entry of a chain that is refilled next: one that its element has asked for, or the oldest that is not parked (R251). -/
def nextRefill (chain : List (Nat × SidEntry)) : Option (Nat × SidEntry) :=
  match chain.find? fun (_, n) => n.wanted with
  | some x => some x
  | none => chain.find? fun (_, n) => !n.m.parked

/-- SIDING_REFILL (R251): the parked entry that its element has asked for, or else the oldest entry of the set that is not parked,
is marked, and then written into the reserved way. A parked firing goes on when its entry has come back. -/
def execSidingRefill (set : Nat) (s : State) : Host.Outcome State Fault Refusal :=
  let t := s.set? set
  let ctx := s.ctxOfSet set
  Cmd.next (match t.ways.findIdx? fun w => w == .reserved with
    | none => .skip
    | some way =>
      let chain := match s.ctx? ctx with | some c => c.siding.chain t.head (t.spills + 1) | none => []
      match chain.find? fun (_, n) => n.refill with
      | some (k, n) =>
        let sid := siteOfSet set n.m.e
        match n.m.place (s.usedWords sid) with
        | none => after 1 (.sidingRefill set)
        | some m => .all [
            setWay set way (.held m),
            count (set / 64 / 384) (s.vdOfCtx ctx) 3 1,
            freeSiding ctx set k,
            Cmd.opt ((s.elem sid).parked.find? fun p => m.parked && p.isOf m) landParked]
      | none => match nextRefill chain with
        | some (k, _) => .seq (modSiding ctx (set / 64 / 384) fun d => { d with
              entries := d.entries.mod k fun e => { e with refill := true } })
            (after (s.sidingCycles ctx (set / 64 / 384) k) (.sidingRefill set))
        | none =>
          if t.flying != 0 then after 1 (.sidingRefill set)
          else .seq (setWay set way .free) (wakeSet set)) s

/-- SIDING_ENTRY_ERROR (R253): poison from the entry's node, or a record that names the Siding address; the entry is freed. -/
def execSidingEntryError (ctx slot : Nat) (keyBad lost : Bool) (s : State) : Host.Outcome State Fault Refusal :=
  let cause := if lost then causePageLost else causeEcc
  Cmd.next (match s.ctx? ctx with
    | none => .skip
    | some c => match c.siding.entries.get? slot with
      | none => .skip
      | some n =>
        let set := 64 * (384 * n.die + n.cluster) + n.set
        .seq (freeSiding ctx set slot) (
          if keyBad then writeRecord { s.engineRecord ctx n.die cause (c.siding.base + BitVec.ofNat 64 (256 * slot)) 0 with rgn := n.rgn }
          else match s.siteOfEntry ctx n with
            | none => .skip
            | some sid => match (s.elem sid).slotOf n.m.frm n.m.node with
              | some (k, sl) => .seq (dropParked sid n.m) (emitFrom (slotFiring sid k sl n.m.tag) sl.word cause)
              | none => .skip)) s

/-! ### Stop waves -/

/-- Freeze a context (R45, R252, R364, R383): a stop wave goes over its regions. -/
def freezeContext (ctx : Nat) : Cmd := .get fun s => .seq
  (modCtx ctx fun c => { c with state := .freezing })
  (Cmd.each (s.regionsOf ctx) fun r => .seq
    (modRegion ctx r.rgn fun r => { r with stopped := true })
    (Cmd.each r.sites fun sid => after (1 + (xOf sid - r.x0) + (yOf sid - r.y0)) (.stopWave sid)))

/-- Whether an operation is an issued firing that a stop waits for (R45): a memory or system node that can go on. An engine's
request, a held one, an armed MWAIT, and one behind a firing that has not issued are none (log 116). -/
def State.stirs (s : State) (id : Nat) (o : MemOp) : Bool :=
  let system : Bool := match o.i with | .dirty _ => true | _ => false
  (o.isMemory || system) && !o.isMwait && (match o.phase with
    | .sent | .translating | .acked => true
    | .resolving | .ordered => (o.resolved || s.chainReady o) && s.mayPerform id o
    | .held | .done => false)

/-- Whether every element of a context has stopped and no issued firing is left (R45). -/
def State.settled (s : State) (ctx : Nat) : Bool :=
  ((s.regionsOf ctx).all fun r => r.sites.all fun sid => (s.elem sid).stopped && (s.elem sid).outs.all fun o => o.due ≤ s.now) &&
  (s.mem.ops.all fun (k, o) => o.f.ctx != ctx || !s.stirs k o) &&
  (s.run.reads.all fun (_, r) => r.f.ctx != ctx) && (s.run.pools.all fun (_, q) => q.f.ctx != ctx || q.reply.isNone)

/-- STOP_WAVE (R45): a stop reaches an element and its switch boxes; the last one to settle makes the context Frozen
(R365). -/
def execStopWave (sid : Nat) (s : State) : Host.Outcome State Fault Refusal :=
  Cmd.next (match s.regionAt sid with
    | none => .skip
    | some (_, r) => .when r.stopped (.seq (modElem sid fun e => { e with stopped := true }) (.get fun t =>
        match t.ctx? r.ctx with
        | some c =>
          let all := (t.regionsOf r.ctx).all fun x => x.sites.all fun k => (t.elem k).stopped
          if c.state != .freezing || !all then .skip
          else if t.settled r.ctx then modCtx r.ctx fun c => { c with state := .frozen }
          else after 1 (.stopWave sid)
        | none => .skip))) s

/-- SIDEFULL (R252): the full counter reaches 65 536; the context is frozen, and its VD's supervisor gets the record. A stopped context freezes too (R365). -/
def execSidefull (ctx : Nat) (s : State) : Host.Outcome State Fault Refusal :=
  Cmd.next (match s.ctx? ctx with
    | none => .skip
    | some c => match c.siding.fullSince with
      | none => .skip
      | some t =>
        let waiters := (s.fab.elements.filter fun (k, _) => s.ctxAt k == ctx).flatMap fun (sid, e) =>
          (match e.held with | some (u, .noRoom) => [(e.heldSince, s.fabricRecord sid ctx u causeSidefull)] | _ => []) ++
          (match e.unplaced with | some p => [(p.since, s.recordAt p.f causeSidefull)] | none => [])
        if c.siding.waiting + (s.now - t) < Config.fullLimit || !(c.state == .running || c.state == .stopped) then .skip
        else
          let oldest := waiters.foldl (fun (b : Option (Nat × FaultRec)) x => match b with
            | none => some x
            | some y => if x.1 < y.1 then some x else b) none
          .all [
            freezeContext ctx,
            sendInterrupt c.vd 4,
            Cmd.opt oldest fun (_, r) => writeToSupervisor c.vd r]) s

end Sys2Proof.Machine
end

