-- ==== Sys2Proof/Machine/Digest.lean ====
section
/-! DEFINITION. CRC-32C (R88) and SHAKE256 (R93, R357, R428), the latter from FIPS 202, to which the spec refers by name
(PRESUMED, log 12). -/

namespace Sys2Proof.Machine

/-! ### CRC-32C (R88) -/

/-- One bit of the reflected polynomial. -/
def crcBit (c : BitVec 32) : BitVec 32 := if c.getLsbD 0 then (c >>> 1) ^^^ 0x82F63B78 else c >>> 1

/-- One byte. -/
def crcByte (c : BitVec 32) (b : Byte) : BitVec 32 :=
  (List.range 8).foldl (fun c _ => crcBit c) (c ^^^ b.setWidth 32)

/-- CRC-32C of bytes (R88). -/
def crc32c (bs : List Byte) : BitVec 32 := (bs.foldl crcByte 0xFFFFFFFF) ^^^ 0xFFFFFFFF

/-! ### SHAKE256

The state is a plane of 25 words of 64 bits: the word of place (x, y), both modulo 5, stands at x + 5 y. -/

/-- The word at (x, y). -/
def wordAt (plane : List (BitVec 64)) (x y : Nat) : BitVec 64 := plane.getD (x % 5 + 5 * (y % 5)) 0

/-- A plane made of a word for each place. -/
def planeOf (f : Nat → Nat → BitVec 64) : List (BitVec 64) := (List.range 25).map fun k => f (k % 5) (k / 5)

/-- θ: each word takes in the parities of two columns beside its own. -/
def stepTheta (a : List (BitVec 64)) : List (BitVec 64) :=
  let parity := (List.range 5).map fun x => wordAt a x 0 ^^^ wordAt a x 1 ^^^ wordAt a x 2 ^^^ wordAt a x 3 ^^^ wordAt a x 4
  planeOf fun x y => wordAt a x y ^^^ parity.getD ((x + 4) % 5) 0 ^^^ (parity.getD ((x + 1) % 5) 0).rotateLeft 1

/-- The place reached in `t` steps from (1, 0), each from (x, y) to (y, 2x + 3y). -/
def walkPlace : Nat → Nat × Nat
  | 0 => (1, 0)
  | t + 1 => let (x, y) := walkPlace t; (y, (2 * x + 3 * y) % 5)

/-- ρ and π together: along the walk each word moves one step on, rotated by the next triangular number; (0, 0) stays. -/
def stepRhoPi (a : List (BitVec 64)) : List (BitVec 64) :=
  (List.range 24).foldl (fun out t =>
    let (x, y) := walkPlace t
    let (x', y') := walkPlace (t + 1)
    out.set (x' + 5 * y') ((wordAt a x y).rotateLeft ((t + 1) * (t + 2) / 2 % 64))) a

/-- χ, within each row. -/
def stepChi (a : List (BitVec 64)) : List (BitVec 64) :=
  planeOf fun x y => wordAt a x y ^^^ (~~~wordAt a (x + 1) y &&& wordAt a (x + 2) y)

/-- The register of ι after `t` steps: powers of x modulo x⁸ + x⁶ + x⁵ + x⁴ + 1. -/
def iotaReg : Nat → Nat
  | 0 => 1
  | t + 1 => let r := 2 * iotaReg t; if r < 256 then r else Nat.xor r 0x171

/-- ι of round `n`: bit 2^j - 1 of the word at (0, 0) turns over where the register's lowest bit is 1 after 7 n + j steps. -/
def stepIota (n : Nat) (a : List (BitVec 64)) : List (BitVec 64) :=
  a.set 0 ((List.range 7).foldl (fun w j => if (iotaReg (7 * n + j)).testBit 0 then w ^^^ BitVec.twoPow 64 (2 ^ j - 1) else w)
    (wordAt a 0 0))

/-- The permutation: 24 rounds. -/
def permutePlane (a : List (BitVec 64)) : List (BitVec 64) :=
  (List.range 24).foldl (fun a n => stepIota n (stepChi (stepRhoPi (stepTheta a)))) a

/-- The rate of SHAKE256 in bytes: 1600 - 512 bits. -/
def shakeRate : Nat := 136

/-- A plane with the first bytes of a message added to its first 17 words. -/
def addBlock (a : List (BitVec 64)) (bs : List Byte) : List (BitVec 64) :=
  planeOf fun x y => if x + 5 * y < 17 then wordAt a x y ^^^ BitVec.ofNat 64 (leNat ((bs.drop (8 * (x + 5 * y))).take 8))
    else wordAt a x y

/-- The plane after a message: whole blocks are taken in, then the rest with the suffix 1111, a 1, zeros and a 1. -/
def shakeAbsorb : Nat → List (BitVec 64) → List Byte → List (BitVec 64)
  | 0, a, _ => a
  | fuel + 1, a, bs =>
    if bs.length < shakeRate then
      let closed := addBlock a (bs ++ [0x1F])
      permutePlane (closed.set 16 (wordAt closed 1 3 ^^^ BitVec.twoPow 64 63))
    else shakeAbsorb fuel (permutePlane (addBlock a bs)) (bs.drop shakeRate)

/-- `n` bytes out of a plane, at most a rate's worth from each. -/
def shakeSqueeze : Nat → Nat → List (BitVec 64) → List Byte
  | 0, _, _ => []
  | fuel + 1, n, a =>
    let here := ((a.take 17).flatMap fun w => leBytes w.toNat 8).take n
    if n ≤ shakeRate then here else here ++ shakeSqueeze fuel (n - shakeRate) (permutePlane a)

/-- The first `n` bytes of SHAKE256 over a message. -/
def shake256 (n : Nat) (message : List Byte) : List Byte :=
  shakeSqueeze (n / shakeRate + 1) n (shakeAbsorb (message.length / shakeRate + 1) (List.replicate 25 0) message)

end Sys2Proof.Machine
end

