-- ==== Sys2Proof/Machine/Levels.lean ====
section
/-! DEFINITION. What the loader reads from a block (R86, R87): its header and records, the level of every node (R234), the
loops and activations that its nodes lie in (R180, R232), and its commit set (R234). -/

namespace Sys2Proof.Machine

/-! ### Header and records -/

/-- NCNT + 1 (R87). -/
def hdrNodes (h : Rec) : Nat := natBits h.toNat 87 81 + 1
def hdrSmask (h : Rec) : Nat := natBits h.toNat 80 49
def hdrWcnt (h : Rec) : Nat := natBits h.toNat 48 43
def hdrRcnt (h : Rec) : Nat := natBits h.toNat 42 37
def hdrRes (h : Rec) : Bool := h.getLsbD 36
def hdrPin (h : Rec) : Bool := h.getLsbD 35
def hdrLoopc (h : Rec) : Bool := h.getLsbD 34

/-- Bytes of a block of n nodes (R86). -/
def blockSize (n : Nat) : Nat := 64 * ((12 * (n + 1) + 63) / 64)

/-- The records of n nodes from their bytes. -/
def recsOf (bs : List Byte) : Nat → List Rec
  | 0 => []
  | n + 1 => recOfBytes (bs.take 12) :: recsOf (bs.drop 12) n

/-- The row of a record that an element accepts. -/
def rowOf (w : Rec) : Option Instr := match decode w with | .ok i => some i | .error _ => none

end Sys2Proof.Machine

namespace Sys2Proof

open Sys2Proof.Machine

/-- The valid destinations of a node: which, target node, port (R74). -/
def Instr.dests (i : Instr) : List (Nat × Nat × Port) :=
  let h := i.hdr
  (if h.d0.val then [(0, h.d0.node.toNat, h.d0.port)] else []) ++ (if h.d1.val then [(1, h.d1.node.toNat, h.d1.port)] else [])

/-- The change from a node's level to its result level (R234). -/
def Instr.levelDelta : Instr → Int
  | .enter _ => 1 | .exit _ => -1 | .spawn _ => 2 | .retire _ => -2 | _ => 0

/-- READ, WRITE and the branches, which stand at level 0 (R234). -/
def Instr.levelZero : Instr → Bool
  | .read _ | .write _ | .br _ | .bri _ | .callb _ | .retb _ => true
  | _ => false

def Instr.isBranch : Instr → Bool
  | .br _ | .bri _ | .callb _ | .retb _ => true
  | _ => false

/-- Nodes with no operands (R113, R114). -/
def Instr.isSource : Instr → Bool
  | .read _ => true
  | .const f => f.sub == 1
  | _ => false

/-- Nodes whose LSID belongs in SMASK (R178, R200, R219). -/
def Instr.isStoreNode : Instr → Bool
  | .st _ | .stv _ | .sts _ | .vst _ | .atom _ | .cas _ | .stmc _ => true
  | i => match i.view with | some (.eng ..) | some (.sysM ..) => true | _ => false

/-- The BOUND that a NEXT names (R121). -/
def Instr.nextOf : Instr → Option Nat | .next f => some (f.lit.toNat % 128) | _ => none
def Instr.isBound : Instr → Bool | .bound _ => true | _ => false
def Instr.isEnter : Instr → Bool | .enter _ => true | _ => false
def Instr.isSpawn : Instr → Bool | .spawn _ => true | _ => false
def Instr.isRetag : Instr → Bool | .retag _ => true | _ => false

/-- The ports of a node through which a RETAG's operand b is traced back (R234): none when the trace ends here. `which` is the
destination by which the trace came. -/
def Instr.tracePorts (i : Instr) (which : Nat) : Option (List Port) :=
  match i with
  | .mov _ | .steer _ | .gate _ => some [.a]
  | .merge _ => some [.a, .b]
  | .spawn f => if which = 0 then some [.a] else if f.l then none else some [.b]
  | .tagget _ => none
  | .enter _ | .next _ | .exit _ | .bound _ | .tagset _ | .retire _ | .retag _ | .tagcmp _ => some [.a]
  | _ => none

/-- A TAGGET.whole (R124). -/
def Instr.isWhole : Instr → Bool | .tagget f => f.sub == 2 | _ => false

end Sys2Proof

namespace Sys2Proof.Machine

/-! ### Levels (R234) -/

/-- A feed: source node, which of its destinations, target node, port. -/
abbrev Feed := Nat × Nat × Nat × Port

def feedsOf (is : List (Option Instr)) : List Feed :=
  is.zipIdx.flatMap fun (i, n) => match i with
    | some i => i.dests.map fun (w, t, q) => (n, w, t, q)
    | none => []

/-- Trace a port back to the TAGGET.whole nodes that feed it; none stands for a source that cannot be traced. -/
def traceTag (is : List (Option Instr)) (fs : List Feed) :
    Nat → List (Nat × Port) → List (Nat × Nat) → List (Option Nat) → List (Option Nat)
  | 0, _, _, acc => acc
  | _, [], _, acc => acc
  | fuel + 1, (t, q) :: rest, seen, acc =>
    let srcs := (fs.filter fun (s, w, t', q') => t' == t && q' == q && !seen.contains (s, w)).map fun (s, w, _, _) => (s, w)
    let more := srcs.flatMap fun (s, w) => match is.getD s none with
      | some i => match i.tracePorts w with | some ps => ps.map fun p => (s, p) | none => []
      | none => []
    let ends := srcs.filterMap fun (s, w) => match is.getD s none with
      | some i => if i.isWhole then some (some s) else if (i.tracePorts w).isNone then some none else none
      | none => some none
    traceTag is fs fuel (rest ++ more) (seen ++ srcs) (acc ++ ends)

/-- The TAGGET.whole nodes of a RETAG. -/
def retagSources (is : List (Option Instr)) (fs : List Feed) (n : Nat) : List (Option Nat) := traceTag is fs 1024 [(n, .b)] [] []

/-- The result level of a node whose level is known; none when it is not known yet. -/
def resultLevel (is : List (Option Instr)) (tr : List (Nat × List (Option Nat))) (lv : List (Option Int)) (n : Nat) : Option Int :=
  match lv.getD n none, is.getD n none with
  | some l, some i =>
    if i.isRetag then
      let src := (tr.find? fun (k, _) => k == n).map (·.2)
      match src with
      | some (some t :: _) => lv.getD t none
      | _ => none
    else some (l + i.levelDelta)
  | _, _ => none

/-- One round: every target of a node with a known result level takes it. -/
def levelRound (is : List (Option Instr)) (fs : List Feed) (tr : List (Nat × List (Option Nat))) (lv : List (Option Int)) :
    List (Option Int) :=
  fs.foldl (fun lv (s, _, t, _) => match resultLevel is tr lv s with
    | some r => if (lv.getD t none).isNone then lv.set t (some r) else lv
    | none => lv) lv

def levelFix (is : List (Option Instr)) (fs : List Feed) (tr : List (Nat × List (Option Nat))) :
    Nat → List (Option Int) → List (Option Int)
  | 0, lv => lv
  | k + 1, lv =>
    let lv' := levelRound is fs tr lv
    if lv' = lv then lv else levelFix is fs tr k lv'

/-- The levels of a block's nodes, and whether R234 holds. The first `start` nodes are the MOV nodes that a delivery feeds
(R314). -/
def levelsOf (is : List (Option Instr)) (start : Nat) : List Nat × Bool :=
  let fs := feedsOf is
  let tr := is.zipIdx.filterMap fun (i, n) => match i with
    | some i => if i.isRetag then some (n, retagSources is fs n) else none
    | none => none
  let traced := tr.all fun (_, l) => !l.isEmpty && l.all (·.isSome)
  let lv0 := is.zipIdx.map fun (i, n) => match i with
    | some i => if i.isSource || n < start then some 0 else none
    | none => none
  let lv := levelFix is fs tr (is.length + 1) lv0
  let sameSource := tr.all fun (_, l) => match l with
    | some t :: rest => rest.all fun u => match u with | some u => lv.getD u none == lv.getD t none | none => false
    | _ => false
  let known := lv.all fun l => match l with | some x => decide (0 ≤ x) | none => false
  let agree := fs.all fun (s, _, t, _) => match resultLevel is tr lv s with
    | some r => lv.getD t none == some r
    | none => false
  let results := (List.range is.length).all fun n => match resultLevel is tr lv n with | some r => decide (0 ≤ r) | none => false
  let zero := is.zipIdx.all fun (i, n) => match i with
    | some i => !i.levelZero || lv.getD n none == some 0
    | none => true
  (lv.map fun l => match l with | some x => x.toNat | none => 0, traced && sameSource && known && agree && results && zero)

/-! ### Activations and loops (R180, R232) -/

/-- The nodes reached from some nodes over destinations, at level `lo` or above. -/
def reachFrom (fs : List Feed) (lv : List Nat) (lo : Nat) : Nat → List Nat → List Nat → List Nat
  | 0, _, seen => seen
  | _, [], seen => seen
  | fuel + 1, n :: rest, seen =>
    if seen.contains n || lv.getD n 0 < lo then reachFrom fs lv lo fuel rest seen
    else reachFrom fs lv lo fuel (rest ++ (fs.filter fun (s, _, _, _) => s == n).map fun (_, _, t, _) => t) (seen ++ [n])

/-- The depth at which the activation of each node begins: 0, or the result level of the innermost SPAWN whose body it is
in (R232). -/
def basesOf (is : List (Option Instr)) (lv : List Nat) : List Nat :=
  let fs := feedsOf is
  let bodies := is.zipIdx.filterMap fun (i, n) => match i with
    | some i => if i.isSpawn then
        let b := lv.getD n 0 + 2
        some (b, reachFrom fs lv b 1024 ((fs.filter fun (s, _, _, _) => s == n).map fun (_, _, t, _) => t) [])
      else none
    | none => none
  (List.range is.length).map fun n => bodies.foldl (fun m (b, l) => if l.contains n then max m b else m) 0

/-- Pairs of nodes deeper than k that lie in one loop instance or body of level k. -/
def loopEdges (is : List (Option Instr)) (lv : List Nat) (k : Nat) : List (Nat × Nat) :=
  let deep := fun (n : Nat) => k < lv.getD n 0
  let fs := (feedsOf is).map fun (s, _, t, _) => (s, t)
  let nexts := is.zipIdx.filterMap fun (i, n) => match i with | some i => i.nextOf.map fun b => (n, b) | none => none
  let spawns := is.zipIdx.filterMap fun (i, _) => match i with
    | some i => if i.isSpawn then (match i.dests with | [(_, x, _), (_, y, _)] => some (x, y) | _ => none) else none
    | none => none
  (fs ++ nexts ++ spawns).filter fun (x, y) => deep x && deep y

/-- Join two nodes: both take the lower label, and so does every node of the higher one. -/
def joinLabels (l : List Nat) (x y : Nat) : List Nat :=
  let a := l.getD x 0
  let b := l.getD y 0
  l.map fun v => if v = max a b then min a b else v

/-- The label of a component's BOUND, if one lies in it. -/
def boundIn (is : List (Option Instr)) (lv : List Nat) (k : Nat) (l : List Nat) (label : Nat) : Option Nat :=
  is.zipIdx.findSome? fun (i, n) => match i with
    | some i => if i.isBound && lv.getD n 0 == k + 1 && l.getD n 0 == label then some n else none
    | none => none

/-- The loops of level k (R180): for each node deeper than k the BOUND node of its loop, or 128 and more for a part that has
none. An ENTER that feeds a loop and a part without a BOUND joins the two. -/
def loopsAt (is : List (Option Instr)) (lv : List Nat) (k : Nat) : List Nat :=
  let deep := fun (n : Nat) => decide (k < lv.getD n 0)
  let l0 := (loopEdges is lv k).foldl (fun l (x, y) => joinLabels l x y) (List.range is.length)
  let l := is.foldl (fun l i => match i with
    | some i => if i.isEnter then (match i.dests with
        | [(_, x, _), (_, y, _)] =>
          if deep x && deep y && !((boundIn is lv k l (l.getD x 0)).isSome && (boundIn is lv k l (l.getD y 0)).isSome) then
            joinLabels l x y
          else l
        | _ => l) else l
    | none => l) l0
  (List.range is.length).map fun n => match boundIn is lv k l (l.getD n 0) with | some b => b | none => 128 + l.getD n 0

/-- The loops of every node, one for each level below its own. -/
def loopsOf (is : List (Option Instr)) (lv : List Nat) : List (List Nat) :=
  let top := lv.foldl max 0
  let at_ := (List.range top).map (loopsAt is lv)
  (List.range is.length).map fun n => (at_.take (lv.getD n 0)).map fun l => l.getD n 0

/-- The commit set (R234). -/
def commitOf (is : List (Option Instr)) (lv : List Nat) (smask : Nat) : List Nat :=
  is.zipIdx.filterMap fun (i, n) => match i with
    | some i =>
      let store : Bool := match i.wave with | some w => smask.testBit w.lsid | none => false
      if lv.getD n 0 == 0 && (i.levelZero || i.isSpawn || store) then some n else none
    | none => none

/-- A block of its header and records, not yet placed. -/
def blockOfRecs (addr : Nat) (hdr : Rec) (recs : List Rec) (start : Nat) : Block :=
  let is := recs.map rowOf
  let lv := (levelsOf is start).1
  { addr := addr
    hdr := hdr
    nodes := recs
    levels := lv
    bases := basesOf is lv
    loops := loopsOf is lv
    commit := commitOf is lv (hdrSmask hdr)
    places := [] }

/-- The level-1 BOUND nodes of a block (R239 item 5). -/
def Block.levelOneBounds (b : Block) : List Nat :=
  b.nodes.zipIdx.filterMap fun (w, n) => match rowOf w with
    | some i => if i.isBound && b.levels.getD n 0 == 1 then some n else none
    | none => none

end Sys2Proof.Machine
end

