-- ==== Sys2Proof/Machine/Mapper.lean ====
section
/-! DEFINITION. The mapper (R350, R353, R355 to R358): which element executes which row, the placing of one block, legal
origins, and the image caches. -/

namespace Sys2Proof

open Sys2Proof.Machine

/-- The element types that execute a row (R14), in the order A, M, S, X. -/
def Instr.units (i : Instr) : List ElemType :=
  match i with
  | .fexp2 _ | .flog2 _ | .fsin _ | .fcos _ | .ftanh _ => [.S]
  | .seqt _ => [.A]
  | .route _ => [.M]
  | i => match i.view with
    | some (.plumb ..) | some (.tag ..) => [.A, .M, .S, .X]
    | some (.common o _) =>
      if o.toNat < 0x40 then [.A, .M, .S, .X] else if 0x60 ≤ o.toNat && o.toNat < 0x68 then [.X] else [.A]
    | some (.mem ..) | some (.eng ..) | some (.sysM ..) => [.M]
    | some (.gfx ..) => [.S]
    | some (.sysS ..) => [.A, .M]
    | none => [.A, .M, .S, .X]

end Sys2Proof

namespace Sys2Proof.Machine

/-- The units of a record; one that no element accepts may stand anywhere. -/
def recUnits (w : Rec) : List ElemType := match rowOf w with | some i => i.units | none => [.A, .M, .S, .X]

def typeCode : ElemType → Nat | .A => 0 | .M => 1 | .S => 2 | .X => 3

/-- Something to place: its lead node, its members, the types that execute all of them, and whether it is a BOUND group. -/
structure PlaceGroup where
  lead : Nat
  members : List Nat
  units : List ElemType
  bound : Bool
deriving DecidableEq, Repr

/-- The groups in the order of placing (R355 step 2, step 4). -/
def placeGroups (recs : List Rec) : List PlaceGroup :=
  let rows := recs.map rowOf
  let only := [ElemType.X, .S, .M, .A].flatMap fun t => recs.zipIdx.filterMap fun (w, n) =>
    if recUnits w == [t] then some ⟨n, [n], [t], false⟩ else none
  let bounds := rows.zipIdx.filterMap fun (i, n) => match i with
    | some i => if i.isBound then
        let nexts := rows.zipIdx.filterMap fun (j, m) => match j with
          | some j => if j.nextOf == some n then some m else none
          | none => none
        some (⟨n, n :: nexts, [.A, .M, .S, .X], true⟩ : PlaceGroup)
      else none
    | none => none
  let taken := (only ++ bounds).flatMap (·.members)
  let rest := recs.zipIdx.filterMap fun (w, n) => if taken.contains n then none else some ⟨n, [n], recUnits w, false⟩
  only ++ bounds ++ rest

def absDiff (a b : Nat) : Nat := max a b - min a b

/-- Place one group (R355 steps 3 and 4): the sites that fit, nearest first, then lowest row, then lowest column. `at_` lists
the nodes placed so far with offset and slot. -/
def placeGroup (recs : List Rec) (shape y0 : Nat) (lost : List (Nat × Nat)) (g : PlaceGroup) (at_ : List (Nat × Nat × Nat × Nat)) :
    Option (List (Nat × Nat × Nat × Nat)) :=
  let used := fun (x y : Nat) => (at_.filter fun (_, rx, ry, _) => rx == x && ry == y).length
  let feeds := (recs.zipIdx.filter fun (w, _) => match rowOf w with
    | some i => i.dests.any fun (_, t, _) => t == g.lead
    | none => false).map (·.2)
  let near := at_.filter fun (n, _, _, _) => feeds.contains n
  let cost := fun (x y : Nat) => near.foldl (fun c (_, rx, ry, _) => c + absDiff rx x + absDiff ry y) 0
  let sites := (List.range (shapeRows shape)).flatMap fun y => (List.range (shapeCols shape)).map fun x => (x, y)
  let fit := sites.filter fun (x, y) =>
    g.units.contains (elemType x (y0 + y)) && used x y + g.members.length ≤ 8 && !lost.contains (x, y)
  let best := fit.foldl (fun (b : Option (Nat × Nat × Nat)) (x, y) => match b with
    | none => some (cost x y, x, y)
    | some (c, _, _) => if cost x y < c then some (cost x y, x, y) else b) none
  best.map fun (_, x, y) => g.members.zipIdx.map fun (n, k) => (n, x, y, used x y + k)

/-- Place group after group; the first that finds no place is the failure. -/
def placeAllGroups (recs : List Rec) (shape y0 : Nat) (lost : List (Nat × Nat)) :
    List PlaceGroup → List (Nat × Nat × Nat × Nat) → Except PlaceGroup (List (Nat × Nat × Nat × Nat))
  | [], at_ => .ok at_
  | g :: gs, at_ => match placeGroup recs shape y0 lost g at_ with
    | some more => placeAllGroups recs shape y0 lost gs (at_ ++ more)
    | none => .error g

/-- The places of a block's nodes for a shape and an origin row, by offset and slot (R355, R356), or DETAIL and NODE of FIT
(R348). `lost` are the offsets of retired sites (R417). -/
def placeRecs (recs : List Rec) (shape y0 : Nat) (lost : List (Nat × Nat)) : Except (Nat × Nat) (List (Nat × Nat × Nat)) :=
  match placeAllGroups recs shape y0 lost (placeGroups recs) [] with
  | .error g => .error (if g.bound then 4 else match g.units with | t :: _ => typeCode t | [] => 0, g.lead)
  | .ok at_ => .ok ((List.range recs.length).map fun n => match at_.find? fun (m, _, _, _) => m == n with
      | some (_, x, y, k) => (x, y, k)
      | none => (0, 0, 0))

/-- Legal origin rows of a shape (R350). -/
def legalRows (shape : Nat) : List Nat := ((List.range 6).map (4 * ·)).filter fun y => y + shapeRows shape ≤ 24

/-- Origin rows at which every block is placed (R350). -/
def admissibleRows (blocks : List (List Rec)) (shape : Nat) : List Nat :=
  (legalRows shape).filter fun y => blocks.all fun b => match placeRecs b shape y [] with | .ok _ => true | .error _ => false

/-! ### Origins on a die (R353, R417) -/

/-- Whether a site is retired (R417): SITERET of its die and row holds a bit for each column. -/
def State.siteRetired (s : State) (die x y : Nat) : Bool := (s.svc.siteret.getD (24 * die + y) 0).testBit x

/-- The retired sites of a region's area, by offset. -/
def State.retiredIn (s : State) (die x0 y0 shape : Nat) : List (Nat × Nat) :=
  ((List.range (shapeRows shape)).flatMap fun y => (List.range (shapeCols shape)).map fun x => (x, y)).filter
    fun (x, y) => s.siteRetired die (x0 + x) (y0 + y)

/-- Whether an area meets a bound region. -/
def State.areaTaken (s : State) (die x0 y0 shape : Nat) : Bool :=
  s.run.regions.any fun (_, r) => r.state != .gone && r.die == die && r.x0 < x0 + shapeCols shape && x0 < r.x0 + shapeCols r.shape
    && r.y0 < y0 + shapeRows shape && y0 < r.y0 + shapeRows r.shape

/-- Origins of a shape on a die, lowest row and then lowest column first (R353 step 2). -/
def originsOf (shape : Nat) (rows : List Nat) : List (Nat × Nat) :=
  rows.flatMap fun y => (List.range (64 / shapeCols shape)).map fun k => (k * shapeCols shape, y)

/-- Whether every block of an actor can be placed at an origin with its retired sites: a PIN block never stands on an origin
that holds one (R355, R417). -/
def State.originHolds (s : State) (blocks : List (Bool × List Rec)) (die shape : Nat) (o : Nat × Nat) : Bool :=
  let lost := s.retiredIn die o.1 o.2 shape
  lost.isEmpty || blocks.all fun (pin, recs) => !pin && (match placeRecs recs shape o.2 lost with | .ok _ => true | .error _ => false)

/-- The first free admissible origin on a die (R353). -/
def State.freeOrigin (s : State) (blocks : List (Bool × List Rec)) (die shape : Nat) : Option (Nat × Nat) :=
  (originsOf shape (admissibleRows (blocks.map (·.2)) shape)).find? fun o =>
    !s.areaTaken die o.1 o.2 shape && s.originHolds blocks die shape o

/-! ### Image caches (R357, R358) -/

/-- The key of a routed block (R357). -/
def routedKey (hdr : Rec) (recs : List Rec) (fpcm shape y0 : Nat) : Nat :=
  leNat (shake256 16 (recBytes hdr ++ recs.flatMap recBytes ++ leBytes 1 2 ++ leBytes 0 2 ++ leBytes fpcm 2 ++ leBytes shape 1 ++
    leBytes y0 1 ++ leBytes Config.dieStep.toNat 2))

/-- The set of a key: 1024 sets of 8 ways. -/
def routedSet (key : Nat) : Nat := key % 1024

/-- Keys that frames on the package have mapped: these entries stay (R358). -/
def State.mappedKeys (s : State) : List Nat :=
  s.run.regions.flatMap fun (_, r) => match s.ctx? r.ctx with
    | some c => r.frames.filterMap fun f => f.block.map fun b => routedKey b.hdr b.nodes c.fpcm r.shape r.y0
    | none => []

/-- Put a key into a die's cache: the least recently used entry of its set that no frame has mapped leaves (R358). -/
def cacheRouted (die key : Nat) : Cmd := .get fun s =>
  let l := s.ten.caches.getD die []
  let mine := l.filter fun e => routedSet e.key == routedSet key && e.key != key
  let held := s.mappedKeys
  let free := mine.filter fun e => !held.contains e.key
  let old := free.foldl (fun (b : Option Routed) e => match b with
    | none => some e
    | some x => if e.used < x.used then some e else b) none
  let gone : Option Nat := if mine.length < 8 then none else old.map (·.key)
  let keep := l.filter fun e => e.key != key && some e.key != gone
  .when (mine.length < 8 || old.isSome) (.prim (.ten fun t => { t with caches := t.caches.set die (keep ++ [⟨key, s.now⟩]) }))

/-- Cycles of a mapping that misses (R358). -/
def mapCycles (n : Nat) : Nat := 620 + 24 * n

end Sys2Proof.Machine
end

