-- ==== Sys2Proof/Machine/Loader.lean ====
section
/-! DEFINITION. The loader's checks: blocks (R74, R85 to R89, R116, R121, R181, R237, R349), the image's sections (R92 to R94),
queues, channels and rates (R174, R197, R311, R314, R328, R351), and the refusal status (R347, R348). -/

namespace Sys2Proof

open Sys2Proof.Machine

/-! ### What a record says -/

/-- Whether a result is a pr (R74: only such a result may feed port p). -/
def Instr.prResult (i : Instr) (which : Nat) : Bool :=
  match i with
  | .cmp f | .fcmp f => !f.v
  | .tagcmp _ | .xfw _ | .blnd _ | .route _ | .retryResume _ | .retrySkip _ | .done _ => true
  | .addc _ | .subb _ | .cas _ | .tri1 _ | .dirty _ => which == 1
  | .poisTest _ => which == 0 || i.hdr.ty == .pr
  | .tagget _ => false
  | i => i.hdr.ty == .pr

/-- How a row takes a rounding code: none, RM without SR, or RM with SR (R51, R149, R157). -/
def Instr.roundRule (i : Instr) : Option Bool :=
  match i with
  | .fcmp _ => none
  | .cvt f => some (f.ty.isFloat && !cvtExact f.sty f.ty)
  | .qnt _ | .srnd _ => some true
  | .dqnt _ => some false
  | .vred f | .vscan f | .vdot f | .reda f => if f.ty.isFloat then some false else none
  | i => match i.view with
    | some (.common o _) => if 0x40 ≤ o.toNat && o.toNat < 0x60 then some false else none
    | some (.gfx ..) => some false
    | _ => none

/-- The rounding code of a record. -/
def Instr.roundCode (i : Instr) : Nat :=
  match i.view with
  | some (.common _ f) => f.rm.toNat
  | some (.gfx _ f) => f.rm.toNat
  | _ => 0

end Sys2Proof

namespace Sys2Proof.Machine

/-- The row of a record's fields whether or not its limits hold. -/
def laxRow (w : Rec) : Option Instr :=
  match Pred.unpack (RawNode.unpack w).pred with
  | some p => Instr.build (RawNode.unpack w) p
  | none => none

/-- The feature code of a record that is reserved for legacy behaviour (R349). -/
def legacyCode (w : Rec) : Option Nat :=
  let r := RawNode.unpack w
  let o := r.opc.toNat
  if r.pred.toNat = 3 then some 0x12
  else if 0xE0 ≤ o && o ≤ 0xFE then some 0x13
  else match laxRow w with
    | some i => match i.roundRule with
      | some sr => if 6 ≤ i.roundCode then some 0x11 else if i.roundCode = 5 && !sr then some 0x10 else none
      | none => none
    | none => none

/-- The feature code of FPCM (R349). -/
def legacyFpcm (fpcm : Nat) : Option Nat :=
  if natBits fpcm 1 0 = 3 then some 1 else if natBits fpcm 3 2 = 3 then some 2 else if natBits fpcm 6 5 = 3 then some 3
  else if natBits fpcm 15 10 != 0 then some 4 else none

/-! ### Failures -/

/-- A failed check (R347, R348). -/
structure Fail where
  reason : Nat
  item : Nat
  node : Nat
  detail : Nat
deriving DecidableEq, Repr

/-- The refusal status (R347). -/
def Fail.status (f : Fail) : Nat := f.reason % 256 + f.detail % 256 * 2 ^ 8 + f.node % 128 * 2 ^ 16 + f.item % 512 * 2 ^ 23

/-- Order of R347: REASON, ITEM, NODE; DETAIL last (log 40). -/
def Fail.before (x y : Fail) : Bool :=
  x.reason < y.reason || (x.reason == y.reason && (x.item < y.item || (x.item == y.item && (x.node < y.node ||
    (x.node == y.node && x.detail < y.detail)))))

/-- The failure that the status reports. -/
def firstFail (l : List Fail) : Option Fail :=
  l.foldl (fun b f => match b with | none => some f | some x => if f.before x then some f else b) none

def reasonFormat : Nat := 0x01
def reasonVersion : Nat := 0x02
def reasonDigest : Nat := 0x03
def reasonAccess : Nat := 0x04
def reasonLegacy : Nat := 0x05
def reasonBlock : Nat := 0x06
def reasonLevel : Nat := 0x07
def reasonFit : Nat := 0x08
def reasonBoundary : Nat := 0x09
def reasonQueue : Nat := 0x0A
def reasonRate : Nat := 0x0B
def reasonDomain : Nat := 0x0C
def reasonRegion : Nat := 0x0D
def reasonSpace : Nat := 0x0E

/-- A failure for each item that a test picks. -/
def failIf (b : Bool) (f : Fail) : List Fail := if b then [f] else []

/-! ### One block -/

/-- A block as the loader reads it: offset, header, records, size. -/
structure RawBlock where
  ofs : Nat
  hdr : Rec
  recs : List Rec
deriving DecidableEq, Repr

def RawBlock.size (b : RawBlock) : Nat := blockSize b.recs.length
def RawBlock.pin (b : RawBlock) : Bool := hdrPin b.hdr

/-- The checks of R89 on a header and its records: whether all hold. -/
def headerHolds (hdr : Rec) (recs : List Rec) : Bool :=
  let rows := recs.map laxRow
  let count := fun (p : Instr → Bool) => (rows.filter fun i => match i with | some i => p i | none => false).length
  let stores := (rows.filterMap fun i => match i with
    | some i => if i.isStoreNode then i.wave.map (·.lsid) else none
    | none => none)
  let mask := stores.foldl (fun m l => m ||| 2 ^ l) 0
  natBits hdr.toNat 95 88 == 0xB1 && crc32c (recs.flatMap recBytes) == hdr.setWidth 32 && decide (hdrWcnt hdr ≤ 32) &&
    hdrWcnt hdr == count (fun i => match i with | .write _ => true | _ => false) &&
    hdrRcnt hdr == count (fun i => match i with | .read _ => true | _ => false) &&
    mask == hdrSmask hdr && natBits hdr.toNat 33 32 == 0

/-- The nodes of a block that break a rule on one node and its neighbours: R74, R85, R116, R121, R181. -/
def badNodes (hdr : Rec) (recs : List Rec) : List Nat :=
  let rows := recs.map laxRow
  let n := recs.length
  let waves := rows.zipIdx.filterMap fun (i, k) => match i with | some i => i.wave.map fun w => (k, w) | none => none
  let node := fun (l : Nat) => waves.find? fun (_, w) => w.lsid == l
  let bounds := rows.any fun i => match i with | some i => i.isBound | none => false
  let broken := fun (k : Nat) (i : Instr) =>
    let dests := i.dests.any fun (which, t, q) => match recs[t]? with
      | none => true
      | some w =>
        let (g, pred) := slotPorts w
        (g.port pred q).isNone || (q == .p && !i.prResult which)
    let self : Bool := match i with
      | .br f => f.sub == 0 && f.lit == 0 && !hdrLoopc hdr
      | .callb f => f.lit == 0 && !hdrLoopc hdr
      | _ => false
    let next : Bool := match i with
      | .next f => match rows.getD (f.lit.toNat % 128) none with
        | some (.bound g) => g.lvl != f.lvl
        | _ => true
      | _ => false
    let wave : Bool := match i.wave with
      | none => false
      | some w =>
        let twice := waves.any fun (j, x) => j < k && x.lsid == w.lsid
        let link := fun (l : Nat) (back : WaveFields → Nat) => l != 31 && (match node l with
          | none => true
          | some (_, x) => back x != w.lsid && back x != 31)
        twice || link w.prv (·.nxt) || link w.nxt (·.prv) ||
          (!bounds && ((w.prv != 31 && w.lsid ≤ w.prv) || (w.nxt != 31 && w.nxt ≤ w.lsid)))
    (i.hdr.d1.val && !i.hdr.d0.val) || dests || self || next || wave
  (List.range n).filter fun k => match rows.getD k none with | some i => broken k i | none => false

/-- The failures of one block, with its index: LEGACY, BLOCK and LEVEL. `start` counts the MOV nodes of a delivery. -/
def blockFails (hdr : Rec) (recs : List Rec) (item start : Nat) : List Fail :=
  let rows := recs.map laxRow
  let legacy := recs.zipIdx.filterMap fun (w, n) => (legacyCode w).map fun c => ⟨reasonLegacy, item, n, c⟩
  let nodes := recs.zipIdx.filterMap fun (w, n) => match decode w with
    | .ok _ => none
    | .error _ => if (legacyCode w).isSome then none else some ⟨reasonBlock, item, n, 0⟩
  let branch := rows.any fun i => match i with | some i => i.isBranch | none => false
  legacy ++ nodes ++ failIf (!headerHolds hdr recs) ⟨reasonBlock, item, 0, 0⟩ ++
    (badNodes hdr recs).map (fun n => ⟨reasonBlock, item, n, 0⟩) ++ failIf (!branch) ⟨reasonBlock, item, 0, 0⟩ ++
    failIf (!(levelsOf (recs.map rowOf) start).2) ⟨reasonLevel, item, 0, 0⟩

/-- How the reading of a BLOCKS section ends (R93): its blocks fill it; a header has no MAGIC, so that nothing tells where its
block ends; or the sizes of the blocks under R86 do not add up to its BYTES. -/
inductive BlocksEnd where
  | whole | noMagic | wrongSize
deriving DecidableEq, Repr

/-- The block at the beginning of some bytes, or how the reading ends there. -/
def rawBlockAt (ofs : Nat) (bs : List Byte) : Except BlocksEnd RawBlock :=
  let hdr := recOfBytes (bs.take 12)
  let n := hdrNodes hdr
  if bs.length < 12 then .error .wrongSize
  else if natBits hdr.toNat 95 88 != 0xB1 then .error .noMagic
  else if bs.length < blockSize n then .error .wrongSize
  else .ok ⟨ofs, hdr, recsOf (bs.drop 12) n⟩

/-- A number of blocks back to back, padding included, that should fill a BLOCKS section. -/
def rawBlocks : Nat → Nat → List Byte → List RawBlock × BlocksEnd
  | 0, _, bs => ([], if bs.isEmpty then .whole else .wrongSize)
  | count + 1, ofs, bs => match rawBlockAt ofs bs with
    | .error e => ([], e)
    | .ok b =>
      let (rest, end_) := rawBlocks count (ofs + b.size) (bs.drop b.size)
      (b :: rest, end_)

/-! ### Sections (R92 to R94) -/

/-- A section table entry. -/
structure Section where
  kind : Nat
  zero : Nat
  count : Nat
  ofs : Nat
  len : Nat
deriving DecidableEq, Repr

def sectionAt (bs : List Byte) (k : Nat) : Section :=
  let e := (bs.drop (64 + 24 * k)).take 24
  ⟨field e 0 2, field e 2 2, field e 4 4, field e 8 8, field e 16 8⟩

/-- Record sizes (R94). -/
def recordSize : Nat → Option Nat
  | 1 => some 64 | 3 => some 32 | 4 => some 16 | 5 => some 8 | 7 => some 16 | 8 => some 64 | 9 => some 8
  | _ => none

def Section.bytes (x : Section) (bs : List Byte) : List Byte := (bs.drop x.ofs).take x.len
/-- The records of a section. -/
def Section.records (x : Section) (bs : List Byte) : List (List Byte) :=
  match recordSize x.kind with
  | some z => (List.range x.count).map fun k => ((x.bytes bs).drop (z * k)).take z
  | none => []

/-- Whether an entry agrees with R93 and R94 by itself. -/
def Section.ok (x : Section) (nsec size : Nat) : Bool :=
  decide (1 ≤ x.kind) && decide (x.kind ≤ 10) && x.zero == 0 && x.ofs % 64 == 0 && decide (64 + 24 * nsec ≤ x.ofs) &&
    decide (x.ofs + x.len ≤ size) &&
    (match recordSize x.kind with
     | some z => x.len == x.count * z
     | none => x.kind == 2 || x.count == x.len)

/-- Bytes that must be zero. -/
def zeros (bs : List Byte) (ofs n : Nat) : Bool := ((bs.drop ofs).take n).all (· == 0)

/-- The header's own fields (R93), after its MAGIC and version. -/
def headerFieldsOk (hb : List Byte) : Bool :=
  zeros hb 10 2 && decide (1 ≤ field hb 12 4) && decide (field hb 12 4 ≤ 16) && zeros hb 24 8 && zeros hb 48 16 &&
    decide (64 + 24 * field hb 12 4 ≤ field hb 16 8)

def isPow2 (n : Nat) : Bool := n != 0 && 2 ^ Nat.log2 n == n

/-- An image with its blocks. `shape` is the launch packet's SHAPE (R353). -/
structure Loaded where
  image : Image
  blocks : List RawBlock
  ends : BlocksEnd
deriving DecidableEq, Repr

/-- Read an image's sections. -/
def readImage (va : W64) (bs : List Byte) (shape : Nat) : Loaded :=
  let secs := (List.range (field bs 12 4)).map (sectionAt bs)
  let sec := fun (k : Nat) => secs.find? fun x => x.kind == k
  let recs := fun (k : Nat) => match sec k with | some x => x.records bs | none => []
  let c := (recs 1).headD []
  let blk := sec 2
  let (raw, ends) := match blk with | some x => rawBlocks (min x.count 513) 0 (x.bytes bs) | none => ([], .whole)
  { image := {
      va := va
      size := field bs 16 8
      blocksVA := va.toNat + (match blk with | some x => x.ofs | none => 0)
      blocksBytes := match blk with | some x => x.len | none => 0
      fpcm := field bs 8 2
      dcount := field c 0 2
      lease := field c 2 2
      siding := field c 4 4
      dataBytes := field c 8 4
      dataOfs := match sec 6 with | some x => x.ofs | none => 0
      vaultBytes := field c 12 4
      entry := field c 16 2
      actors := (recs 3).map fun r => ⟨field r 0 4, field r 4 2, BitVec.ofNat 64 (field r 8 8), BitVec.ofNat 64 (field r 16 8)⟩
      queues := (recs 4).map fun r => ⟨field r 0 4, field r 4 2, field r 6 2, field r 8 2⟩
      regions := (recs 5).map fun r => ⟨if shape ≤ 4 then shape else field r 0 1, field r 1 1, field r 2 1, field r 3 1⟩
      vaults := (recs 7).map fun r => ⟨field r 0 4, field r 4 4, field r 8 4⟩
      groups := (recs 9).map fun r => field r 0 2
      digest := field bs 32 16 }
    blocks := raw
    ends := ends }

/-- The kinds of the sections in which R93 and R94 are broken (FORMAT's DETAIL). -/
def formatKinds (bs : List Byte) (ld : Loaded) : List Nat :=
  let nsec := field bs 12 4
  let secs := (List.range nsec).map (sectionAt bs)
  let recs := fun (k : Nat) => match secs.find? fun x => x.kind == k with | some x => x.records bs | none => []
  let m := ld.image
  let table := (secs.zipIdx.filter fun (x, k) => !x.ok nsec m.size || (secs.take k).any fun y => y.kind == x.kind).map (·.1.kind)
  let missing := [1, 2].filter fun k => secs.all fun x => x.kind != k
  let bad := fun (k : Nat) (b : Bool) => if b then [k] else []
  let context := bad 1 (match recs 1 with
    | [c] => !(zeros c 18 46 && decide (1 ≤ m.dcount) && decide (m.dcount ≤ 4096) && decide (1 ≤ m.lease) && decide (m.lease ≤ 1023) &&
        isPow2 m.siding && decide (256 ≤ m.siding) && decide (m.siding ≤ 16777216) && m.dataBytes % 64 == 0 && m.vaultBytes % 64 == 0 &&
        decide (m.entry < m.actors.length))
    | _ => true)
  let blocks := bad 2 (ld.ends == .wrongSize || match secs.find? fun x => x.kind == 2 with
    | some x => decide (512 < x.count) | none => false)
  let read := match ld.blocks.getLast? with | some b => b.ofs + b.size | none => 0
  let actors := bad 3 ((recs 3).any fun r => !(zeros r 6 2 && zeros r 24 8 && decide (field r 4 2 < m.regions.length) &&
    (ld.blocks.any (fun b => b.ofs == field r 0 4) || (ld.ends != .whole && read ≤ field r 0 4))))
  let queues := bad 4 (64 < m.queues.length || (recs 4).any fun r => !((field r 4 2 == 8 || field r 4 2 == 64) && zeros r 10 6))
  let regions := bad 5 ((recs 5).any fun r => !(decide (field r 0 1 ≤ 4) && zeros r 4 4))
  let data := bad 6 (match secs.find? fun x => x.kind == 6 with | some x => x.len != m.dataBytes | none => false)
  let vaults := bad 7 (m.vaults.zip (recs 7) |>.any fun (v, r) => !(zeros r 12 4 && decide (v.ofs + v.bytes ≤ m.vaultBytes) &&
    (v.init == 0xFFFFFFFF || decide (v.init + v.bytes ≤ m.dataBytes))))
  let groups := bad 9 ((recs 9).any fun r => !(decide (2 ≤ field r 0 2) && decide (field r 0 2 ≤ 1024) && zeros r 2 6))
  table ++ missing ++ context ++ blocks ++ actors ++ queues ++ regions ++ data ++ vaults ++ groups

/-! ### Actors, queues, channels and rates -/

/-- The end of an actor's blocks (R237): the next actor's offset, or the end of BLOCKS. -/
def Image.actorEnd (m : Image) (first : Nat) : Nat :=
  m.actors.foldl (fun e a => if first < a.first && a.first < e then a.first else e) m.blocksBytes

/-- The actor whose range holds an offset of BLOCKS (R237). -/
def Image.actorOf (m : Image) (ofs : Nat) : Option Nat :=
  m.actors.findIdx? fun a => a.first ≤ ofs && ofs < m.actorEnd a.first

def Image.actor (m : Image) (a : Nat) : ActorRec := m.actors.getD a ⟨0, 0, 0, 0⟩
def Image.regionOf (m : Image) (a : Nat) : RegionRec := m.regions.getD (m.actor a).region ⟨0, 1, 1, 0xFF⟩
/-- The input queues of an actor, in order. -/
def Image.inputs (m : Image) (a : Nat) : List Nat := (List.range 64).filter fun q => (m.actor a).inMask.getLsbD q
def Image.outputs (m : Image) (a : Nat) : List Nat := (List.range 64).filter fun q => (m.actor a).outMask.getLsbD q
def Image.consumer (m : Image) (q : Nat) : Option Nat := m.actors.findIdx? fun a => a.inMask.getLsbD q
def Image.queue (m : Image) (q : Nat) : QueueRec := m.queues.getD q ⟨0, 0, 0, 0⟩

/-- How many nodes of a block take a delivery's tokens: the input queues of the actor that it is the first block of. -/
def Image.startNodes (m : Image) (ofs : Nat) : Nat :=
  match m.actors.findIdx? fun a => a.first == ofs with | some a => (m.inputs a).length | none => 0

/-- The scope of the channel from an actor to a queue (R197): 0 region, 1 die, 2 package. -/
def Image.channel (m : Image) (a q : Nat) : Nat :=
  match m.consumer q with
  | none => 2
  | some c =>
    let p := m.regionOf a
    let r := m.regionOf c
    if (m.actor a).region == (m.actor c).region && p.maxr == 1 then 0
    else if p.die == r.die && p.die != 0xFF then 1 else 2

/-- Failures of the ROUTE, SEQT, BR and CALLB nodes of a block of an actor, which lies at an offset of BLOCKS (R79, R173, R174,
R197, R237). -/
def nodeFails (m : Image) (blocks : List RawBlock) (own : Option Nat) (ofs : Int) (item : Nat) (recs : List Rec) : List Fail :=
  let rows := recs.map laxRow
  rows.zipIdx.flatMap fun (i, n) =>
    let target := fun (lit : BitVec 32) =>
      let t := ofs + 64 * lit.toInt
      failIf (!(blocks.any fun x => (x.ofs : Int) == t && m.actorOf x.ofs == own)) ⟨reasonBlock, item, n, 0⟩
    match i with
    | some (.br f) => if f.sub = 1 then [] else target f.lit
    | some (.callb f) => target f.lit
    | some (.seqt _) => match own with
      | some a => failIf (1 < (m.regionOf a).maxr) ⟨reasonBlock, item, n, 0⟩
      | none => []
    | some (.route f) => match own with
      | none => []
      | some a =>
        let q := f.lit.toNat
        let outs := m.outputs a
        let named := failIf (f.l && !(decide (q < m.queues.length) && outs.contains q && (m.queue q).slot == (if f.v then 64 else 8)))
          ⟨reasonQueue, q % 512, n, 0⟩
        let cand := (if f.l then [q] else outs).filter fun q => q < m.queues.length
        let (need, item_) := cand.foldl (fun (k, x) q => if k ≤ m.channel a q then (m.channel a q, q) else (k, x)) (0, 0)
        let feeders := rows.filter fun j => match j with
          | some j => j.dests.any fun (_, t, p) => t == n && p == .a
          | none => false
        let fed := !feeders.isEmpty && feeders.all fun j => match j with
          | some (.bnd g) => decide (need ≤ g.scope.toNat)
          | _ => false
        named ++ failIf (!cand.isEmpty && !fed) ⟨reasonBoundary, item_, n, need⟩
    | _ => []

/-- Failures of queues (R311, R314, R328) and of the entry actor's masks. -/
def queueFails (m : Image) (blocks : List RawBlock) : List Fail :=
  let nq := m.queues.length
  let fail := fun (q : Nat) => (⟨reasonQueue, q, 0, 0⟩ : Fail)
  let masks := (List.range 64).flatMap fun q =>
    let users := m.actors.filter fun a => a.inMask.getLsbD q
    failIf (1 < users.length || (nq ≤ q && (!users.isEmpty || m.actors.any fun a => a.outMask.getLsbD q))) (fail q)
  let entry := match m.inputs m.entry with | q :: _ => [fail q] | [] => []
  let rates := (List.range nq).flatMap fun q =>
    let r := m.queue q
    failIf ((m.consumer q).isSome && ((if r.slot = 8 then 8 else 1) < r.consume || (q == 63 && (r.slot != 8 || r.consume != 1))))
      (fail q)
  let movs := (List.range m.actors.length).flatMap fun a => (m.inputs a).zipIdx.flatMap fun (q, k) =>
    let r := m.queue q
    let vec := r.slot == 64 || 2 ≤ r.consume
    let ok : Bool := match blocks.find? fun b => b.ofs == (m.actor a).first with
      | some b => match (b.recs.map laxRow).getD k none with
        | some (.mov f) => f.v == vec
        | _ => false
      | none => false
    failIf (!ok) (fail q)
  masks ++ entry ++ rates ++ movs

/-- Failures of the rates (R351). -/
def rateFails (m : Image) : List Fail :=
  (List.range m.queues.length).flatMap fun q =>
    let r := m.queue q
    let runs := fun (a : Nat) => if a = m.entry then 1 else if (m.inputs a).isEmpty then 0 else m.dcount - 1
    let sum := (List.range m.actors.length).foldl (fun n a => if (m.outputs a).contains q then n + r.produce * runs a else n) 0
    let room := match m.consumer q with | some c => r.depth * (m.regionOf c).minr | none => r.depth
    failIf (r.produce = 0 || r.consume = 0 || r.depth < r.consume || r.depth < r.produce ||
      ((m.consumer q).isSome && m.dcount == 1) || room < sum) ⟨reasonRate, q, 0, 0⟩

/-- Failures of the REGIONS records by themselves (R311, R348). -/
def regionFails (m : Image) : List Fail :=
  m.regions.zipIdx.flatMap fun (r, k) =>
    failIf (r.minr = 0 || r.maxr < r.minr || 16 < r.maxr || !(r.die ≤ 3 || r.die == 0xFF)) ⟨reasonRegion, k, 0, 0⟩

/-- The blocks of an actor. -/
def Loaded.blocksOf (ld : Loaded) (a : Nat) : List (Nat × RawBlock) :=
  (ld.blocks.zipIdx.filter fun (b, _) => ld.image.actorOf b.ofs == some a).map fun (b, k) => (k, b)

/-- Failures of FIT (R348, R350): an actor with no admissible origin row. -/
def fitFails (ld : Loaded) : List Fail :=
  (List.range ld.image.actors.length).flatMap fun a =>
    let blocks := ld.blocksOf a
    let shape := (ld.image.regionOf a).shape
    if !(admissibleRows (blocks.map fun (_, b) => b.recs) shape).isEmpty then []
    else
      let y := (legalRows shape).headD 0
      match blocks.findSome? fun (k, b) => match placeRecs b.recs shape y [] with
          | .error (d, n) => some (k, d, n)
          | .ok _ => none with
      | some (k, d, n) => [⟨reasonFit, k, n, d⟩]
      | none => []

/-- The DIGEST of an image's bytes (R93). -/
def imageDigest (bs : List Byte) : List Byte := shake256 16 (bs.take 32 ++ List.replicate 16 0 ++ bs.drop 48)

/-- Every failure of an image by itself, once its header has been read (R348). `digest` is the packet's. -/
def imageFails (bs : List Byte) (ld : Loaded) (digest : List Byte) : List Fail :=
  let m := ld.image
  let own := (bs.drop 32).take 16
  (if headerFieldsOk bs then (formatKinds bs ld).map fun k => ⟨reasonFormat, 0, 0, k⟩ else [⟨reasonFormat, 0, 0, 0⟩]) ++
  failIf (imageDigest bs != own || own != digest) ⟨reasonDigest, 0, 0, 0⟩ ++
  (match legacyFpcm m.fpcm with | some c => [⟨reasonLegacy, 0, 0, c⟩] | none => []) ++
  (ld.blocks.zipIdx.flatMap fun (b, k) => blockFails b.hdr b.recs k (m.startNodes b.ofs)) ++
  failIf (ld.ends == .noMagic) ⟨reasonBlock, ld.blocks.length, 0, 0⟩ ++
  fitFails ld ++ (ld.blocks.zipIdx.flatMap fun (b, k) => nodeFails m ld.blocks (m.actorOf b.ofs) b.ofs k b.recs) ++
  queueFails m ld.blocks ++ rateFails m ++ regionFails m

end Sys2Proof.Machine
end

