-- ==== Sys2Proof/Machine/Plumbing.lean ====
section
/-! DEFINITION. Plumbing and control (R107 to R118), and the firing of a record that no element accepts (R76, R91). -/

namespace Sys2Proof.Machine

/-! ### Sinks of a block -/

/-- A fault found at a node that is a sink: the node writes its own record (R108, R198, R202). -/
def sinkFault (f : Firing) (cause : Nat) : Cmd := .get fun s => writeFault f.sid (s.recordAt f cause)

/-- A node without destinations (R108): poison is recorded; with `tagged`, a token whose tag is not the instance tag takes
fault ILLEGAL and counts as a null firing. -/
def sinkNode (f : Firing) (h : Hdr) (tagged : Bool) (k : Cmd) : Cmd :=
  let itag := instTag (tagDomain f.tag)
  .seq (markFired (if tagged then { f with tag := itag } else f)) (match f.poison? with
    | some o => sinkPoison f o
    | none =>
      if tagged && f.tag != itag then sinkFault f causeIllegal
      else if f.off h.pred then .skip else k)

/-! ### Passing values -/

/-- MOV (R110). -/
def execMov (f : PlumbNode) (s : State) : Host.Outcome State Fault Refusal :=
  (compute s.cur f.toHdr (Instr.mov f).sig 1 (f.ty.pass (orNull s.cur.a))).next s

/-- STEER (R111). -/
def execSteer (f : PlumbNode) (s : State) : Host.Outcome State Fault Refusal :=
  let c := s.cur
  let h := f.toHdr
  let out := fun (which : Nat) (v : Val) => emitOn c which (if which = 0 then h.d0 else h.d1) 1 c.tag v
  let null := Val.null f.v
  Cmd.next (.seq (markFired c) (match c.poison? with
    | some o => emitPoison c h 1 c.tag o
    | none =>
      if !c.predOk h.pred || (orNull c.p).isNull && h.pred != .always then emit c h 1 c.tag null
      else if (orNull c.a).isNull || (orNull c.b).isNull then
        (if f.sub = 0 then emit c h 1 c.tag null else out 1 null)
      else if (orNull c.b).word.getLsbD 0 then
        .seq (out 0 (f.ty.pass (orNull c.a))) (.when (f.sub = 0) (out 1 null))
      else .seq (out 1 (f.ty.pass (orNull c.a))) (.when (f.sub = 0) (out 0 null)))) s

/-- MERGE (R112). -/
def execMerge (f : PlumbNode) (s : State) : Host.Outcome State Fault Refusal :=
  let c := s.cur
  let h := f.toHdr
  let a := orNull c.a
  let b := orNull c.b
  let off := !c.predOk h.pred || (h.pred != .always && (orNull c.p).isNull)
  let v := if off then Val.null f.v else if !a.isNull then f.ty.pass a else if !b.isNull then f.ty.pass b else .null f.v
  Cmd.next (.seq (markFired c) (match c.poison? with
    | some o => emitPoison c h 1 c.tag o
    | none => emit c h 1 c.tag v)) s

/-- GATE (R110): a, once b is present. -/
def execGate (f : PlumbNode) (s : State) : Host.Outcome State Fault Refusal :=
  (compute s.cur f.toHdr (Instr.gate f).sig 1 (f.ty.pass (orNull s.cur.a))).next s

/-- NULLG (R110): a null token, shaped by V. -/
def execNullg (f : PlumbNode) (s : State) : Host.Outcome State Fault Refusal :=
  (compute s.cur f.toHdr (Instr.nullg f).sig 1 (.null f.v)).next s

/-- SINK (R108, R110). -/
def execSink (f : PlumbNode) (s : State) : Host.Outcome State Fault Refusal :=
  (sinkNode s.cur f.toHdr false .skip).next s

/-- CONST (R113). -/
def execConst (f : PlumbNode) (s : State) : Host.Outcome State Fault Refusal :=
  (compute s.cur f.toHdr (Instr.const f).sig 1 (f.ty.literalVal f.v f.lit)).next s

/-! ### Global registers -/

/-- READ (R114): asks the job scheduler for the register; the firing counts when it is served. -/
def execRead (f : PlumbNode) (s : State) : Host.Outcome State Fault Refusal :=
  Cmd.next (match s.cur.poison? with
    | some o => .seq (markFired s.cur) (emitPoison s.cur f.toHdr 1 s.cur.tag o)
    | none => withSerial fun n => .all [
      .prim (.blocks fun r => { r with reads := r.reads.set n ⟨s.cur, f.toHdr, f.greg.toNat, f.v⟩ }),
      after 0 (.globalReadServe n)]) s

/-- WRITE (R115): holds its operand in the block frame until commit. -/
def execWrite (f : PlumbNode) (s : State) : Host.Outcome State Fault Refusal :=
  let c := s.cur
  (sinkNode c f.toHdr true (modInst c.ctx c.rgn c.frm (tagDomain c.tag) fun i =>
    { i with writes := i.writes ++ [⟨c.node, f.v, f.greg.toNat, f.ty.pass (orNull c.a)⟩] })).next s

/-! ### Branches -/

/-- A block base moved by a signed count of 64-byte units (R79, R116). -/
def blockTarget (base : Nat) (units : Int) : Nat := wrapTo 64 (base + 64 * units)

/-- The address after a block of N nodes (R118). -/
def blockAfter (base nodes : Nat) : Nat := base + 64 * ((12 * (nodes + 1) + 63) / 64)

/-- Record the branch of the firing's instance, with its successor (R116, R242): the start request reaches the block
sequencer two cycles later (R238). -/
def takeBranch (f : Firing) (target : Option Nat) : Cmd :=
  let dom := tagDomain f.tag
  .seq (modInst f.ctx f.rgn f.frm dom fun i => { i with branch := .taken target })
    (match target with
     | some b => withSerial fun n => .get fun s => .seq
        (modRegion f.ctx f.rgn fun r => { r with starts := r.starts ++ [⟨s.now + 2, b, dom, n, some f, []⟩] })
        (after 2 (.blockStart f.ctx f.rgn))
     | none => tryCommit f.ctx f.rgn f.frm dom)

/-- A branch node (R108, R116): a second non-null branch of an instance takes fault ILLEGAL. `k` has the current block's
base. -/
def branchNode (f : Firing) (h : Hdr) (k : Nat → Cmd) : Cmd := sinkNode f h true (.get fun s =>
  let taken : Bool := match s.inst? f.ctx f.rgn f.frm (tagDomain f.tag) with
    | some i => i.branch != .none
    | none => false
  if taken then sinkFault f causeIllegal else k (match s.blockOf f with | some b => b.addr | none => 0))

def modAct (ctx dom : Nat) (g : Act → Act) : Cmd := modCtx ctx fun c => { c with acts := c.acts.mod dom g }
def State.act? (s : State) (ctx dom : Nat) : Option Act :=
  match s.ctx? ctx with | some c => c.acts.get? dom | none => none

/-- BR (R116): go, or end the activation after commit. -/
def execBr (f : PlumbNode) (s : State) : Host.Outcome State Fault Refusal :=
  (branchNode s.cur f.toHdr fun base =>
    takeBranch s.cur (if f.sub = 1 then none else some (blockTarget base f.lit.toInt))).next s

/-- BRI (R117): target := block base + 64 * (LIT + i32(a)). -/
def execBri (f : PlumbNode) (s : State) : Host.Outcome State Fault Refusal :=
  let off := ((orNull s.cur.a).word.setWidth 32).toInt
  (branchNode s.cur f.toHdr fun base => takeBranch s.cur (some (blockTarget base (f.lit.toInt + off)))).next s

/-- CALLB (R118): pushes the next block in memory; a ninth push takes fault TAGDEPTH and no branch is taken. -/
def execCallb (f : PlumbNode) (s : State) : Host.Outcome State Fault Refusal :=
  let c := s.cur
  let dom := tagDomain c.tag
  (branchNode c f.toHdr fun base => .get fun s =>
    let depth := match s.act? c.ctx dom with | some a => a.link.length | none => 0
    let nodes := match s.blockOf c with | some b => b.nodes.length | none => 0
    if 8 ≤ depth then .seq (sinkFault c causeTagdepth) (takeBranch c none)
    else .seq (modAct c.ctx dom fun a => { a with link := blockAfter base nodes :: a.link })
      (takeBranch c (some (blockTarget base f.lit.toInt)))).next s

/-- RETB (R118): pops the top entry and branches to it; an empty stack takes fault ILLEGAL and the activation ends. -/
def execRetb (f : PlumbNode) (s : State) : Host.Outcome State Fault Refusal :=
  let c := s.cur
  let dom := tagDomain c.tag
  (branchNode c f.toHdr fun _ => .get fun s =>
    match s.act? c.ctx dom with
    | some a => match a.link with
      | top :: rest => .seq (modAct c.ctx dom fun a => { a with link := rest }) (takeBranch c (some top))
      | [] => .seq (sinkFault c causeIllegal) (takeBranch c none)
    | none => .seq (sinkFault c causeIllegal) (takeBranch c none)).next s

/-! ### Records that no element accepts -/

/-- ILLEGAL_OPCODE_FIRE (R75, R76, R91): fault ILLEGAL, or RESERVED_OPC for 0xE0 to 0xFE; arriving poison wins (R106). -/
def execIllegalOpcodeFire (record : Rec) (s : State) : Host.Outcome State Fault Refusal :=
  let f := s.cur
  let raw := RawNode.unpack record
  let h := raw.hdr .always
  let cause := if 0xE0 ≤ raw.opc.toNat ∧ raw.opc.toNat ≤ 0xFE then causeReserved else causeIllegal
  Cmd.next (.seq (markFired f) (match f.poison? with
    | some o => emitPoison f h 1 f.tag o
    | none => raiseFault f h 1 cause)) s

end Sys2Proof.Machine
end

