-- ==== Sys2Proof/Machine/Queues.lean ====
section
/-! DEFINITION. Queue instances (R311 to R316), the owner of a key (R324), ROUTE (R174), and the appends of the device
itself (R312, R328). -/

namespace Sys2Proof.Machine

/-! ### Queue instances -/

/-- The actor of a context that consumes a queue; none for an engine queue (R311). -/
def Ctx.consumer (c : Ctx) (q : Nat) : Option Nat := c.image.actors.findIdx? fun a => a.inMask.getLsbD q

/-- A queue instance: of a region replica, or, without a RGNID, the engine queue of a context. -/
def State.qinst (s : State) (ctx q : Nat) (rgn : Option Nat) : Option QInst :=
  match rgn with
  | some r => match s.region? ctx r with | some x => x.queues.find? fun i => i.queue == q | none => none
  | none => match s.ctx? ctx with | some c => c.equeues.find? fun i => i.queue == q | none => none

def modQinst (ctx q : Nat) (rgn : Option Nat) (f : QInst → QInst) : Cmd :=
  let change := fun (l : List QInst) => l.map fun i => if i.queue = q then f i else i
  match rgn with
  | some r => modRegion ctx r fun x => { x with queues := change x.queues }
  | none => modCtx ctx fun c => { c with equeues := change c.equeues }

def QInst.occupancy (i : QInst) : Nat := (i.resv + 2 ^ 32 - i.head) % 2 ^ 32
def QInst.room (i : QInst) : Nat := i.depth - i.occupancy
def QInst.slot (i : QInst) (k : Nat) : QSlot := i.slots.getD k .free

/-- The slots from HEAD on, in order. -/
def QInst.fromHead (i : QInst) (n : Nat) : List QSlot := (List.range n).map fun k => i.slot ((i.head + k) % i.depth)
def QSlot.val? : QSlot → Option Val | .written v => some v | _ => none
/-- Whether the first `n` slots from HEAD all have their written flag. -/
def QInst.ready (i : QInst) (n : Nat) : Bool := n ≤ i.occupancy && (i.fromHead n).all fun x => x.val?.isSome

/-- HEAD passes `n` slots, which become free (R314, R315). -/
def QInst.advance (i : QInst) (n : Nat) : QInst :=
  { i with
    head := (i.head + n) % 2 ^ 32
    slots := (List.range n).foldl (fun t k => t.del ((i.head + k) % i.depth)) i.slots }

/-- The owner of a key (R324): none when the set is empty, else the RGNID, or none inside for an engine queue. -/
def State.ownerOf (s : State) (ctx q : Nat) (key : W64) : Option (Option Nat) :=
  match s.ctx? ctx with
  | none => none
  | some c => match c.consumer q with
    | none => some none
    | some a =>
      let rec_ := c.image.regions.getD ((c.image.actors.getD a ⟨0, 0, 0, 0⟩).region) ⟨0, 1, 1, 0xFF⟩
      let all := (s.regionsOf ctx).filter fun r => r.actor == a
      let set :=
        if rec_.maxr = 1 then all.take 1
        else
          let open_ := all.filter fun r => r.state == .available
          if key.toNat = 2 ^ 64 - 1 then open_
          else
            let entry := (c.pmaps.getD a []).getD (key.toNat % 256) 0
            open_.filter fun r => entry.testBit r.replica
      let room := fun (r : Region) => match r.queues.find? fun i => i.queue == q with | some i => i.room | none => 0
      let best := set.foldl (fun (b : Option Region) r => match b with
        | none => some r
        | some x => if room x < room r || (room x == room r && r.replica < x.replica) then some r else b) none
      best.map fun r => some r.rgn

/-- Cycles of one way of a reservation (R313). -/
def State.queueWay (s : State) (die ctx : Nat) (rgn : Option Nat) : Nat :=
  match rgn with
  | none => 6
  | some r => if (match s.region? ctx r with | some x => x.die | none => 0) = die then 6 else 15

def setResv (n : Nat) (r : Reservation) : Cmd := .prim (.blocks fun x => { x with reservations := x.reservations.set n r })
def dropResv (n : Nat) : Cmd := .prim (.blocks fun x => { x with reservations := x.reservations.del n })
def State.resv? (s : State) (n : Nat) : Option Reservation := s.run.reservations.get? n

/-- The die that a reservation comes from. -/
def State.resvDie (s : State) (r : Reservation) : Nat :=
  match r.f with
  | some f => dieOf f.sid
  | none => match s.ctx? r.ctx with | some c => c.homeDie | none => 0

/-- Grant a reservation the next slot (R313 step 3, R315). -/
def grantSlot (n : Nat) (r : Reservation) (i : QInst) : Cmd := .get fun s => .all [
  modQinst r.ctx r.queue r.rgn fun x => { x with
    resv := (x.resv + 1) % 2 ^ 32, slots := x.slots.set (i.resv % i.depth) .reserved, waiting := x.waiting.filter fun k => k != n },
  setResv n { r with slot := some (i.resv % i.depth) },
  after (s.queueWay (s.resvDie r) r.ctx r.rgn) (.reservationGrant n)]

/-- Slots have become free: the reservations that wait are granted in order of arrival (R313 step 4). -/
def grantWaiting (ctx q : Nat) (rgn : Option Nat) : Nat → Cmd
  | 0 => .skip
  | fuel + 1 => .get fun s => match s.qinst ctx q rgn with
    | none => .skip
    | some i => match i.waiting with
      | [] => .skip
      | n :: rest =>
        if i.room = 0 then .skip
        else .seq (match s.resv? n with
            | some r => grantSlot n r i
            | none => modQinst ctx q rgn fun x => { x with waiting := rest })
          (grantWaiting ctx q rgn fuel)

/-- A value reaches its slot, whose flag is set (R313 step 3, R315). -/
def writeSlot (n : Nat) (r : Reservation) (k : Nat) : Cmd := .all [
  modQinst r.ctx r.queue r.rgn fun x => { x with slots := x.slots.set k (.written r.val) },
  dropResv n,
  match r.rgn with
  | some g => after 0 (.delivery r.ctx g)
  | none => .get fun s => Cmd.each (s.eng.jobs.filter fun (_, j) => j.ctx == r.ctx && j.state == .running && j.target == 64 + r.queue)
      fun (id, _) => after 0 (.engineQueueTakeUp id)]

/-! ### ROUTE (R174, R313) -/

/-- The reservation that a parked ROUTE firing has been granted. -/
def State.grantOf (s : State) (f : Firing) : Option (Nat × Reservation) :=
  s.run.reservations.find? fun (_, r) => match r.f with | some x => x.fid == f.fid && r.slot.isSome | none => false

/-- Whether a run-time queue number is one that a ROUTE may use (R174). -/
def State.routeOk (s : State) (c : Firing) (v : Bool) (q : Nat) : Bool :=
  match s.ctx? c.ctx, s.region? c.ctx c.rgn with
  | some x, some r => match x.image.queues[q]? with
    | some rec_ => q < 64 && (x.image.actors.getD r.actor ⟨0, 0, 0, 0⟩).outMask.getLsbD q && rec_.slot == (if v then 64 else 8)
    | none => false
  | _, _ => false

/-- ROUTE (R174, R313): it reserves a slot of the owner's instance, waits parked, and writes the slot when granted. -/
def execRoute (f : GfxNode) (s : State) : Host.Outcome State Fault Refusal :=
  let c := s.cur
  let h := f.toHdr
  let g := (Instr.route f).sig
  let q := if f.l then f.lit.toNat else (orNull c.b).word.toNat % 2 ^ 32
  let say := fun (lat : Nat) (b : Bool) => Cmd.seq (markFired c) (emit c h lat c.tag (.bit b))
  let val : Val := if f.v then .vector (orNull c.a).wide else .scalar (f.ty.pass (orNull c.a)).word
  Cmd.next (match s.grantOf c with
    | some (n, r) => .seq (writeSlot n { r with val := val } (r.slot.getD 0)) (say (s.queueWay (dieOf c.sid) c.ctx r.rgn) true)
    | none =>
      if c.poison?.isSome || c.off h.pred then node c h g 1 c.tag .skip
      else if !s.routeOk c f.v q then .seq (markFired c) (raiseFault c h 1 causeQueuefmt)
      else match s.ownerOf c.ctx q (orNull c.c).word with
        | none => say 1 false
        | some rgn => withSerial fun n => .all [
            setResv n ⟨some c, c.ctx, q, (orNull c.c).word, val, rgn, none, 0⟩,
            park (.route f) c .reservation,
            after (s.queueWay (dieOf c.sid) c.ctx rgn) (.queueReserve n)]) s

/-! ### The sequencer's side -/

/-- Release the ROUTE firing of a reservation. -/
def releaseRoute (f : Firing) : Cmd := releaseWhere f.sid fun p => p.f.fid == f.fid && p.why == .reservation

/-- A reservation chooses again from step 1 (R313 step 5): a ROUTE fires anew, the device appends anew. -/
def chooseAgain (n : Nat) (r : Reservation) : Cmd :=
  match r.f with
  | some f => .seq (dropResv n) (releaseRoute f)
  | none => .seq (setResv n { r with rgn := none, slot := none }) (after 1 (.deviceQueueAppend n))

/-- QUEUE_RESERVE (R313): the instance grants, holds or refuses; a notice that finds no slot is not made (R328). -/
def execQueueReserve (rs : Nat) (s : State) : Host.Outcome State Fault Refusal :=
  Cmd.next (match s.resv? rs with
    | none => .skip
    | some r =>
      if r.slot.isSome then .skip
      else
        let refused : Bool := match r.rgn with
          | some g => match s.region? r.ctx g with
            | some x => x.state != .available && x.state != .placing
            | none => true
          | none => false
        match s.qinst r.ctx r.queue r.rgn with
        | none => if r.f.isNone && r.origin = 0 then dropResv rs else chooseAgain rs r
        | some i =>
          if refused then chooseAgain rs r
          else if i.waiting.contains rs then .skip
          else if i.waiting.isEmpty && 0 < i.room then grantSlot rs r i
          else if r.f.isNone && r.origin = 0 then dropResv rs
          else modQinst r.ctx r.queue r.rgn fun x => { x with waiting := x.waiting ++ [rs] }) s

/-- RESERVATION_GRANT (R313): a ROUTE becomes ready and fires; the device writes its value into the slot (R312). -/
def execReservationGrant (rs : Nat) (s : State) : Host.Outcome State Fault Refusal :=
  Cmd.next (match s.resv? rs with
    | none => .skip
    | some r => match r.slot with
      | none => .skip
      | some k => match r.f with
        | some f => releaseRoute f
        | none => .seq (writeSlot rs r k) (.get fun t => match t.eng.jobs.get? r.origin with
            | some _ => .when (r.origin != 0) (after 1 (.jobPayloadDone r.origin))
            | none => .skip)) s

/-- DEVICE_QUEUE_APPEND (R312, R328): a unit of the device chooses the owner of the any-key and sends a reservation. -/
def execDeviceQueueAppend (rs : Nat) (s : State) : Host.Outcome State Fault Refusal :=
  Cmd.next (match s.resv? rs with
    | none => .skip
    | some r => match s.ownerOf r.ctx r.queue r.key with
      | none => if r.origin = 0 then dropResv rs else after 1 (.deviceQueueAppend rs)
      | some rgn => .seq (setResv rs { r with rgn := rgn })
          (after (s.queueWay (s.resvDie r) r.ctx rgn) (.queueReserve rs))) s

end Sys2Proof.Machine
end

