-- ==== Sys2Proof/Machine/Blocks.lean ====
section
/-! DEFINITION. The block sequencer (R231 to R242): starts, fetches of blocks (R89, R117, R237, R349), commits, ends of
activations, the global file (R114, R115, R254), domains, and deliveries (R314). -/

namespace Sys2Proof.Machine

/-! ### Fetching a block -/

/-- Why a run-time fetch fails: cause, DETAIL and VALA. -/
abbrev FetchFail := Nat × Nat × Nat

/-- Whether an address lies in a context's image. -/
def Image.holds (m : Image) (a : Nat) : Bool := m.va.toNat ≤ a && a < m.va.toNat + m.size

/-- A context's image as it now stands in memory. -/
def State.loaded (s : State) (die vd : Nat) (m : Image) : Loaded :=
  let bs := if (s.engError die vd m.va.toNat m.size .image).isSome then [] else (s.engBytes die vd m.va.toNat m.size 0 none).1
  { readImage m.va bs 255 with image := m }

/-- The block at an address as a region's sequencer gets it (R89, R117, R237, R349): bytes are read anew, so an image that has
changed since its digest was checked runs as it stands (R361). -/
def State.fetchBlock (s : State) (c : Ctx) (r : Region) (addr : Nat) : Except FetchFail Block :=
  let m := c.image
  let inImage := m.holds addr
  let ofs := addr - m.blocksVA
  let first := (m.actor r.actor).first
  if inImage && !(m.blocksVA + first ≤ addr && addr < m.blocksVA + m.actorEnd first) then .error (causeIllegal, 0, 0)
  else match s.engError r.die c.vd addr 12 .image with
    | some (cause, d, _) => .error (cause, d, 0)
    | none =>
      let hdr := recOfBytes (s.engBytes r.die c.vd addr 12 0 none).1
      let n := hdrNodes hdr
      if natBits hdr.toNat 95 88 != 0xB1 then .error (causeBlockfmt, 0, 0)
      else match s.engError r.die c.vd addr (12 * (n + 1)) .image with
        | some (cause, d, _) => .error (cause, d, 0)
        | none =>
          let recs := recsOf ((s.engBytes r.die c.vd (addr + 12) (12 * n) 0 none).1) n
          let start := if inImage then m.startNodes ofs else 0
          let fails := if inImage then [] else blockFails hdr recs 0 start ++
            nodeFails m (s.loaded r.die c.vd m).blocks (some r.actor) ((addr : Int) - m.blocksVA) 0 recs
          let lost := if hdrPin hdr then [] else s.retiredIn r.die r.x0 r.y0 r.shape
          let places := match placeRecs recs r.shape r.y0 lost with
            | .ok p => some p
            | .error _ => match placeRecs recs r.shape r.y0 [] with | .ok p => some p | .error _ => none
          if !headerHolds hdr recs then .error (causeBlockfmt, 0, 0)
          else match firstFail fails, places with
            | some f, _ => if f.reason = reasonLegacy then .error (causeLegacy, f.detail, f.node) else .error (causeIllegal, 0, 0)
            | none, none => .error (causeIllegal, 0, 0)
            | none, some p => .ok { blockOfRecs addr hdr recs start with places := p }

/-- Cycles of reading a routed block and filling a frame with it (R238), N from the header. -/
def State.fillCycles (s : State) (die vd addr : Nat) : Nat :=
  32 + (hdrNodes (recOfBytes (s.engBytes die vd addr 12 0 none).1) + 3) / 4

/-- Drop the records that a frame has in the slots of its region (R23). -/
def clearFrame (r : Region) (frm : Nat) : Cmd := Cmd.each r.sites fun sid =>
  modElem sid fun e => { e with slots := e.slots.filter fun (k, _) => k / 8 != frm }

/-- Write a placed block into a frame: each record into slot 8 * FRM + SLOT of its site, with the sites of its destinations
(R23, R354, R355). -/
def installBlock (r : Region) (frm : Nat) (b : Block) : Cmd :=
  let place := fun (n : Nat) => b.places.getD n (0, 0, 0)
  .seq (clearFrame r frm) (Cmd.each b.nodes.zipIdx fun (w, n) =>
    let raw := RawNode.unpack w
    let (x, y, k) := place n
    let at_ := fun (d : Dest) => let (dx, dy, _) := place d.node.toNat; (r.x0 + dx, r.y0 + dy)
    let (ax, ay) := at_ (Dest.unpack raw.d0)
    let (bx, by_) := at_ (Dest.unpack raw.d1)
    modElem (sidAt r.die (r.x0 + x) (r.y0 + y)) fun e => { e with
      slots := e.slots.set (8 * frm + k) ⟨w, frm, n, r.ctx, r.rgn, ax, ay, bx, by_, false⟩ })

/-! ### Starting -/

/-- The frame that maps or awaits a block. -/
def Region.frameOf (r : Region) (addr : Nat) : Option Nat :=
  r.frames.findIdx? fun f => (match f.block with | some b => b.addr == addr | none => false) || f.filling == some addr

/-- Whether a block of a frame is resident (R87). -/
def Frame.res (f : Frame) : Bool := match f.block with | some b => hdrRes b.hdr | none => false

/-- The reclaimable frame that a miss takes (R236 step 2). -/
def Region.victim (r : Region) : Option Nat :=
  (r.frames.zipIdx.foldl (fun (best : Option (Frame × Nat)) (f, k) =>
    if !f.insts.isEmpty || f.filling.isSome then best
    else match best with
      | none => some (f, k)
      | some (g, j) =>
        if (!f.res && g.res) || (f.res == g.res && f.lastStart < g.lastStart) then some (f, k) else some (g, j)) none).map (·.2)

/-- Start an instance (R236, R242): its source nodes become ready and the delivery's tokens are injected (R314). -/
def startInstance (ctx rgn frm : Nat) (q : StartReq) : Cmd := withSerial fun n => .get fun s =>
  match s.region? ctx rgn, s.act? ctx q.dom with
  | some r, some a =>
    match (r.frames.getD frm Frame.empty).block with
    | none => .skip
    | some b =>
      let tag := instTag q.dom
      .all [
        modAct ctx q.dom fun a => { a with seq := a.seq + 1 },
        modFrame ctx rgn frm fun f => { f with
          insts := f.insts ++ [⟨q.dom, n, a.seq, [], .none, [], [], [], []⟩], lastStart := s.now },
        Cmd.each b.nodes.zipIdx fun (w, k) =>
          let sid := r.siteOf b k
          .when (match laxRow w with | some i => i.isSource | none => false) (.get fun t =>
            match (t.elem sid).slotOf frm k with
            | some (slot, sl) => pushReady 1 sid slot sl tag none none none none
            | none => .skip),
        Cmd.each q.inject fun (k, v) =>
          let sid := r.siteOf b k
          let t : Token := ⟨xOf sid, yOf sid, frm, k, .a, xOf sid, yOf sid, tag, v⟩
          .seq (putOut sid 0 2 0 t) (.when (!s.replaying ctx)
            (capture ctx ⟨1, rgn, BitVec.ofNat 32 (destWord ⟨true, BitVec.ofNat 7 k, .a⟩ (xOf sid) (yOf sid) frm), tag, v.payload⟩))]
  | _, _ => .skip

def dropStart (ctx rgn : Nat) (q : StartReq) : Cmd :=
  modRegion ctx rgn fun r => { r with starts := r.starts.filter fun x => x.order != q.order }

/-- Look at one start request (R236). -/
def grantStart (ctx rgn : Nat) (q : StartReq) : Cmd := .get fun s =>
  match s.ctx? ctx, s.region? ctx rgn with
  | some c, some r =>
    if (s.act? ctx q.dom).isNone then dropStart ctx rgn q
    else match r.frameOf q.block with
      | some k =>
        let f := r.frames.getD k Frame.empty
        if f.filling.isSome || f.insts.any (fun i => i.dom == q.dom) then .skip
        else .seq (dropStart ctx rgn q) (startInstance ctx rgn k q)
      | none => match r.victim with
        | none => .skip
        | some k => .all [
            modFrame ctx rgn k fun f => { f with block := none, filling := some q.block },
            clearFrame r k,
            if c.image.holds q.block then after (s.fillCycles r.die c.vd q.block) (.frameFilled ctx rgn k)
            else withSerial fun n => .seq
              (.prim (.ten fun t => { t with maps := t.maps.set n ⟨ctx, q.block, rgn, k, none⟩ })) (after 0 (.mapperRequest r.die))]
  | _, _ => .skip

/-- Whether a start request finds no frame that is or can be its own (R236 step 3). -/
def State.waitsFrame (s : State) (ctx rgn : Nat) (q : StartReq) : Bool := match s.region? ctx rgn with
  | some r => (s.act? ctx q.dom).isSome && (r.frameOf q.block).isNone && r.victim.isNone
  | none => false

/-- Grant start requests in order, up to one that must wait for a frame. -/
def grantStarts (ctx rgn : Nat) : List StartReq → Cmd
  | [] => .skip
  | q :: rest => .get fun s => .when (!s.waitsFrame ctx rgn q) (.seq (grantStart ctx rgn q) (grantStarts ctx rgn rest))

/-- BLOCK_START (R236, R238): the sequencer looks at the start requests that have reached it, oldest first. -/
def execBlockStart (ctx rgn : Nat) (s : State) : Host.Outcome State Fault Refusal :=
  Cmd.next (match s.region? ctx rgn with
    | none => .skip
    | some r => .when (!r.stopped) (grantStarts ctx rgn (r.starts.filter fun q => q.due ≤ s.now))) s

/-! ### Ends of activations (R233) -/

/-- Free the domain, the link stack and the pts of an activation, and with them what waited for its end. -/
def endActivation (ctx rgn dom : Nat) : Cmd := .all [
  modCtx ctx fun c => { c with acts := c.acts.del dom },
  endActs ctx rgn fun a => tagDomain a == dom,
  freeHitches ctx rgn,
  after 0 (.domainFree ctx dom),
  after 0 (.replicaGone ctx rgn)]

/-- A start request whose fetch failed (R117, R242): a record at the branch node, and the activation ends once its predecessor
has committed. -/
def failStart (ctx rgn addr : Nat) (e : FetchFail) (q : StartReq) : Cmd := .get fun s =>
  let (cause, detail, vala) := e
  let put := fun (r : FaultRec) => writeRecord { r with addr := BitVec.ofNat 64 addr, detail := detail, vala := BitVec.ofNat 64 vala }
  .seq (dropStart ctx rgn q) (match q.origin with
    | some f => .seq (put (s.recordAt f cause)) (match s.inst? ctx rgn f.frm q.dom with
        | some _ => .seq (modInst ctx rgn f.frm q.dom fun i => { i with branch := .taken none }) (tryCommit ctx rgn f.frm q.dom)
        | none => endActivation ctx rgn q.dom)
    | none => .seq (put { s.engineRecord ctx (s.dieOfRegion ctx rgn) cause 0 0 with rgn := rgn }) (endActivation ctx rgn q.dom))

/-- A launch whose memory is set up waits for its first blocks (R359 step 10). -/
def launchFilled (c : Ctx) : Cmd := .get fun s =>
  let up := match s.ten.launches.get? c.launch with | some l => l.stage == 2 | none => false
  .when (c.state == .loading && up && !s.isDue (.launchLoadDone c.launch)) (after 0 (.launchLoadDone c.launch))

/-- FRAME_FILLED (R238): the records of a missed block arrive, are checked, and fill the frame. -/
def execFrameFilled (ctx rgn frm : Nat) (s : State) : Host.Outcome State Fault Refusal :=
  Cmd.next (match s.ctx? ctx, s.region? ctx rgn with
    | some c, some r => match (r.frames.getD frm Frame.empty).filling with
      | none => .skip
      | some addr =>
        if r.stopped then after 1 (.frameFilled ctx rgn frm)
        else match s.fetchBlock c r addr with
          | .ok b => .all [
              installBlock r frm b,
              modFrame ctx rgn frm fun f => { f with block := some b, filling := none },
              .when (r.state == .placing) (after 2 (.replicaAvailable ctx rgn)),
              launchFilled c,
              after 1 (.blockStart ctx rgn)]
          | .error e => .all [
              modFrame ctx rgn frm fun f => { f with block := none, filling := none },
              Cmd.each (r.starts.filter fun q => q.block == addr) fun q => failStart ctx rgn addr e q,
              .when (r.state == .placing) (after 2 (.replicaAvailable ctx rgn)),
              launchFilled c,
              after 1 (.blockStart ctx rgn)]
    | _, _ => .skip) s

/-! ### Commit (R239, R240) -/

/-- An instance's frame, and the instance, of a domain. -/
def State.commitReady (s : State) (ctx rgn frm dom : Nat) (r : Region) (b : Block) (i : Inst) : Bool :=
  let first := r.frames.all fun f => f.insts.all fun m => m.dom != dom || i.seq ≤ m.seq
  let fired := b.commit.all fun n => i.fired.contains n
  let resolved := s.mem.ops.all fun (_, o) =>
    o.f.ctx != ctx || o.f.rgn != rgn || o.f.frm != frm || o.dom != dom || o.resolved
  let loops := b.levelOneBounds.all fun n => (i.wins.filter fun (m, outer, _) => m == n && outer == instTag dom).length == 1
  let reductions := r.sites.all fun sid => (s.elem sid).accums.all fun a => a.frm != frm || tagDomain a.outer != dom
  let spawning := s.run.pools.any fun (_, q) => q.ret.isNone && q.f.ctx == ctx && q.f.rgn == rgn && q.f.frm == frm && tagDomain q.f.tag == dom
  first && fired && resolved && loops && i.numbers.isEmpty && !spawning && reductions

/-- Apply a WRITE (R115, R240). -/
def applyWrite (ctx : Nat) (w : WriteHold) : Cmd := .when (!w.val.isNull) (modCtx ctx fun c =>
  if w.vec then { c with vglobals := c.vglobals.set (w.reg % 32) w.val.wide } else { c with globals := c.globals.set w.reg w.val.word })

/-- Insert a held WRITE by node number. -/
def insertWrite (l : List WriteHold) (w : WriteHold) : List WriteHold :=
  (l.filter fun x => x.node ≤ w.node) ++ [w] ++ l.filter fun x => w.node < x.node

/-- INSTANCE_COMMIT (R239 to R241). -/
def execInstanceCommit (ctx rgn frm dom : Nat) (s : State) : Host.Outcome State Fault Refusal :=
  Cmd.next (match s.region? ctx rgn, s.inst? ctx rgn frm dom with
    | some r, some i => match (r.frames.getD frm Frame.empty).block with
      | none => .skip
      | some b =>
        let others := r.frames.zipIdx.filter fun (f, k) => k != frm && f.insts.any fun m => m.dom == dom
        let ends := match i.branch with | .none | .taken none => true | .taken (some _) => false
        .when (!r.stopped && s.commitReady ctx rgn frm dom r b i) (.all [
          Cmd.each (i.writes.foldl insertWrite []) (applyWrite ctx),
          modFrame ctx rgn frm fun f => { f with insts := f.insts.filter fun m => m.dom != dom },
          .when ends (endActivation ctx rgn dom),
          Cmd.each others fun (_, k) => tryCommit ctx rgn k dom,
          after 0 (.blockStart ctx rgn),
          after 0 (.replicaGone ctx rgn)])
    | _, _ => .skip) s

/-! ### The global file (R114, R254) -/

/-- Whether an earlier instance of the activation that is in flight holds a WRITE of a register (R114). -/
def State.writePending (s : State) (f : Firing) (reg : Nat) (vec : Bool) : Bool :=
  match s.region? f.ctx f.rgn with
  | none => false
  | some r =>
    let mine := s.seqOf f
    r.frames.any fun fr => fr.insts.any fun m => m.dom == tagDomain f.tag && m.seq < mine && (match fr.block with
      | some b => b.nodes.any fun w => match laxRow w with
        | some (.write g) => g.greg.toNat == reg && g.v == vec
        | _ => false
      | none => false)

/-- The value of a global register as a READ of a type sees it (R20, R47, R114). -/
def Ctx.globalVal (c : Ctx) (t : Ty) (reg : Nat) (vec : Bool) : Val :=
  if vec then .vector (c.vglobals.getD (reg % 32) 0)
  else
    let x := (c.globals.getD reg 0).toNat
    if t = .pr then .bit (x % 2 == 1) else .scalar (BitVec.ofNat 64 (x % 2 ^ t.width))

/-- GLOBAL_READ_SERVE (R114, R254). -/
def execGlobalReadServe (rq : Nat) (s : State) : Host.Outcome State Fault Refusal :=
  Cmd.next (match s.run.reads.get? rq with
    | none => .skip
    | some q => match s.ctx? q.f.ctx with
      | none => .prim (.blocks fun r => { r with reads := r.reads.del rq })
      | some c =>
        if s.writePending q.f q.reg q.vec then after 1 (.globalReadServe rq)
        else
          let lat := if dieOf q.f.sid = c.homeDie then 4 else 30
          .all [
            .prim (.blocks fun r => { r with reads := r.reads.del rq }),
            markFired q.f,
            emit q.f q.h lat q.f.tag (c.globalVal q.h.ty q.reg q.vec)]) s

/-! ### Domains and deliveries (R231, R314) -/

/-- The lowest free domain of a context above its base (R231). -/
def Ctx.freeDomain (c : Ctx) : Option Nat := c.acts.firstFree (c.cbase + 1) (c.image.dcount - 1)

/-- Deliveries that wait for a domain look again, the one that has waited longest first. -/
def wakeDeliveries (ctx : Nat) : Cmd := .get fun s => match s.ctx? ctx with
  | some c => match c.waitingDom with
    | (g, _) :: _ => after 0 (.delivery ctx g)
    | [] => .skip
  | none => .skip

/-- DOMAIN_FREE (R231): a domain has returned to the pool. -/
def execDomainFree (ctx dom : Nat) (s : State) : Host.Outcome State Fault Refusal :=
  Cmd.next (.when (s.act? ctx dom).isNone (.seq (wakeDeliveries ctx)
    (.when (s.replaying ctx) (Cmd.each (s.regionsOf ctx) fun r => after 0 (.delivery ctx r.rgn))))) s

/-- The token values of a complete delivery, one for each input queue (R314). -/
def deliveryValue (r : QueueRec) (vals : List Val) : Val :=
  if r.slot = 64 then .vector ((vals.headD (.null true)).wide)
  else if r.consume ≤ 1 then .scalar ((vals.headD (.null false)).word)
  else vecVal 64 (vals.map fun v => v.word.toNat)

/-- Start an activation of a replica (R231, R236, R314). -/
def beginActivation (ctx rgn : Nat) (r : Region) (c : Ctx) (dom : Nat) (inject : List (Nat × Val)) : Cmd := withSerial fun n => .all [
  modCtx ctx fun c => { c with acts := c.acts.set dom ⟨r.actor, rgn, [], 0⟩ },
  beginPts ctx rgn r.die (instTag dom),
  modRegion ctx rgn fun r => { r with starts := r.starts ++ [⟨0, c.image.blocksVA + (c.image.actor r.actor).first, dom, n, none, inject⟩] },
  after 0 (.blockStart ctx rgn)]

/-- A delivery of a replaying context takes the region's next KIND 1 records, and their domain (R426). -/
def replayDelivery (ctx rgn : Nat) (r : Region) (c : Ctx) (count : Nat) : Cmd := .get fun s =>
  let all := s.svc.replays.getD ctx []
  let mine := (all.filter fun x => x.kind == 1 && x.rgn == rgn).take count
  match mine with
  | [] => .skip
  | x :: _ =>
    let dom := tagDomain x.tag
    let free := (c.acts.get? dom).isNone && c.cbase < dom && dom < c.cbase + c.image.dcount
    .when (mine.length == count && free) (.all [
      .prim (.svc fun v => { v with replays := v.replays.set ctx (mine.foldl (fun l y => l.erase y) all) }),
      beginActivation ctx rgn r c dom (mine.zipIdx.map fun (y, k) => (k, y.val)),
      progress ctx,
      after 0 (.delivery ctx rgn)])

/-- DELIVERY (R314, R231): a complete delivery takes a domain and starts an activation; without a domain it waits in turn. -/
def execDelivery (ctx rgn : Nat) (s : State) : Host.Outcome State Fault Refusal :=
  Cmd.next (match s.ctx? ctx, s.region? ctx rgn with
    | some c, some r =>
      let inputs := c.image.inputs r.actor
      let complete := !inputs.isEmpty && inputs.all fun q => match r.queues.find? fun i => i.queue == q with
        | some i => i.ready (c.image.queue q).consume
        | none => false
      let leave := modCtx ctx fun c => { c with waitingDom := c.waitingDom.filter fun (g, _) => g != rgn }
      let isOpen := r.state == .available || r.state == .retiring
      if r.stopped || c.state == .loading then .skip
      else if s.replaying ctx then .when (isOpen && !inputs.isEmpty) (replayDelivery ctx rgn r c inputs.length)
      else if !(isOpen && complete) then .when (c.waitingDom.any (fun (g, _) => g == rgn)) (.seq leave (wakeDeliveries ctx))
      else
        let turn := match c.waitingDom with | (g, _) :: _ => g == rgn | [] => true
        match c.freeDomain with
        | some dom =>
          if turn then
            let inject := inputs.zipIdx.map fun (q, k) =>
              let rec_ := c.image.queue q
              let vals := match r.queues.find? fun i => i.queue == q with
                | some i => (i.fromHead rec_.consume).filterMap QSlot.val?
                | none => []
              (k, deliveryValue rec_ vals)
            .all [
              leave,
              modRegion ctx rgn fun r => { r with
                queues := r.queues.map fun i => if inputs.contains i.queue then i.advance (c.image.queue i.queue).consume else i },
              beginActivation ctx rgn r c dom inject,
              Cmd.each inputs fun q => grantWaiting ctx q (some rgn) (c.image.queue q).depth,
              progress ctx,
              after 0 (.delivery ctx rgn),
              wakeDeliveries ctx,
              after 0 (.replicaGone ctx rgn)]
          else if c.waitingDom.any (fun (g, _) => g == rgn) then wakeDeliveries ctx
          else .seq (modCtx ctx fun c => { c with waitingDom := c.waitingDom ++ [(rgn, s.now)] }) (wakeDeliveries ctx)
        | none => .when (!c.waitingDom.any (fun (g, _) => g == rgn))
            (modCtx ctx fun c => { c with waitingDom := c.waitingDom ++ [(rgn, s.now)] })
    | _, _ => .skip) s

end Sys2Proof.Machine
end

