-- ==== Sys2Proof/Machine/BlockFormats.lean ====
section
/-! DEFINITION. The block formats eb8 and eb4: elements and scales (R54, R55), the packed register form (R56), and
quantisation (R57, R58). -/

namespace Sys2Proof.Machine

/-- Bits of an element. -/
def elemWidth (t : Ty) : Nat := if t = .eb8 then 8 else 4
/-- Blocks of the packed register form. -/
def packedBlocks (t : Ty) : Nat := if t = .eb8 then 2 else 4

/-- The magnitude of an element without its scale, as mantissa and exponent (R54). -/
def elemMag (t : Ty) (x : Nat) : Nat × Int :=
  if t = .eb8 then
    let ex := natBits x 5 3
    let man := natBits x 2 0
    if ex = 0 then (man, -5) else (8 + man, (ex : Int) - 6)
  else (natBits x 1 0, 0)

def elemSel (t : Ty) (x : Nat) : Bool := x.testBit (elemWidth t - 1)
def elemSign (t : Ty) (x : Nat) : Bool := x.testBit (elemWidth t - 2)

/-- The value of an element under its block's scales (R54, R55). -/
def elemValue (t : Ty) (lo hi x : Nat) : Fp :=
  if lo = 255 ∨ hi = 255 then .nan 0
  else
    let sc := if elemSel t x then hi else lo
    if sc = 0 then .num (elemSign t x) 0 0
    else
      let (m, e) := elemMag t x
      .num (elemSign t x) m (e + sc - 127)

/-- A value rounded into a float format, with NaN canonical (R55). -/
def elemTo (f : Fmt) (mode : Rm) : Fp → Res
  | .nan _ => ⟨f.qnan, 0⟩
  | .inf s => ⟨f.infBits s, 0⟩
  | .num s m e => f.round mode false s m e false

/-- The code of a magnitude rounded into an element, and whether it was inexact and whether it saturated (R57). -/
def elemRound (t : Ty) (mode : Rm) (m : Nat) (e : Int) : Nat × Bool × Bool :=
  if m = 0 then (0, false, false)
  else if t = .eb8 then
    let ex : Int := max (e + Nat.log2 m) (-2)
    if 5 < ex then (63, true, true) else
    let (q, rem, den) := shiftExp m (e - (ex - 3))
    let q' := if roundUp mode false q rem den false then q + 1 else q
    let code := ((ex + 2) * 8 + q').toNat
    if 63 < code then (63, true, true) else (code, rem != 0, false)
  else if 3 < e + Nat.log2 m then (3, true, true)
  else
    let (q, rem, den) := shiftExp m e
    let q' := if roundUp mode false q rem den false then q + 1 else q
    if 3 < q' then (3, true, true) else (q', rem != 0, false)

/-- Whether m * 2^e is at most n. -/
def magLe (m : Nat) (e : Int) (n : Nat) : Bool :=
  match e with
  | .ofNat k => m * 2 ^ k ≤ n
  | .negSucc k => m ≤ n * 2 ^ (k + 1)

/-- The floor of log2 of the largest magnitude, if any is nonzero. -/
def topLog (vs : List Fp) : Option Int :=
  vs.foldl (fun best v => match v with
    | .num _ m e => if m = 0 then best else
        let l := e + Nat.log2 m
        (match best with | some b => some (max b l) | none => some l)
    | _ => best) none

/-- A quantised block: its elements, its scales and the flags (R58). -/
structure QBlock where
  elems : List Nat
  lo : Nat
  hi : Nat
  flags : Nat
deriving DecidableEq, Repr

/-- QNT of 24 values (R58): `d` from the parameters, one rounding mode for each element (R53). -/
def quantise (t : Ty) (d : Nat) (vs : List Fp) (modes : List Rm) : QBlock :=
  let zeros := vs.map fun _ => 0
  if vs.any fun v => match v with | .num _ _ _ => false | _ => true then ⟨zeros, 255, 255, fIV⟩
  else match topLog vs with
    | none => ⟨zeros, 0, 0, 0⟩
    | some top =>
      let d := if d = 0 then 4 else d
      let (emax, tt) := if t = .eb8 then (30, 4) else (3, 1)
      let hi := (min (max (top - tt + 127) 1) 254).toNat
      let lo := max (hi - d) 1
      let w := elemWidth t
      let rs := vs.zip modes |>.map fun (v, mode) => match v with
        | .num s m e =>
          let selHi := !magLe m (e + 127 - lo) emax
          let sc := if selHi then hi else lo
          let (code, ix, sa) := elemRound t mode m (e + 127 - sc)
          let sub := t == Ty.eb8 && decide (code < 8)
          let fl := (if ix then fIX else 0) ||| (if sa then fSA else 0)
            ||| (if m != 0 && (code = 0 || (sub && ix)) then fUF else 0)
          ((if selHi then 2 ^ (w - 1) else 0) + (if s && code != 0 then 2 ^ (w - 2) else 0) + code, fl)
        | _ => (0, 0)
      ⟨rs.map (·.1), lo, hi, rs.foldl (fun a r => a ||| r.2) 0⟩

/-- The data bits of a block (R56). -/
def blockBits (t : Ty) (elems : List Nat) : Nat :=
  (elems.foldr (fun x acc => x % 2 ^ elemWidth t + 2 ^ elemWidth t * acc) 0)

/-- The bytes of a block in the data plane (R56). -/
def blockBytes (t : Ty) (elems : List Nat) : Nat × Nat := (blockBits t elems, 3 * elemWidth t)

/-- The elements of a block from its data bits. -/
def blockElems (t : Ty) (x : Nat) : List Nat := (List.range 24).map fun i => x / 2 ^ (elemWidth t * i) % 2 ^ elemWidth t

/-- A block placed in the packed register form (R56). -/
def packBlock (t : Ty) (slot : Nat) (b : QBlock) : Nat :=
  blockBits t b.elems * 2 ^ (24 * elemWidth t * slot) + (b.lo + 256 * b.hi) * 2 ^ (384 + 16 * slot)

/-- A block of a packed vector: elements and scales. -/
def unpackBlock (t : Ty) (slot x : Nat) : List Nat × Nat × Nat :=
  (blockElems t (x / 2 ^ (24 * elemWidth t * slot)), x / 2 ^ (384 + 16 * slot) % 256, x / 2 ^ (392 + 16 * slot) % 256)

end Sys2Proof.Machine
end

