-- ==== Sys2Proof/Machine/Integer.lean ====
section
/-! DEFINITION. Integer and address instructions (R131 to R140). -/

namespace Sys2Proof.Machine

/-! ### Values -/

/-- Both operands as integers of the node's type, in one lane. -/
def intArgs (t : Ty) (xs : List Nat) : Int × Int × Int := (readInt t (xs.getD 0 0), readInt t (xs.getD 1 0), readInt t (xs.getD 2 0))

/-- R132: a lane of an exact two-operand result, reduced under R48. -/
def exactLane (t : Ty) (sat : Bool) (op : Int → Int → Int) (xs : List Nat) : Res :=
  let (a, b, _) := intArgs t xs
  reduceInt t sat (op a b)

/-- Bits [2w-1:w] of the exact product (R134). -/
def mulHigh (t : Ty) (xs : List Nat) : Res :=
  let (a, b, _) := intArgs t xs
  ⟨wrapTo t.width (a * b / 2 ^ t.width), 0⟩

/-- DIV and REM of one lane (R135). -/
def divLane (t : Ty) (xs : List Nat) : Res :=
  let (a, b, _) := intArgs t xs
  if b = 0 then ⟨2 ^ t.width - 1, 0⟩ else ⟨wrapTo t.width (a.tdiv b), 0⟩
def remLane (t : Ty) (xs : List Nat) : Res :=
  let (a, b, _) := intArgs t xs
  if b = 0 then ⟨0, 0⟩ else ⟨wrapTo t.width (a.tmod b), 0⟩

/-- SHL (R136). -/
def shlLane (t : Ty) (sat : Bool) (xs : List Nat) : Res :=
  let w := t.width
  let a := readInt t (xs.getD 0 0)
  let n := xs.getD 1 0
  if n < w then reduceInt t sat (a * 2 ^ n)
  else if sat && a != 0 then ⟨wrapTo w (if a < 0 then Ty.lo t else Ty.hi t), fSA⟩
  else ⟨0, 0⟩

/-- SHR, SAR, ROT on a w-bit pattern (R136). -/
def shrBits (w a n : Nat) : Nat := if n < w then a / 2 ^ n else 0
def sarBits (w a n : Nat) : Nat :=
  let top := a.testBit (w - 1)
  let ones := 2 ^ w - 1
  if n < w then a / 2 ^ n + (if top then ones - ones / 2 ^ n else 0) else if top then ones else 0
def rotBits (w a n : Nat) : Nat := (a * 2 ^ (n % w) + a / 2 ^ (w - n % w)) % 2 ^ w

/-- Counts and reversal of a w-bit pattern (R137). -/
def clzBits (w a : Nat) : Nat := if a = 0 then w else w - 1 - Nat.log2 a
def ctzBits (w a : Nat) : Nat := ((List.range w).find? fun j => a.testBit j).getD w
def popBits (w a : Nat) : Nat := ((List.range w).filter fun j => a.testBit j).length
def brevBits (w a : Nat) : Nat := ((List.range w).map fun j => if a.testBit j then 2 ^ (w - 1 - j) else 0).foldl (· + ·) 0

/-- pos and len of a field specification (R137). -/
def fieldSpec (sp : Nat) : Nat × Nat := (natBits sp 5 0, min (natBits sp 14 8) 64)

/-- BFE (R137). -/
def bfeBits (t : Ty) (a sp : Nat) : Nat :=
  let (pos, len) := fieldSpec sp
  let x := a % 2 ^ t.width / 2 ^ pos % 2 ^ len
  if len = 0 then 0
  else if t.isSigned && x.testBit (len - 1) then (x + (2 ^ 64 - 2 ^ len)) % 2 ^ t.width
  else x % 2 ^ t.width

/-- BFI (R137). -/
def bfiBits (w a b sp : Nat) : Nat :=
  let (pos, len) := fieldSpec sp
  if w ≤ pos || len = 0 then a
  else
    let n := min (pos + len) w - pos
    a - a / 2 ^ pos % 2 ^ n * 2 ^ pos + b % 2 ^ n * 2 ^ pos

/-- Conditions 0 to 5 of R138 on an ordering. -/
def ccHolds (cc : Nat) (o : Ordering) : Bool :=
  match cc with
  | 0 => o == .eq | 1 => o != .eq | 2 => o == .lt | 3 => o != .gt | 4 => o == .gt | _ => o != .lt

/-- All ones when true (R138, R145). -/
def laneMask (w : Nat) (b : Bool) : Nat := if b then 2 ^ w - 1 else 0

/-! ### The node forms -/

/-- A node of the class on operand a alone, or a and b (R132). -/
def intNode (i : Instr) (f : CommonNode) (s : State) (ops : List Val) (op : List Nat → Res) :
    Host.Outcome State Fault Refusal :=
  let (x, fl) := evalLanes f.v f.ty.width f.mask ops passA op
  (computeFlags s.cur f.toHdr i.sig 1 (resultVal f.v f.ty x, fl)).next s

def ops1 (s : State) : List Val := [orNull s.cur.a]
def ops2 (f : CommonNode) (s : State) : List Val := [orNull s.cur.a, f.opB s.cur.b]
def ops3 (f : CommonNode) (s : State) : List Val := [orNull s.cur.a, f.opB s.cur.b, orNull s.cur.c]

/-- Read the lanes of a two-operand bit operation. -/
def bits2 (op : Nat → Nat → Nat) (xs : List Nat) : Res := ⟨op (xs.getD 0 0) (xs.getD 1 0), 0⟩
def bits1 (op : Nat → Nat) (xs : List Nat) : Res := ⟨op (xs.getD 0 0), 0⟩

/-- ADD (R132). -/
def execAdd (f : CommonNode) (s : State) : Host.Outcome State Fault Refusal :=
  intNode (.add f) f s (ops2 f s) (exactLane f.ty f.sat (· + ·))
/-- SUB (R132). -/
def execSub (f : CommonNode) (s : State) : Host.Outcome State Fault Refusal :=
  intNode (.sub f) f s (ops2 f s) (exactLane f.ty f.sat (· - ·))

/-- ADDC (R133): D0 the sum, D1 the carry. -/
def execAddc (f : CommonNode) (s : State) : Host.Outcome State Fault Refusal :=
  let c := s.cur
  let w := f.ty.width
  let (x, co) := addCarry w ((orNull c.a).low w) ((f.opB c.b).low w) ((orNull c.c).low 1)
  (node c f.toHdr (Instr.addc f).sig 1 c.tag (emit2 c f.toHdr 1 c.tag (f.ty.scalarVal x) (.bit co))).next s
/-- SUBB (R133): D0 the difference, D1 the borrow. -/
def execSubb (f : CommonNode) (s : State) : Host.Outcome State Fault Refusal :=
  let c := s.cur
  let w := f.ty.width
  let (x, bo) := subBorrow w ((orNull c.a).low w) ((f.opB c.b).low w) ((orNull c.c).low 1)
  (node c f.toHdr (Instr.subb f).sig 1 c.tag (emit2 c f.toHdr 1 c.tag (f.ty.scalarVal x) (.bit bo))).next s

/-- MUL (R134). -/
def execMul (f : CommonNode) (s : State) : Host.Outcome State Fault Refusal :=
  intNode (.mul f) f s (ops2 f s) (exactLane f.ty f.sat (· * ·))
/-- MULH (R134). -/
def execMulh (f : CommonNode) (s : State) : Host.Outcome State Fault Refusal :=
  intNode (.mulh f) f s (ops2 f s) (mulHigh f.ty)
/-- MAD (R134): one reduction of the exact a * b + c. -/
def execMad (f : CommonNode) (s : State) : Host.Outcome State Fault Refusal :=
  intNode (.mad f) f s (ops3 f s) fun xs => let (a, b, c) := intArgs f.ty xs; reduceInt f.ty f.sat (a * b + c)

/-- Whether an enabled lane of the divisor is zero (R135). -/
def zeroDivisor (f : CommonNode) (b : Val) : Bool :=
  if f.v then (b.lanes f.ty.width).zipIdx.any fun (x, j) => x == 0 && laneOn f.mask (512 / f.ty.width) j
  else b.low f.ty.width == 0

/-- DIV and REM under FPCM.DIVZ (R135). -/
def divNode (i : Instr) (f : CommonNode) (s : State) (op : List Nat → Res) : Host.Outcome State Fault Refusal :=
  let c := s.cur
  let lat := if f.ty.width = 64 then 20 else if f.v then 16 else 12
  let (x, fl) := evalLanes f.v f.ty.width f.mask (ops2 f s) passA op
  if (s.fpcm c.ctx).divz && zeroDivisor f (f.opB c.b) then
    (node c f.toHdr i.sig lat c.tag (raiseFault c f.toHdr lat causeDivzero)).next s
  else (computeFlags c f.toHdr i.sig lat (resultVal f.v f.ty x, fl)).next s

/-- DIV (R135). -/
def execDiv (f : CommonNode) (s : State) : Host.Outcome State Fault Refusal := divNode (.div f) f s (divLane f.ty)
/-- REM (R135). -/
def execRem (f : CommonNode) (s : State) : Host.Outcome State Fault Refusal := divNode (.rem f) f s (remLane f.ty)

/-- AND (R131). -/
def execAnd (f : CommonNode) (s : State) : Host.Outcome State Fault Refusal := intNode (.and f) f s (ops2 f s) (bits2 (· &&& ·))
/-- OR (R131). -/
def execOr (f : CommonNode) (s : State) : Host.Outcome State Fault Refusal := intNode (.or f) f s (ops2 f s) (bits2 (· ||| ·))
/-- XOR (R131). -/
def execXor (f : CommonNode) (s : State) : Host.Outcome State Fault Refusal := intNode (.xor f) f s (ops2 f s) (bits2 (· ^^^ ·))
/-- ANDN (R131): a and not b. -/
def execAndn (f : CommonNode) (s : State) : Host.Outcome State Fault Refusal :=
  intNode (.andn f) f s (ops2 f s) (bits2 fun a b => a - (a &&& b))

/-- SHL (R136). -/
def execShl (f : CommonNode) (s : State) : Host.Outcome State Fault Refusal := intNode (.shl f) f s (ops2 f s) (shlLane f.ty f.sat)
/-- SHR (R136). -/
def execShr (f : CommonNode) (s : State) : Host.Outcome State Fault Refusal :=
  intNode (.shr f) f s (ops2 f s) (bits2 (shrBits f.ty.width))
/-- SAR (R136). -/
def execSar (f : CommonNode) (s : State) : Host.Outcome State Fault Refusal :=
  intNode (.sar f) f s (ops2 f s) (bits2 (sarBits f.ty.width))
/-- ROT (R136). -/
def execRot (f : CommonNode) (s : State) : Host.Outcome State Fault Refusal :=
  intNode (.rot f) f s (ops2 f s) (bits2 (rotBits f.ty.width))

/-- CLZ (R137). -/
def execClz (f : CommonNode) (s : State) : Host.Outcome State Fault Refusal := intNode (.clz f) f s (ops1 s) (bits1 (clzBits f.ty.width))
/-- CTZ (R137). -/
def execCtz (f : CommonNode) (s : State) : Host.Outcome State Fault Refusal := intNode (.ctz f) f s (ops1 s) (bits1 (ctzBits f.ty.width))
/-- POPC (R137). -/
def execPopc (f : CommonNode) (s : State) : Host.Outcome State Fault Refusal := intNode (.popc f) f s (ops1 s) (bits1 (popBits f.ty.width))
/-- BREV (R137). -/
def execBrev (f : CommonNode) (s : State) : Host.Outcome State Fault Refusal := intNode (.brev f) f s (ops1 s) (bits1 (brevBits f.ty.width))
/-- BFE (R137). -/
def execBfe (f : CommonNode) (s : State) : Host.Outcome State Fault Refusal := intNode (.bfe f) f s (ops2 f s) (bits2 (bfeBits f.ty))
/-- BFI (R137). -/
def execBfi (f : CommonNode) (s : State) : Host.Outcome State Fault Refusal :=
  intNode (.bfi f) f s (ops3 f s) fun xs => ⟨bfiBits f.ty.width (xs.getD 0 0) (xs.getD 1 0) (xs.getD 2 0), 0⟩

/-- MIN (R132). -/
def execMin (f : CommonNode) (s : State) : Host.Outcome State Fault Refusal := intNode (.min f) f s (ops2 f s) (exactLane f.ty false min)
/-- MAX (R132). -/
def execMax (f : CommonNode) (s : State) : Host.Outcome State Fault Refusal := intNode (.max f) f s (ops2 f s) (exactLane f.ty false max)
/-- ABS (R132). -/
def execAbs (f : CommonNode) (s : State) : Host.Outcome State Fault Refusal :=
  intNode (.abs f) f s (ops1 s) fun xs => reduceInt f.ty f.sat ((readInt f.ty (xs.getD 0 0)).natAbs : Int)

/-- A comparison's result: a pr, or lane masks with disabled lanes 0 (R138, R145). -/
def compareNode (i : Instr) (f : CommonNode) (s : State) (lat : Nat) (op : List Nat → Bool × Nat) :
    Host.Outcome State Fault Refusal :=
  let w := f.ty.width
  let (x, fl) := evalLanes f.v w f.mask (ops2 f s) (fun _ => 0) fun xs =>
    let (b, fl) := op xs
    ⟨if f.v then laneMask w b else if b then 1 else 0, fl⟩
  (computeFlags s.cur f.toHdr i.sig lat (if f.v then .vector (BitVec.ofNat 512 x) else .bit (x == 1), fl)).next s

/-- CMP (R138). -/
def execCmp (f : CommonNode) (s : State) : Host.Outcome State Fault Refusal :=
  compareNode (.cmp f) f s 1 fun xs => let (a, b, _) := intArgs f.ty xs; (ccHolds f.rm.toNat (compare a b), 0)

/-- SEL (R139): disabled lanes take a. -/
def execSel (f : CommonNode) (s : State) : Host.Outcome State Fault Refusal :=
  let c := s.cur
  let b := f.opB c.b
  let v := if f.v then
      .vector (BitVec.ofNat 512 (evalLanes true f.ty.width f.mask [orNull c.a, b, orNull c.c] passA
        (fun xs => ⟨if xs.getD 2 0 != 0 then xs.getD 0 0 else xs.getD 1 0, 0⟩)).1)
    else f.ty.scalarVal (if (orNull c.c).word.getLsbD 0 then (orNull c.a).word.toNat else b.word.toNat)
  (compute c f.toHdr (Instr.sel f).sig 1 v).next s

/-- LEA (R140): a + b * 2^SUB, wrapped. -/
def execLea (f : CommonNode) (s : State) : Host.Outcome State Fault Refusal :=
  intNode (.lea f) f s (ops2 f s) (exactLane f.ty false fun a b => a + b * 2 ^ f.sub.toNat)

end Sys2Proof.Machine
end

