-- ==== Sys2Proof/Machine/Convert.lean ====
section
/-! DEFINITION. Conversion instructions (R149 to R156) and the LFSRs of X-elements (R53). -/

namespace Sys2Proof.Machine

/-! ### Stochastic rounding -/

/-- One step of an LFSR (R53). -/
def lfsrStep (s : Nat) : Nat := if s % 2 = 1 then (s / 2) ^^^ 0x80200003 else s / 2

/-- LFSR j of an element; an LFSR that no region load has seeded reads as 1 (log 22). -/
def Element.lfsr (e : Element) (j : Nat) : Nat := e.lfsrs.getD j 1

/-- The seed of LFSR j at a site (R53). -/
def lfsrSeed (x y j : Nat) : Nat :=
  let v := ((24 * x + y + 1) * 0x9E3779B9 + j * 0x85EBCA6B) % 2 ^ 32
  if v = 0 then 1 else v

/-- Step the LFSRs of the given output lanes once (R53). -/
def stepLfsrs (sid : Nat) (lanes : List Nat) : Cmd :=
  modElem sid fun e => { e with lfsrs := lanes.foldl (fun t j => Tbl.set t j (lfsrStep (e.lfsr j))) e.lfsrs }

/-- The mode of output lane j of a firing. -/
def laneMode (s : State) (rm : BitVec 4) (j : Nat) : Rm := Rm.ofCode rm.toNat ((s.elem s.cur.sid).lfsr j)

/-- A conversion's command: flags, the LFSR steps of an SR node, the results. -/
def convEmit (s : State) (rm : BitVec 4) (h : Hdr) (lanes : List Nat) (flags : Nat) (v0 v1 : Val) : Cmd := .all [
  orFlags s.cur.ctx flags,
  .when (rm == 5) (stepLfsrs s.cur.sid lanes),
  emit2 s.cur h 4 s.cur.tag v0 v1]

/-! ### CVT -/

/-- One value of CVT (R60, R151). -/
def cvtOne (c : Fpcm) (mode : Rm) (src dst : Ty) (x : Nat) : Res :=
  if src.isFloat then
    if dst.isFloat then fpToFp (Fmt.ofTy src) (Fmt.ofTy dst) c mode x else fpToInt (Fmt.ofTy src) dst c mode x
  else intToFp src (Fmt.ofTy dst) c mode x

/-- CVT (R149, R151): with V = 1, the n lanes of the wider side; a disabled active lane and every other lane hold zero. -/
def execCvt (f : CommonNode) (s : State) : Host.Outcome State Fault Refusal :=
  let c := s.cur
  let m := s.fpcm c.ctx
  let ws := f.sty.width
  let wt := f.ty.width
  let n := 512 / max ws wt
  let a := orNull c.a
  let k := if f.v then
      let src := a.lanes ws
      let rs := (List.range n).map fun j =>
        let o := if wt < ws then n * f.part + j else j
        let i := if wt < ws then j else if ws < wt then n * f.part + j else j
        if laneOn f.mask n j then (o, cvtOne m (laneMode s f.rm o) f.sty f.ty (src.getD i 0), true) else (o, ⟨0, 0⟩, false)
      let out := rs.foldl (fun acc (o, r, _) => acc + r.bits % 2 ^ wt * 2 ^ (wt * o)) 0
      convEmit s f.rm f.toHdr ((rs.filter (·.2.2)).map (·.1)) (rs.foldl (fun fl (_, r, _) => fl ||| r.flags) 0)
        (.vector (BitVec.ofNat 512 out)) (.vector (BitVec.ofNat 512 out))
    else
      let r := cvtOne m (laneMode s f.rm 0) f.sty f.ty (a.low ws)
      convEmit s f.rm f.toHdr [0] r.flags (f.ty.scalarVal r.bits) (f.ty.scalarVal r.bits)
  (node c f.toHdr (Instr.cvt f).sig 4 c.tag k).next s

/-! ### Block formats -/

/-- QNT (R58, R152): parameters from b or LIT; SLOT out of range or a reserved bit takes fault ILLEGAL. -/
def execQnt (f : CommonNode) (s : State) : Host.Outcome State Fault Refusal :=
  let c := s.cur
  let h := f.toHdr
  let prm := (litOr f.l f.lit c.b).toNat % 2 ^ 32
  let slot := natBits prm 5 4
  let w := f.sty.width
  let xs := if f.sty = .f32 then (orNull c.a).lanes 32 ++ ((orNull c.c).lanes 32).take 8 else ((orNull c.a).lanes w).take 24
  let vs := xs.map (Fmt.ofTy f.sty).decode
  let b := quantise f.ty (natBits prm 3 0) vs ((List.range 24).map (laneMode s f.rm))
  let v := Val.vector (BitVec.ofNat 512 (packBlock f.ty slot b))
  let bad := decide (64 ≤ prm) || decide (packedBlocks f.ty ≤ slot)
  (node c h (Instr.qnt f).sig 4 c.tag
    (if bad then raiseFault c h 4 causeIllegal else convEmit s f.rm h (List.range 24) b.flags v v)).next s

/-- DQNT (R55, R153). -/
def execDqnt (f : CommonNode) (s : State) : Host.Outcome State Fault Refusal :=
  let c := s.cur
  let (els, lo, hi) := unpackBlock f.sty f.part (orNull c.a).wide.toNat
  let rs := els.map fun x => elemTo (Fmt.ofTy f.ty) (Rm.ofCode f.rm.toNat 0) (elemValue f.sty lo hi x)
  let fl := rs.foldl (fun a r => a ||| r.flags) 0
  let w := f.ty.width
  let bits := rs.map (·.bits)
  let (v0, v1) := if f.ty = .f32 then (vecVal w (bits.take 16), vecVal w (bits.drop 16)) else (vecVal w bits, vecVal w bits)
  (node c f.toHdr (Instr.dqnt f).sig 4 c.tag (convEmit s 0 f.toHdr [] fl v0 v1)).next s

/-- One scale byte moved by k, with its flags (R154). -/
def moveScale (x : Nat) (k : Int) : Nat × Nat :=
  if x = 0 ∨ x = 255 then (x, 0)
  else if (x : Int) + k < 1 then (0, fUF) else if 254 < (x : Int) + k then (255, fOF) else (((x : Int) + k).toNat, 0)

/-- BSCL (R154): k is operand b as an i32, or LIT. -/
def execBscl (f : CommonNode) (s : State) : Host.Outcome State Fault Refusal :=
  let c := s.cur
  let x := (orNull c.a).wide.toNat
  let k : Int := if f.l then f.lit.toInt else ((orNull c.b).word.setWidth 32).toInt
  let n := 2 * packedBlocks f.ty
  let rs := (List.range n).map fun i => moveScale (x / 2 ^ (384 + 8 * i) % 256) k
  let y := x % 2 ^ 384 + packLanes 8 (rs.map (·.1)) * 2 ^ 384
  let v := Val.vector (BitVec.ofNat 512 y)
  (node c f.toHdr (Instr.bscl f).sig 4 c.tag (convEmit s 0 f.toHdr [] (rs.foldl (fun a r => a ||| r.2) 0) v v)).next s

/-- PACK (R155). -/
def execPack (f : CommonNode) (s : State) : Host.Outcome State Fault Refusal :=
  let c := s.cur
  let bits := 16 * packedBlocks f.ty
  let y := (orNull c.a).wide.toNat % 2 ^ 384 + (orNull c.b).wide.toNat % 2 ^ bits * 2 ^ 384
  (compute c f.toHdr (Instr.pack f).sig 4 (.vector (BitVec.ofNat 512 y))).next s

/-- UNPACK (R155): D0 the data bits, D1 the scale bytes. -/
def execUnpack (f : CommonNode) (s : State) : Host.Outcome State Fault Refusal :=
  let c := s.cur
  let x := (orNull c.a).wide.toNat
  let bits := 16 * packedBlocks f.ty
  (node c f.toHdr (Instr.unpack f).sig 4 c.tag (emit2 c f.toHdr 4 c.tag (.vector (BitVec.ofNat 512 (x % 2 ^ 384)))
    (.vector (BitVec.ofNat 512 (x / 2 ^ 384 % 2 ^ bits))))).next s

/-- SRND (R156): P is operand b or LIT; above the limit it takes fault ILLEGAL. -/
def execSrnd (f : CommonNode) (s : State) : Host.Outcome State Fault Refusal :=
  let c := s.cur
  let h := f.toHdr
  let m := s.fpcm c.ctx
  let p := (litOr f.l f.lit c.b).toNat % 2 ^ 32
  let w := f.ty.width
  let limit := if f.ty = .f32 then 23 else 52
  let n := 512 / w
  let one := fun (j x : Nat) => fpSrnd (Fmt.ofTy f.ty) m (laneMode s f.rm j) p x
  let k := if f.v then
      let rs := ((orNull c.a).lanes w).zipIdx.map fun (x, j) => if laneOn f.mask n j then one j x else ⟨x, 0⟩
      let v := vecVal w (rs.map (·.bits))
      convEmit s f.rm h ((List.range n).filter (laneOn f.mask n)) (rs.foldl (fun a r => a ||| r.flags) 0) v v
    else
      let r := one 0 ((orNull c.a).low w)
      convEmit s f.rm h [0] r.flags (f.ty.scalarVal r.bits) (f.ty.scalarVal r.bits)
  (node c h (Instr.srnd f).sig 4 c.tag (if limit < p then raiseFault c h 4 causeIllegal else k)).next s

end Sys2Proof.Machine
end

