-- ==== Sys2Proof/Machine/MatrixUnit.lean ====
section
/-! DEFINITION. Matrix units: inboxes and paths (R289, R290), banks (R292), rows and accumulators (R70, R207, R294), drains
(R208, R296), replies (R210), aborts (R298) and ownership (R295, R370). -/

namespace Sys2Proof.Machine

/-! ### Halves -/

/-- LFSR seed of column n (R297). -/
def mxSeed (die unit half n : Nat) : Nat :=
  let s := ((256 * die + 2 * unit + half + 1) * 0x9E3779B9 + n * 0x85EBCA6B) % 2 ^ 32
  if s = 0 then 1 else s

/-- A half after package reset, a split or a join (R295, R297). -/
def MxHalf.fresh (key : Nat) : MxHalf where
  inbox := []
  banks := [⟨false, none, 0, 0⟩, ⟨false, none, 0, 0⟩]
  acc := []
  obase := [0, 0]
  ocleared := [false, false]
  lfsrs := (List.range 128).map (mxSeed (key / 128) (key % 128 / 2) (key % 2))
  waves := []
  load := none
  stream := none
  drain := none
  poisoned := []
  outbox := []
  busyTo := 0

def State.half (s : State) (key : Nat) : MxHalf := s.eng.halves.getD key (MxHalf.fresh key)
def modHalf (key : Nat) (f : MxHalf → MxHalf) : Cmd :=
  .prim (.eng fun e => { e with halves := e.halves.set key (f (e.halves.getD key (MxHalf.fresh key))) })
def modEntry (key id : Nat) (f : MxEntry → MxEntry) : Cmd :=
  modHalf key fun h => { h with inbox := h.inbox.map fun x => if x.serial = id then f x else x }
def MxHalf.entry? (h : MxHalf) (id : Nat) : Option MxEntry := h.inbox.find? fun x => x.serial == id
def MxHalf.bank (h : MxHalf) (b : Bool) : WBank := h.banks.getD (if b then 1 else 0) ⟨false, none, 0, 0⟩
def modBank (key : Nat) (b : Bool) (f : WBank → WBank) : Cmd :=
  modHalf key fun h => { h with banks := h.banks.modify (if b then 1 else 0) f }

/-- MXOWN in effect (R370); key 64 die + unit. -/
def State.mxOwn (s : State) (u : Nat) : MxOwn := s.svc.mxown.getD u ⟨0, 0, false, false, false, none⟩
def halfUnit (key : Nat) : Nat := 64 * (key / 128) + key % 128 / 2
def State.mxSplit (s : State) (key : Nat) : Bool := (s.mxOwn (halfUnit key)).split
/-- K rows of a tile (R206). -/
def State.mxK (s : State) (key : Nat) : Nat := if s.mxSplit key then 96 else 192

/-- Inbox entries in use (R289). -/
def MxHalf.waiting (h : MxHalf) : List MxEntry := h.inbox.filter fun x => !x.left

/-- The half looks for entries that can start. -/
def mxLook (key : Nat) : Cmd := .get fun s => .when (!s.isDue (.mxEntryStart key)) (after 0 (.mxEntryStart key))

/-- Whether a packet that an MXS.sync waits for has not completed (R209). -/
def State.mxPending (s : State) (h : MxHalf) (op : Nat) : Bool :=
  (h.inbox.any fun x => x.memop == op) || (match s.op? op with | some o => o.phase == .sent | none => false)

/-- MX_PACKET_ARRIVE (R204, R289): the token at an edge port enters the inbox of its half, or waits while it is full.
A packet that R42 has turned into poison does nothing at the unit, and the poison is its request's reply (log 43). -/
def execMxPacketArrive (die col : Nat) (top : Bool) (s : State) : Host.Outcome State Fault Refusal :=
  let port := edgeKey die col top
  let unit := col / 2 + if top then 32 else 0
  Cmd.next (match s.edge port with
    | [] => .skip
    | t :: rest =>
      let p := leBytes t.val.wide.toNat 64
      let split := (s.mxOwn (64 * die + unit)).split
      let key := 128 * die + 2 * unit + (if split && (field p 2 1).testBit 1 then 1 else 0)
      let h := s.half key
      let isMx := fun (i : Instr) => match i with
        | .mxw _ | .mxa _ | .mxd _ | .mxsStat _ | .mxsClr _ | .mxsSync _ => true | _ => false
      let mine := s.mem.ops.find? fun (k, o) => isMx o.i && o.phase == .sent && xOf o.f.sid == t.sx && yOf o.f.sid == t.sy &&
        dieOf o.f.sid == die && o.f.frm == t.frm && o.f.node == t.node && o.f.tag == t.tag &&
        !(h.inbox.any fun x => x.memop == k)
      if 32 ≤ h.waiting.length then after 1 (.mxPacketArrive die col top)
      else .seq (setEdge port rest) (match mine with
        | none => .skip
        | some (id, o) => match t.val with
        | .poison origin => .seq (acceptOp id) (replyOp id (.poison origin) (.poison origin))
        | _ => withSerial fun n =>
          let op := field p 0 1
          let sub := field p 3 1
          let waits := if op = 4 && sub = 2 then
              (s.mem.ops.filter fun (k, x) => k != id && isMx x.i && x.phase == .sent && x.f.ctx == o.f.ctx &&
                dieOf x.f.sid == die && x.i.engD.unit.toNat == unit && (!split || x.i.engD.half == o.i.engD.half)).map (·.1) ++
              (h.inbox.filter fun x => x.ctx == o.f.ctx).map (·.memop)
            else []
          let e : MxEntry := {
            op := op
            ty := Ty.ofCode (field p 1 1 % 16)
            bank := (field p 2 1).testBit 0
            half := (field p 2 1).testBit 1
            sub := sub
            arga := BitVec.ofNat 64 (field p 4 4 + field p 12 4 * 2 ^ 32)
            argb := BitVec.ofNat 64 (field p 8 4 + field p 56 8 * 2 ^ 32)
            ctrl := BitVec.ofNat 64 (field p 16 8)
            tag := BitVec.ofNat 64 (field p 24 8)
            dsta := BitVec.ofNat 32 (field p 32 4)
            dstb := BitVec.ofNat 32 (field p 36 4)
            ctx := field p 40 2
            vd := field p 42 1
            rgn := o.f.rgn
            memop := id
            serial := n
            started := false
            left := false
            rows := 0
            acc := 0
            flags := 0
            status := 0
            startAt := s.now
            pts := s.opPts o
            waits := waits
            held := [] }
          .all [
            modHalf key fun h => { h with inbox := h.inbox ++ [e] },
            acceptOp id,
            if op = 4 && sub != 1 then after 4 (.mxReply key n) else mxLook key])) s

/-! ### Conditions (R290, R291) -/

/-- The paths: load, stream, drain. -/
inductive MxPath where
  | load | stream | drain
deriving DecidableEq, Repr

def MxEntry.path (e : MxEntry) : Option MxPath :=
  match e.op with | 1 => some .load | 2 => some .stream | 3 => some .drain | _ => if e.sub = 1 then some .drain else none

def MxEntry.m (e : MxEntry) : Nat := natBits e.ctrl.toNat 9 0
def MxEntry.base (e : MxEntry) : Nat := natBits e.ctrl.toNat 18 10
/-- The accumulator bank that an entry names: CTRL of an MXA, else BANK. -/
def MxEntry.accBank (e : MxEntry) : Bool := if e.op = 2 then e.ctrl.getLsbD 19 else e.bank
def MxEntry.pair (e : MxEntry) : Bool := e.op == 2 && e.ctrl.getLsbD 21
def bankNo (b : Bool) : Nat := if b then 1 else 0

/-- LTAG of a bank that holds a tile. -/
def WBank.ltag (b : WBank) : Option W64 := b.tile.map (·.ltag)

/-- OBASE as the next ordered MXA finds it (R291). -/
def MxHalf.base (h : MxHalf) (b : Bool) : Nat := if h.ocleared.getD (bankNo b) false then 0 else h.obase.getD (bankNo b) 0

/-- No earlier non-PAIR MXA, MXD or MXS.clr on the accumulator bank is still to start. -/
def accFree (earlier : List MxEntry) (b : Bool) : Bool :=
  earlier.all fun x => x.started || x.pair || x.accBank != b || !(x.path == some .stream || x.path == some .drain)

/-- Whether an entry can start (R290, R291), with the entries that arrived earlier. -/
def MxHalf.canStart (h : MxHalf) (e : MxEntry) (earlier : List MxEntry) : Bool :=
  let wb := h.bank e.bank
  match e.op with
  | 1 => wb.ref == 0 &&
      (earlier.all fun x => x.op != 2 || x.bank != e.bank || x.started || (x.pair && some x.tag != wb.ltag)) &&
      !(h.waiting.any fun x => x.pair && some x.tag == wb.ltag)
  | 2 =>
    let bankOk := if e.pair then wb.ltag == some e.tag else earlier.all fun x => x.op != 1 || x.bank != e.bank || x.left
    let d := tagDepth e.tag
    let orderOk := e.sub != 1 || d == 0 || tagField e.tag (d - 1) == h.base e.accBank
    bankOk && accFree earlier e.accBank && orderOk
  | _ => accFree earlier e.accBank &&
      (h.inbox.all fun x => x.op != 2 || !x.started || x.accBank != e.accBank || x.acc == x.m || x.status != 0)

/-- The oldest entry that can start on a path (R289). -/
def MxHalf.next (h : MxHalf) (p : MxPath) : Option MxEntry :=
  (h.waiting.zipIdx.find? fun (e, k) => !e.started && e.path == some p && h.canStart e (h.waiting.take k)).map (·.1)

/-! ### Operand checks (R205 to R208, R291) -/

/-- Bytes of K elements of an operand row or column (R206). -/
def mxBytes (t : Ty) (k : Nat) : Nat := match t with | .eb4 => k / 2 | .bf16 | .f16 => 2 * k | _ => k
/-- Bytes of the scale pairs of a row or column. -/
def mxScaleBytes (t : Ty) (k : Nat) : Nat := if t.isBlock then 2 * (k / 24) else 0

/-- A plane that a context may use: 64-byte aligned, in its vault area (R205). -/
def State.planeOk (s : State) (ctx a n : Nat) : Bool := a % 64 == 0 && s.vaultAllowed ctx a n

/-- The two planes of an operand of `n` rows or columns: the scale address is zero for a format without scales. -/
def State.planesOk (s : State) (e : MxEntry) (k n : Nat) : Bool :=
  s.planeOk e.ctx e.arga.toNat (n * mxBytes e.ty k) &&
    (if e.ty.isBlock then s.planeOk e.ctx e.argb.toNat (n * mxScaleBytes e.ty k) else e.argb == 0)

/-- Bytes of a row of M in the main copy of an MXD; a transposed column has them with `M` in place of 128 (R208). -/
def drainBytes (t : Ty) (n : Nat) : Nat := match t with
  | .eb8 => 24 * ((n + 23) / 24) | .eb4 => 12 * ((n + 23) / 24) | .f32 => 4 * n | _ => 2 * n
/-- Blocks along n elements. -/
def drainBlocks (n : Nat) : Nat := (n + 23) / 24
/-- Bytes of a copy of `rows` rows of n elements: the data plane, and the scale plane at the next 64-byte boundary. -/
def copySize (t : Ty) (rows n : Nat) : Nat × Nat :=
  let data := rows * drainBytes t n
  (data, if t.isBlock then (data + 63) / 64 * 64 + 2 * rows * drainBlocks n else data)

/-- The status of the checks when an entry starts; HALF is looked at first, then RANGE, then FMT (log 50). -/
def State.mxCheck (s : State) (key : Nat) (e : MxEntry) : Nat :=
  let split := s.mxSplit key
  let k := s.mxK key
  let c := e.ctrl.toNat
  let wb := (s.half key).bank e.bank
  let mode := natBits c 21 20
  let rowsOk := e.m != 0 && e.base + e.m ≤ 512
  if (!split && e.half) || (split && e.op != 1 && e.accBank != e.half) then 3
  else match e.op with
    | 1 => if s.planesOk e k 128 then 0 else 2
    | 2 =>
      if !rowsOk || c / 2 ^ 22 != 0 || !s.planesOk e k e.m || (e.sub == 1 && tagDepth e.tag == 0) then 2
      else match wb.tile with
        | none => 1
        | some t => if (t.ty == .i8) != (e.ty == .i8) then 1 else 0
    | 3 =>
      let main := (copySize e.ty e.m 128).2
      let trans := (copySize e.ty 128 e.m).2
      if !rowsOk || natBits c 31 27 != 0 || mode == 3 || (mode == 0 && c / 2 ^ 32 != 0) then 2
      else if mode == 0 && !(s.planeOk e.ctx e.arga.toNat main &&
          (e.argb == 0x80000000 || s.planeOk e.ctx e.argb.toNat trans)) then 2
      else if mode == 2 && e.ty != .f32 then 1
      else 0
    | _ => 0

/-! ### Ends and replies -/

/-- Rows of the accumulator bank that an entry touches take free values, from its BASE on (R210, R298, R412). -/
def freeRows (key : Nat) (e : MxEntry) (n : Nat) : Cmd :=
  let base := if e.op = 4 then 0 else e.base
  Cmd.each (List.range n) fun j => .get fun s =>
    let row := (List.range 128).map fun n => (Config.freeAccumulator s.free n).toNat
    .seq (.prim .takeFree) (modHalf key fun h => { h with acc := h.acc.set (512 * bankNo e.accBank + base + j) row })

/-- An entry leaves the inbox and its path is free. -/
def mxLeave (key : Nat) (e : MxEntry) : Cmd := .all [
  modHalf key fun h => { h with
    inbox := h.inbox.map fun x => if x.serial = e.serial then { x with left := true } else x
    load := if h.load = some e.serial then none else h.load
    stream := if h.stream = some e.serial then none else h.stream
    drain := if h.drain = some e.serial then none else h.drain },
  mxLook key]

/-- The wavefronts of an entry stop, and its hold on its weight bank ends (R290, R298). -/
def mxStopWaves (key : Nat) (e : MxEntry) : Cmd :=
  modHalf key fun h =>
    let passed := (h.waves.filter fun w => w.entry == e.serial && w.passed).length
    let gone := e.acc + passed
    { h with
      waves := h.waves.filter fun w => w.entry != e.serial
      banks := h.banks.modify (bankNo e.bank) fun b =>
        { b with ref := if e.op = 2 && e.started && e.status = 0 then b.ref - (e.m - gone) else b.ref } }

/-- An entry ends with a status: it leaves and replies. A failed MXW leaves its bank holding no tile (R210, R292), a failed
MXA that had started leaves its rows unspecified. -/
def mxFail (key : Nat) (e : MxEntry) (status : Nat) : Cmd := .all [
  .when e.started (mxStopWaves key e),
  .when (e.op == 1) (modBank key e.bank fun b => { b with loading := false, tile := none }),
  .when (e.started && (status == 5 || (e.op == 2 && status == 4))) (freeRows key e (if e.op = 2 then e.m else e.rows)),
  modEntry key e.serial fun x => { x with status := status },
  mxLeave key e,
  after 0 (.mxReply key e.serial)]

/-- The state word of MXS.stat (R209). -/
def State.mxState (s : State) (key : Nat) : Nat :=
  let h := s.half key
  (if (h.bank false).tile.isSome then 2 ^ 8 else 0) + (if (h.bank true).tile.isSome then 2 ^ 9 else 0) +
    (if s.mxSplit key then 2 ^ 10 else 0) + h.waiting.length * 2 ^ 16

/-- Rows completed (R210). -/
def State.mxRows (s : State) (key : Nat) (e : MxEntry) : Nat :=
  if e.status != 0 then 0
  else match e.op with | 1 => s.mxK key | 2 => e.acc | 3 => e.rows | _ => if e.sub = 1 then 512 else 0

/-- Busy cycles of a unit up to now (R226): since the earliest start of an entry in progress, those not counted before. -/
def countBusy (key : Nat) (e : MxEntry) : Cmd := .get fun s =>
  let h := s.half key
  let from_ := max h.busyTo ((h.inbox.filter (·.started)).foldl (fun m x => min m x.startAt) s.now)
  .when e.started (.seq (count (key / 128) e.vd (0x20 + key % 128 / 2) (s.now - from_))
    (modHalf key fun h => { h with busyTo := s.now }))

/-- MX_REPLY (R209, R210, R202): the status or state word goes to the node's destinations; a nonzero STATUS writes an ENGINE
record. -/
def execMxReply (half entry : Nat) (s : State) : Host.Outcome State Fault Refusal :=
  let h := s.half half
  Cmd.next (match h.entry? entry with
    | none => .skip
    | some e0 =>
      let direct := e0.op == 4 && e0.sub != 1
      let e := if direct && e0.status == 0 then { e0 with status := s.mxCheck half e0 } else e0
      if direct && e.status == 0 && e.sub == 2 && e.waits.any (s.mxPending h) then after 1 (.mxReply half entry)
      else
        let word := if direct && e.sub == 0 && e.status == 0 then s.mxState half
          else e.status + e.flags % 128 * 2 ^ 8 + s.mxRows half e * 2 ^ 16
        let alive := (s.ctx? e.ctx).isSome
        .all [
          .when (e.status != 0) (writeRecord
            { s.engineRecord e.ctx (half / 128) causeEngine e.arga e.status with vd := e.vd, rgn := e.rgn, tag := e.tag }),
          .when alive (replyWord e.memop word),
          countBusy half e,
          modHalf half fun h => { h with inbox := h.inbox.filter fun x => x.serial != entry },
          mxLook half]) s

/-! ### Numbers -/

/-- Elements of a block of 24 in an operand plane (R54 to R56): a NaN is marked 1 when it signals. -/
def mxBlock (t : Ty) (data scales : List Byte) (j : Nat) : List Fp :=
  match t with
  | .i8 => ((data.drop (24 * j)).take 24).map fun b => .num b.msb b.toInt.natAbs 0
  | .eb8 | .eb4 =>
    let lo := ((scales.getD (2 * j) 0) : Byte).toNat
    let hi := ((scales.getD (2 * j + 1) 0) : Byte).toNat
    let bits := leNat ((data.drop (3 * elemWidth t * j)).take (3 * elemWidth t))
    (blockElems t bits).map fun x => elemValue t lo hi x
  | _ =>
    let f := Fmt.ofTy t
    (List.range 24).map fun i =>
      let x := leNat ((data.drop (48 * j + 2 * i)).take 2)
      match f.decode x with | .nan _ => .nan (if f.isSnan x then 1 else 0) | v => v

/-- One term of a block sum. -/
def mxTerm : Fp → Fp → Fp × Nat
  | .nan a, .nan b => (.nan 0, if a = 1 || b = 1 then fIV else 0)
  | .nan a, _ => (.nan 0, if a = 1 then fIV else 0)
  | _, .nan b => (.nan 0, if b = 1 then fIV else 0)
  | .inf s, .inf t => (.inf (s != t), 0)
  | .inf s, .num t m _ => if m = 0 then (.nan 0, fIV) else (.inf (s != t), 0)
  | .num s m _, .inf t => if m = 0 then (.nan 0, fIV) else (.inf (s != t), 0)
  | .num s m e, .num t n g => (.num (s != t) (m * n) (e + g), 0)

/-- The exact sum of finite terms as an integer at the least exponent of the nonzero ones. -/
def exactTotal (ts : List Fp) : Int × Int :=
  let es := ts.filterMap fun t => match t with | .num _ m e => if m = 0 then none else some e | _ => none
  let lo := es.foldl min (es.headD 0)
  (ts.foldl (fun acc t => match t with
    | .num s m e => if m = 0 then acc else
        let x : Int := m * 2 ^ (e - lo).toNat
        if s then acc - x else acc + x
    | _ => acc) 0, lo)

/-- A block sum (R70): 24 products added exactly and rounded once, RNE, to f32. -/
def mxBlockSum (as ws : List Fp) : Res :=
  let ts := List.zipWith mxTerm as ws
  let fl := ts.foldl (fun a t => a ||| t.2) 0
  let vs := ts.map (·.1)
  let inf := fun (b : Bool) => vs.any fun v => v == .inf b
  if vs.any fun v => match v with | .nan _ => true | _ => false then ⟨Fmt.f32.qnan, fl⟩
  else if inf true && inf false then ⟨Fmt.f32.qnan, fl ||| fIV⟩
  else if inf true || inf false then ⟨Fmt.f32.infBits (inf true), fl⟩
  else
    let (x, e) := exactTotal vs
    (Fmt.f32.round .rne false (x < 0) x.natAbs e false).or fl

/-- The block sums of a row against every column of a tile, by column (R207). -/
def mxSums (ty : Ty) (k : Nat) (data scales : List Byte) (t : Tile) : List (List Res) :=
  let n := k / 24
  let row := (List.range n).map (mxBlock ty data scales)
  let cb := mxBytes t.ty k
  let sb := mxScaleBytes t.ty k
  (List.range 128).map fun c =>
    let d := (t.data.drop (c * cb)).take cb
    let sc := (t.scales.drop (c * sb)).take sb
    (List.range n).map fun j => mxBlockSum (row.getD j []) (mxBlock t.ty d sc j)

/-- Block sums added into an accumulator element in block order (R70); ZERO writes the first (R207). -/
def mxAdd (zero : Bool) (old : Nat) (sums : List Nat) : Res :=
  let step := fun (a : Res) (x : Nat) => (fpAdd .f32 Fpcm.ieee .rne a.bits x).or a.flags
  match zero, sums with
  | true, x :: xs => xs.foldl step ⟨x, 0⟩
  | _, xs => xs.foldl step ⟨old, 0⟩

/-! ### Starting (R290 to R293) -/

/-- Cycles at which the bytes of the first `n` rows have arrived, from the start (R293). -/
def rowsArrive (e : MxEntry) (k n : Nat) : Nat :=
  let rb := n * mxBytes e.ty k
  let sb := n * mxScaleBytes e.ty k
  if sb = 0 || e.arga.toNat / 2 ^ 24 = e.argb.toNat / 2 ^ 24 then (rb + sb + 127) / 128 else (max rb sb + 127) / 128

/-- Cycles of a weight load (R293). -/
def loadCycles (e : MxEntry) (k : Nat) : Nat := rowsArrive e k 128 + 4

/-- Rows that issue together, and cycles between groups (R293). -/
def issuePace (a w : Ty) : Nat × Nat :=
  if a = .eb4 && w = .eb4 then (2, 1) else if [Ty.bf16, .f16].contains a || [Ty.bf16, .f16].contains w then (1, 2) else (1, 1)

/-- The cycle in which the group of rows from `j` on is due (R293). -/
def rowDue (e : MxEntry) (k : Nat) (w : Ty) (j : Nat) : Nat :=
  let (g, step) := issuePace e.ty w
  e.startAt + max (8 + j / g * step) (rowsArrive e k (min (j + g) e.m) + 1)

/-- Start an entry on its path. -/
def mxStart (key : Nat) (e0 : MxEntry) : Cmd := .get fun s =>
  let e := { e0 with started := true, startAt := s.now }
  let k := s.mxK key
  let put := fun (f : MxHalf → MxHalf) => Cmd.seq (modEntry key e.serial fun _ => e) (modHalf key f)
  match s.mxCheck key e0 with
  | 0 => match e.op with
    | 1 => .all [
        put fun h => { h with load := some e.serial },
        modBank key e.bank fun b => { b with loading := true, tile := none, ctx := e.ctx },
        after (loadCycles e k) (.mxwLatch key)]
    | 2 =>
      let b := bankNo e.accBank
      let ty := match ((s.half key).bank e.bank).tile with | some t => t.ty | none => e.ty
      .all [
        put fun h => { h with
          stream := some e.serial
          obase := if e.sub = 1 then h.obase.set b (h.base e.accBank) else h.obase
          ocleared := if e.sub = 1 then h.ocleared.set b false else h.ocleared },
        modBank key e.bank fun w => { w with ref := w.ref + e.m },
        after (rowDue e k ty 0 - s.now) (.mxaRowIssue key)]
    | 3 => .seq
        (put fun h => { h with
          drain := some e.serial
          ocleared := if e.ctrl.getLsbD 19 then h.ocleared.set (bankNo e.bank) true else h.ocleared })
        (after 4 (.mxdRowDrain key))
    | _ => .seq
        (put fun h => { h with
          drain := some e.serial
          obase := h.obase.set (bankNo e.bank) 0
          ocleared := h.ocleared.set (bankNo e.bank) false })
        (after 4 (.mxdRowDrain key))
  | st => mxFail key e0 st

/-- MX_ENTRY_START (R289 to R292): on each free path the oldest entry that can start does. -/
def execMxEntryStart (half : Nat) (s : State) : Host.Outcome State Fault Refusal :=
  let go := fun (busy : MxHalf → Option Nat) (p : MxPath) => Cmd.get fun t =>
    let h := t.half half
    match busy h, h.next p with
    | none, some e => mxStart half e
    | _, _ => .skip
  Cmd.next (.all [go (·.load) .load, go (·.stream) .stream, go (·.drain) .drain]) s

/-- MXW_LATCH (R292, R206): the bank latches its tile, or stays Empty on uncorrectable vault data. -/
def execMxwLatch (half : Nat) (s : State) : Host.Outcome State Fault Refusal :=
  let h := s.half half
  let die := half / 128
  let k := s.mxK half
  Cmd.next (match h.load.bind h.entry? with
    | none => .skip
    | some e =>
      let nd := 128 * mxBytes e.ty k
      let ns := 128 * mxScaleBytes e.ty k
      if s.now < e.startAt + loadCycles e k then .skip
      else if s.vaultBad die e.arga.toNat nd || (ns != 0 && s.vaultBad die e.argb.toNat ns) then mxFail half e 4
      else .all [
        modBank half e.bank fun b => { b with
          loading := false
          tile := some ⟨e.ty, e.tag, s.vaultRead die e.arga.toNat nd, s.vaultRead die e.argb.toNat ns⟩ },
        mxLeave half e,
        after 0 (.mxReply half e.serial)]) s

/-! ### Streaming -/

/-- MXA_ROW_ISSUE (R207, R293, R410): the next rows issue as wavefronts, in an issue cycle of the die, once their bytes have
arrived. -/
def execMxaRowIssue (half : Nat) (s : State) : Host.Outcome State Fault Refusal :=
  let h := s.half half
  let die := half / 128
  let k := s.mxK half
  Cmd.next (match h.stream.bind h.entry? with
    | none => .skip
    | some e => match (h.bank e.bank).tile with
      | none => mxFail half e 1
      | some t =>
        let (g, step) := issuePace e.ty t.ty
        let due := rowDue e k t.ty e.rows
        let js := (List.range g).filterMap fun i => if e.rows + i < e.m then some (e.rows + i) else none
        let rb := mxBytes e.ty k
        let sb := mxScaleBytes e.ty k
        let da := fun (j : Nat) => e.arga.toNat + j * rb
        let sa := fun (j : Nat) => e.argb.toNat + j * sb
        if s.now < due then .when (!s.isDue (.mxaRowIssue half)) (after (due - s.now) (.mxaRowIssue half))
        else if !s.issueCycle die then after 1 (.mxaRowIssue half)
        else if js.any fun j => s.vaultBad die (da j) rb || (sb != 0 && s.vaultBad die (sa j) sb) then mxFail half e 4
        else if h.poisoned.contains (bankNo e.accBank) && !e.ctrl.getLsbD 20 then
          .seq (modHalf half fun h => { h with poisoned := h.poisoned.erase (bankNo e.accBank) }) (mxFail half e 4)
        else
          let n := e.rows + js.length
          .all [
            Cmd.each js fun j =>
              let rs := mxSums e.ty k (s.vaultRead die (da j) rb) (s.vaultRead die (sa j) sb) t
              let w : Wavefront := {
                entry := e.serial
                row := j
                wbank := e.bank
                issued := s.now
                sums := rs.map fun c => c.map (·.bits)
                flags := rs.foldl (fun a c => c.foldl (fun b r => b ||| r.flags) a) 0
                passed := false }
              .all [
                modHalf half fun h => { h with waves := h.waves ++ [w] },
                after 16 (.wavefrontPassesLastRow half),
                after 20 (.wavefrontAccumulate half)],
            modEntry half e.serial fun x => { x with rows := n },
            if e.m ≤ n then mxLeave half e
            else after (max step (rowDue e k t.ty n - s.now)) (.mxaRowIssue half)]) s

/-- WAVEFRONT_PASSES_LAST_ROW (R290, R292): REF of the wavefront's bank drops by 1. -/
def execWavefrontPassesLastRow (half : Nat) (s : State) : Host.Outcome State Fault Refusal :=
  Cmd.next (match (s.half half).waves.find? fun w => !w.passed && w.issued + 16 ≤ s.now with
    | none => .skip
    | some w => .all [
        modHalf half fun h => { h with waves := h.waves.map fun x => if x = w then { x with passed := true } else x },
        modBank half w.wbank fun b => { b with ref := b.ref - 1 },
        mxLook half]) s

/-- WAVEFRONT_ACCUMULATE (R294, R70, R291): the oldest wavefront adds into its accumulator row; the last row of an ordered
MXA advances OBASE. -/
def execWavefrontAccumulate (half : Nat) (s : State) : Host.Outcome State Fault Refusal :=
  let h := s.half half
  Cmd.next (match h.waves.find? fun w => w.passed && w.issued + 20 ≤ s.now with
    | none => .skip
    | some w => match h.entry? w.entry with
      | none => modHalf half fun h => { h with waves := h.waves.erase w }
      | some e =>
        let b := bankNo e.accBank
        let key := 512 * b + e.base + w.row
        let old := h.acc.getD key []
        let rs := w.sums.zipIdx.map fun (xs, n) => mxAdd (e.ctrl.getLsbD 20) (old.getD n 0) xs
        let last := e.acc + 1 == e.m
        .all [
          modHalf half fun h => { h with
            waves := h.waves.erase w
            acc := h.acc.set key (rs.map (·.bits))
            obase := if last && e.sub = 1 then h.obase.modify b fun o => (o + 1) % 64 else h.obase },
          modEntry half e.serial fun x => { x with
            acc := x.acc + 1
            flags := rs.foldl (fun a r => a ||| r.flags) (x.flags ||| w.flags) },
          .when last (.seq (after 2 (.mxReply half e.serial)) (mxLook half))]) s

/-! ### Draining -/

/-- One element of a drained row narrowed to a scalar format. -/
def drainScalar (t : Ty) (mode : Rm) (x : Nat) : Res :=
  if t = .f32 then ⟨x, 0⟩ else fpToFp .f32 (Fmt.ofTy t) Fpcm.ieee mode x

/-- The quantised block of up to 24 f32 values, padded with zeros, with its rounding modes (R208, R58). -/
def drainBlock (t : Ty) (d : Nat) (xs : List Nat) (modes : List Rm) : QBlock :=
  let pad := 24 - xs.length
  quantise t d (xs.map Fmt.f32.decode ++ List.replicate pad (.num false 0 0)) (modes ++ List.replicate pad .rne)

/-- The data bytes of a block (R56). -/
def QBlock.data (b : QBlock) (t : Ty) : List Byte := leBytes (blockBits t b.elems) (3 * elemWidth t)
def QBlock.scale (b : QBlock) : List Byte := leBytes b.lo 1 ++ leBytes b.hi 1

/-- A list cut into pieces of 24. -/
def cut24 {α : Type} (xs : List α) (n : Nat) : List (List α) := (List.range n).map fun j => (xs.drop (24 * j)).take 24

/-- A row of the main copy: data bytes, scale bytes and flags. -/
def mainRow (t : Ty) (d : Nat) (xs : List Nat) (modes : List Rm) : List Byte × List Byte × Nat :=
  if t.isBlock then
    let bs := List.zipWith (drainBlock t d) (cut24 xs 6) (cut24 modes 6)
    (bs.flatMap fun b => b.data t, bs.flatMap QBlock.scale, bs.foldl (fun a b => a ||| b.flags) 0)
  else
    let rs := List.zipWith (fun x m => drainScalar t m x) xs modes
    (rs.flatMap fun r => leBytes r.bits (t.width / 8), [], rs.foldl (fun a r => a ||| r.flags) 0)

/-- The pieces of the transposed copy that a row, or a complete group of 24 rows, gives: offset from b and bytes. `group` is
the number of the group and `rows` its rows with their random values. -/
def transPieces (t : Ty) (d m group : Nat) (sr : Bool) (rows : List (List Nat × List Nat)) : List (Nat × List Byte) × Nat :=
  let modeOf := fun (r : Nat) => if sr then Rm.sr r else Rm.rne
  let cb := drainBytes t m
  let (data, _) := copySize t 128 m
  let plane := (data + 63) / 64 * 64
  let cols := (List.range 128).map fun n =>
    let xs := rows.map fun (v, _) => v.getD n 0
    let ms := rows.map fun (_, r) => modeOf (r.getD n 0)
    if t.isBlock then
      let b := drainBlock t d xs ms
      ([(n * cb + group * 3 * elemWidth t, b.data t), (plane + 2 * (n * drainBlocks m + group), b.scale)], b.flags)
    else
      let rs := List.zipWith (fun x mo => drainScalar t mo x) xs ms
      ([(n * cb + group * (t.width / 8), rs.flatMap fun r => leBytes r.bits (t.width / 8))], rs.foldl (fun a r => a ||| r.flags) 0)
  (cols.flatMap (·.1), cols.foldl (fun a c => a ||| c.2) 0)

/-- Zero accumulator rows. -/
def clearRows (key bank : Nat) (rows : List Nat) : Cmd :=
  modHalf key fun h => { h with acc := rows.foldl (fun t r => t.set (512 * bank + r) (List.replicate 128 0)) h.acc }

/-- Hand the rows of an MXD in modes 1 and 2 to the copy engine (R296): a job with the shape record at a, the stamp at b and
the VD of the half's owner. -/
def handOff (key : Nat) (e : MxEntry) (rows : List (Nat × List Byte)) : Cmd := withSerial fun n =>
  let die := key / 128
  .seq (setJob n { Job.blank die e.vd e.ctx with
      kind := .handoff key e.serial, stamp := e.argb, sval := BitVec.ofNat 64 (natBits e.ctrl.toNat 63 32),
      pts := e.pts, area := e.arga, rows := rows })
    (after 1 (.channelAssign die))

/-- Cycles to the next X slot (R186). -/
def xSlotWait (now : Nat) : Nat := (6 - now % 4) % 4

/-- The bytes that a half's drains have ready perform in an X slot of the vaults' banks (R258, R293). -/
def writeOut (key : Nat) : Cmd := .get fun s => .when (xSlotWait s.now == 0) (.seq
  (Cmd.each (s.half key).outbox fun (a, bs) => vaultWrite (key / 128) a bs)
  (modHalf key fun h => { h with outbox := [] }))

/-- Bytes for a vault wait for the next X slot after their row is read. -/
def writeLater (key : Nat) (pieces : List (Nat × List Byte)) : Cmd := .get fun s => .seq
  (modHalf key fun h => { h with outbox := h.outbox ++ pieces })
  (after (1 + xSlotWait (s.now + 1)) (.mxdRowDrain key))

/-- MXD_ROW_DRAIN (R208, R209, R294, R296, R297): the drain path reads one row and converts it; its copies are written in the
next X slot; MXS.clr zeroes one row. -/
def execMxdRowDrain (half : Nat) (s : State) : Host.Outcome State Fault Refusal :=
  let h := s.half half
  let die := half / 128
  Cmd.next (.seq (writeOut half) (match h.drain.bind h.entry? with
    | none => .skip
    | some e =>
      let b := bankNo e.bank
      let next := after 1 (.mxdRowDrain half)
      if s.now < e.startAt + 4 + e.rows then .skip
      else if e.op = 4 then .all [
        clearRows half b [e.rows],
        modEntry half e.serial fun x => { x with rows := x.rows + 1 },
        if e.rows + 1 < 512 then next
        else .all [
          modHalf half fun h => { h with poisoned := h.poisoned.erase b },
          mxLeave half e, after 2 (.mxReply half e.serial)]]
      else if h.poisoned.contains b then
        .seq (modHalf half fun h => { h with poisoned := h.poisoned.erase b }) (.seq (freeRows half e e.m) (mxFail half e 4))
      else
        let c := e.ctrl.toNat
        let sr := e.ctrl.getLsbD 26
        let mode := natBits c 21 20
        let hasTrans := mode == 0 && e.argb != 0x80000000
        let row := match h.acc.get? (512 * b + e.base + e.rows) with | some r => r | none => List.replicate 128 0
        let modes := h.lfsrs.map fun r => if sr then Rm.sr r else Rm.rne
        let mid := h.lfsrs.map lfsrStep
        let lfsrs := if !sr then h.lfsrs else if hasTrans then mid.map lfsrStep else mid
        let d := natBits c 25 22
        let (data, scales, fl) := mainRow e.ty d row modes
        let held := e.held ++ [(row, mid)]
        let last := e.rows + 1 == e.m
        let groupSize := if e.ty.isBlock then 24 else 1
        let full := last || held.length == groupSize
        let group := e.rows / groupSize
        let (pieces, tf) := if hasTrans && full then transPieces e.ty d e.m group sr held else ([], 0)
        let plane := ((copySize e.ty e.m 128).1 + 63) / 64 * 64
        let read := held.length
        let clears := if !e.ctrl.getLsbD 19 then [] else if !hasTrans then [e.base + e.rows]
          else if full then (List.range read).map fun i => e.base + e.rows + 1 - read + i else []
        .all [
          .when (mode == 0) (writeLater half ([(e.arga.toNat + e.rows * drainBytes e.ty 128, data)] ++
            (if e.ty.isBlock then [(e.arga.toNat + plane + e.rows * 2 * drainBlocks 128, scales)] else []) ++
            pieces.map fun (o, bs) => (e.argb.toNat + o, bs))),
          clearRows half b clears,
          modHalf half fun h => { h with lfsrs := lfsrs },
          modEntry half e.serial fun x => { x with
            rows := x.rows + 1
            flags := x.flags ||| fl ||| tf
            held := if mode = 0 then (if full then [] else held) else x.held ++ [(data.map (·.toNat), scales.map (·.toNat))] },
          if !last then next
          else .seq (mxLeave half e) (if mode = 0 then after (1 + xSlotWait (s.now + 1)) (.mxReply half e.serial)
            else .get fun t => match (t.half half).entry? e.serial with
              | some x => .seq (handOff half x (x.held.zipIdx.map fun ((v, sc), k) =>
                  (k, (v.map (BitVec.ofNat 8)) ++ sc.map (BitVec.ofNat 8))))
                  (modEntry half e.serial fun y => { y with held := [] })
              | none => .skip)])) s

/-! ### Aborts and ownership -/

/-- MX_ABORT (R298): the half's entries of a context end with status ABORTED, their wavefronts stop and the banks that the
context loaded are Empty. -/
def execMxAbort (half ctx : Nat) (s : State) : Host.Outcome State Fault Refusal :=
  Cmd.next (.all [
    Cmd.each ((s.half half).inbox.filter fun e => e.ctx == ctx) fun e => mxFail half e 5,
    modHalf half fun h => { h with banks := h.banks.map fun b =>
      if b.ctx = ctx then { b with tile := none, loading := false } else b },
    mxLook half]) s

/-- MXOWN_APPLY (R295, R370, R408): a held write takes effect once the unit's quadrant is ready and the unit is empty; a split or join leaves every bank Empty, zero
accumulators and fresh LFSRs. -/
def execMxownApply (unit : Nat) (s : State) : Host.Outcome State Fault Refusal :=
  let own := s.mxOwn unit
  let key := 128 * (unit / 64) + 2 * (unit % 64)
  let idle := [key, key + 1].all fun k => let h := s.half k; h.waiting.isEmpty && h.banks.all fun b => b.ref == 0
  let ready := s.svc.ready.getLsbD (12 + 4 * (unit / 64) + unit % 64 / 16)
  Cmd.next (match own.held with
    | none => .skip
    | some w =>
      if !ready then .skip
      else if !idle then after 1 (.mxownApply unit)
      else
        let x := w.toNat
        let new : MxOwn := ⟨natBits x 5 0, natBits x 11 6, x.testBit 12, x.testBit 13, x.testBit 14, none⟩
        .seq (.prim (.svc fun v => { v with mxown := v.mxown.set unit new }))
          (.when (x.testBit 12 != own.split) (Cmd.each [key, key + 1] fun k => modHalf k fun h =>
            { MxHalf.fresh k with inbox := h.inbox, waves := h.waves }))) s

end Sys2Proof.Machine
end

