-- ==== Sys2Proof/Machine/Tensor.lean ====
section
/-! DEFINITION. Tensor shape records (R302), boxes and their order (R303), footprints (R212), and the accesses of a job
(R263, R286, R287, R301, R302). A cell is one element, or one block of a block format with its scale pair (R303). -/

namespace Sys2Proof.Machine

/-! ### Records -/

/-- A 16-bit field read as signed. -/
def signed16 (x : Nat) : Int := if x < 32768 then x else (x : Int) - 65536

/-- A shape record (R302), or none when a field rule is broken. -/
def readTensor (addr : Nat) (bs : List Byte) : Option Tensor :=
  let ctl := field bs 20 2
  let n := natBits ctl 6 4
  let base := field bs 0 8
  let sbase := field bs 8 8
  let fmt := Ty.ofCode (ctl % 16)
  let dim := (List.range 5).map fun k => field bs (22 + 2 * k) 2
  let stride := (List.range 4).map fun k => field bs (32 + 3 * k) 3
  let org := (List.range 5).map fun k => field bs (44 + 2 * k) 2
  let box := (List.range 5).map fun k => field bs (54 + 2 * k) 2
  let beyond := (dim.drop n ++ stride.drop (n - 1) ++ org.drop n ++ box.drop n).all fun x => x == 0
  let spaceOk := fun (x : Nat) => x < 2 ^ 63 || natBits x 62 34 == 0
  let blockOk := if fmt.isBlock then
      (dim.getD 0 0 + 1) % 24 == 0 && signed16 (org.getD 0 0) % 24 == 0 && (box.getD 0 0 + 1) % 24 == 0 &&
        (sbase / 2 ^ 63 == base / 2 ^ 63)
    else sbase == 0
  if addr % 64 == 0 && 1 ≤ n && n ≤ 5 && natBits ctl 8 7 ≤ 1 && fmt != .pr && natBits ctl 15 13 == 0 && beyond && spaceOk base &&
      spaceOk sbase && blockOk then
    some {
      base := base
      sbase := sbase
      fill := field bs 16 4
      fmt := fmt
      strict := natBits ctl 8 7 == 1
      dims := (dim.take n).map (· + 1)
      strides := (stride.take (n - 1)).map fun x => x * 2 ^ natBits ctl 12 9
      org := (org.take n).map signed16
      box := (box.take n).map (· + 1) }
  else none

/-- Elements of a cell. -/
def Tensor.per (t : Tensor) : Nat := if t.fmt.isBlock then 24 else 1
/-- Bytes of a cell in the data plane. -/
def Tensor.cellBytes (t : Tensor) : Nat := match t.fmt with | .eb8 => 24 | .eb4 => 12 | f => f.width / 8
/-- Bytes of a cell's scale pair. -/
def Tensor.scaleBytes (t : Tensor) : Nat := if t.fmt.isBlock then 2 else 0
/-- Elements of the box. -/
def Tensor.count (t : Tensor) : Nat := t.box.foldl (· * ·) 1
/-- Cells of the box. -/
def Tensor.cells (t : Tensor) : Nat := t.count / t.per

/-- The digits of a sequence number in box order (R303): index 0 innermost. -/
def boxIndex : List Nat → Nat → List Nat
  | [], _ => []
  | b :: bs, n => n % b :: boxIndex bs (n / b)

/-- Tensor coordinates of the n-th cell of the box; coordinate 0 is that of its first element. -/
def Tensor.coords (t : Tensor) (n : Nat) : List Int := List.zipWith (fun (o : Int) (i : Nat) => o + i) t.org (boxIndex t.box (n * t.per))
/-- Whether a cell lies inside (R303). -/
def Tensor.inside (t : Tensor) (n : Nat) : Bool := (List.zipWith (fun (x : Int) (d : Nat) => decide (0 ≤ x) && decide (x < d)) (t.coords n) t.dims).all id

/-- Byte offset of the row that coordinates lie in. -/
def Tensor.rowOffset (t : Tensor) (c : List Int) : Int := (List.zipWith (fun (x : Int) (s : Nat) => x * s) (c.drop 1) t.strides).foldl (· + ·) 0
/-- Byte offset of a cell in the data plane (R302). -/
def Tensor.offset (t : Tensor) (c : List Int) : Int := t.rowOffset c + (c.headD 0) / t.per * t.cellBytes
/-- Byte offset of a cell's scale pair (R302). -/
def Tensor.scaleOffset (t : Tensor) (c : List Int) : Int :=
  let blocks : Nat := t.dims.headD 24 / 24
  2 * (t.rowOffset c / (blocks * t.cellBytes) * blocks + c.headD 0 / 24)

/-- Equal BOX fields in all five dimensions (R304); a dimension beyond NDIM has size 1 (R302). -/
def Tensor.sameBox (a b : Tensor) : Bool := (List.range 5).all fun k => a.box.getD k 1 == b.box.getD k 1

/-- Whether the whole box, or no cell of it, lies inside. -/
def Tensor.within (t : Tensor) : Bool :=
  (List.zipWith (fun (o, b) (d : Nat) => decide (0 ≤ o) && decide (o + b ≤ (d : Int))) (t.org.zip (t.box.map fun (b : Nat) => (b : Int))) t.dims).all id
def Tensor.outside (t : Tensor) : Bool :=
  (List.zipWith (fun (o, b) (d : Nat) => decide (o + b ≤ 0) || decide ((d : Int) ≤ o)) (t.org.zip (t.box.map fun (b : Nat) => (b : Int))) t.dims).any id

/-- An element of the FILL pattern (R302), in its width. -/
def Tensor.fillElem (t : Tensor) : Nat := match t.fmt with
  | .f64 => (fpToFp .f32 .f64 { Fpcm.ieee with nanm := 1 } .rne t.fill).bits
  | .i64 => wrapTo 64 (readInt .i32 t.fill)
  | .n64 | .x64 => t.fill
  | f => t.fill % 2 ^ f.width
/-- The data bytes of a cell whose elements all hold `x`. -/
def Tensor.cellOf (t : Tensor) (x : Nat) : List Byte :=
  if t.fmt.isBlock then leBytes (blockBits t.fmt (List.replicate 24 x)) t.cellBytes else leBytes x t.cellBytes
/-- A FILL cell: data and scales (R302, R303). -/
def Tensor.fillCell (t : Tensor) : List Byte × List Byte := (t.cellOf t.fillElem, List.replicate t.scaleBytes 0)

/-- Cells of a 64-byte token (R305), a block format in its packed register form (R56). -/
def Tensor.perToken (t : Tensor) : Nat := match t.fmt with | .eb8 => 2 | .eb4 => 4 | f => 512 / f.width
/-- A token of cells. -/
def Tensor.token (t : Tensor) (cs : List (List Byte × List Byte)) : W512 :=
  let data := leNat (cs.flatMap (·.1))
  let scales := leNat (cs.flatMap (·.2))
  BitVec.ofNat 512 (data % 2 ^ (if t.fmt.isBlock then 384 else 512) + scales * 2 ^ 384)
/-- The k-th cell of a token. -/
def Tensor.ofToken (t : Tensor) (v : W512) (k : Nat) : List Byte × List Byte :=
  (leBytes (v.toNat / 2 ^ (8 * k * t.cellBytes)) t.cellBytes, leBytes (v.toNat / 2 ^ (384 + 16 * k)) t.scaleBytes)

/-! ### Spaces -/

/-- A place that a job accesses: in the VD's virtual space, or in a die's vaults (R302). -/
inductive Spot where
  | dram (a : Nat)
  | vault (die a : Nat)
deriving DecidableEq, Repr

/-- The place at an offset from a BASE; an offset below zero names no place (it is never accessed). -/
def spotAt (base : Nat) (off : Int) : Spot :=
  if base < 2 ^ 63 then .dram (base + off.toNat) else .vault (natBits base 33 32) (base % 2 ^ 32 + off.toNat)
/-- The address of a place as a record or a footprint names it. -/
def Spot.addr : Spot → Nat | .dram a => a | .vault d a => 2 ^ 63 + d * 2 ^ 32 + a

def Tensor.dataSpot (t : Tensor) (n : Nat) : Spot := spotAt t.base (t.offset (t.coords n))
def Tensor.scaleSpot (t : Tensor) (n : Nat) : Spot := spotAt t.sbase (t.scaleOffset (t.coords n))

/-- The address span of a box (R212): its data, and its scales. -/
def Tensor.spans (t : Tensor) (write : Bool) : List Extent :=
  let last := t.cells - 1
  let span := fun (base : Nat) (lo hi : Int) (n : Nat) => (⟨base + lo.toNat, (hi + n).toNat - lo.toNat, write⟩ : Extent)
  span t.base (t.offset (t.coords 0)) (t.offset (t.coords last)) t.cellBytes ::
    (if t.fmt.isBlock then [span t.sbase (t.scaleOffset (t.coords 0)) (t.scaleOffset (t.coords last)) 2] else [])

/-- The eight extents of a footprint record (R212). -/
def readFootprint (bs : List Byte) : List Extent :=
  ((List.range 8).map fun k => (⟨field bs (16 * k) 8, field bs (16 * k + 8) 8, 4 ≤ k⟩ : Extent)).filter fun e => e.len != 0

def Extent.overlaps (x y : Extent) : Bool := x.base < y.base + y.len && y.base < x.base + x.len && x.len != 0 && y.len != 0
/-- One job's write extent overlaps another's read or write extent (R286). -/
def clash (xs ys : List Extent) : Bool := xs.any fun x => ys.any fun y => (x.write || y.write) && x.overlaps y

/-! ### Accesses of a job -/

/-- The context of a job, if it belongs to the job's VD. -/
def State.jobCtx (s : State) (j : Job) : Option Ctx := (s.ctx? j.ctx).filter fun c => c.vd == j.vd

/-- Whether a context has a vault area on a die (R177, R302). -/
def State.hasVault (s : State) (ctx die : Nat) : Bool := s.ten.vaultUse.any fun (d, _, _, c) => d == die && c == ctx

/-- Why a job may not access bytes: its STATUS (R307) and the cause. -/
def State.spotFails (s : State) (j : Job) (p : Spot) (n : Nat) (write : Bool) : Option (Nat × Nat) :=
  if j.declared && !(j.extents.any fun e => e.write == write && e.base ≤ p.addr && p.addr + n ≤ e.base + e.len) then some (2, 0)
  else match p with
    | .dram a => (s.engError j.die j.vd a n (if write then .write else .read)).map fun (c, _, _) => (3, c)
    | .vault die a =>
      if (s.jobCtx j).isNone || !s.vaultAllowed j.ctx a n || !s.hasVault j.ctx die then some (3, causeProt)
      else if !write && s.vaultBad die a n then some (3, causeEcc) else none

/-- Whether a job's read or write of a place waits (R260, R266, R281, R282). -/
def State.spotWaits (s : State) (j : Job) (write : Bool) : Spot → Nat → Bool
  | .dram a, n => s.engWaits j.die j.vd a n (if write then .store j.pts else .renew j.pts (s.leaseOf j.ctx j.die))
  | .vault _ _, _ => false

def Spot.isVault : Spot → Bool | .dram _ => false | .vault _ _ => true

/-- Cycles to the next slot of the copy engine at the vaults' banks (R186, R258): wheel position 1. -/
def cSlotWait (now : Nat) : Nat := (5 - now % 4) % 4

/-- Bytes read by a job at its pts (R263, R301). -/
def State.spotRead (s : State) (j : Job) : Spot → Nat → List Byte × Stamp
  | .dram a, n => s.engBytes j.die j.vd a n j.pts (some (s.leaseOf j.ctx j.die))
  | .vault die a, n => (s.vaultRead die a n, j.pts)

def spotTouch (j : Job) (p : Spot) (n : Nat) : Cmd := .get fun s => match p with
  | .dram a => engTouch j.die j.vd a n j.pts (some (s.leaseOf j.ctx j.die))
  | .vault _ _ => .skip

/-- Bytes written by a job (R287); the bytes count in its status word. -/
def spotWrite (id : Nat) (j : Job) (p : Spot) (bs : List Byte) : Cmd := .seq
  (match p with
   | .dram a => engWrite j.die j.vd a bs j.pts fun w => modJob id fun x => { x with pts := Stamp.max x.pts w }
   | .vault die a => vaultWrite die a bs)
  (modJob id fun x => { x with bytes := x.bytes + bs.length })

/-- A job ends with a status (R307): its first failure stands. -/
def failJob (id st addr cause : Nat) : Cmd := modJob id fun j => if j.status != 0 then j else { j with
  status := st, addr := BitVec.ofNat 64 addr, valb := BitVec.ofNat 64 cause }

/-- Run `k` on a job that has not failed. -/
def onJob (id : Nat) (k : State → Job → Cmd) : Cmd := .get fun s => match s.job? id with
  | some j => .when (j.status == 0) (k s j)
  | none => .skip

/-- One access, or the failure of the job. -/
def tryRead (id : Nat) (p : Spot) (n : Nat) (k : List Byte → Cmd) : Cmd := onJob id fun s j => match s.spotFails j p n false with
  | some (st, cause) => failJob id st p.addr cause
  | none =>
    let (bs, w) := s.spotRead j p n
    .all [spotTouch j p n, modJob id fun x => { x with pts := Stamp.max x.pts w }, k bs]
def tryWrite (id : Nat) (p : Spot) (bs : List Byte) : Cmd := onJob id fun s j => match s.spotFails j p bs.length true with
  | some (st, cause) => failJob id st p.addr cause
  | none => spotWrite id j p bs

/-- In replay a copy job's source bytes come from the recorded 64-byte units, which the job holds (R426). -/
def replayedBytes (id : Nat) (p : Spot) (d : List Byte) (k : List Byte → Cmd) : Cmd := onJob id fun s j =>
  if s.replaying j.ctx then match j.rows.find? fun (a, _) => a == p.addr / 64 * 64 with
    | some (_, bs) => k ((bs.drop (p.addr % 64)).take d.length)
    | none => k d
  else k d

/-- Read a source cell (R303): FILL outside. -/
def readCell (id : Nat) (t : Tensor) (n : Nat) (k : List Byte × List Byte → Cmd) : Cmd :=
  if !t.inside n then k t.fillCell
  else tryRead id (t.dataSpot n) t.cellBytes fun d => replayedBytes id (t.dataSpot n) d fun d =>
    if t.fmt.isBlock then tryRead id (t.scaleSpot n) 2 fun sc => replayedBytes id (t.scaleSpot n) sc fun sc => k (d, sc)
    else k (d, [])

/-- Write a destination cell (R303): nothing outside. An empty scale part leaves the scale pair as it is. -/
def writeCell (id : Nat) (t : Tensor) (n : Nat) (x : List Byte × List Byte) : Cmd :=
  .when (t.inside n) (.seq (tryWrite id (t.dataSpot n) x.1) (.when (!x.2.isEmpty) (tryWrite id (t.scaleSpot n) x.2)))

/-- Whether an access of a job to some cells of a box waits. -/
def State.cellsWait (s : State) (j : Job) (t : Tensor) (write : Bool) (cells : List Nat) : Bool :=
  cells.any fun n => t.inside n && (s.spotWaits j write (t.dataSpot n) t.cellBytes ||
    (t.fmt.isBlock && s.spotWaits j write (t.scaleSpot n) 2))

/-- The places of some cells of a box: their data and their scales, with their bytes. -/
def Tensor.spots (t : Tensor) (cells : List Nat) : List (Spot × Nat) := (cells.filter t.inside).flatMap fun n =>
  (t.dataSpot n, t.cellBytes) :: (if t.fmt.isBlock then [(t.scaleSpot n, 2)] else [])

/-- The arbiters that a job's accesses to some places pass, line by line (R371). -/
def State.spotArbiters (s : State) (j : Job) (write : Bool) (ps : List (Spot × Nat)) : List (Nat × Nat) :=
  let lines := (ps.flatMap fun (p, n) => match p with
    | .dram a => (pieces a n).map fun (x, _) => x / 128
    | .vault _ _ => []).dedup
  lines.flatMap fun l => s.engArbiters j.die j.vd (128 * l) 1 (if write then .store j.pts else .renew j.pts (s.leaseOf j.ctx j.die))

/-- Whether a box lies in vault space (R302). -/
def Tensor.inVault (t : Tensor) : Bool := (spotAt t.base 0).isVault

/-- Cells that a channel moves in a cycle: up to 64 bytes (R301). -/
def Tensor.perCycle (t : Tensor) : Nat := max 1 (64 / t.cellBytes)

/-- The cells of its source and of its destination that a cycle of a job's payload reads and writes (R301, R305). -/
def Job.cycle (j : Job) : List Nat × List Nat :=
  let n := match j.dst, j.src with | some b, _ => b.perCycle | none, some a => a.perCycle | none, none => 1
  let here := (List.range n).map (j.got + ·)
  match j.src, field j.packet 0 1 with
  | some a, 2 => (((List.range a.perToken).map (j.sent * a.perToken + ·)).filter (· < a.cells), [])
  | some a, _ => (here.filter (· < a.cells), match j.dst with | some b => here.map (· % max 1 b.cells) | none => [])
  | none, _ => ([], match j.dst with | some b => here.map (· % max 1 b.cells) | none => [])

/-- The arbiters that a cycle of a job's payload passes (R371). -/
def State.payloadArbiters (s : State) (j : Job) : List (Nat × Nat) :=
  (match j.src with | some a => s.spotArbiters j false (a.spots j.cycle.1) | none => []) ++
    (match j.dst with | some b => s.spotArbiters j true (b.spots j.cycle.2) | none => [])

end Sys2Proof.Machine
end

