-- ==== Sys2Proof/Machine/Trans.lean ====
section
/-! DEFINITION. The transcendentals of R147: correctly rounded values of 2^x, log2 x, sin x, cos x and tanh x, computed
in fixed point with far more bits than any f32 argument needs to settle the rounding (log 11). -/

namespace Sys2Proof.Machine

/-- Fraction bits of the fixed-point working values. -/
def fxBits : Nat := 320
def fxOne : Int := 2 ^ 320

def fxMul (a b : Int) : Int := a * b / fxOne
def fxDiv (a b : Int) : Int := a * fxOne / b

/-- Sum of z^(2k+1) / (2k+1) from term k on, `t` = z^(2k+1); atanh, or atan with `alt`. -/
def fxOddSeries (alt : Bool) (z2 : Int) : Nat → Nat → Int → Int
  | 0, _, _ => 0
  | n + 1, k, t =>
    let term := t / (2 * k + 1 : Nat)
    (if alt && k % 2 = 1 then -term else term) + fxOddSeries alt z2 n (k + 1) (fxMul t z2)

def fxAtanh (z : Int) : Int := fxOddSeries false (fxMul z z) 130 0 z

/-- ln 2 = 2 atanh(1/3). -/
def fxLn2 : Int := 2 * fxAtanh (fxOne / 3)

/-- Sum of t^k / k! from term k on. -/
def fxExpGo (x : Int) : Nat → Nat → Int → Int
  | 0, _, _ => 0
  | n + 1, k, t => t + fxExpGo x n (k + 1) (fxMul t x / (k + 1 : Nat))

def fxExp (x : Int) : Int := fxExpGo x 90 0 fxOne

/-- Alternating series of sine (k = 1) and cosine (k = 0) for an argument up to pi/4. -/
def fxTrigGo (x2 : Int) : Nat → Nat → Int → Int
  | 0, _, _ => 0
  | n + 1, k, t => t - fxTrigGo x2 n (k + 2) (fxMul t x2 / ((k + 1) * (k + 2) : Nat))

def fxSin (x : Int) : Int := fxTrigGo (fxMul x x) 50 1 x
def fxCos (x : Int) : Int := fxTrigGo (fxMul x x) 50 0 fxOne

/-- Fraction bits of pi, enough to reduce any finite f32 argument. -/
def piBits : Nat := 512

/-- atan(1/q) * 2^piBits by its series. -/
def piAtan (q2 : Nat) : Nat → Nat → Nat → Int
  | 0, _, _ => 0
  | n + 1, k, t => (if k % 2 = 1 then -1 else 1 : Int) * (t / (2 * k + 1) : Nat) + piAtan q2 n (k + 1) (t / q2)

/-- pi * 2^piBits by Machin's formula. -/
def piFx : Int := 16 * piAtan 25 115 0 (2 ^ 512 / 5) - 4 * piAtan 57121 40 0 (2 ^ 512 / 239)

/-- m * 2^e in fixed point with `bits` fraction bits; exact when e + bits is not negative. -/
def toFx (bits m : Nat) (e : Int) : Int := let (q, _, _) := shiftExp m (e + bits); q

/-- Round a positive fixed-point value known not to be exact. -/
def roundFx (f : Fmt) (mode : Rm) (flush neg : Bool) (x : Int) (e : Int) : Res :=
  f.round mode flush neg (x.toNat / 2 ^ 40) (e - 280) true

/-- A value just above (`up`) or just below m * 2^e. -/
def roundNear (f : Fmt) (mode : Rm) (flush neg up : Bool) (m : Nat) (e : Int) : Res :=
  let w := m * 2 ^ 40
  f.round mode flush neg (if up then w else w - 1) (e - 40) true

/-- Whether m * 2^e is below 2^k. -/
def belowPow (m : Nat) (e k : Int) : Bool := m = 0 || e + Nat.log2 m < k

/-- sin and cos of m * 2^e, not tiny: quadrant and reduced argument. -/
def trigReduce (m : Nat) (e : Int) : Nat × Int :=
  let x := toFx piBits m e
  let half := piFx / 2
  let q := (x + half / 2) / half
  ((q % 4).toNat, (x - q * half) / 2 ^ 192)

/-- Sine (shift 0) or cosine (shift 1) of a nonzero argument of at least 2^-40. -/
def trigValue (f : Fmt) (mode : Rm) (flush neg : Bool) (shift m : Nat) (e : Int) : Res :=
  let qr := trigReduce m e
  let k := (qr.1 + shift) % 4
  let v : Int := if k = 0 then fxSin qr.2 else if k = 1 then fxCos qr.2 else if k = 2 then -fxSin qr.2 else -fxCos qr.2
  let minus : Bool := if v < 0 then true else false
  roundFx f mode flush (minus != (neg && shift == 0)) (v.natAbs : Int) 0

/-- FEXP2 (R147). -/
def fpExp2 (f : Fmt) (c : Fpcm) (mode : Rm) (a0 : Nat) : Res :=
  let (a, fa) := flushIn f c a0
  (match f.decode a with
  | .nan _ => nanResult f c [a]
  | .inf s => if s then Res.mk 0 0 else Res.mk (f.infBits false) 0
  | .num s m e =>
    if m = 0 then f.round mode false false 1 0 false
    else if !belowPow m e 12 then f.round mode c.flushOut false 1 (if s then -5000 else 5000) false
    else if belowPow m e (-40) then roundNear f mode c.flushOut false (!s) 1 0
    else
      let (q, rem, _) := shiftExp m e
      if rem = 0 then f.round mode c.flushOut false 1 (if s then -(q : Int) else q) false
      else
        let x := toFx fxBits m e
        let x := if s then -x else x
        let n := x / fxOne
        roundFx f mode c.flushOut false (fxExp (fxMul (x - n * fxOne) fxLn2)) n).or fa

/-- FLOG2 (R147). -/
def fpLog2 (f : Fmt) (c : Fpcm) (mode : Rm) (a0 : Nat) : Res :=
  let (a, fa) := flushIn f c a0
  (match f.decode a with
  | .nan _ => nanResult f c [a]
  | .inf s => if s then invalid f else Res.mk (f.infBits false) 0
  | .num s m e =>
    if m = 0 then Res.mk (f.infBits true) fDZ else if s then invalid f else
    let l := Nat.log2 m
    let n : Int := e + l
    if m = 2 ^ l then f.round mode c.flushOut (n < 0) n.natAbs 0 false
    else
      let y := toFx fxBits m (-(l : Int))
      let v := n * fxOne + fxDiv (2 * fxAtanh (fxDiv (y - fxOne) (y + fxOne))) fxLn2
      roundFx f mode c.flushOut (v < 0) v.natAbs 0).or fa

/-- FSIN (R147). -/
def fpSin (f : Fmt) (c : Fpcm) (mode : Rm) (a0 : Nat) : Res :=
  let (a, fa) := flushIn f c a0
  (match f.decode a with
  | .nan _ => nanResult f c [a]
  | .inf _ => invalid f
  | .num s m e =>
    if m = 0 then Res.mk (f.signBit s) 0
    else if belowPow m e (-40) then roundNear f mode c.flushOut s false m e
    else trigValue f mode c.flushOut s 0 m e).or fa

/-- FCOS (R147). -/
def fpCos (f : Fmt) (c : Fpcm) (mode : Rm) (a0 : Nat) : Res :=
  let (a, fa) := flushIn f c a0
  (match f.decode a with
  | .nan _ => nanResult f c [a]
  | .inf _ => invalid f
  | .num s m e =>
    if m = 0 then f.round mode false false 1 0 false
    else if belowPow m e (-40) then roundNear f mode c.flushOut false false 1 0
    else trigValue f mode c.flushOut s 1 m e).or fa

/-- FTANH (R147). -/
def fpTanh (f : Fmt) (c : Fpcm) (mode : Rm) (a0 : Nat) : Res :=
  let (a, fa) := flushIn f c a0
  (match f.decode a with
  | .nan _ => nanResult f c [a]
  | .inf s => f.round mode false s 1 0 false
  | .num s m e =>
    if m = 0 then Res.mk (f.signBit s) 0
    else if belowPow m e (-40) then roundNear f mode c.flushOut s false m e
    else if !belowPow m e 6 then roundNear f mode c.flushOut s false 1 0
    else
      let x := fxDiv (2 * toFx fxBits m e) fxLn2
      let n := x / fxOne
      let w := fxExp (fxMul (x - n * fxOne) fxLn2) * 2 ^ n.toNat
      roundFx f mode c.flushOut s (fxDiv (w - fxOne) (w + fxOne)) 0).or fa

end Sys2Proof.Machine
end

