-- ==== Sys2Proof/Machine/FloatOps.lean ====
section
/-! DEFINITION. Float instructions (R141 to R148): the arithmetic of Float.lean and Trans.lean, lane by lane. -/

namespace Sys2Proof.Machine

/-- Latency of the float class on A (R36). -/
def floatLat : Nat := 4
/-- Latency on the divider (R36). -/
def dividerLat (f : CommonNode) : Nat := if f.ty.width = 64 then 20 else if f.v then 16 else 12

/-- A float node: its lanes under the context's FPCM and the node's rounding mode (R50, R61). -/
def floatNode (i : Instr) (f : CommonNode) (s : State) (lat : Nat) (ops : List Val)
    (op : Fmt → Fpcm → Rm → List Nat → Res) : Host.Outcome State Fault Refusal :=
  let fmt := Fmt.ofTy f.ty
  let (x, fl) := evalLanes f.v f.ty.width f.mask ops passA (op fmt (s.fpcm s.cur.ctx) (Rm.ofCode f.rm.toNat 0))
  (computeFlags s.cur f.toHdr i.sig lat (resultVal f.v f.ty x, fl)).next s

def arg (xs : List Nat) (k : Nat) : Nat := xs.getD k 0

/-- FADD (R143). -/
def execFadd (f : CommonNode) (s : State) : Host.Outcome State Fault Refusal :=
  floatNode (.fadd f) f s floatLat (ops2 f s) fun m c r xs => fpAdd m c r (arg xs 0) (arg xs 1)
/-- FSUB (R143). -/
def execFsub (f : CommonNode) (s : State) : Host.Outcome State Fault Refusal :=
  floatNode (.fsub f) f s floatLat (ops2 f s) fun m c r xs => fpSub m c r (arg xs 0) (arg xs 1)
/-- FMUL (R143). -/
def execFmul (f : CommonNode) (s : State) : Host.Outcome State Fault Refusal :=
  floatNode (.fmul f) f s floatLat (ops2 f s) fun m c r xs => fpMul m c r (arg xs 0) (arg xs 1)
/-- FMA (R143). -/
def execFma (f : CommonNode) (s : State) : Host.Outcome State Fault Refusal :=
  floatNode (.fma f) f s floatLat (ops3 f s) fun m c r xs => fpFma m c r false (arg xs 0) (arg xs 1) (arg xs 2)
/-- FNMA (R143). -/
def execFnma (f : CommonNode) (s : State) : Host.Outcome State Fault Refusal :=
  floatNode (.fnma f) f s floatLat (ops3 f s) fun m c r xs => fpFma m c r true (arg xs 0) (arg xs 1) (arg xs 2)
/-- FMIN (R144). -/
def execFmin (f : CommonNode) (s : State) : Host.Outcome State Fault Refusal :=
  floatNode (.fmin f) f s floatLat (ops2 f s) fun m c _ xs => fpMinMax m c false (arg xs 0) (arg xs 1)
/-- FMAX (R144). -/
def execFmax (f : CommonNode) (s : State) : Host.Outcome State Fault Refusal :=
  floatNode (.fmax f) f s floatLat (ops2 f s) fun m c _ xs => fpMinMax m c true (arg xs 0) (arg xs 1)
/-- FCMP (R145). -/
def execFcmp (f : CommonNode) (s : State) : Host.Outcome State Fault Refusal :=
  compareNode (.fcmp f) f s floatLat fun xs =>
    fpCmp (Fmt.ofTy f.ty) (s.fpcm s.cur.ctx) f.rm.toNat (arg xs 0) (arg xs 1)
/-- FDIV (R146). -/
def execFdiv (f : CommonNode) (s : State) : Host.Outcome State Fault Refusal :=
  floatNode (.fdiv f) f s (dividerLat f) (ops2 f s) fun m c r xs => fpDiv m c r (arg xs 0) (arg xs 1)
/-- FSQRT (R146). -/
def execFsqrt (f : CommonNode) (s : State) : Host.Outcome State Fault Refusal :=
  floatNode (.fsqrt f) f s (dividerLat f) (ops1 s) fun m c r xs => fpSqrt m c r (arg xs 0)
/-- FRCP (R67, R146). -/
def execFrcp (f : CommonNode) (s : State) : Host.Outcome State Fault Refusal :=
  floatNode (.frcp f) f s floatLat (ops1 s) fun m c r xs => fpRcp m c r (arg xs 0)
/-- FRSQ (R67, R146). -/
def execFrsq (f : CommonNode) (s : State) : Host.Outcome State Fault Refusal :=
  floatNode (.frsq f) f s floatLat (ops1 s) fun m c r xs => fpRsq m c r (arg xs 0)
/-- FEXP2 (R147). -/
def execFexp2 (f : CommonNode) (s : State) : Host.Outcome State Fault Refusal :=
  floatNode (.fexp2 f) f s 8 (ops1 s) fun m c r xs => fpExp2 m c r (arg xs 0)
/-- FLOG2 (R147). -/
def execFlog2 (f : CommonNode) (s : State) : Host.Outcome State Fault Refusal :=
  floatNode (.flog2 f) f s 8 (ops1 s) fun m c r xs => fpLog2 m c r (arg xs 0)
/-- FSIN (R147). -/
def execFsin (f : CommonNode) (s : State) : Host.Outcome State Fault Refusal :=
  floatNode (.fsin f) f s 8 (ops1 s) fun m c r xs => fpSin m c r (arg xs 0)
/-- FCOS (R147). -/
def execFcos (f : CommonNode) (s : State) : Host.Outcome State Fault Refusal :=
  floatNode (.fcos f) f s 8 (ops1 s) fun m c r xs => fpCos m c r (arg xs 0)
/-- FTANH (R147). -/
def execFtanh (f : CommonNode) (s : State) : Host.Outcome State Fault Refusal :=
  floatNode (.ftanh f) f s 8 (ops1 s) fun m c r xs => fpTanh m c r (arg xs 0)
/-- FRND (R148). -/
def execFrnd (f : CommonNode) (s : State) : Host.Outcome State Fault Refusal :=
  floatNode (.frnd f) f s floatLat (ops1 s) fun m c r xs => fpRnd m c r (arg xs 0)
/-- FCLASS (R148): ignores FPCM and raises no flag. -/
def execFclass (f : CommonNode) (s : State) : Host.Outcome State Fault Refusal :=
  floatNode (.fclass f) f s floatLat (ops1 s) fun m _ _ xs => ⟨fpClass m (arg xs 0), 0⟩
/-- FSCALE (R148): b is a signed integer of the lane width, or LIT sign-extended. -/
def execFscale (f : CommonNode) (s : State) : Host.Outcome State Fault Refusal :=
  let w := f.ty.width
  let scale := fun (xs : List Nat) => if f.l then f.lit.toInt else (BitVec.ofNat w (arg xs 1)).toInt
  floatNode (.fscale f) f s floatLat [orNull s.cur.a, orNull s.cur.b] fun m c r xs => fpScale m c r (arg xs 0) (scale xs)
/-- FABS (R148). -/
def execFabs (f : CommonNode) (s : State) : Host.Outcome State Fault Refusal :=
  floatNode (.fabs f) f s floatLat (ops1 s) fun m _ _ xs => ⟨fpAbs m (arg xs 0), 0⟩
/-- FNEG (R148). -/
def execFneg (f : CommonNode) (s : State) : Host.Outcome State Fault Refusal :=
  floatNode (.fneg f) f s floatLat (ops1 s) fun m _ _ xs => ⟨m.negate (arg xs 0), 0⟩

end Sys2Proof.Machine
end

