-- ==== Sys2Proof/Machine/Vector.lean ====
section
/-! DEFINITION. Vector instructions (R157 to R161) with the fixed tree of R68. -/

namespace Sys2Proof.Machine

/-! ### Helpers -/

def CommonNode.lanesN (f : CommonNode) : Nat := 512 / f.ty.width
def nodeOn (f : CommonNode) (j : Nat) : Bool := laneOn f.mask (512 / f.ty.width) j

/-- A lane of a vector node that passes or builds lanes. -/
def vecNode (i : Instr) (f : CommonNode) (s : State) (v : Val) : Host.Outcome State Fault Refusal :=
  (compute s.cur f.toHdr i.sig 4 v).next s

/-- VBCAST (R158). -/
def execVbcast (f : CommonNode) (s : State) : Host.Outcome State Fault Refusal :=
  let w := f.ty.width
  let x := (orNull s.cur.a).low w
  vecNode (.vbcast f) f s (vecVal w ((List.range (512 / w)).map fun j => if nodeOn f j then x else 0))

/-- The lane that b names, modulo n (R158). -/
def laneIndex (f : CommonNode) (s : State) : Nat := (litOr f.l f.lit s.cur.b).toNat % 2 ^ 32 % (512 / f.ty.width)

/-- VEXT (R158). -/
def execVext (f : CommonNode) (s : State) : Host.Outcome State Fault Refusal :=
  let w := f.ty.width
  vecNode (.vext f) f s (f.ty.scalarVal (laneOf (orNull s.cur.a).wide.toNat w (laneIndex f s)))

/-- VINS (R158). -/
def execVins (f : CommonNode) (s : State) : Host.Outcome State Fault Refusal :=
  let w := f.ty.width
  vecNode (.vins f) f s (vecVal w (((orNull s.cur.a).lanes w).set (laneIndex f s) ((orNull s.cur.c).low w)))

/-- VSHUF (R158). -/
def execVshuf (f : CommonNode) (s : State) : Host.Outcome State Fault Refusal :=
  let w := f.ty.width
  let a := (orNull s.cur.a).lanes w
  let b := (orNull s.cur.b).lanes w
  vecNode (.vshuf f) f s (vecVal w ((a.zip b).zipIdx.map fun ((x, k), j) => if nodeOn f j then a.getD (k % (512 / w)) 0 else x))

/-! ### Reductions -/

/-- The identities of R159 for op codes 0 to 5. -/
def intIdentity (t : Ty) : Nat → Int
  | 1 => Ty.hi t | 2 => Ty.lo t | 3 => 2 ^ t.width - 1 | _ => 0
def floatIdentity (f : Fmt) : Nat → Nat
  | 0 => f.signBit true | 1 => f.infBits false | _ => f.infBits true

/-- An integer step, exact for add (R159). -/
def intStep (t : Ty) (op : Nat) (x y : Int) : Int :=
  match op with
  | 0 => x + y
  | 1 => min x y
  | 2 => max x y
  | 3 => (wrapTo t.width x &&& wrapTo t.width y : Nat)
  | 4 => (wrapTo t.width x ||| wrapTo t.width y : Nat)
  | _ => (wrapTo t.width x ^^^ wrapTo t.width y : Nat)

/-- A float step in a format (R159). -/
def floatStep (f : Fmt) (c : Fpcm) (mode : Rm) (op x y : Nat) : Res :=
  match op with
  | 0 => fpAdd f c mode x y
  | 1 => fpMinMax f c false x y
  | _ => fpMinMax f c true x y

/-- The format a float sum is kept in: f32 for f16 and bf16 (R159). -/
def sumFmt (t : Ty) : Fmt := if t = .f64 then Fmt.f64 else Fmt.f32

/-- f16 and bf16 values widened exactly; DENORM 01 reads subnormals as zero (R62, R159). -/
def widen (t : Ty) (c : Fpcm) (x : Nat) : Res :=
  if t.width = 16 then
    let (y, fl) := flushIn (Fmt.ofTy t) c x
    (fpToFp (Fmt.ofTy t) Fmt.f32 { c with denorm := 0, nanm := 1 } .rne y).or fl
  else ⟨x, 0⟩

/-- Round the sum to TY (R159). -/
def narrow (t : Ty) (c : Fpcm) (mode : Rm) (x : Nat) : Res :=
  if t.width = 16 then fpToFp Fmt.f32 (Fmt.ofTy t) c mode x else ⟨x, 0⟩

/-- One level of the pairwise tree (R68). -/
def treeLevel (op : Nat → Nat → Res) : List Nat → List Res
  | x :: y :: rest => op x y :: treeLevel op rest
  | [x] => [⟨x, 0⟩]
  | [] => []

/-- The pairwise tree of R68: each level halves the list. -/
def tree (op : Nat → Nat → Res) : Nat → List Nat → Res
  | 0, xs => ⟨xs.headD 0, 0⟩
  | fuel + 1, xs =>
    let rs := treeLevel op xs
    (tree op fuel (rs.map (·.bits))).or (rs.foldl (fun a r => a ||| r.flags) 0)

/-- Levels of a tree over the lanes. -/
def treeDepth (n : Nat) : Nat := Nat.log2 n

/-- VRED (R159). -/
def execVred (f : CommonNode) (s : State) : Host.Outcome State Fault Refusal :=
  let c := s.cur
  let m := s.fpcm c.ctx
  let mode := Rm.ofCode f.rm.toNat 0
  let op := f.sub.toNat
  let w := f.ty.width
  let xs := ((orNull c.a).lanes w).zipIdx
  let r : Res := if f.ty.isFloat then
      if op = 0 then
        let ws := xs.map fun (x, j) => if nodeOn f j then widen f.ty m x else ⟨floatIdentity (sumFmt f.ty) 0, 0⟩
        let t := tree (floatStep (sumFmt f.ty) m mode 0) (treeDepth (512 / w)) (ws.map (·.bits))
        (narrow f.ty m mode t.bits).or (t.flags ||| ws.foldl (fun a r => a ||| r.flags) 0)
      else
        let fmt := Fmt.ofTy f.ty
        tree (floatStep fmt m mode op) (treeDepth (512 / w)) (xs.map fun (x, j) => if nodeOn f j then x else floatIdentity fmt op)
    else
      let vals := xs.map fun (x, j) => if nodeOn f j then readInt f.ty x else intIdentity f.ty op
      let t := match vals with | [] => 0 | v :: rest => rest.foldl (intStep f.ty op) v
      reduceInt f.ty (f.sat && op = 0) t
  (computeFlags c f.toHdr (Instr.vred f).sig 4 (f.ty.scalarVal r.bits, r.flags)).next s

/-- The lanes of a scan: the running value, the output lanes in reverse, the flags. -/
def scan (on : Nat → Bool) (step : Int → Nat → Int × Nat) (out : Int → Nat × Nat) :
    List (Nat × Nat) → Int → List Nat → Nat → List Nat × Nat
  | [], _, acc, fl => (acc.reverse, fl)
  | (x, j) :: rest, r, acc, fl =>
    if on j then
      let (r', f1) := step r x
      let (y, f2) := out r'
      scan on step out rest r' (y :: acc) (fl ||| f1 ||| f2)
    else scan on step out rest r (x :: acc) fl

/-- VSCAN (R160): every step rounds or reduces (log 34). -/
def execVscan (f : CommonNode) (s : State) : Host.Outcome State Fault Refusal :=
  let c := s.cur
  let m := s.fpcm c.ctx
  let mode := Rm.ofCode f.rm.toNat 0
  let op := f.sub.toNat
  let w := f.ty.width
  let xs := ((orNull c.a).lanes w).zipIdx
  let (ys, fl) := if f.ty.isFloat then
      if op = 0 then
        scan (nodeOn f) (fun r x =>
            let u := widen f.ty m x
            let t := floatStep (sumFmt f.ty) m mode 0 r.toNat u.bits
            ((t.bits : Int), u.flags ||| t.flags))
          (fun r => let n := narrow f.ty m mode r.toNat; (n.bits, n.flags)) xs (floatIdentity (sumFmt f.ty) 0) [] 0
      else
        let fmt := Fmt.ofTy f.ty
        scan (nodeOn f) (fun r x => let t := floatStep fmt m mode op r.toNat x; ((t.bits : Int), t.flags))
          (fun r => (r.toNat, 0)) xs (floatIdentity fmt op) [] 0
    else
      scan (nodeOn f) (fun r x =>
          let t := reduceInt f.ty (f.sat && op = 0) (intStep f.ty op r (readInt f.ty x))
          (readInt f.ty t.bits, t.flags))
        (fun r => (wrapTo w r, 0)) xs (intIdentity f.ty op) [] 0
  (computeFlags c f.toHdr (Instr.vscan f).sig 4 (vecVal w ys, fl)).next s

/-- round(a * b + c * d), the first level of VDOT (R68); UNFUSED rounds each product first. -/
def dotPair (f : Fmt) (c : Fpcm) (mode : Rm) (a0 b0 c0 d0 : Nat) : Res :=
  if c.unfused then
    let p := fpMul f c mode a0 b0
    let q := fpMul f c mode c0 d0
    (fpAdd f { c with denorm := if c.denorm = 1 then 2 else c.denorm } mode p.bits q.bits).or (p.flags ||| q.flags)
  else
    let (a, fa) := flushIn f c a0
    let (b, fb) := flushIn f c b0
    let (x, fx) := flushIn f c c0
    let (y, fy) := flushIn f c d0
    let bad := fun (p : Prod) => if p = .invalid then fIV else 0
    let p := exactMul f c a b
    let q := exactMul f c x y
    (match p, q with
    | .nan, .nan => nanResult f c [a, b, x, y]
    | .nan, _ => nanResult f c [a, b]
    | _, .nan => nanResult f c [x, y]
    | .invalid, _ | _, .invalid => invalid f
    | .inf s, .inf t => if s = t then ⟨f.infBits s, 0⟩ else invalid f
    | .inf s, _ => ⟨f.infBits s, 0⟩
    | _, .inf t => ⟨f.infBits t, 0⟩
    | .exact s m e, .exact t n g => roundSum f mode c.flushOut s m e t n g).or (bad p ||| bad q ||| fa ||| fb ||| fx ||| fy)

/-- Pairs of lane pairs. -/
def dotLevel (op : Nat → Nat → Nat → Nat → Res) : List (Nat × Nat) → List Res
  | (a, b) :: (c, d) :: rest => op a b c d :: dotLevel op rest
  | _ => []

/-- The result type of VDOT (R161). -/
def dotTy (t : Ty) : Ty :=
  match t with
  | .i8 | .i16 => .i32
  | .n8 | .n16 => .n32
  | .f16 | .bf16 => .f32
  | t => t

/-- The flags of widening the factors of a product: with MULZ no IV when one of them is zero (R66). -/
def pairFlags (fmt : Fmt) (m : Fpcm) (x y : Res) : Nat :=
  let fl := x.flags ||| y.flags
  if m.mulz && (fmt.isZero x.bits || fmt.isZero y.bits) then fl - (fl &&& fIV) else fl

/-- VDOT (R161): a disabled lane contributes the identity, as the product of -0 and 1. -/
def execVdot (f : CommonNode) (s : State) : Host.Outcome State Fault Refusal :=
  let c := s.cur
  let m := s.fpcm c.ctx
  let mode := Rm.ofCode f.rm.toNat 0
  let w := f.ty.width
  let ps := ((orNull c.a).lanes w).zip ((orNull c.b).lanes w) |>.zipIdx
  let rt := dotTy f.ty
  let r : Res := if f.ty.isFloat then
      let fmt := sumFmt f.ty
      let one := fmt.bias * 2 ^ fmt.fbits
      let ws := ps.map fun ((x, y), j) =>
        if nodeOn f j then (widen f.ty m x, widen f.ty m y) else (⟨fmt.signBit true, 0⟩, ⟨one, 0⟩)
      let l1 := dotLevel (dotPair fmt m mode) (ws.map fun (x, y) => (x.bits, y.bits))
      let t := tree (floatStep fmt m mode 0) (treeDepth (512 / w) - 1) (l1.map (·.bits))
      t.or (l1.foldl (fun a r => a ||| r.flags) 0 ||| ws.foldl (fun a (x, y) => a ||| pairFlags fmt m x y) 0)
    else reduceInt rt f.sat (ps.foldl (fun a ((x, y), j) =>
      if nodeOn f j then a + readInt f.ty x * readInt f.ty y else a) 0)
  (computeFlags c f.toHdr (Instr.vdot f).sig 4 (rt.scalarVal r.bits, r.flags)).next s

/-! ### Packing and masks -/

/-- Selected lanes: enabled and nonzero in the selector (R158). -/
def selected (f : CommonNode) (s : State) : List Bool :=
  ((orNull s.cur.b).lanes f.ty.width).zipIdx.map fun (x, j) => nodeOn f j && x != 0

/-- VCMPR (R158): D0 the packed lanes, D1 their count. -/
def execVcmpr (f : CommonNode) (s : State) : Host.Outcome State Fault Refusal :=
  let c := s.cur
  let w := f.ty.width
  let xs := (((orNull c.a).lanes w).zip (selected f s)).filterMap fun (x, b) => if b then some x else none
  (node c f.toHdr (Instr.vcmpr f).sig 4 c.tag
    (emit2 c f.toHdr 4 c.tag (vecVal w xs) (.scalar (BitVec.ofNat 64 xs.length)))).next s

/-- Spread values over selected lanes in ascending order. -/
def spread : List Bool → List Nat → List Nat
  | [], _ => []
  | true :: bs, x :: xs => x :: spread bs xs
  | true :: bs, [] => 0 :: spread bs []
  | false :: bs, xs => 0 :: spread bs xs

/-- VEXPD (R158). -/
def execVexpd (f : CommonNode) (s : State) : Host.Outcome State Fault Refusal :=
  let w := f.ty.width
  vecNode (.vexpd f) f s (vecVal w (spread (selected f s) ((orNull s.cur.a).lanes w)))

/-- VMASK (R158): to bits or from bits. -/
def execVmask (f : CommonNode) (s : State) : Host.Outcome State Fault Refusal :=
  let w := f.ty.width
  let a := orNull s.cur.a
  let v := if f.sub = 0 then
      .scalar (BitVec.ofNat 64 (packLanes 1 ((a.lanes w).zipIdx.map fun (x, j) => if nodeOn f j && x != 0 then 1 else 0)))
    else vecVal w ((List.range (512 / w)).map fun j => if nodeOn f j && a.word.getLsbD j then 2 ^ w - 1 else 0)
  vecNode (.vmask f) f s v

/-- VCNT (R158). -/
def execVcnt (f : CommonNode) (s : State) : Host.Outcome State Fault Refusal :=
  let w := f.ty.width
  let n := (((orNull s.cur.a).lanes w).zipIdx.filter fun (x, j) => nodeOn f j && x != 0).length
  vecNode (.vcnt f) f s (.scalar (BitVec.ofNat 64 n))

end Sys2Proof.Machine
end

