-- ==== Sys2Proof/Machine/CopyEngine.lean ====
section
/-! DEFINITION. The copy engine: queue descriptors (R299, R300), channels (R301), the kinds of copy job (R303 to R306), MXD
hand-offs (R208, R296), status words and stamps (R307, R308). -/

namespace Sys2Proof.Machine

/-! ### Queue descriptors (R299, R300, R344) -/

def serviceKey (vd q : Nat) (launch : Bool) : Nat := 128 * vd + (if launch then 64 else 0) + q
def State.descriptor (s : State) (vd q : Nat) (launch : Bool) : Nat :=
  (if launch then (s.vd vd).lqbase else (s.vd vd).wqbase).toNat + 64 * q
def setService (k : Nat) (x : Service) : Cmd := .prim (.eng fun e => { e with services := e.services.set k x })
def stopService (k : Nat) : Cmd := .prim (.eng fun e => { e with services := e.services.mod k fun x => { x with stopped := true } })


/-- QUEUE_ENABLE (R299): the engine samples a descriptor whose ENABLE has become 1; one that is not valid is not put in
service, and a cleared ENABLE takes the queue out of service. -/
def execQueueEnable (vd q : Nat) (launch : Bool) (s : State) : Host.Outcome State Fault Refusal :=
  let key := serviceKey vd q launch
  let a := s.descriptor vd q launch
  let look := if launch then after 0 (.launchTakeUp vd q) else after 0 (.slotTakeUp vd q)
  Cmd.next (if (s.engError 0 vd a 64 .read).isSome then .skip
    else
      let d := (s.engBytes 0 vd a 64 0 none).1
      if field d 31 1 % 2 = 0 then .prim (.eng fun e => { e with services := e.services.del key })
      else match s.eng.services.get? key with
        | some _ => look
        | none =>
          let base := field d 0 8
          let slots := field d 24 4
          let ok := slotsOk slots && base % 64 == 0
          .seq (setService key ⟨BitVec.ofNat 64 base, slots, field d 28 2, field d 30 1, false, !ok⟩)
            (if ok then look else supervisorFault vd (field d 30 1 % 4) causeQueuefmt a)) s

/-- Jobs that hold a channel of a die (R301). -/
def State.channelsUsed (s : State) (die : Nat) : Nat :=
  (s.eng.jobs.filter fun (_, j) => j.die == die && (match j.kind, j.state with
    | .vdctl _, _ | .launch, _ | _, .waiting | _, .done => false
    | .copy, _ | .handoff _ _, _ => true
    | _, .running => true
    | _, _ => false)).length

/-- What a queue's head slot holds (R300): nothing to do, an access that fails, or the slot's address and bytes. -/
inductive Head where
  | none
  | fails (cause addr : Nat)
  | locked
  | slot (va ridx : Nat) (bytes : List Byte)
deriving DecidableEq, Repr

/-- The head slot of a queue in service. -/
def State.headSlot (s : State) (vd q : Nat) (launch : Bool) (x : Service) : Head :=
  let a := s.descriptor vd q launch
  let err := fun (va n : Nat) => match s.engError x.die vd va n .read with
    | some e => some e
    | none => s.engError x.die vd va n .write
  match err a 64 with
  | some (c, _, at_) => .fails c at_
  | none =>
    if s.engWaits x.die vd a 64 (.store (s.hzn x.die)) then .locked
    else
      let widx := s.engNat x.die vd (a + 8) 8
      let ridx := s.engNat x.die vd (a + 16) 8
      if widx ≤ ridx then .none
      else
        let va := x.base.toNat + 64 * (ridx % x.slots)
        match err va 64 with
        | some (c, _, at_) => .fails c at_
        | none => if s.engWaits x.die vd va 64 (.store (s.hzn x.die)) then .locked else .slot va ridx (s.engBytes x.die vd va 64 0 none).1

/-- RIDX moves past a slot. -/
def passSlot (vd q : Nat) (launch : Bool) (die ridx : Nat) : Cmd := .get fun s =>
  engWrite die vd (s.descriptor vd q launch + 16) (leBytes (ridx + 1) 8) (s.hzn die) fun _ => .skip
/-- VALID of a slot taken up becomes zero. -/
def clearValid (vd die va : Nat) : Cmd := .get fun s => engWrite die vd (va + 63) [0] (s.hzn die) fun _ => .skip

/-- Cycles of a home read of an address from a die (R188). -/
def State.homeRead (s : State) (die vd va : Nat) : Nat := match s.engEntry die vd va .any with
  | .ok e => s.readCycles die (e.phys (BitVec.ofNat 64 va))
  | .error _ => 32

/-- The slowest of the records that a packet's check reads (R301). -/
def State.checkCycles (s : State) (j : Job) : Nat :=
  let addrs := match j.kind with
    | .handoff _ _ => [j.area.toNat]
    | _ => [8, 16, 40].map fun o => field j.packet o 8
  (addrs.map fun a => if a = 0 || a % 64 != 0 then 0 else s.homeRead j.die j.vd a).foldl max 0

/-- An earlier job of the VD whose stamp has not been written holds a job back (R286): its extents clash, or are not known yet. -/
def State.jobHeld (s : State) (id : Nat) (j : Job) : Bool :=
  s.eng.jobs.any fun (k, x) => k < id && x.vd == j.vd && (x.state == .waiting || x.state == .checking || clash x.extents j.extents)

/-- The accepted jobs that wait only for a channel of a die (R301): hand-offs, and context jobs that no earlier job holds back. -/
def State.jobsWaiting (s : State) (die : Nat) : List (Nat × Job) := s.eng.jobs.filter fun (k, j) => j.die == die &&
  (j.state == .waiting || (j.state == .blocked && (match j.kind with | .snap | .ctxsv | .ctxld => true | _ => false) && !s.jobHeld k j))

/-- Whether the engine can look at a queue: its VD is Active, no fault has stopped it (R299, R300, R308). -/
def State.serves (s : State) (vd : Nat) (x : Service) : Bool :=
  (s.vd vd).state == 2 && s.svc.ready.getLsbD (32 + x.die) && !x.stopped && !x.bad && decide (x.die < 4)

/-- Whether a queue's head slot asks for something: it is valid, or cannot be read. -/
def State.headReady (s : State) (vd q : Nat) (x : Service) : Bool :=
  s.serves vd x && match s.headSlot vd q false x with
    | .none | .locked => false
    | .fails _ _ => true
    | .slot _ _ bs => field bs 63 1 != 0

/-- The key under which the VD served last on a die is kept, beside each VD's queue. -/
def dieTurn (die : Nat) : Nat := 256 + die

/-- The queue that a die's engine serves next (R286, R301): the VDs in turn after the one served last, in each its queues in
turn after the one taken up last. -/
def State.nextQueue (s : State) (die : Nat) : Option (Nat × Nat) :=
  let rank := fun (last k : Nat) => (k + 63 - last) % 64
  let ready := (s.eng.services.filter fun (k, x) => k % 128 < 64 && x.die == die && s.headReady (k / 128) (k % 128) x).map (·.1)
  (ready.foldl (fun (best : Option Nat) k =>
    let key := fun (k : Nat) => 64 * rank (s.eng.turn.getD (dieTurn die) 63) (k / 128) + rank (s.eng.turn.getD (k / 128) 63) (k % 128)
    match best with | none => some k | some b => if key k < key b then some k else best) none).map fun k => (k / 128, k % 128)

/-- The engine takes up the slot at RIDX of a queue whose turn it is (R300, R301). -/
def takeUp (vd q : Nat) (x : Service) : Cmd := .get fun s =>
  let die := x.die
  match s.headSlot vd q false x with
  | .none | .locked => .skip
  | .fails c a => .seq (stopService (serviceKey vd q false)) (supervisorFault vd die c a)
  | .slot va ridx bs =>
    let pass := Cmd.seq (passSlot vd q false die ridx)
      (.prim (.eng fun e => { e with turn := (e.turn.set vd q).set (dieTurn die) vd }))
    match field bs 63 1 with
    | 0 => .skip
    | 1 => withSerial fun n =>
        let j := { Job.blank die vd x.ctx with
          queue := some q, state := .checking, packet := bs, stamp := BitVec.ofNat 64 (field bs 24 8),
          sval := BitVec.ofNat 64 (field bs 32 8), irq := (field bs 1 1).testBit 1, pts := s.wtsAt die vd (va + 63) }
        .all [clearValid vd die va, pass, setJob n j, after (s.checkCycles j) (.jobChecked n)]
    | 2 => pass
    | _ => .seq pass (supervisorFault vd die causeQueuefmt va)

/-- SLOT_TAKE_UP (R300, R301, R308): a queue is looked at. A free channel that no accepted job waits for takes the slot of the
queue whose turn it is; a slot that waits at home is looked at again. -/
def execSlotTakeUp (vd q : Nat) (s : State) : Host.Outcome State Fault Refusal :=
  Cmd.next (match s.eng.services.get? (serviceKey vd q false) with
    | none => .skip
    | some x =>
      let locked := match s.headSlot vd q false x with | .locked => true | _ => false
      if !s.serves vd x then .skip
      else if locked then after 8 (.slotTakeUp vd q)
      else if 16 ≤ s.channelsUsed x.die || !(s.jobsWaiting x.die).isEmpty then .skip
      else match s.nextQueue x.die with
        | none => .skip
        | some (v, k) => if v = vd && k = q then .seq (takeUp vd q x) (after 1 (.channelAssign x.die))
          else .when (!s.isDue (.slotTakeUp v k)) (after 0 (.slotTakeUp v k))) s

/-- CHANNEL_ASSIGN (R301): a free channel goes to the oldest accepted job that waits for one, else to the queue whose turn it
is. -/
def execChannelAssign (die : Nat) (s : State) : Host.Outcome State Fault Refusal :=
  Cmd.next (if 16 ≤ s.channelsUsed die then .skip
    else match s.jobsWaiting die with
      | (id, j) :: rest => .all [
          if j.state = .waiting then .seq (modJob id fun j => { j with state := .checking }) (after (s.checkCycles j) (.jobChecked id))
          else after 0 (.jobUnblock id),
          .when (!rest.isEmpty) (after 1 (.channelAssign die))]
      | [] => Cmd.opt (s.nextQueue die) fun (v, k) => after 0 (.slotTakeUp v k)) s

/-! ### Checking (R212, R302 to R308) -/

/-- The field rules of a copy packet beside those of R211 (R212, R304). -/
def packetFieldsOk (p : List Byte) : Bool :=
  let kind := field p 0 1
  let rop := field p 2 1
  let param := field p 48 8
  (if kind = 3 then rop ≤ 2 else rop == 0) && (kind == 2 || field p 4 4 == 0) &&
    ((kind != 4 && kind != 5) || field p 8 8 == 0) && (kind != 5 || field p 16 8 == 0) &&
    (match kind with
     | 2 => param % 65536 != 0 && param / 65536 % 65536 != 0 && param / 2 ^ 32 == 0
     | 4 => true
     | _ => param == 0)

/-- The outcome of a job's checks: a STATUS with ADDR and cause, or what the job needs. -/
inductive Checked where
  | fails (st addr cause : Nat)
  | ok (src dst : Option Tensor) (extents : List Extent) (declared : Bool)
deriving DecidableEq, Repr

/-- Read a record at home. -/
def State.recordBytes (s : State) (j : Job) (a n : Nat) : Except (Nat × Nat) (List Byte) :=
  match s.engError j.die j.vd a n .read with
  | some (c, _, at_) => .error (c, at_)
  | none => .ok (s.engBytes j.die j.vd a n j.pts none).1

/-- A shape record of a job, or the check that fails. -/
def State.shapeAt (s : State) (j : Job) (a : Nat) : Except (Nat × Nat × Nat) Tensor :=
  if a % 64 != 0 then .error (1, 0, 0)
  else match s.recordBytes j a 64 with
    | .error (c, at_) => .error (3, at_, c)
    | .ok bs => match readTensor a bs with | some t => .ok t | none => .error (1, 0, 0)

/-- Kinds of REDUCE (R304). -/
def reducible (t : Ty) : Bool := [Ty.i32, .n32, .i64, .n64, .f16, .bf16, .f32, .f64].contains t

/-- Input and output queue 0 of an actor (R305): the lowest set bit of its masks. -/
def firstQueue (m : W64) : Option Nat := (List.range 64).find? fun k => m.getLsbD k

/-- The actor, its input queue 0 and its output queue 0, for a TRANSFORM. -/
def State.transformActor (s : State) (j : Job) : Option (Nat × Nat) :=
  match s.jobCtx j with
  | none => none
  | some c => match c.image.actors[field j.packet 4 4]? with
    | none => none
    | some a => match firstQueue a.inMask, firstQueue a.outMask with
      | some i, some o =>
        if ((c.image.queues[i]?).map (·.slot)) == some 64 && ((c.image.queues[o]?).map (·.slot)) == some 64 then some (i, o) else none
      | _, _ => none

def inputTokens (t : Tensor) : Nat := (t.cells + t.perToken - 1) / t.perToken

/-- The requirements of a KIND on its records (R304, R305), and clipping (R303). -/
def State.kindFails (s : State) (j : Job) (src dst : Option Tensor) : Option Nat :=
  let p := j.packet
  let strict := (match src with | some t => t.strict && !t.within | none => false) ||
    (match dst with | some t => t.strict && !t.within | none => false)
  let late := if strict then some 2 else none
  match field p 0 1, src, dst with
  | 1, some a, some b => if a.fmt != b.fmt || !a.sameBox b then some 1 else late
  | 2, some a, some b =>
    let c := field p 48 2
    let n := inputTokens a
    if (s.transformActor j).isNone then some 1
    else if n % c != 0 || b.cells != n / c * field p 50 2 * b.perToken then some 4 else late
  | 3, some a, some b =>
    if b.base < 2 ^ 63 || a.fmt != b.fmt || !reducible a.fmt || a.count % b.count != 0 then some 1 else late
  | _, _, _ => late

/-- The checks of a copy packet (R308). -/
def State.checkCopy (s : State) (j : Job) : Checked :=
  let p := j.packet
  let kind := field p 0 1
  let foot := field p 40 8
  if !copyPacketOk p || !packetFieldsOk p then .fails 1 0 0
  else
    let shape := fun (need : Bool) (off : Nat) => if need then (s.shapeAt j (field p off 8)).map some else .ok none
    match shape (kind ≤ 3) 8, shape (kind ≤ 4) 16 with
    | .error (st, a, c), _ | .ok _, .error (st, a, c) => .fails st a c
    | .ok src, .ok dst => match s.kindFails j src dst with
      | some st => .fails st 0 0
      | none =>
        let spans := fun (t : Option Tensor) (w : Bool) => match t with | some x => x.spans w | none => []
        if foot = 0 then .ok src dst (spans src false ++ spans dst true) false
        else match s.recordBytes j foot 128 with
          | .error (c, a) => .fails 3 a c
          | .ok bs => .ok src dst (readFootprint bs) true

/-- The checks of a hand-off (R208, R296): the record's type is that of the drain, and its box takes the tile's cells. -/
def State.checkHandoff (s : State) (j : Job) (e : MxEntry) : Checked :=
  match s.shapeAt j j.area.toNat with
  | .error (st, a, c) => .fails st a c
  | .ok t =>
    let cells := e.m * (if e.ty.isBlock then 6 else 128)
    if t.fmt != e.ty || t.cells != cells then .fails 1 0 0
    else if t.strict && !t.within then .fails 2 0 0
    else .ok none (some t) (t.spans true) false

def State.handoffEntry (s : State) (j : Job) : Option MxEntry := match j.kind with
  | .handoff h e => (s.half h).entry? e | _ => none

/-- JOB_CHECKED (R301, R308): the records have arrived and are checked. -/
def execJobChecked (job : Nat) (s : State) : Host.Outcome State Fault Refusal :=
  Cmd.next (match s.job? job with
    | none => .skip
    | some j =>
      if j.state != .checking then .skip
      else
        let r := match j.kind with
          | .handoff _ _ => match s.handoffEntry j with | some e => s.checkHandoff j e | none => .fails 1 0 0
          | _ => s.checkCopy j
        match r with
        | .fails st a c => .all [
            failJob job st a c,
            modJob job fun x => { x with state := .finishing },
            after 0 (.jobStamp job)]
        | .ok src dst ext decl => .all [
            modJob job fun x => { x with state := .blocked, src := src, dst := dst, extents := ext, declared := decl },
            after 0 (.jobUnblock job)]) s

/-! ### Ordering (R286) -/

/-- Jobs and launches of a VD that wait look again (R286, R346). -/
def wakeJobs (vd : Nat) : Cmd := .get fun s => .all [
  Cmd.each (s.eng.jobs.filter fun (_, j) => j.vd == vd && j.state == .blocked) fun (id, j) =>
    (match j.kind with | .launch => .skip | _ => after 0 (.jobUnblock id)),
  Cmd.each (s.ten.launches.filter fun (_, l) => l.vd == vd && l.state == .blocked) fun (id, _) => after 0 (.launchUnblock id)]

/-! ### Running (R301, R303 to R306) -/

/-- Cycles until the first source read of a job has arrived, and one more (R301). -/
def State.firstWrite (s : State) (j : Job) : Nat := match j.src with
  | none => 1
  | some t => match t.dataSpot 0 with
    | .dram a => 1 + s.homeRead j.die j.vd a
    | .vault d _ => 1 + (5 - s.now % 4) % 4 + (if d = j.die then 0 else 40)

/-- Whether a job reads or writes a vault, and so moves in C slots (R258, R287). -/
def Job.inVault (j : Job) : Bool := (j.src.any (·.inVault)) || (j.dst.any (·.inVault))

/-- A copy job or a hand-off starts running (R308). -/
def startCopy (id : Nat) (j : Job) : Cmd := .get fun s =>
  let out := match s.transformActor j with | some (_, o) => 64 + o | none => 0
  .seq (modJob id fun x => { x with
      state := .running
      expected := match j.dst with | some t => t.cells / t.perToken | none => 0
      target := if j.kind == .copy && field j.packet 0 1 = 2 then out else x.target })
    (after (s.firstWrite j) (.jobPayloadDone id))

/-- A job ends its payload: status word and stamp follow. -/
def endPayload (id : Nat) : Cmd := .seq (modJob id fun x => { x with state := .finishing }) (after 0 (.jobStamp id))

/-- COPY (R304): cells move one at a time in box order (log 51). -/
def moveCopy (id : Nat) (a b : Tensor) (cells : List Nat) : Cmd :=
  Cmd.each cells fun n => onJob id fun _ _ => readCell id a n fun x => writeCell id b n x

/-- FILL (R304). -/
def moveFill (id : Nat) (b : Tensor) (param : Nat) (cells : List Nat) : Cmd :=
  Cmd.each cells fun n => writeCell id b n (b.cellOf (param % 2 ^ b.fmt.width), [])

/-- One fold of REDUCE (R306). -/
def reduceStep (t : Ty) (rop x y : Nat) : Res :=
  if t.isFloat then floatStep (Fmt.ofTy t) Fpcm.ieee .rne rop x y
  else ⟨wrapTo t.width (intStep t rop (readInt t x) (readInt t y)), 0⟩

/-- REDUCE (R306): source elements in ascending order, folded into the destination at the vault port. -/
def moveReduce (id : Nat) (a b : Tensor) (rop : Nat) (cells : List Nat) : Cmd :=
  Cmd.each cells fun n =>
    let e := n % b.count
    onJob id fun _ _ => readCell id a n fun x => .when (b.inside e) (tryRead id (b.dataSpot e) b.cellBytes fun y =>
      let r := reduceStep a.fmt rop (leNat y) (leNat x.1)
      .seq (modJob id fun j => { j with flags := j.flags ||| r.flags }) (tryWrite id (b.dataSpot e) (leBytes r.bits b.cellBytes)))

/-- A hand-off (R208): the tile's cells go into the box in order, or are added to it. -/
def moveHandoff (id : Nat) (b : Tensor) (add : Bool) (rows : List (Nat × List Byte)) (cells : List Nat) : Cmd :=
  let perRow := if b.fmt.isBlock then 6 else 128
  Cmd.each cells fun n =>
    let row := ((rows[n / perRow]?).map (·.2)).getD []
    let k := n % perRow
    let data := (row.drop (k * b.cellBytes)).take b.cellBytes
    let scale := if b.fmt.isBlock then (row.drop (perRow * b.cellBytes + 2 * k)).take 2 else []
    if add then onJob id fun _ _ => .when (b.inside n) (tryRead id (b.dataSpot n) 4 fun y =>
      let r := fpAdd .f32 Fpcm.ieee .rne (leNat y) (leNat data)
      .seq (modJob id fun j => { j with flags := j.flags ||| r.flags }) (tryWrite id (b.dataSpot n) (leBytes r.bits 4)))
    else writeCell id b n (data, scale)

/-- The next input token of a TRANSFORM is read and reserves its slot (R305, R312). -/
def sendToken (id : Nat) (a : Tensor) (q : Nat) : Cmd := .get fun s => match s.job? id with
  | none => .skip
  | some j =>
    let cells := (List.range a.perToken).map fun k => j.sent * a.perToken + k
    let rec collect : List Nat → List (List Byte × List Byte) → Cmd
      | [], acc => withSerial fun n => .all [
          setResv n ⟨none, j.ctx, q, 0xFFFFFFFFFFFFFFFF, .vector (a.token acc.reverse), none, none, id⟩,
          modJob id fun x => { x with sent := x.sent + 1 },
          after 0 (.deviceQueueAppend n)]
      | c :: cs, acc => if a.cells ≤ c then collect cs (a.fillCell :: acc) else readCell id a c fun x => collect cs (x :: acc)
    collect cells []

/-- The start of the 64-byte unit that a place lies in. -/
def Spot.unit : Spot → Spot
  | .dram a => .dram (a / 64 * 64)
  | .vault d a => .vault d (a / 64 * 64)

/-- The 64-byte units in which the cells of a source lie, data and scales, in the order of the cells (R425 KIND 4). -/
def Tensor.units (t : Tensor) (cells : List Nat) : List Spot :=
  ((cells.filter fun n => decide (n < t.cells) && t.inside n).flatMap fun n =>
    (t.dataSpot n).unit :: (if t.fmt.isBlock then [(t.scaleSpot n).unit] else [])).eraseDups

/-- A copy job's source units are captured (R425 KIND 4); a job belongs to no region. -/
def captureUnits (id : Nat) (units : List Spot) : Cmd := Cmd.each units fun p => onJob id fun s j =>
  .when ((s.spotFails { j with declared := false } p 64 false).isNone)
    (capture j.ctx ⟨4, 0xFFFF, 0, BitVec.ofNat 64 p.addr, (s.spotRead j p 64).1⟩)

/-- The recorded contents of units, in order, and the records that remain; none when the ring lacks one (R426). -/
def takeUnits : List CapRec → List Nat → Option (List (Nat × List Byte) × List CapRec)
  | rs, [] => some ([], rs)
  | rs, a :: more => match rs.find? fun r => r.kind == 4 && r.tag.toNat == a with
    | none => none
    | some r => (takeUnits (rs.erase r) more).map fun (got, rest) => ((a, r.payload) :: got, rest)

/-- A copy job's reads of source cells begin: their units are captured, or in replay come from the ring, which may hold the job
back (R425, R426). -/
def withUnits (id : Nat) (j : Job) (units : List Spot) (again k : Cmd) : Cmd := .get fun s =>
  match s.svc.replays.get? j.ctx with
  | some rs => match takeUnits rs (units.map (·.addr)) with
    | none => again
    | some (got, rest) => .all [
        .prim (.svc fun v => { v with replays := v.replays.set j.ctx rest }),
        modJob id fun x => { x with rows := got },
        k]
  | none => .seq (captureUnits id units) k

/-- The next cells of a payload of `total`, at most `n`, moved by `move`; the payload ends with the last, or with a failure. -/
def payloadStep (id total n : Nat) (move : List Nat → Cmd) : Cmd := .get fun s => match s.job? id with
  | none => .skip
  | some j => .seq (move ((List.range n).filterMap fun k => if j.got + k < total then some (j.got + k) else none)) (.get fun t =>
      match t.job? id with
      | none => .skip
      | some x => if x.status != 0 || total ≤ x.got + n then endPayload id
        else .seq (modJob id fun x => { x with got := x.got + n }) (after 1 (.jobPayloadDone id)))

/-- JOB_PAYLOAD_DONE (R301, R303 to R306, R308, R371): a cycle of a Running job's channel, on credits of its VD; with a vault it is
one of C slots (R258). It moves up to 64 bytes, until the payload has performed, or a fault, a poison or a footprint breach
ends it. A TRANSFORM sends one token at a time. -/
def execJobPayloadDone (job : Nat) (s : State) : Host.Outcome State Fault Refusal :=
  Cmd.next (match s.job? job with
    | none => .skip
    | some j =>
      let arb := engineArbiter j.die
      let again := after 1 (.jobPayloadDone job)
      let kind := field j.packet 0 1
      let skip := match j.src with | some a => (field j.packet 1 1).testBit 0 && a.outside | none => false
      let n := match j.dst, j.src with | some b, _ => b.perCycle | none, some a => a.perCycle | none, none => 1
      let reads := j.cycle.1
      let writes := j.cycle.2
      let readsDst := match j.kind with | .handoff _ _ => true | _ => kind == 3
      let waits := (j.src.any fun a => s.cellsWait j a false reads) ||
        (j.dst.any fun b => s.cellsWait j b true writes || (readsDst && s.cellsWait j b false writes))
      if j.state != .running then .skip
      else if skip then endPayload job
      else if j.inVault && cSlotWait s.now != 0 then after (cSlotWait s.now) (.jobPayloadDone job)
      else if waits then again
      else gate j.vd ((arb, 1) :: s.payloadArbiters j) (.jobPayloadDone job) (match j.kind, kind, j.src, j.dst with
        | .handoff _ _, _, _, some b =>
          let add := match s.handoffEntry j with | some e => natBits e.ctrl.toNat 21 20 == 2 | none => false
          payloadStep job b.cells n (moveHandoff job b add j.rows)
        | _, 1, some a, some b => withUnits job j (a.units reads) again (payloadStep job a.cells n (moveCopy job a b))
        | _, 2, some a, some _ =>
          if j.status != 0 || j.got = j.expected then endPayload job
          else if j.sent < inputTokens a && !(s.run.reservations.any fun (_, r) => r.origin == job) then
            withUnits job j (a.units reads) again
              (.seq (Cmd.opt (s.transformActor j) fun (q, _) => sendToken job a q) (.get fun t => match t.job? job with | some x => .when (x.status != 0) (endPayload job) | none => .skip))
          else .skip
        | _, 3, some a, some b =>
          withUnits job j (a.units reads) again (payloadStep job a.count n (moveReduce job a b (field j.packet 2 1)))
        | _, 4, _, some b => payloadStep job b.cells n (moveFill job b (field j.packet 48 8))
        | _, _, _, _ => endPayload job)) s

/-- ENGINE_QUEUE_TAKE_UP (R305): the oldest running TRANSFORM of the engine queue takes the token at its head into the next
64 bytes of its destination box. -/
def execEngineQueueTakeUp (job : Nat) (s : State) : Host.Outcome State Fault Refusal :=
  Cmd.next (match s.job? job with
    | none => .skip
    | some j =>
      let q := j.target - 64
      let same := s.eng.jobs.filter fun (_, x) => x.ctx == j.ctx && x.state == .running && x.target == j.target && x.kind == .copy
      let taker := match same.find? fun (_, x) => x.got < x.expected with | some x => some x | none => same.head?
      match s.qinst j.ctx q none, taker, j.dst with
      | some i, some (k, x), some b =>
        if j.state != .running || j.target < 64 || k != job || !i.ready 1 then
          .when (j.state == .running && 64 ≤ j.target && k != job && i.ready 1) (after 0 (.engineQueueTakeUp k))
        else if b.inVault && cSlotWait s.now != 0 then after (cSlotWait s.now) (.engineQueueTakeUp job)
        else
          let v := (i.slot (i.head % i.depth)).val?.getD (.null true)
          let cells := (List.range b.perToken).map (x.got * b.perToken + ·)
          let put := fun (w : W512) => Cmd.each (List.range b.perToken) fun m =>
            onJob job fun _ _ => writeCell job b (x.got * b.perToken + m) (b.ofToken w m)
          gate j.vd (s.spotArbiters j true (b.spots cells)) (.engineQueueTakeUp job) (.all [
            modQinst j.ctx q none fun i => i.advance 1,
            grantWaiting j.ctx q none i.depth,
            (if x.expected ≤ x.got then failJob job 4 0 0
             else match v with
              | .null _ => .skip
              | .poison o => modJob job fun y => if y.status != 0 then y else { y with status := 5, vala := o }
              | v => put v.wide),
            modJob job fun y => { y with got := min (y.got + 1) y.expected },
            .get fun t => match t.job? job with
              | some y => .when (y.status != 0 || y.got = y.expected) (after 1 (.jobPayloadDone job))
              | none => .skip,
            .get fun t => match t.qinst j.ctx q none with
              | some i => .when (i.ready 1) (after 1 (.engineQueueTakeUp job))
              | none => .skip])
      | _, _, _ => .skip) s

/-! ### Status and stamp (R307, R308, R439) -/

/-- JOB_STAMP (R307): status word, stamp, DONE; a nonzero STATUS writes a record. A hand-off writes no status word and lets
its MXD reply, which makes the one record of the request (R202, R210). Jobs that waited for it look again. -/
def execJobStamp (job : Nat) (s : State) : Host.Outcome State Fault Refusal :=
  Cmd.next (match s.job? job with
    | none => .skip
    | some j =>
      let handoff := match j.kind with | .handoff h e => some (h, e) | _ => none
      let word := if handoff.isSome then none else some (j.status + j.flags % 128 * 2 ^ 8 + j.bytes % 2 ^ 48 * 2 ^ 16)
      let done := match j.queue with | some q => s.descriptor j.vd q false + 32 | none => 0
      let fail := fun (cause a : Nat) => engFault j.ctx j.die cause a 0
      if j.state != .finishing then .skip
      else if s.stampWaits j.die j.vd j.stamp.toNat word.isSome j.pts ||
          (j.queue.isSome && s.engWaits j.die j.vd done 8 (.store j.pts)) then after 1 (.jobStamp job)
      else .all [
        .when (j.status != 0 && handoff.isNone) (.get fun t => writeRecord
          { t.engineRecord j.ctx j.die (if j.status = 1 then causeQueuefmt else causeEngine) j.addr j.status with
            vd := j.vd, vala := j.vala, valb := j.valb }),
        writeStamp j.die j.vd j.stamp.toNat word j.sval.toNat j.pts fail (.when j.irq (sendInterrupt j.vd 1)),
        .when (j.queue.isSome) (.get fun t => .when ((t.engError j.die j.vd done 8 .write).isNone)
          (engWrite j.die j.vd done (leBytes (t.engNat j.die j.vd done 8 + 1) 8) j.pts fun _ => .skip)),
        count j.die j.vd 0x61 1,
        dropJob job,
        Cmd.opt handoff fun (h, e) => .get fun t => match (t.half h).entry? e with
          | none => .skip
          | some x => .all [
              modEntry h e fun x => { x with status := j.status, flags := x.flags ||| j.flags },
              (match t.op? x.memop with | some o => raisePts o j.pts | none => .skip),
              after 0 (.mxReply h e)],
        wakeJobs j.vd,
        after 0 (.channelAssign j.die)]) s

end Sys2Proof.Machine
end

