-- ==== Sys2Proof/Machine/Collective.lean ====
section
/-! DEFINITION. Groups and collectives in flight (R213 to R217, R309, R310), and the Drawbar links that carry them to other
packages (R401 to R404). -/

namespace Sys2Proof.Machine

/-! ### Drawbar ports (R402, R403) -/

def DbPort.empty : DbPort := ⟨0, 0, [], [], [], 0, none, none⟩
def State.port (s : State) (p : Nat) : DbPort := s.svc.ports.getD p DbPort.empty
def modPort (p : Nat) (f : DbPort → DbPort) : Cmd :=
  .prim (.svc fun v => { v with ports := v.ports.set p (f (v.ports.getD p DbPort.empty)) })

/-- A drop is counted in a LINK block (R403, R408). -/
def countDrop (port : Nat) : Cmd := .prim (.svc fun v => { v with
  drops := v.drops.modify (Config.linkOfPort port % 2) fun n => (n + 1) % 2 ^ 64 })

/-- A flit but for its SEQ and CRC (R402): the 252 bytes with SEQ zero. -/
def flitBody (dpkg spkg ddie sdie kind slot gkey ofs : Nat) (data : List Byte) : List Byte :=
  leBytes dpkg 2 ++ leBytes spkg 2 ++ leBytes (ddie % 4 + 4 * (sdie % 4) + 16 * (kind % 16)) 1 ++ leBytes slot 1 ++
    leBytes 0 2 ++ leBytes gkey 4 ++ leBytes ofs 4 ++ (data ++ List.replicate (224 - data.length) 0).take 224 ++ List.replicate 12 0

/-- The 256 bytes of a flit with its SEQ (R402). -/
def flitBytes (seq : Nat) (body : List Byte) : List Byte :=
  let b := body.take 6 ++ leBytes seq 2 ++ (body.drop 8).take 244
  b ++ leBytes (crc32c b).toNat 4

/-- The ports of a package's mask (R403). -/
def State.routePorts (s : State) (dpkg : Nat) : List Nat := (List.range 8).filter fun p => (s.svc.dbroute.getD dpkg 0).testBit p
/-- Whether a port carries flits: ready (R408) and not down. -/
def State.portUp (s : State) (p : Nat) : Bool := s.svc.ready.getLsbD (46 + p) && (s.port p).down.isNone

/-- Put a flit on a port: it takes the next SEQ and is kept for replay (R403). -/
def putFlitNow (p : Nat) (body : List Byte) : Cmd := .get fun s =>
  let bs := flitBytes (s.port p).seq body
  .all [
    modPort p fun x => { x with
      seq := (x.seq + 1) % 65536
      kept := ((x.kept ++ [(x.seq, bs)]).reverse.take 512).reverse
      sent := x.sent ++ [bs]
      lastAck := if x.kept.isEmpty then s.now else x.lastAck },
    .when (!s.isDue (.portDown p)) (after Config.linkTimeout (.portDown p))]

/-- A flit of four beats goes on a port when its VD holds a credit there, and behind the VD's flits that wait for one (R371, R403). -/
def putFlit (p vd : Nat) (body : List Byte) : Cmd := .get fun s =>
  let behind := (s.port p).waiting.any fun (v, _) => v == vd
  if behind || !s.hasCredit (drawbarArbiter p true) vd then .seq (markWaited (drawbarArbiter p true) vd)
    (modPort p fun x => { x with waiting := x.waiting ++ [(vd, body)] })
  else .seq (spend (drawbarArbiter p true) vd 4) (putFlitNow p body)

/-- After a refill the flits that wait at a port go on in their order, as far as the credits reach (R373, R403). -/
def drainPort (p : Nat) : Cmd := .get fun s => .seq
  (modPort p fun x => { x with waiting := [] })
  (Cmd.each (s.port p).waiting fun (vd, body) => putFlit p vd body)

/-- Send a flit on its channel (R403): one port of the mask that is up, by the hash; none is sent while none is up. -/
def sendFlit (vd sdie dpkg ddie kind slot gkey ofs : Nat) (data : List Byte) : Cmd := .get fun s =>
  let ports := (s.routePorts dpkg).filter s.portUp
  let p := ports.getD (Config.channelHash sdie dpkg ddie slot gkey % ports.length) 0
  .when (!ports.isEmpty)
    (putFlit p vd (flitBody dpkg s.svc.pkgid ddie sdie kind slot gkey ofs data))

/-! ### Members and coordinator -/

/-- The key of a member of this package by rank. -/
def State.peer (s : State) (g : Group) (rank : Nat) : Option Nat := ((s.groupPeers g).find? fun (r, _) => r == rank).map (·.2)

/-- Send a report or a decision to a member of another package (R404): its kind, the rank it is for, and what it says. Both use
one slot number, by which the receiver matches it (log 117). -/
def sendAway (gk : Nat) (g : Group) (rank kind : Nat) (vs : List Nat) : Cmd := .get fun s =>
  let (pkg, die, _) := memberAt g.list rank
  sendFlit (s.vdOfCtx (groupCtx gk)) (groupDie gk) pkg die 2 (groupSlot gk) (g.key.toNat % 2 ^ 32) 0 (Config.reportData (kind :: rank :: vs))

/-- Tell the members of other packages of a decision (R404). -/
def decideAway (gk : Nat) (g : Group) (kind : Nat) (vs : List Nat) : Cmd := .get fun s =>
  Cmd.each ((members g.list).zipIdx.filter fun ((p, _, _), _) => !s.isHere p) fun (_, r) => sendAway gk g r kind vs

/-- What a member says of itself when it declares: rank, key, count and a check of its list. -/
def Group.says (g : Group) : List Nat := [g.rank, g.key.toNat, g.count, (crc32c g.list).toNat]

/-! ### GRP (R213, R309) -/

/-- A GRP ends with a status: the slot is as it was, or intact. -/
def endGrp (gk st : Nat) : Cmd := .get fun s =>
  let g := s.group gk
  .all [
    modGroup gk fun g => if st = 0 then { g with state := .intact, grp := none, desk := CollDesk.empty, run := none, leave := none }
      else { Group.empty with state := if g.broken then .broken else .empty },
    Cmd.opt g.grp fun id => replyWord id (groupStatus st g.rank g.count)]

/-- What the other members say of a group that declares: some has not declared, one differs, or all agree (R213). -/
inductive Declared where
  | waits
  | differs (gks : List Nat)
  | agrees
deriving DecidableEq, Repr

/-- The member of a die and region that declares in the same VD: with the same key in any slot, else in the slot of the same
number (log 117). -/
def State.declarer (s : State) (gk : Nat) (key : W64) (d r : Nat) : Option (Nat × Group) :=
  let theirs := s.eng.groups.filter fun (x, h) => h.state == .declaring && groupDie x == d && groupRgn x == r &&
    s.vdOfCtx (groupCtx x) == s.vdOfCtx (groupCtx gk)
  (theirs.find? fun (_, h) => h.key == key).orElse fun _ => theirs.find? fun (x, _) => groupSlot x == groupSlot gk

/-- The slots of this package that declare the group of a slot. -/
def State.declarers (s : State) (gk : Nat) (g : Group) : List Nat :=
  ((members g.list).filter fun (p, _, _) => s.isHere p).filterMap fun (_, d, r) => (s.declarer gk g.key d r).map (·.1)

def State.declaredAs (s : State) (gk : Nat) (g : Group) : Declared :=
  let found := (members g.list).zipIdx.map fun ((p, d, r), k) =>
    if !s.isHere p then (if g.remote.contains k then Declared.agrees else .waits)
    else match s.declarer gk g.key d r with
      | none => .waits
      | some (x, h) => if h.key == g.key && h.list == g.list && h.count == g.count then .agrees else .differs [x]
  let bad := found.flatMap fun x => match x with | .differs l => l | _ => []
  if !bad.isEmpty then .differs bad else if found.all fun x => x == .agrees then .agrees else .waits

/-- GROUP_DECLARED (R309, R213): the slots that declare a key are compared; a group whose members all agree is intact, and
members that differ end with MISMATCH. -/
def execGroupDeclared (key : W64) (s : State) : Host.Outcome State Fault Refusal :=
  Cmd.next (Cmd.each (s.eng.groups.filter fun (_, g) => g.state == .declaring && g.key == key) fun (gk, g) => .get fun t =>
    .when ((t.group gk).state == .declaring) (match t.declaredAs gk g with
      | .waits => .skip
      | .differs xs => .seq (endGrp gk 1) (Cmd.each xs fun x => endGrp x 1)
      | .agrees => Cmd.each (t.declarers gk g) fun x => endGrp x 0)) s

/-! ### Boxes -/

/-- Bytes of a box, each block with its scale pair. -/
def Tensor.boxBytes (t : Tensor) : Nat := t.cells * (t.cellBytes + t.scaleBytes)

/-- A member's accesses are those of a job of its VD at its activation's pts. -/
def State.memberJob (s : State) (gk : Nat) (r : CollRun) : Job :=
  { Job.blank (groupDie gk) (s.vdOfCtx (groupCtx gk)) (groupCtx gk) with
    pts := match s.op? r.op with | some o => Stamp.max (s.opPts o) r.pts | none => r.pts }

/-- The cells of a box that lie inside its tensor. -/
def Tensor.insideCells (t : Tensor) : List Nat := (List.range t.cells).filter t.inside

/-- The bytes of a source box in box order with the latest wts, or the access that fails. -/
def State.boxRead (s : State) (j : Job) (t : Tensor) : Except Nat (List Byte × Stamp) :=
  let one := fun (p : Spot) (n : Nat) => match s.spotFails j p n false with
    | some _ => Except.error p.addr
    | none => .ok (s.spotRead j p n)
  (List.range t.cells).foldl (fun acc n => match acc with
    | .error e => .error e
    | .ok (bs, w) =>
      if !t.inside n then .ok (bs ++ t.fillCell.1 ++ t.fillCell.2, w)
      else match one (t.dataSpot n) t.cellBytes, (if t.fmt.isBlock then one (t.scaleSpot n) 2 else .ok ([], w)) with
        | .ok (d, u), .ok (sc, v) => .ok (bs ++ d ++ sc, Stamp.max w (Stamp.max u v))
        | .error e, _ | _, .error e => .error e) (.ok ([], j.pts))

/-- The leases that the reads of a source box renew (R268). -/
def boxTouch (j : Job) (t : Tensor) : Cmd := Cmd.each t.insideCells fun n =>
  .seq (spotTouch j (t.dataSpot n) t.cellBytes) (.when t.fmt.isBlock (spotTouch j (t.scaleSpot n) 2))

def Spot.plus : Spot → Nat → Spot
  | .dram a, k => .dram (a + k)
  | .vault d a, k => .vault d (a + k)

/-- Where the bytes from an offset of a destination box go. -/
def Tensor.pieces (t : Tensor) (off : Nat) (bs : List Byte) : List (Spot × List Byte) :=
  let cb := t.cellBytes + t.scaleBytes
  let cells := (List.range t.cells).filter fun n => n * cb < off + bs.length && off < (n + 1) * cb && t.inside n
  let cut := fun (start len : Nat) (p : Spot) =>
    let lo := max start off
    let hi := min (start + len) (off + bs.length)
    (p.plus (lo - start), (bs.drop (lo - off)).take (hi - lo))
  (cells.flatMap fun n => [cut (n * cb) t.cellBytes (t.dataSpot n), cut (n * cb + t.cellBytes) t.scaleBytes (t.scaleSpot n)]).filter
    fun (_, x) => !x.isEmpty

def modRun (gk : Nat) (f : CollRun → CollRun) : Cmd := modGroup gk fun g => { g with run := g.run.map f }

/-- A write of a member into its destination box, at home (R287). -/
def memberWrite (gk : Nat) (j : Job) (p : Spot) (bs : List Byte) : Cmd := match p with
  | .dram a => engWrite j.die j.vd a bs j.pts fun w => modRun gk fun r => { r with pts := Stamp.max r.pts w }
  | .vault die a => vaultWrite die a bs

/-! ### COLL (R214 to R216, R310) -/

/-- The unit's record of a failure at a member (R202): RGN and TAG of the request, ADDR its operand, DETAIL the status. -/
def memberFault (gk cause st : Nat) (addr : Firing → Nat) : Cmd := .get fun s => match (s.group gk).run with
  | none => .skip
  | some r => Cmd.opt (s.op? r.op) fun o => engineStatus o.f cause st (BitVec.ofNat 64 (addr o.f))

/-- A member's COLL ends (R215, R216): D0 takes the status word, and D1 the same, or after ABORTED a poison or a record. -/
def memberEnd (gk st : Nat) : Cmd := .get fun s =>
  let g := s.group gk
  match g.run with
  | none => .skip
  | some r =>
    let word := Val.scalar (BitVec.ofNat 64 (st + r.flags % 128 * 2 ^ 8))
    .all [
      modGroup gk fun g => { g with run := none, state := if st = 1 then .broken else g.state },
      match s.op? r.op with
      | none => .skip
      | some o => .all [
          raisePts o r.pts,
          if st = 1 then .all [
            .when (!o.i.hdr.d1.val) (engineStatus o.f causeCollAbort 1 (BitVec.ofNat 64 o.f.argA)),
            freshFault o.f (o.f.origin (s.vdOfCtx o.f.ctx) causeCollAbort),
            replyOp r.op word (.poison (o.f.origin (s.vdOfCtx o.f.ctx) causeCollAbort))]
          else replyOp r.op word word,
          .when (st == 0) (count (groupDie gk) (s.vdOfCtx (groupCtx gk)) 0x60 1)]]

/-- Every member of this package but those of an ending context learns that its group is broken (R216). -/
def breakHere (g : Group) (dead : Option Nat) : Cmd := .get fun s =>
  Cmd.each ((s.groupPeers g).filter fun (_, k) => some (groupCtx k) != dead) fun (_, k) =>
    modGroup k fun x => if x.state == .intact || x.state == .leaving then { x with state := .broken, desk := CollDesk.empty } else x

/-- A kill reaches the coordinator (R310, R216): an uncommitted COLL aborts at every surviving member, and every slot is
broken. -/
def killGroup (gk : Nat) (dead : Option Nat) : Cmd := .get fun s =>
  let g := s.group gk
  .all [
    breakHere g dead,
    Cmd.each ((s.groupPeers g).filter fun (_, k) => some (groupCtx k) != dead) fun (_, k) => memberEnd k 1,
    decideAway gk g 6 []]

/-- A member's unit tells the coordinator that the member cannot go on (R310). -/
def reportKill (gk : Nat) : Cmd := .get fun s =>
  let g := s.group gk
  match s.coordinator g with
  | some ck => after (hopCycles (groupDie gk) (groupDie ck)) (.killReport ck g.rank)
  | none => sendAway gk g 0 2 [g.rank]

/-- The members of a context that ends are killed (R309, R310): the unit of rank 0's own die decides at once, every other one
reports to it. -/
def killMembers (ctx : Nat) : Cmd := .get fun s =>
  Cmd.each (s.eng.groups.filter fun (k, g) => groupCtx k == ctx && (g.state == .intact || g.state == .leaving)) fun (k, g) =>
    if g.rank = 0 then killGroup k (some ctx) else reportKill k

/-- A member's share is done (R310 step 5). -/
def reportShare (gk : Nat) : Cmd := .get fun s =>
  let g := s.group gk
  .seq (modRun gk fun r => { r with shared := true }) (match s.coordinator g with
    | some ck => after (hopCycles (groupDie gk) (groupDie ck)) (.shareDone ck g.rank)
    | none => sendAway gk g 0 1 [g.rank])

/-- The bytes of one chunk as the receiving member counts them, and of all its chunks (R214). -/
def CollRun.chunk (r : CollRun) (n : Nat) : Nat := match r.rep.sub with | 0 | 2 => r.rep.dstBytes / n | 3 => 0 | _ => r.rep.dstBytes
def CollRun.total (r : CollRun) (n : Nat) : Nat := match r.rep.sub with | 1 => n * r.rep.dstBytes | 3 => 0 | _ => r.rep.dstBytes

/-- Send a chunk to a member: over the couplers, or over Drawbar in pieces of 224 bytes (R310, R404). -/
def sendChunk (gk : Nat) (g : Group) (rank : Nat) (bs : List Byte) : Cmd := .get fun s =>
  match s.peer g rank with
  | some pk => after (hopCycles (groupDie gk) (groupDie pk)) (.chunkReceive pk g.rank 0 bs)
  | none =>
    let (pkg, die, _) := memberAt g.list rank
    Cmd.each (List.range ((bs.length + 223) / 224)) fun k =>
      sendFlit (s.vdOfCtx (groupCtx gk)) (groupDie gk) pkg die 1 (groupSlot gk) (g.key.toNat % 2 ^ 32) (224 * k) ((bs.drop (224 * k)).take 224)

/-- The arbiters that a member's share passes (R371): those of its source box, and the couplers to the members on other dies. -/
def State.shareArbiters (s : State) (gk : Nat) (g : Group) (r : CollRun) (j : Job) (t : Tensor) : List (Nat × Nat) :=
  let size := match r.rep.sub with | 1 | 2 => t.boxBytes / max 1 g.count | _ => t.boxBytes
  s.spotArbiters j false (t.spots (List.range t.cells)) ++ (s.groupPeers g).filterMap fun (_, k) =>
    if groupDie k = groupDie gk then none else some (couplerArbiter (groupDie gk) (groupDie k), (size + 63) / 64)

/-- The coordinator has accepted: a member reads its source box and sends its chunks (R310 step 3). A barrier has none. -/
def memberGo (gk : Nat) : Cmd := .get fun s =>
  let g := s.group gk
  match g.run with
  | none => .skip
  | some r =>
    let n := g.count
    let j := s.memberJob gk r
    let sends := match r.rep.sub with | 3 => false | 4 => g.rank == r.rep.root | _ => true
    let gone := modRun gk fun r => { r with go := false }
    if r.rep.sub = 3 then .seq gone (reportShare gk)
    else if !sends then gone
    else match r.src with
      | none => gone
      | some t =>
        if s.cellsWait j t false t.insideCells then after 1 (.collDecide gk)
        else gate j.vd (s.shareArbiters gk g r j t) (.collDecide gk) (match s.boxRead j t with
        | .error _ => .all [gone, memberFault gk causeEngine 1 Firing.argA, reportKill gk]
        | .ok (bs, w) =>
          let per := match r.rep.sub with | 1 | 2 => bs.length / n | _ => bs.length
          .all [
            gone,
            boxTouch j t,
            modRun gk fun r => { r with pts := Stamp.max r.pts w },
            Cmd.each (List.range n) fun k =>
              sendChunk gk g k (match r.rep.sub with | 1 | 2 => (bs.drop (k * per)).take per | _ => bs)])

/-- A member learns that its COLL has been accepted. -/
def memberTold (gk : Nat) : Cmd := .seq (modRun gk fun r => { r with go := true }) (after 0 (.collDecide gk))

/-- A box of a COLL operand (R214): its record, its bytes, and whether the record could not be read; a record that cannot be
used has a size that agrees with none. -/
def State.collBox (s : State) (j : Job) (a : Nat) (ty : Ty) : Option Tensor × Nat × Bool :=
  match s.shapeAt j a with
  | .ok t => if (ty != .x64 && t.fmt != ty) || (t.strict && !t.within) then (none, 2 ^ 80, false) else (some t, t.boxBytes, false)
  | .error (st, _) => (none, 2 ^ 80, st == 3)

/-- A COLL begins at a member (R310 step 1): it checks its boxes and reports to the coordinator. -/
def collStart (id : Nat) (o : MemOp) (gk : Nat) : Cmd := .get fun s =>
  let g := s.group gk
  let e := o.i.engD
  let c := o.f.argC
  let sub := e.sub.toNat
  let root := natBits c 23 8
  let j := { Job.blank (groupDie gk) (s.vdOfCtx o.f.ctx) o.f.ctx with pts := s.opPts o }
  let needSrc := sub != 3 && (sub != 4 || g.rank == root)
  let (src, sb, e1) := if needSrc then s.collBox j o.f.argA e.ty else (none, if sub = 3 then o.f.argA else 0, false)
  let (dst, db, e2) := if sub != 3 then s.collBox j o.f.argB e.ty else (none, o.f.argB, false)
  let rep : CollRep := {
    sub := sub
    ty := e.ty.code.toNat
    rop := natBits c 7 0 + (if c / 2 ^ 24 = 0 then 0 else 256)
    root := root
    srcBytes := sb
    dstBytes := db }
  let read := if sub = 3 then 0 else max (if needSrc then s.homeRead j.die j.vd o.f.argA else 0) (s.homeRead j.die j.vd o.f.argB)
  .all [
    modOp id fun x => { x with phase := .sent },
    modGroup gk fun g => { g with run := some ⟨id, rep, src, dst, 0, [], 0, s.opPts o, false, false⟩ },
    acceptEarly id,
    .when (e1 || e2) (memberFault gk causeEngine 3 (if e1 then Firing.argA else Firing.argB)),
    match s.coordinator g with
    | some ck => after (read + hopCycles (groupDie gk) (groupDie ck)) (.collReport ck g.rank rep)
    | none => sendAway gk g 0 0 [g.rank, rep.sub, rep.ty, rep.rop, rep.root, rep.srcBytes, rep.dstBytes]]

def modDesk (gk : Nat) (f : CollDesk → CollDesk) : Cmd := modGroup gk fun g => { g with desk := f g.desk }

/-- COLL_REPORT (R310): a member's report reaches the coordinator, which decides once it has all. -/
def execCollReport (gk rank : Nat) (rep : CollRep) (s : State) : Host.Outcome State Fault Refusal :=
  let g := s.group gk
  Cmd.next (.when ((g.state == .intact || g.state == .leaving) && !(g.desk.reports.any fun (r, _) => r == rank)) (.seq
    (modDesk gk fun d => { d with reports := d.reports ++ [(rank, rep)] })
    (.when (g.desk.reports.length + 1 == g.count) (after 0 (.collDecide gk))))) s

/-- The decision on a paired COLL (R214 to R216): 4 TYPE, 3 SHAPE, or 0. A ROP or a reserved bit that no COLL may hold counts
as TYPE (log 52). -/
def collDecision (n : Nat) (reps : List (Nat × CollRep)) : Nat :=
  match reps with
  | [] => 0
  | (_, x) :: _ =>
    let same := reps.all fun (_, y) => y.sub == x.sub && y.ty == x.ty && y.rop == x.rop && y.root == x.root
    let legal := (if x.sub = 1 then x.rop ≤ 2 else x.rop == 0) && (x.sub == 4 || x.root == 0)
    let equal := reps.all fun (_, y) => y.dstBytes == x.dstBytes && (x.sub == 4 || y.srcBytes == x.srcBytes)
    let sizes := match x.sub with
      | 0 => x.dstBytes == n * x.srcBytes
      | 1 => x.srcBytes == n * x.dstBytes
      | 2 => x.srcBytes == x.dstBytes && x.dstBytes % n == 0
      | 3 => x.srcBytes == 0 && x.dstBytes == 0
      | _ => reps.any fun (r, y) => r == x.root && y.srcBytes == x.dstBytes
    if !same || !legal then 4 else if !equal || !sizes || 2 ^ 80 ≤ x.dstBytes then 3 else 0

/-- COLL_DECIDE (R216, R310 steps 2 and 3): nothing has moved; the coordinator accepts, or ends the COLL at every member. A
member that has been told reads its source. -/
def execCollDecide (gk : Nat) (s : State) : Host.Outcome State Fault Refusal :=
  let g := s.group gk
  Cmd.next (if (match g.run with | some r => r.go | none => false) then memberGo gk
    else if g.desk.accepted || g.desk.reports.length != g.count then .skip
    else match collDecision g.count g.desk.reports with
      | 0 => .all [
          modDesk gk fun d => { d with accepted := true },
          Cmd.each (s.groupPeers g) fun (_, k) => memberTold k,
          decideAway gk g 3 []]
      | st => .all [
          modDesk gk fun _ => CollDesk.empty,
          Cmd.each (s.groupPeers g) fun (_, k) => memberEnd k st,
          decideAway gk g 4 [st]]) s

/-- The reduction of all ranks' chunks, ranks ascending (R214). -/
def reduceChunks (ty : Ty) (rop len : Nat) (chunks : List (Nat × Nat × List Byte)) (n : Nat) : List Byte × Nat :=
  let w := ty.width / 8
  let whole := fun (r : Nat) => (chunks.filter fun (x, _) => x == r).foldl
    (fun (acc : List Byte) (_, o, bs) => acc.take o ++ bs ++ acc.drop (o + bs.length)) (List.replicate len 0)
  let all := (List.range n).map whole
  let elem := fun (r k : Nat) => leNat (((all.getD r []).drop (k * w)).take w)
  let rs := (List.range (len / w)).map fun k =>
    (List.range n).foldl (fun (acc : Option Res) r => match acc with
      | none => some ⟨elem r k, 0⟩
      | some a => some ((reduceStep ty rop a.bits (elem r k)).or a.flags)) none |>.getD ⟨0, 0⟩
  (rs.flatMap fun r => leBytes r.bits w, rs.foldl (fun f r => f ||| r.flags) 0)

/-- CHUNK_RECEIVE (R310 step 4): a chunk, or a piece of one, is written into the destination box, or folded once all ranks'
chunks are there; the last completes the member's share. -/
def execChunkReceive (gk src ofs : Nat) (data : List Byte) (s : State) : Host.Outcome State Fault Refusal :=
  let g := s.group gk
  Cmd.next (match g.run with
    | none => .skip
    | some r =>
      let n := g.count
      let s1 := r.chunk n
      let j := s.memberJob gk r
      let chunks := r.chunks ++ [(src, ofs, data)]
      let whole := r.written + data.length == r.total n
      let (off, bytes, fl) :=
        if r.rep.sub = 1 then (if whole then
            let (bs, fl) := reduceChunks (Ty.ofCode r.rep.ty) r.rep.rop s1 chunks n
            (0, bs, fl) else (0, [], 0))
        else (if r.rep.sub = 4 then ofs else src * s1 + ofs, data, 0)
      match r.dst with
      | none => .skip
      | some t =>
        let ps := t.pieces off bytes
        if ps.any fun (p, bs) => s.spotWaits j true p bs.length then after 1 (.chunkReceive gk src ofs data)
        else if ps.any fun (p, bs) => (s.spotFails j p bs.length true).isSome then
          .seq (memberFault gk causeEngine 1 Firing.argB) (reportKill gk)
        else gate j.vd (s.spotArbiters j true (ps.map fun (p, bs) => (p, bs.length))) (.chunkReceive gk src ofs data) (.all [
              modRun gk fun r => { r with
                written := r.written + data.length
                chunks := chunks
                flags := r.flags ||| fl },
              Cmd.each ps fun (p, bs) => memberWrite gk j p bs,
              .when (whole && !r.shared) (reportShare gk)])) s

/-- SHARE_DONE (R310, R216): once all N share-done reports have come before any kill, the coordinator commits OK. -/
def execShareDone (gk rank : Nat) (s : State) : Host.Outcome State Fault Refusal :=
  let g := s.group gk
  let shares := if g.desk.shares.contains rank then g.desk.shares else g.desk.shares ++ [rank]
  Cmd.next (if !g.desk.accepted then .skip
    else if shares.length != g.count then modDesk gk fun d => { d with shares := shares }
    else .all [
      modDesk gk fun _ => CollDesk.empty,
      Cmd.each (s.groupPeers g) fun (_, k) => memberEnd k 0,
      decideAway gk g 4 [0]]) s

/-- KILL_REPORT (R310): an uncommitted COLL aborts; with none in progress the slot is broken and no data changes. -/
def execKillReport (gk rank : Nat) (s : State) : Host.Outcome State Fault Refusal :=
  let g := s.group gk
  (Cmd.when (rank < g.count && (g.state == .intact || g.state == .leaving)) (killGroup gk none)).next s

/-! ### GRPX (R217) -/

/-- GRPX.leave once its release allows (R217, R309): it waits for this member's COLLs, tells the others, and waits until every
member has left. -/
def leaveOp (id : Nat) (o : MemOp) : Cmd := .get fun s =>
  let gk := s.memberKey o.f o.i.engD.unit.toNat
  let g := s.group gk
  let again := after 1 (.storeResolve id)
  let start := modOp id fun x => { x with phase := .sent }
  let busy := s.mem.ops.any fun (k, x) => k < id && !x.null && x.phase != .done &&
    (match x.i with | .coll f => f.unit == o.i.engD.unit && s.memberKey x.f f.unit.toNat == gk | _ => false)
  match g.state with
  | .intact => .seq (modGroup gk fun g => { g with state := .leaving, leave := some id }) again
  | .leaving =>
    if busy || g.run.isSome then again
    else if !g.left.contains g.rank then .all [
      Cmd.each (s.groupPeers g) fun (_, k) => modGroup k fun x => { x with left := x.left ++ [g.rank] },
      decideAway gk g 7 [g.rank],
      again]
    else if g.left.length < g.count then again
    else .all [start, modGroup gk fun _ => Group.empty, replyWord id (groupStatus 0 g.rank g.count), acceptOp id]
  | _ => .all [start, replyWord id (groupStatus 2 0 0), acceptOp id]

/-- GRPX.break once its release allows (R217): every member's slot breaks at once, and the coordinator aborts the COLLs not
yet committed (R216); one on another package learns of it by a report. -/
def breakOp (id : Nat) (o : MemOp) : Cmd := .get fun s =>
  let gk := s.memberKey o.f o.i.engD.unit.toNat
  let g := s.group gk
  let start := modOp id fun x => { x with phase := .sent }
  match g.state with
  | .intact | .leaving => .all [
      start,
      match s.coordinator g with
      | some ck => killGroup ck none
      | none => .seq (breakHere g none) (sendAway gk g 0 2 [g.rank]),
      replyWord id (groupStatus 0 g.rank g.count), acceptOp id]
  | _ => .all [start, replyWord id (groupStatus 2 0 0), acceptOp id]

/-! ### Flits that arrive -/

/-- The members that a flit may be for, each with a rank that its sender may be (R404): by SLOT, GKEY and SPKG against the
group list. -/
def State.flitGroups (s : State) (die slot gkey spkg sdie : Nat) : List (Nat × Nat) :=
  s.eng.groups.flatMap fun (k, g) =>
    if groupDie k = die && groupSlot k = slot && g.key.toNat % 2 ^ 32 = gkey && g.state != .empty then
      ((members g.list).zipIdx.filter fun ((p, d, _), _) => p == spkg && d == sdie).map fun (_, r) => (k, r)
    else []

/-- The member and the sender's rank of a chunk flit: the first pair that still lacks a piece at the flit's offset, since a
chunk flit names no rank (log 117). -/
def State.flitChunk (s : State) (die slot gkey spkg sdie ofs : Nat) : Option (Nat × Nat) :=
  let all := s.flitGroups die slot gkey spkg sdie
  let lacks := fun ((k, r) : Nat × Nat) => match (s.group k).run with
    | some u => (u.rep.sub != 4 || r == u.rep.root) && ofs < u.chunk (s.group k).count &&
        !(u.chunks.any fun (x, o, _) => x == r && o == ofs)
    | none => false
  (all.find? lacks).orElse fun _ => all.head?

/-- A kind-2 flit (R402, R404) for the member `gk`: a report for the coordinator, or its decision for a member. -/
def reportArrives (gk kind : Nat) (vs : List Nat) : Cmd := match kind, vs with
  | 0, r :: sub :: ty :: rop :: root :: sb :: db :: _ => after 0 (.collReport gk r ⟨sub, ty, rop, root, sb, db⟩)
  | 1, r :: _ => after 0 (.shareDone gk r)
  | 2, r :: _ => after 0 (.killReport gk r)
  | 3, _ => memberTold gk
  | 4, st :: _ => memberEnd gk st
  | 5, r :: key :: count :: check :: _ => .get fun s =>
      let g := s.group gk
      .when (g.state == .declaring && !g.remote.contains r) (.seq (sendAway gk g r 5 g.says)
        (if key = g.key.toNat && count = g.count && check = (crc32c g.list).toNat then
          .seq (modGroup gk fun g => { g with remote := g.remote ++ [r] }) (after 0 (.groupDeclared g.key))
        else endGrp gk 1))
  | 6, _ => .seq (memberEnd gk 1) (modGroup gk fun g => { g with state := .broken })
  | 7, r :: _ => modGroup gk fun g => { g with left := g.left ++ [r] }
  | _, _ => .skip

/-- A peer's queue append (R403): accepted when PEERQ admits it, then appended as CEQ appends (R211). The answer says whether
it was appended, refused, or must wait for room. -/
def State.peerAppend (s : State) (die vd k : Nat) (packet : List Byte) : Option Cmd × Bool :=
  let v := s.vd vd
  let desc := s.descriptor vd k false
  let refuse : Option Cmd × Bool := (none, false)
  if v.state = 0 || v.state = 4 || !v.peerq.getLsbD k || !copyPacketOk packet || (s.engError die vd desc 64 .write).isSome then refuse
  else
    let d := (s.engBytes die vd desc 64 0 none).1
    let slots := field d 24 4
    let base := field d 0 8
    let widx := field d 8 8
    let slot := base + 64 * (widx % slots)
    if !slotsOk slots || base % 64 != 0 || field d 31 1 % 2 = 0 || (s.engError die vd slot 64 .write).isSome then refuse
    else if slots ≤ widx - field d 16 8 || s.engWaits die vd desc 64 (.store (s.hzn die)) || s.engWaits die vd slot 64 (.store (s.hzn die)) then (none, true)
    else (some (.all [
        engWrite die vd (desc + 8) (leBytes (widx + 1) 8) (s.hzn die) fun _ => .skip,
        engWrite die vd slot (packet.take 63) (s.hzn die) fun _ => .skip,
        engWrite die vd (slot + 63) [0x01] (s.hzn die) fun _ => .skip]), false)

/-- FLIT_RECEIVE (R402 to R404): a flit with a bad CRC asks for a replay, and so does an append that finds no room; one for another package, unmatched or refused is
dropped and counted; else it goes to its unit. -/
def execFlitReceive (port : Nat) (flit : List Byte) (s : State) : Host.Outcome State Fault Refusal :=
  let x := s.port port
  let dies := field flit 4 1
  let kind := dies / 16
  let die := dies % 4
  let sdie := dies / 4 % 4
  let slot := field flit 5 1
  let spkg := field flit 2 2
  let gkey := field flit 8 4
  let data := (flit.drop 16).take 224
  let taken := modPort port fun p => { p with expect := (p.expect + 1) % 65536, asked := none, down := none }
  let drop := Cmd.seq taken (countDrop port)
  Cmd.next (if !s.svc.ready.getLsbD (46 + port) || flit.length != 256 then .skip
    else if (crc32c (flit.take 252)).toNat != field flit 252 4 then modPort port fun p => { p with asked := some p.expect }
    else if kind = 4 then modPort port fun p => { p with
        lastAck := s.now
        down := none
        kept := match p.kept.findIdx? fun (k, _) => k == field flit 6 2 with | some k => p.kept.drop (k + 1) | none => p.kept }
    else if field flit 6 2 != x.expect then .skip
    else if field flit 0 2 != s.svc.pkgid then drop
    else match kind with
      | 1 => match s.flitChunk die slot gkey spkg sdie (field flit 12 4) with
        | none => drop
        | some (gk, r) =>
          let len := match (s.group gk).run with | some u => u.chunk (s.group gk).count - field flit 12 4 | none => 224
          .seq taken (after 0 (.chunkReceive gk r (field flit 12 4) (data.take (min 224 len))))
      | 2 => match Config.reportOf data with
        | kind :: rank :: vs => match (s.flitGroups die slot gkey spkg sdie).find? fun (k, _) => (s.group k).rank == rank with
          | none => drop
          | some (gk, _) => .seq taken (reportArrives gk kind vs)
        | _ => drop
      | 3 => match s.peerAppend die (gkey % 64) (gkey / 64 % 64) (data.take 64) with
        | (some c, _) => .seq taken c
        | (none, true) => modPort port fun p => { p with asked := some p.expect }
        | (none, false) => .seq drop (putFlit port (gkey % 64) (flitBody spkg s.svc.pkgid sdie die 4 0 0 0 [1]))
      | _ => drop) s

/-- FLIT_REPLAY (R403): the sender repeats its kept flits from a SEQ on. -/
def execFlitReplay (port seq : Nat) (s : State) : Host.Outcome State Fault Refusal :=
  let again := ((s.port port).kept.dropWhile fun (k, _) => k != seq).map (·.2)
  Cmd.next (modPort port fun p => { p with sent := p.sent ++ again }) s

/-- Members of a group on packages all of whose ports have been down for 64 microseconds (R403). -/
def State.unreachableRanks (s : State) (g : Group) : List Nat :=
  (members g.list).zipIdx.filterMap fun ((p, _, _), r) =>
    if s.isHere p then none
    else if (s.routePorts p).all fun k => (match (s.port k).down with | some t => t + Config.linkTimeout ≤ s.now | none => false) then some r
    else none

/-- PORT_DOWN (R403): a port with no acknowledged flit for 64 microseconds is down, and what it still keeps moves to another
port of the mask; members that no port has reached for 64 microseconds count as killed. -/
def execPortDown (port : Nat) (s : State) : Host.Outcome State Fault Refusal :=
  let x := s.port port
  Cmd.next (match x.down with
    | some _ => Cmd.each (s.eng.groups.filter fun (_, g) => g.rank == 0 && (g.state == .intact || g.state == .leaving)) fun (k, g) =>
        Cmd.each ((s.unreachableRanks g).take 1) fun r => after 0 (.killReport k r)
    | none =>
      if x.kept.isEmpty then .skip
      else if s.now < x.lastAck + Config.linkTimeout then after (x.lastAck + Config.linkTimeout - s.now) (.portDown port)
      else .all [
        modPort port fun p => { p with down := some s.now, kept := [], waiting := [] },
        Cmd.each (x.kept.map (fun (_, bs) => (none, bs)) ++ x.waiting.map fun (vd, bs) => (some vd, bs)) fun (vd, bs) => .get fun t =>
          match ((t.routePorts (field bs 0 2)).filter fun p => p != port && t.portUp p), vd with
          | [], _ => .skip
          | p :: _, some vd => putFlit p vd bs
          | p :: _, none => putFlitNow p bs,
        after Config.linkTimeout (.portDown port)]) s

end Sys2Proof.Machine
end

