-- ==== Sys2Proof/Machine/Regions.lean ====
section
/-! DEFINITION. Granting and returning what a context holds (R95, R177, R317, R352 to R354, R407, R408): domain runs, tiles,
origins, region replicas, vault areas; and what wakes a firing or token again when a region starts anew. -/

namespace Sys2Proof.Machine

/-! ### Domains and tiles -/

def State.ctxsOf (s : State) (vd : Nat) : List (Nat × Ctx) := s.ten.ctxs.filter fun (_, c) => c.vd == vd

/-- Whether a run of domains meets none that a context holds. -/
def State.runFree (s : State) (base n : Nat) : Bool :=
  s.ten.ctxs.all fun (_, c) => base + n ≤ c.cbase || c.cbase + c.image.dcount ≤ base

/-- The lowest free run of n domains in a VD's block (R352). -/
def State.freeRun (s : State) (vd n : Nat) : Option Nat :=
  let v := s.vd vd
  if v.dsize < n then none else (List.range (v.dsize - n + 1)).findSome? fun k =>
    if s.runFree (v.dbase + k) n then some (v.dbase + k) else none

/-- Tiles of the replicas that a VD has bound (R353). -/
def State.tilesUsed (s : State) (vd : Nat) : Nat :=
  (s.run.regions.filter fun (_, r) => r.state != .gone && s.vdOfCtx r.ctx == vd).foldl (fun n (_, r) => n + shapeTiles r.shape) 0

/-- CTXIDs that launches keep which wait to be restored (R378). -/
def State.keptCtxs (s : State) : List Nat := s.ten.launches.filterMap fun (_, l) =>
  if l.state == .waiting then (l.restore.bind s.ten.saves.get?).map (·.ctxid) else none

/-- The lowest free CTXID above zero that no launch keeps (log 60). -/
def State.freeCtx (s : State) : Option Nat :=
  let used : Tbl Unit := s.ten.ctxs.map fun (k, _) => (k, ())
  (s.keptCtxs.foldl (fun t k => t.set k ()) used).firstFree 1 65535

/-! ### Origins -/

/-- Whether every quadrant that an area covers is ready (R407, R408). -/
def State.quadsReady (s : State) (die x0 y0 shape : Nat) : Bool :=
  let xs := [x0 / 32, (x0 + shapeCols shape - 1) / 32]
  let ys := [y0 / 12, (y0 + shapeRows shape - 1) / 12]
  xs.all fun x => ys.all fun y => s.svc.ready.getLsbD (12 + 4 * die + x + 2 * y)

/-- An actor's blocks, each with its PIN bit, as the placing of an origin needs them. -/
def Loaded.pinned (ld : Loaded) (a : Nat) : List (Bool × List Rec) := (ld.blocksOf a).map fun (_, b) => (b.pin, b.recs)

/-- The first free admissible origin on a die whose quadrants are ready (R353 step 2, R408), clear of areas just taken. -/
def State.originOn (s : State) (blocks : List (Bool × List Rec)) (die shape : Nat) (taken : List (Nat × Nat × Nat × Nat)) :
    Option (Nat × Nat) :=
  let meets := fun (x y : Nat) => taken.any fun (d, x0, y0, sh) => d == die && x0 < x + shapeCols shape && x < x0 + shapeCols sh
    && y0 < y + shapeRows shape && y < y0 + shapeRows sh
  (originsOf shape (admissibleRows (blocks.map (·.2)) shape)).find? fun o =>
    !s.areaTaken die o.1 o.2 shape && !meets o.1 o.2 && s.originHolds blocks die shape o && s.quadsReady die o.1 o.2 shape

/-- Where a replica goes (R353): the die that its record fixes, else the preferred die, else the lowest that has an origin. -/
def State.chooseOrigin (s : State) (blocks : List (Bool × List Rec)) (r : RegionRec) (prefer : Nat)
    (taken : List (Nat × Nat × Nat × Nat)) : Option (Nat × Nat × Nat) :=
  (if r.die ≤ 3 then [r.die] else prefer % 4 :: List.range 4).findSome? fun d =>
    (s.originOn blocks d r.shape taken).map fun (x, y) => (d, x, y)

/-- A replica to bind: RGNID, actor, replica number, the replica whose load it shares (R320), die,
origin and shape. -/
structure Bind where
  rgn : Nat
  actor : Nat
  replica : Nat
  source : Nat
  die : Nat
  x0 : Nat
  y0 : Nat
  shape : Nat
deriving DecidableEq, Repr

/-- The RGNID of a new replica (R354): the lowest number that the replicas of its REGIONS record leave free; actors that
share a record share its numbers (log 61). -/
def Image.rgnid (m : Image) (a : Nat) (used : List Nat) : Option Nat :=
  let base := 16 * (m.actor a).region
  ((List.range 16).map (base + ·)).find? fun k => !used.contains k

/-- The minimum replicas of an image, in ACTORS order (R317). -/
def Image.minimum (m : Image) : List (Nat × Nat) :=
  (List.range m.actors.length).flatMap fun a => (List.range (m.regionOf a).minr).map fun k => (a, k)

/-- Whether an area is free of regions and ready. -/
def State.areaOpen (s : State) (die x0 y0 shape : Nat) : Bool := !s.areaTaken die x0 y0 shape && s.quadsReady die x0 y0 shape

/-- Where a replica goes: at the origin that a replay asks for, if it is free (R426), else where R353 puts it. -/
def State.placeAt (s : State) (pin : Nat → Option (Nat × Nat × Nat)) (n : Nat) (blocks : List (Bool × List Rec)) (r : RegionRec)
    (prefer : Nat) (taken : List (Nat × Nat × Nat × Nat)) : Option (Nat × Nat × Nat) := match pin n with
  | some (d, x, y) => if s.areaOpen d x y r.shape then some (d, x, y) else none
  | none => s.chooseOrigin blocks r prefer taken

/-- Origins for a list of replicas, one after another (R353). `pin` is the origin that a replay asks for (R426). -/
def State.planBinds (s : State) (ld : Loaded) (prefer : Nat) (pin : Nat → Option (Nat × Nat × Nat)) :
    List (Nat × Nat) → List Bind → Option (List Bind)
  | [], acc => some acc.reverse
  | (a, k) :: rest, acc =>
    let r := ld.image.regionOf a
    match ld.image.rgnid a (acc.map (·.rgn)) with
    | none => none
    | some n =>
      match s.placeAt pin n (ld.pinned a) r prefer (acc.map fun b => (b.die, b.x0, b.y0, b.shape)) with
      | some (d, x, y) => s.planBinds ld prefer pin rest (⟨n, a, k, k, d, x, y, r.shape⟩ :: acc)
      | none => none

/-! ### Replicas -/

/-- Queue instances of an actor's input queues, empty (R311, R312). -/
def Image.instances (m : Image) (a : Nat) : List QInst := (m.inputs a).map fun q => ⟨q, (m.queue q).depth, 0, 0, [], []⟩
/-- Engine queues: those that no actor consumes (R311). -/
def Image.engineQueues (m : Image) : List QInst :=
  ((List.range m.queues.length).filter fun q => (m.consumer q).isNone).map fun q => ⟨q, (m.queue q).depth, 0, 0, [], []⟩

/-- A replica as it is bound: nothing mapped, nothing in flight (R235, R320). -/
def Bind.region (b : Bind) (ctx : Nat) (m : Image) (st : ReplicaState) : Region where
  ctx := ctx
  rgn := b.rgn
  actor := b.actor
  replica := b.replica
  source := b.source
  die := b.die
  x0 := b.x0
  y0 := b.y0
  shape := b.shape
  state := st
  frames := List.replicate 4 Frame.empty
  starts := []
  queues := m.instances b.actor
  hitches := List.replicate 32 Hitch.empty
  comps := List.replicate 8 Comparator.empty
  halted := false
  hit := 0
  stepping := none
  stopped := false
  seqt := []

/-- The set keys of a region's clusters. -/
def Region.setKeys (r : Region) : List Nat := (r.sites.map clusterOf).dedup.flatMap fun c => (List.range 64).map (64 * c + ·)

/-- Empty the elements, sets and switch boxes of a region; translations stay. An X-element's LFSRs take their seeds (R53). -/
def clearSites (r : Region) : Cmd := .all [
  Cmd.each r.sites fun sid => .seq
    (modElem sid fun e => { Element.empty with
      tlb := e.tlb
      lfsrs := if elemType (xOf sid) (yOf sid) == .X then (List.range 64).map fun j => (j, lfsrSeed (xOf sid) (yOf sid) j) else [] })
    (Cmd.each [Net.control, .scalar, .vector] fun n => .prim (.fab fun f => { f with boxes := f.boxes.del (boxKey sid n) })),
  .prim (.fab fun f => { f with sets := r.setKeys.foldl (fun t k => t.del k) f.sets })]

/-- An entry of the relocation table (R354). -/
def Region.entry (r : Region) : Nat :=
  1 + r.die % 4 * 2 + r.x0 % 64 * 2 ^ 3 + r.y0 % 32 * 2 ^ 9 + r.shape % 8 * 2 ^ 14 + r.actor % 65536 * 2 ^ 32

/-- A binding is captured as a KIND 5 record (R425). -/
def captureBind (ctx : Nat) (r : Region) : Cmd := capture ctx ⟨5, r.rgn, 0, 0, leBytes r.entry 16⟩

/-- Bind a replica (R320, R354): its entry of the relocation table is written. -/
def bindReplica (ctx : Nat) (m : Image) (b : Bind) (st : ReplicaState) : Cmd :=
  let r := b.region ctx m st
  .all [clearSites r, .prim (.blocks fun x => { x with regions := x.regions.set (regionKey ctx b.rgn) r }), captureBind ctx r]

/-- Release a replica's region: its entry is cleared (R354). -/
def releaseReplica (r : Region) : Cmd := .seq (clearSites r)
  (.prim (.blocks fun x => { x with regions := x.regions.del (regionKey r.ctx r.rgn) }))

/-- Ask the mapper of a replica's die for the first block of its actor, for frame 0 (R235, R358, R359 step 7). -/
def mapFirst (ctx : Nat) (m : Image) (r : Region) (wait : Nat) : Cmd :=
  let addr := m.blocksVA + (m.actor r.actor).first
  withSerial fun n => .all [
    modFrame ctx r.rgn 0 fun f => { f with filling := some addr },
    .prim (.ten fun t => { t with maps := t.maps.set n ⟨ctx, addr, r.rgn, 0, none⟩ }),
    after wait (.mapperRequest r.die)]

/-! ### Vault areas -/

def vaultSpace : Nat := 96 * 2 ^ 24

def State.vaultFree (s : State) (dies : List Nat) (base n : Nat) : Bool :=
  base + n ≤ vaultSpace && s.ten.vaultUse.all fun (d, b, l, _) => !dies.contains d || base + n ≤ b || b + l ≤ base

/-- Where a vault area goes on some dies (R95): the place the loader picks, when it is free, else the lowest that is. -/
def State.vaultPlace (s : State) (launch : Nat) (dies : List Nat) (n : Nat) : Option Nat :=
  let pick := (Config.placeVault launch).toNat / 64 * 64
  let ends := sortBy id (0 :: s.ten.vaultUse.map fun (_, b, l, _) => b + l)
  if n = 0 then some pick else (pick :: ends).find? fun b => s.vaultFree dies b n

/-- Take a vault area for a context on a die. -/
def takeVault (ctx base n : Nat) (dies : List Nat) : Cmd :=
  .when (n != 0) (.prim (.ten fun t => { t with vaultUse := t.vaultUse ++ dies.map fun d => (d, base, n, ctx) }))
def freeVault (ctx : Nat) : Cmd := .prim (.ten fun t => { t with vaultUse := t.vaultUse.filter fun (_, _, _, c) => c != ctx })

/-- The dies on which a context has regions. -/
def State.diesOf (s : State) (ctx : Nat) : List Nat := ((s.regionsOf ctx).map (·.die)).dedup

/-! ### Setting a region's work going again -/

/-- What the agenda needs for everything that stands in a region: tokens, held tokens, refills, ready entries, requests. -/
def kickRegion (r : Region) : Cmd := .get fun s => .all [
  Cmd.each r.sites fun sid => .all [
    (let e := s.elem sid
     .all [
      .when (e.inC.isSome || e.inS.isSome || e.inV.isSome) (after 1 (.tokenArrive sid)),
      (match e.held with
       | some (_, .sidingLookup) => after 1 (.sidingLookup sid)
       | some _ => after 1 (.matchRetry sid)
       | none => .skip),
      .when (!e.ready.isEmpty) (afterTask 1 (.issue sid)),
      Cmd.each e.outs fun o => after (o.due + 1 - s.now) (.tokenHop sid o.tok.val.net (routeDir (xOf sid) (yOf sid) o.tok.dx o.tok.dy))]),
    Cmd.each [Net.control, .scalar, .vector] fun n => Cmd.each (s.box (boxKey sid n)).bufs fun (_, t) =>
      after 1 (.tokenHop sid n (t.routeAt sid))],
  Cmd.each (r.setKeys.filter fun k => (s.set? k).spills != 0) fun k => after 1 (.sidingRefill k),
  Cmd.each r.frames.zipIdx fun (f, k) => .all [
    (match f.filling with
     | some a => after (s.fillCycles r.die (s.vdOfCtx r.ctx) a) (.frameFilled r.ctx r.rgn k)
     | none => .skip),
    Cmd.each f.insts fun i => after 1 (.instanceCommit r.ctx r.rgn k i.dom)],
  after 1 (.blockStart r.ctx r.rgn),
  after 1 (.delivery r.ctx r.rgn)]

end Sys2Proof.Machine
end

