-- ==== Sys2Proof/Machine/Graphics.lean ====
section
/-! DEFINITION. Graphics instructions but ROUTE (R165 to R173, R325): edge, box and triangle tests, texel addresses, ordered
blending into screen tiles, and sequence tickets. -/

namespace Sys2Proof.Machine

/-! ### Single precision without FPCM (R165) -/

def gAdd (r : Rm) (x y : Nat) : Nat := (fpAdd .f32 .ieee r x y).bits
def gSub (r : Rm) (x y : Nat) : Nat := (fpSub .f32 .ieee r x y).bits
def gMul (r : Rm) (x y : Nat) : Nat := (fpMul .f32 .ieee r x y).bits
def gDiv (r : Rm) (x y : Nat) : Nat := (fpDiv .f32 .ieee r x y).bits
def gMin (x y : Nat) : Nat := (fpMinMax .f32 .ieee false x y).bits
def gMax (x y : Nat) : Nat := (fpMinMax .f32 .ieee true x y).bits
/-- Comparisons, false for a NaN. -/
def gLt (x y : Nat) : Bool := (fpCmp .f32 .ieee 2 x y).1
def gLe (x y : Nat) : Bool := (fpCmp .f32 .ieee 3 x y).1
def gNan (x : Nat) : Bool := Fmt.f32.isNan x
def gInf (neg : Bool) : Nat := Fmt.f32.infBits neg

/-- A finite f32 value times 2^149, exactly. -/
def exact32 (x : Nat) : Option Int :=
  match Fmt.f32.decode x with
  | .num s m e => let v : Int := m * 2 ^ (e + 149).toNat; some (if s then -v else v)
  | _ => none

/-- Use 512 fresh free bits (log 2). -/
def withFreeVector (k : W512 → Cmd) : Cmd := .get fun s => .seq (.prim .takeFree) (k (Config.freeVector s.free))

/-! ### EDGE (R167) -/

/-- Whether an edge covers a sample: E positive, or zero under the top-left rule. -/
def edgeCovers (a b c px py : Int) : Bool :=
  let e := a * px + b * py + c * 2 ^ 149
  decide (0 < e) || (e == 0 && (decide (0 < a) || (a == 0 && decide (0 < b))))

/-- The coverage of 16 pixels; `l` are the lanes of operand a. -/
def edgeMask (l : List Nat) : Nat :=
  let xs := (List.range 11).map fun k => exact32 (l.getD k 0)
  if xs.any (·.isNone) then 0
  else
    let v := fun (k : Nat) => (xs.getD k none).getD 0
    let centre := fun (o : Int) (i : Nat) => o + (2 * i + 1 : Nat) * 2 ^ 148
    (List.range 16).foldl (fun m p =>
      let px := centre (v 9) (p % 4)
      let py := centre (v 10) (p / 4)
      if (List.range 3).all fun k => edgeCovers (v (3 * k)) (v (3 * k + 1)) (v (3 * k + 2)) px py then m + 2 ^ p else m) 0

/-- EDGE (R167). -/
def execEdge (f : GfxNode) (s : State) : Host.Outcome State Fault Refusal :=
  (compute s.cur f.toHdr (Instr.edge f).sig 4 (.scalar (BitVec.ofNat 64 (edgeMask ((orNull s.cur.a).lanes 32))))).next s

/-! ### BOX4 (R168) -/

/-- One box: the entry distance, and whether the ray hits. `box` holds lo and hi, `ray` the eight lanes of operand a. Of two
zeros of opposite sign min and max keep the first, which R168 leaves open (log 119). -/
def boxTest (r : Rm) (ray box : List Nat) : Nat × Bool :=
  let at_ := fun (l : List Nat) (k : Nat) => l.getD k 0
  let axes := (List.range 3).map fun w =>
    let t1 := gMul r (gSub r (at_ box w) (at_ ray w)) (at_ ray (3 + w))
    let t2 := gMul r (gSub r (at_ box (3 + w)) (at_ ray w)) (at_ ray (3 + w))
    if gNan t1 || gNan t2 then (gInf true, gInf false) else (gMin t1 t2, gMax t1 t2)
  let tmin := at_ ray 6
  let tmax := at_ ray 7
  let tn := axes.foldl (fun m x => gMax m x.1) tmin
  let tf := axes.foldl (fun m x => gMin m x.2) tmax
  let sound := (List.range 3).all fun w => gLe (at_ box w) (at_ box (3 + w))
  let hit := !gNan tmin && !gNan tmax && gLe tn tf && sound
  (if hit then tn else gInf false, hit)

/-- BOX4 (R168). -/
def execBox4 (f : GfxNode) (s : State) : Host.Outcome State Fault Refusal :=
  let c := s.cur
  let h := f.toHdr
  let g := (Instr.box4 f).sig
  let ray := (orNull c.a).lanes 32
  let boxes := [(orNull c.b).lanes 32, (orNull c.c).lanes 32].flatMap fun l => [l.take 6, (l.drop 6).take 6]
  let rs := boxes.map (boxTest (Rm.ofCode f.rm.toNat 0) ray)
  let mask := rs.zipIdx.foldl (fun m (x, i) => if x.2 then m + 2 ^ i else m) 0
  (node c h g 8 c.tag (emit2 c h 8 c.tag (vecVal 32 (rs.map (·.1))) (.scalar (BitVec.ofNat 64 mask)))).next s

/-! ### TRI1 (R169) -/

def vSub (r : Rm) (x y : List Nat) : List Nat := (List.range 3).map fun k => gSub r (x.getD k 0) (y.getD k 0)
def vCross (r : Rm) (x y : List Nat) : List Nat := (List.range 3).map fun k =>
  gSub r (gMul r (x.getD ((k + 1) % 3) 0) (y.getD ((k + 2) % 3) 0)) (gMul r (x.getD ((k + 2) % 3) 0) (y.getD ((k + 1) % 3) 0))
def vDot (r : Rm) (x y : List Nat) : Nat :=
  gAdd r (gAdd r (gMul r (x.getD 0 0) (y.getD 0 0)) (gMul r (x.getD 1 0) (y.getD 1 0))) (gMul r (x.getD 2 0) (y.getD 2 0))

/-- The triangle test: (t, b1, b2), and whether the ray hits. -/
def triTest (r : Rm) (cull : Bool) (ray tri : List Nat) : List Nat × Bool :=
  let o := ray.take 3
  let dr := (ray.drop 3).take 3
  let v0 := tri.take 3
  let e1 := vSub r ((tri.drop 3).take 3) v0
  let e2 := vSub r ((tri.drop 6).take 3) v0
  let p := vCross r dr e2
  let det := vDot r e1 p
  let s := vSub r o v0
  let uu := vDot r s p
  let q := vCross r s e1
  let vv := vDot r dr q
  let tt := vDot r e2 q
  let sum := gAdd r uu vv
  let lo := gMul r (ray.getD 6 0) det
  let hi := gMul r (ray.getD 7 0) det
  let nan := (e1 ++ e2 ++ p ++ s ++ q ++ [det, uu, vv, tt, sum, lo, hi]).any gNan
  let inside :=
    if gLt 0 det then gLe 0 uu && gLe 0 vv && gLe sum det && gLe lo tt && gLe tt hi
    else if gLt det 0 && !cull then gLe uu 0 && gLe vv 0 && gLe det sum && gLe tt lo && gLe hi tt
    else false
  if inside && !nan then ([gDiv r tt det, gDiv r uu det, gDiv r vv det], true) else ([gInf false, 0, 0], false)

/-- TRI1 (R169). -/
def execTri1 (f : GfxNode) (s : State) : Host.Outcome State Fault Refusal :=
  let c := s.cur
  let h := f.toHdr
  let (xs, hit) := triTest (Rm.ofCode f.rm.toNat 0) (f.gmode == 1) ((orNull c.a).lanes 32) ((orNull c.b).lanes 32)
  (node c h (Instr.tri1 f).sig 16 c.tag (emit2 c h 16 c.tag (vecVal 32 xs) (.bit hit))).next s

/-! ### TXQ (R170) -/

/-- Wrap of a texel coordinate: repeat, clamp or mirror. -/
def texWrap (mode : Nat) (k n : Int) : Nat :=
  match mode with
  | 0 => (k % n).toNat
  | 1 => (min (max k 0) (n - 1)).toNat
  | _ => let m := k % (2 * n); (if n ≤ m then 2 * n - 1 - m else m).toNat

/-- A texel descriptor without a reserved value. -/
def texOk (d : Nat) : Bool := natBits d 33 32 != 3 && natBits d 36 34 ≤ 4 && natBits d 63 37 == 0

/-- floor(x) and x - floor(x) times 2^149, of rnd(rnd(u * n) - 0.5). -/
def texCoord (r : Rm) (u n : Nat) : Option (Int × Nat) :=
  let u := if (exact32 u).isNone then 0 else u
  let w := (Fmt.f32.round .rne false false n 0 false).bits
  (exact32 (gSub r (gMul r u w) 0x3F000000)).map fun x => (x / 2 ^ 149, (x % 2 ^ 149).toNat)

/-- rnd of a product of exact values a * 2^-149 and an f32 value. -/
def texMul (r : Rm) (a y : Nat) : Nat :=
  match Fmt.f32.decode y with
  | .num _ m e => (Fmt.f32.round r false false (a * m) (e - 149) false).bits
  | _ => 0

/-- TXQ's offsets and weights. -/
def texels (r : Rm) (d u v : Nat) : Option (List Nat × List Nat) :=
  let w := d % 65536 + 1
  let h := natBits d 31 16 + 1
  let mode := natBits d 33 32
  match texCoord r u w, texCoord r v h with
  | some (x0, fx), some (y0, fy) =>
    let off := fun (i j : Nat) => (texWrap mode (y0 + j) h * w + texWrap mode (x0 + i) w) * 2 ^ natBits d 36 34 % 2 ^ 32
    let g := fun (a : Nat) => (Fmt.f32.round r false false (2 ^ 149 - a) (-149) false).bits
    let gx := g fx
    let gy := g fy
    some ([off 0 0, off 1 0, off 0 1, off 1 1], [gMul r gx gy, texMul r fx gy, texMul r fy gx,
      (Fmt.f32.round r false false (fx * fy) (-298) false).bits])
  | _, _ => none

/-- TXQ (R170). A coordinate whose product overflows to infinity has no floor: its results are free values (log 35). -/
def execTxq (f : GfxNode) (s : State) : Host.Outcome State Fault Refusal :=
  let c := s.cur
  let h := f.toHdr
  let d := (orNull c.b).word.toNat
  let l := (orNull c.a).lanes 32
  let out := fun (x y : Val) => emit2 c h 8 c.tag x y
  (node c h (Instr.txq f).sig 8 c.tag (
    if !texOk d then raiseFault c h 8 causeIllegal
    else match texels (Rm.ofCode f.rm.toNat 0) d (l.getD 0 0) (l.getD 1 0) with
      | some (offs, wts) => out (vecVal 32 offs) (vecVal 32 wts)
      | none => withFreeVector fun x => withFreeVector fun y =>
        out (.vector (x &&& (2 ^ 128 - 1))) (.vector (y &&& (2 ^ 128 - 1))))).next s

/-! ### BLND (R171, R172) -/

/-- Bytes of a screen tile. -/
def tileBytes : Nat := 49216

/-- OWNER of a BLND node (R171). -/
def ownerWord (c : Firing) : Nat :=
  (dieOf c.sid + 1) * 2 ^ 24 + xOf c.sid * 2 ^ 18 + yOf c.sid * 2 ^ 13 + c.frm * 2 ^ 11 + c.node

/-- One channel of a blend: source, source alpha, destination as f32, and the result as f16. Of two zeros of opposite sign mode 3
takes the source, which R172 leaves open (log 119). -/
def blendChannel (r : Rm) (mode sk a dk : Nat) : Nat :=
  let o := match mode with
    | 0 => sk
    | 1 => gAdd r (gMul r sk a) (gMul r dk (gSub r 0x3F800000 a))
    | 2 => gAdd r sk dk
    | _ => (fpMinMax .f32 { Fpcm.ieee with nanm := 2 } false sk dk).bits
  (fpToFp .f32 .f16 .ieee r o).bits

/-- What applying a fragment does: the pixel's new bytes when it is written, the pr, and a fault cause. -/
def applyFragment (f : GfxNode) (s : State) (die addr : Nat) (a : W512) : Option (Nat × List Byte) × Bool × Option Nat :=
  let l := (Val.vector a).lanes 32
  let at_ := fun (k : Nat) => l.getD k 0
  let p := at_ 5
  if 4095 < p then (none, false, some causeIllegal)
  else if (at_ 6).testBit 0 then (none, false, none)
  else if s.vaultBad die (addr + 64 + 12 * p) 12 then (none, false, some causeEcc)
  else
    let old := s.vaultRead die (addr + 64 + 12 * p) 12
    let depth := field12 old
    let test := f.gmode.toNat / 4
    let pass := test == 0 || (test == 1 && gLt (at_ 4) depth) || (test == 2 && gLe (at_ 4) depth)
    if !pass then (none, false, none)
    else
      let r := Rm.ofCode f.rm.toNat 0
      let rgba := (List.range 4).map fun k =>
        let d := (fpToFp .f16 .f32 .ieee .rne (leNat ((old.drop (2 * k)).take 2))).bits
        blendChannel r (f.gmode.toNat % 4) (at_ k) (at_ 3) d
      (some (addr + 64 + 12 * p, (rgba.flatMap fun x => leBytes x 2) ++ leBytes (if test = 0 then depth else at_ 4) 4), true, none)
where
  field12 (bs : List Byte) : Nat := leNat (bs.drop 8)

def setBlnd (c : Firing) (w : BlndWin) : Cmd :=
  modElem c.sid fun e => { e with blnds := (e.blnds.filter fun x => !(x.frm == w.frm && x.node == w.node && x.addr == w.addr)) ++ [w] }
def dropBlnd (c : Firing) (addr : Nat) : Cmd :=
  modElem c.sid fun e => { e with blnds := e.blnds.filter fun x => !(x.frm == c.frm && x.node == c.node && x.addr == addr) }

/-- The unit applies a fragment and emits its pr; then held fragments whose turn has come (R172). -/
def applyAll (f : GfxNode) (c : Firing) (die lat : Nat) (w : BlndWin) (g : Fragment) : Nat → Cmd
  | 0 => .skip
  | fuel + 1 => .get fun s =>
    let (store, written, bad) := applyFragment f s die w.addr g.a
    let mine := { c with tag := g.tag }
    let next := (w.next + 1) % 2 ^ 32
    let w' := { w with next := next }
    .all [
      Cmd.opt store fun (a, bs) => vaultWrite die a bs,
      match bad with
      | some cause => raiseFault mine f.toHdr lat cause
      | none => emit mine f.toHdr lat g.tag (.bit written),
      match w'.frags.find? fun (k, _) => k == next with
      | some (_, h) => applyAll f c die lat { w' with frags := w'.frags.filter fun (k, _) => k != next } h fuel
      | none =>
        if w'.frags.isEmpty then .all [
          vaultWrite die w.addr (leBytes next 4 ++ leBytes 0 4),
          dropBlnd c w.addr,
          wakeBlends die]
        else .seq (setBlnd c w') (wakeBlends die)]

/-- BLND (R172, R325): a fragment with its tile and sequence number. -/
def execBlnd (f : GfxNode) (s : State) : Host.Outcome State Fault Refusal :=
  let c := s.cur
  let h := f.toHdr
  let g := (Instr.blnd f).sig
  let die := dieOf c.sid
  let addr := (orNull c.b).word.toNat % 2 ^ 32
  let seq := (orNull c.c).word.toNat % 2 ^ 32
  let lat := 16 + vaultHops (vaultAbove c.sid) (addr / 2 ^ 24) + eSlotWait s.now
  let fault := fun (cause : Nat) => Cmd.seq (markFired c) (raiseFault c h lat cause)
  let frag : Fragment := ⟨seq, (orNull c.a).wide, c.tag⟩
  Cmd.next (
    if c.poison?.isSome || c.off h.pred then node c h g lat c.tag .skip
    else if addr % 64 != 0 then fault causeAlign
    else if !s.vaultAllowed c.ctx addr tileBytes then fault causeProt
    else
      let mine := (s.elem c.sid).blnds.filter fun w => w.frm == c.frm && w.node == c.node
      let run := fun (w : BlndWin) =>
        let d := (seq + 2 ^ 32 - w.next) % 2 ^ 32
        if d = 0 then Cmd.seq (markFired c) (applyAll f c die lat w frag 18)
        else if 2 ^ 31 ≤ d || w.frags.any fun (k, _) => k == seq then fault causeIllegal
        else if d ≤ 15 then .all [
          markFired c,
          vaultWrite die (addr + 4) (leBytes (ownerWord c) 4),
          setBlnd c { w with frags := w.frags ++ [(seq, frag)] }]
        else park (.blnd f) c .blend
      match mine.find? fun w => w.addr == addr with
      | some w => run w
      | none =>
        if s.vaultBad die addr 8 then fault causeEcc
        else
          let head := s.vaultRead die addr 8
          let owner := leNat (head.drop 4)
          if (owner != 0 && owner != ownerWord c) || 4 ≤ mine.length then park (.blnd f) c .blend
          else run ⟨c.frm, c.node, addr, leNat (head.take 4), []⟩) s

/-! ### SEQT (R173) -/

/-- The number of a SEQT node among its region's (R173): the block's address and the node's number. -/
def State.seqtKey (s : State) (f : Firing) : Nat := 128 * (match s.blockOf f with | some b => b.addr | none => 0) + f.node

/-- The counters of the node that fires. -/
def State.seqtOf (s : State) (f : Firing) : Tbl Nat := match s.region? f.ctx f.rgn with
  | some r => r.seqt.getD (s.seqtKey f) []
  | none => []

/-- SEQT (R173): counter[a], then its next value or zero. -/
def execSeqt (f : GfxNode) (s : State) : Host.Outcome State Fault Refusal :=
  let c := s.cur
  let h := f.toHdr
  let a := (orNull c.a).word.toNat % 2 ^ 32
  let old := (s.seqtOf c).getD a 0
  let new := if f.gmode = 0 then (old + 1) % 2 ^ 32 else 0
  (node c h (Instr.seqt f).sig 1 c.tag (
    if 255 < a then raiseFault c h 1 causeIllegal
    else .seq (modRegion c.ctx c.rgn fun r => { r with seqt := r.seqt.set (s.seqtKey c) ((s.seqtOf c).set a new) })
      (emit c h 1 c.tag (.scalar (BitVec.ofNat 64 old))))).next s

end Sys2Proof.Machine
end

