-- ==== Sys2Proof/Machine/System.lean ====
section
/-! DEFINITION. The system class (R219 to R230): traps, records, held ports, special registers, time, counters, breakpoints,
the jobs that a node places with the job scheduler, dirty words, and DONE. -/

namespace Sys2Proof.Machine

/-! ### Privilege (R219, R220, R363) -/

def State.priv (s : State) (ctx : Nat) : Nat := match s.ctx? ctx with | some c => c.priv | none => 0

/-- A system S node that needs a privilege: a firing without it takes fault PROT. -/
def guarded (c : Firing) (h : Hdr) (g : Sig) (lat : Nat) (ok : Bool) (k : Cmd) : Cmd :=
  node c h g lat c.tag (if ok then k else raiseFault c h lat causeProt)

/-- Whether a firing may use the fault ring or the ports of a context (R220): privilege 2, level 1 in its VD, or the context's
own handler actor. -/
def State.mayHandle (s : State) (f : Firing) (ctx : Nat) : Bool :=
  match s.priv f.ctx with
  | 2 => true
  | p => match s.ctx? ctx with
    | none => false
    | some c => (p == 1 && c.vd == s.vdOfCtx f.ctx) || (ctx == f.ctx && (match s.region? f.ctx f.rgn with
        | some r => (c.image.actors.getD r.actor ⟨0, 0, 0, 0⟩).inMask.getLsbD 63
        | none => false))

/-! ### Faults and recovery -/

/-- TRAP (R221): a sink; a value writes a TRAP record. -/
def execTrap (f : SysSNode) (s : State) : Host.Outcome State Fault Refusal :=
  let c := s.cur
  (sinkNode c f.toHdr false (.get fun s => writeFault c.sid { s.recordAt c causeTrap with
    vala := (orNull c.a).word, detail := f.lit.toNat % 65536 })).next s

/-- FREC (R223): removes the oldest record of a ring; all zeros when it is empty. -/
def execFrec (f : SysSNode) (s : State) : Host.Outcome State Fault Refusal :=
  let c := s.cur
  let h := f.toHdr
  let sel := (orNull c.a).word.toNat % 65536
  let ctx := if sel = 65535 then c.ctx else sel
  let out := fun (x : W512) => emit c h 8 c.tag (.vector x)
  (guarded c h (Instr.frec f).sig 8 (s.mayHandle c ctx) (match s.ctx? ctx with
    | none => out 0
    | some x => match x.ring with
      | [] => out 0
      | r :: rest => .seq (modCtx ctx fun x => { x with ring := rest }) (out r.bits))).next s

/-- The operation held at the port that two record words name (R223): word 8 gives the element, word 0 VD and CTX. -/
def State.heldPort (s : State) (w0 w8 : W64) : Option (Nat × MemOp) :=
  let sid := sidAt (natBits w8.toNat 1 0) (natBits w8.toNat 7 2) (natBits w8.toNat 12 8)
  match (s.elem sid).portHold with
  | none => none
  | some id => match s.op? id with
    | some o =>
      let frozen : Bool := match s.region? o.f.ctx o.f.rgn with | some r => r.stopped | none => true
      if o.f.ctx = natBits w0.toNat 31 16 && s.vdOfCtx o.f.ctx == natBits w0.toNat 13 8 && !frozen && o.phase == .held then some (id, o)
      else none
    | none => none

/-- A request whose translation failed runs again (R199). -/
def againOp (id : Nat) : Cmd := .get fun s => Cmd.opt (s.op? id) fun o =>
  if o.isMemory then translateOp id
  else .seq (modOp id fun x => { x with phase := .ordered }) (after 0 (.storeResolve id))

/-- The hold at an element's port ends; the request that failed behind it tries again. -/
def endHold (sid : Nat) : Cmd := .get fun s => .seq
  (modElem sid fun e => { e with portHold := none, portQueue := e.portQueue.drop 1 })
  (Cmd.opt (s.elem sid).portQueue.head? againOp)

/-- RETRY.resume: the held request runs again (R199). -/
def resumeHold (id : Nat) (o : MemOp) : Cmd := .seq (againOp id) (endHold o.f.sid)

/-- RETRY.skip: the held firing completes as a null firing (R223); a queue claim that it made is voided (R211). -/
def skipHold (id : Nat) (o : MemOp) : Cmd := .all [endHold o.f.sid, voidClaim o, nullResult o, nullOp id]

def retryNode (i : Instr) (h : Hdr) (act : Nat → MemOp → Cmd) (s : State) : Host.Outcome State Fault Refusal :=
  let c := s.cur
  let w0 := (orNull c.a).word
  (guarded c h i.sig 1 (s.mayHandle c (natBits w0.toNat 31 16)) (match s.heldPort w0 (orNull c.b).word with
    | some (id, o) => .seq (act id o) (emit c h 1 c.tag (.bit true))
    | none => emit c h 1 c.tag (.bit false))).next s

/-- RETRY.resume (R223). -/
def execRetryResume (f : SysSNode) (s : State) : Host.Outcome State Fault Refusal :=
  retryNode (.retryResume f) f.toHdr resumeHold s
/-- RETRY.skip (R223). -/
def execRetrySkip (f : SysSNode) (s : State) : Host.Outcome State Fault Refusal := retryNode (.retrySkip f) f.toHdr skipHold s

/-- POIS.make (R222). -/
def execPoisMake (f : SysSNode) (s : State) : Host.Outcome State Fault Refusal :=
  let c := s.cur
  let o := c.origin (s.vdOfCtx c.ctx) (f.lit.toNat % 256)
  (node c f.toHdr (Instr.poisMake f).sig 1 c.tag (.seq (freshFault c o) (emitPoison c f.toHdr 1 c.tag o))).next s

/-- POIS.test (R222): consumes a poison on a without a record. -/
def execPoisTest (f : SysSNode) (s : State) : Host.Outcome State Fault Refusal :=
  let c := s.cur
  let h := f.toHdr
  let out := fun (b : Bool) (v : Val) => emit2 c h 1 c.tag (.bit b) v
  Cmd.next (match c.a, c.p with
    | _, some (.poison o) => .seq (markFired c) (emitPoison c h 1 c.tag o)
    | some (.poison o), _ => .seq (markFired c) (out true (.scalar o))
    | _, _ => node c h (Instr.poisTest f).sig 1 c.tag (out false (h.ty.pass (orNull c.a)))) s

/-! ### Registers (R102, R103, R224) -/

/-- A special register as RDSR reads it (R102); none when the number is unassigned. -/
def State.sreg (s : State) (f : Firing) (n : Nat) : Option Nat :=
  match s.ctx? f.ctx with
  | none => some 0
  | some c =>
    match n with
    | 0x000 => some c.fpcm
    | 0x001 => some c.fpstat
    | 0x002 => some (c.lease.getD (dieOf f.sid) 0)
    | 0x010 => some f.ctx
    | 0x011 => some c.vd
    | 0x012 => some (dieOf f.sid)
    | 0x013 => some f.rgn
    | 0x014 => some f.tag.toNat
    | 0x020 => some s.ticks.toNat
    | 0x021 => some (s.thermal (dieOf f.sid)).allow
    | 0x030 => some c.siding.base.toNat
    | 0x031 => some c.siding.size
    | 0x032 => some c.siding.use
    | 0x040 => some c.pool.length
    | 0x041 => some c.fcount
    | _ => none

/-- A clock value goes out on D0 (R225): captured, or taken from the ring by a replaying context, which waits when the ring
has no further one (R425, R426). -/
def emitClock (i : Instr) (c : Firing) (h : Hdr) (v : W64) : Cmd := .get fun s =>
  let dest := c.destA 0 h.d0
  if s.replaying c.ctx then match s.replayed c.ctx 3 c.rgn (some dest) c.tag with
    | some (r, drop) => .seq drop (emit c h 1 c.tag r.val)
    | none => park i c .time
  else .seq (capture c.ctx ⟨3, c.rgn, BitVec.ofNat 32 dest, c.tag, (Val.scalar v).payload⟩) (emit c h 1 c.tag (.scalar v))

/-- RDSR (R224). -/
def execRdsr (f : SysSNode) (s : State) : Host.Outcome State Fault Refusal :=
  let c := s.cur
  let h := f.toHdr
  (node c h (Instr.rdsr f).sig 1 c.tag (match s.sreg c f.sreg.toNat with
    | some x =>
      if f.sreg = 0x020 then emitClock (.rdsr f) c h (BitVec.ofNat 64 x)
      else emit c h 1 c.tag (.scalar (BitVec.ofNat 64 x))
    | none => raiseFault c h 1 causeIllegal)).next s

/-- A write of LEASE (R102): 0 stores 1, bits above 9 are ignored. -/
def leaseWrite (v : Nat) : Nat := if v % 1024 = 0 then 1 else v % 1024

/-- WRSR (R224): FPSTAT bits clear by ones, LEASE is written on every die of the context; other registers ignore it. -/
def execWrsr (f : SysSNode) (s : State) : Host.Outcome State Fault Refusal :=
  let c := s.cur
  let h := f.toHdr
  let v := (litOr f.l f.lit c.b).toNat
  let out := emit c h 1 c.tag (h.ty.pass (orNull c.a))
  (node c h (Instr.wrsr f).sig 1 c.tag (match f.sreg.toNat, s.sreg c f.sreg.toNat with
    | _, none => raiseFault c h 1 causeIllegal
    | 0x001, _ => .seq (modCtx c.ctx fun x => { x with fpstat := clearFpstat x.fpstat v }) out
    | 0x002, _ => .seq (modCtx c.ctx fun x => { x with lease := x.lease.map fun _ => leaseWrite v }) out
    | _, _ => out)).next s

/-! ### Time (R225) -/

/-- TIME.now (R225). -/
def execTimeNow (f : SysSNode) (s : State) : Host.Outcome State Fault Refusal :=
  let c := s.cur
  let h := f.toHdr
  (node c h (Instr.timeNow f).sig 1 c.tag (emitClock (.timeNow f) c h s.ticks)).next s

/-- The parked entry of the firing being executed, if it waits already. -/
def State.parkedSelf (s : State) (c : Firing) : Option Parked := (s.elem c.sid).parked.find? fun p => p.isFiring c

/-- A firing that waited goes on: its parked entry is freed. -/
def unparkSelf (c : Firing) : Cmd := .get fun s => match s.parkedSelf c with
  | some p => forgetParked p
  | none => .skip

/-- A node that emits a once a cycle is reached: until then it waits as a parked entry, which may spill (R251). `since` gives the cycle of the
firing. -/
def waitUntil (i : Instr) (c : Firing) (h : Hdr) (g : Sig) (due : Nat → Nat) : Cmd := .get fun s =>
  if c.poison?.isSome || c.off h.pred then node c h g 1 c.tag .skip
  else
    let since := match s.parkedSelf c with | some p => p.since | none => s.now
    let at_ := due since
    let go := Cmd.seq (markFired c) (emit c h 1 c.tag (h.ty.pass (orNull c.a)))
    if at_ ≤ s.now then match s.parkedSelf c with | some p => unparkThen p go | none => go
    else .seq (if (s.parkedSelf c).isSome then .skip else park i c .time) (afterTask (at_ - s.now) (.refire i c))

/-- TIME.until (R225): TICKS reaches b. -/
def execTimeUntil (f : SysSNode) (s : State) : Host.Outcome State Fault Refusal :=
  let b := (litOr f.l f.lit s.cur.b).toNat
  (waitUntil (.timeUntil f) s.cur f.toHdr (Instr.timeUntil f).sig fun _ => b).next s

/-- TIME.after (R225): at least max(b, 1) cycles after the firing. -/
def execTimeAfter (f : SysSNode) (s : State) : Host.Outcome State Fault Refusal :=
  let b := (litOr f.l f.lit s.cur.b).toNat
  (waitUntil (.timeAfter f) s.cur f.toHdr (Instr.timeAfter f).sig fun since => since + max b 1).next s

/-! ### Counters (R226) -/

/-- A counter of a VD on a die; the die counters stand under VD 0. -/
def State.counter (s : State) (die vd number : Nat) : Nat := s.ten.counters.getD (2 ^ 20 * vd + 4 * number + die) 0

/-- Whether a counter number is assigned. -/
def counterAssigned (n : Nat) : Bool := n ≤ 9 || (0x10 ≤ n && n ≤ 0x61) || (0x100 ≤ n && n ≤ 0x102)

/-- The value CNTR emits. Cycles with the allowance below 255 go on counting between changes of it. -/
def State.cntr (s : State) (f : Firing) (n : Nat) : Nat :=
  let die := dieOf f.sid
  if n < 0x100 then s.counter die (s.vdOfCtx f.ctx) n
  else if s.priv f.ctx < 2 then 0
  else s.counter die 0 n + (if n = 0x102 && (s.thermal die).allow < 255 then s.now - (s.thermal die).accAt else 0)

/-- CNTR (R226). -/
def execCntr (f : SysSNode) (s : State) : Host.Outcome State Fault Refusal :=
  let c := s.cur
  let h := f.toHdr
  let n := f.sreg.toNat
  (node c h (Instr.cntr f).sig 1 c.tag (if counterAssigned n then emit c h 1 c.tag (.scalar (BitVec.ofNat 64 (s.cntr c n)))
    else raiseFault c h 1 causeIllegal)).next s

/-! ### Breakpoints (R221) -/

/-- BKPT (R221): MOV without debug; with debug it writes a record and withholds its result until a resume or a step. -/
def execBkpt (f : SysSNode) (s : State) : Host.Outcome State Fault Refusal :=
  let c := s.cur
  let h := f.toHdr
  let debug := s.debugOn c.ctx
  (node c h (Instr.bkpt f).sig 1 c.tag (
    if debug then .seq (writeRecord { s.recordAt c causeBkpt with detail := f.lit.toNat % 65536, vala := (orNull c.a).word })
      (park (.bkpt f) c .debug)
    else emit c h 1 c.tag (h.ty.pass (orNull c.a)))).next s

/-- A debug resume or step releases a waiting BKPT, which emits a. -/
def releaseBkpt (p : Parked) : Cmd := .seq (forgetParked p) (emit p.f p.i.hdr 1 p.f.tag (p.i.hdr.ty.pass (orNull p.f.a)))

/-! ### Jobs (R227, R228) -/

/-- A system M node (R202, R219): privilege, then the alignment of its stamp, at firing. -/
def jobNode (i : Instr) (s : State) (level : Nat) (stamp : Firing → Nat) : Host.Outcome State Fault Refusal :=
  (memNode i s.cur fun id o =>
    if s.priv s.cur.ctx < level then .seq (addOp id o) (faultOp id o causeProt 0 0)
    else if stamp s.cur % 8 != 0 then .seq (addOp id o) (faultOp id o causeAlign 0 (BitVec.ofNat 64 (stamp s.cur)))
    else plainOp id o).next s

/-- SNAP (R227). -/
def execSnap (f : SysMNode) (s : State) : Host.Outcome State Fault Refusal := jobNode (.snap f) s 1 Firing.argC
/-- CTXSV (R227). -/
def execCtxsv (f : SysMNode) (s : State) : Host.Outcome State Fault Refusal := jobNode (.ctxsv f) s 1 Firing.argC
/-- CTXLD (R227). -/
def execCtxld (f : SysMNode) (s : State) : Host.Outcome State Fault Refusal := jobNode (.ctxld f) s 1 Firing.argC
/-- VDCTL.stop (R228). -/
def execVdctlStop (f : SysMNode) (s : State) : Host.Outcome State Fault Refusal := jobNode (.vdctlStop f) s 2 Firing.argB
/-- VDCTL.resume (R228). -/
def execVdctlResume (f : SysMNode) (s : State) : Host.Outcome State Fault Refusal := jobNode (.vdctlResume f) s 2 Firing.argB
/-- VDCTL.reset (R228). -/
def execVdctlReset (f : SysMNode) (s : State) : Host.Outcome State Fault Refusal := jobNode (.vdctlReset f) s 2 Firing.argB
/-- VDCTL.trackon (R228). -/
def execVdctlTrackon (f : SysMNode) (s : State) : Host.Outcome State Fault Refusal := jobNode (.vdctlTrackon f) s 2 Firing.argB
/-- VDCTL.trackoff (R228). -/
def execVdctlTrackoff (f : SysMNode) (s : State) : Host.Outcome State Fault Refusal := jobNode (.vdctlTrackoff f) s 2 Firing.argB

/-- A job node's job is accepted (R227): it gets the next number of its VD, and the node resolves with that number. -/
def placeJob (id : Nat) (o : MemOp) (kind : JobKind) (target area stamp : Nat) (extents : List Extent) : Cmd := .get fun s =>
  let vd := s.vdOfCtx o.f.ctx
  let seq := (s.vd vd).jobSeq + 1
  withSerial fun n => .all [
    modVd vd fun v => { v with jobSeq := seq },
    setJob n { Job.blank (dieOf o.f.sid) vd o.f.ctx with
      kind := kind, state := .blocked, extents := extents ++ [⟨stamp, 16, true⟩], stamp := BitVec.ofNat 64 stamp, sval := BitVec.ofNat 64 seq,
      pts := s.opPts o, target := target, area := BitVec.ofNat 64 area },
    modOp id fun x => { x with phase := .sent },
    replyWord id seq, acceptOp id,
    after 1 (.jobUnblock n)]

/-- The extents of a save area that a job uses: its LEN bytes, or the header when it cannot be read. -/
def State.areaExtent (s : State) (die vd area : Nat) (write : Bool) : List Extent :=
  [⟨area, max 64 (s.engNat die vd area 8), write⟩]

/-- What a system M node asks once it is ordered. -/
def systemOp (id : Nat) (o : MemOp) : Cmd := .get fun s =>
  let c := o.f
  let die := dieOf c.sid
  let vd := s.vdOfCtx c.ctx
  let saving := fun (k : JobKind) (w : Bool) => placeJob id o k c.argA c.argB c.argC (s.areaExtent die vd c.argB w)
  let control := fun (sub : Nat) => placeJob id o (.vdctl sub) c.argA 0 c.argB []
  match o.i with
  | .snap _ => saving .snap true
  | .ctxsv _ => saving .ctxsv true
  | .ctxld _ => saving .ctxld false
  | .vdctlStop _ => control 0
  | .vdctlResume _ => control 1
  | .vdctlReset _ => control 2
  | .vdctlTrackon _ => control 3
  | .vdctlTrackoff _ => control 4
  | .dirty _ =>
    let v := s.vd (c.argA % 64)
    let ok := c.argA < 64 && v.state != 0 && 64 * c.argB < Config.frameCount c.argA
    let word := if ok then v.dirty.getD c.argB 0 else 0
    .all [
      .when ok (modVd c.argA fun v => { v with dirty := v.dirty.del c.argB }),
      modOp id fun x => { x with phase := .sent },
      replyOp id (.scalar word) (.bit ok), acceptOp id]
  | _ => .skip

/-- DIRTY (R229). -/
def execDirty (f : SysMNode) (s : State) : Host.Outcome State Fault Refusal := jobNode (.dirty f) s 2 fun _ => 0

/-! ### DONE (R230) -/

/-- Whether the memory firings that an instance waits for at its commit have all issued (R239): the memory nodes of its commit
set have fired, and its loops with memory nodes are over (log 79). -/
def Block.accessed (b : Block) (i : Inst) : Bool :=
  (b.commit.all fun n => i.fired.contains n || b.memNodes.all fun (m, _) => m != n) &&
  b.levelOneBounds.all fun n => (i.wins.any fun (m, outer, _) => m == n && outer == instTag i.dom) ||
    b.memNodes.all fun (m, _) => (b.path m).head? != some n

/-- Whether every memory firing of the instance, and of earlier instances of the activation, has performed at system scope. -/
def State.drained (s : State) (f : Firing) : Bool :=
  let seq := s.seqOf f
  let dom := tagDomain f.tag
  (match s.region? f.ctx f.rgn with
    | some r => r.frames.all fun fr => fr.insts.all fun i => i.dom != dom || seq < i.seq ||
        match fr.block with | some b => b.accessed i | none => true
    | none => true) &&
  s.mem.ops.all fun (_, o) => o.f.ctx != f.ctx || o.dom != tagDomain f.tag || seq < o.inst || o.isPref || o.phase == .done || 3 ≤ o.performed

/-- DONE (R230): waits for the memory firings, then asks the job scheduler to complete the launch; the first wins. -/
def execDone (f : SysSNode) (s : State) : Host.Outcome State Fault Refusal :=
  let c := s.cur
  let h := f.toHdr
  let g := (Instr.done f).sig
  let way := poolLatency s c
  Cmd.next (
    if c.poison?.isSome || c.off h.pred then node c h g 1 c.tag .skip
    else if !s.drained c then
      .seq (if (s.parkedSelf c).isSome then .skip else park (.done f) c .engine) (afterTask 1 (.refire (.done f) c))
    else
      let first : Bool := match s.ctx? c.ctx with | some x => x.exit.isNone | none => false
      .all [
        unparkSelf c,
        markFired c,
        .when first (.seq (modCtx c.ctx fun x => { x with exit := some ((orNull c.a).word.toNat % 2 ^ 32) })
          (match s.ctx? c.ctx with | some x => after (2 * way + 2) (.launchExit x.launch) | none => .skip)),
        emit c h (2 * way) c.tag (.bit first)]) s

end Sys2Proof.Machine
end

