-- ==== Sys2Proof/Machine/Teardown.lean ====
section
/-! DEFINITION. Ending a context (R218, R230, R309, R315, R365, R366, R439): teardown, the return of its grants, and the
launch's exit word and stamp. -/

namespace Sys2Proof.Machine

/-- The exit word of a context that the device ends (R218). -/
def endedWord (reason : Nat) : Nat := 2 ^ 33 + 0xFFFFFF00 + reason

/-- The VDs' launches that wait for grants look again (R345). -/
def wakeLaunches : Cmd := .get fun s =>
  Cmd.each (s.ten.launches.filter fun (_, l) => l.state == .waiting) fun (_, l) => after 0 (.launchGrant l.vd)

/-- A SNAP or CTXSV of a context is in progress, or has not written its stamp (R365). -/
def State.ctxJob (s : State) (ctx : Nat) : Bool := (s.ten.snaps.any fun (_, n) => n.ctx == ctx && n.job.isSome) ||
  s.eng.jobs.any fun (_, j) => (j.kind == .snap || j.kind == .ctxsv) && j.target == ctx && (j.state == .running || j.state == .finishing)

/-- A context whose elements have stopped and for which no access is on its way any more. -/
def State.calm (s : State) (ctx : Nat) : Bool :=
  s.settled ctx && s.mem.ops.all fun (_, o) => o.f.ctx != ctx || !o.isMemory || o.isMwait ||
    (o.phase != .sent && o.phase != .acked && o.phase != .translating)

/-- Tasks that name a context or one of its replicas. -/
def Task.isOf (ctx : Nat) : Task → Bool
  | .refire _ f => f.ctx == ctx
  | .ev (.frameFilled c _ _) | .ev (.replicaAvailable c _) | .ev (.replicaGone c _) | .ev (.watchdogExpire c)
  | .ev (.drainOverdue c) | .ev (.teardown c) | .ev (.blockStart c _) | .ev (.instanceCommit c _ _ _) | .ev (.delivery c _)
  | .ev (.domainFree c _) | .ev (.sidefull c) => c == ctx
  | _ => false

/-- Matrix-unit halves of the package (R289). -/
def allHalves : List Nat := (List.range 4).flatMap fun d => (List.range 128).map (128 * d + ·)

/-- Discard what a context has in flight (R315, R366 steps 2 to 4): tokens, entries, requests, matrix-unit entries, groups. -/
def discardContext (ctx : Nat) : Cmd := .get fun s => .all [
  Cmd.each (s.mem.ops.filter fun (_, o) => o.f.ctx == ctx) fun (_, o) => voidClaim o,
  Cmd.each (s.eng.halves.map (·.1)) fun h => after 0 (.mxAbort h ctx),
  killMembers ctx,
  .prim (.mem fun m => { m with ops := m.ops.filter fun (_, o) => o.f.ctx != ctx }),
  .prim (.blocks fun r => { r with
    reads := r.reads.filter fun (_, q) => q.f.ctx != ctx
    pools := r.pools.filter fun (_, q) => q.f.ctx != ctx
    reservations := r.reservations.filter fun (_, q) => q.ctx != ctx }),
  .prim (.fab fun f => { f with spills := f.spills.filter fun (_, p) => p.ctx != ctx }),
  .prim (.ten fun t => { t with maps := t.maps.filter fun (_, q) => q.ctx != ctx, snaps := t.snaps.filter fun (_, n) => n.ctx != ctx }),
  .prim (.eng fun e => { e with groups := e.groups.filter fun (k, _) => groupCtx k != ctx }),
  .prim (.drop (Task.isOf ctx))]

/-- Return every grant of a context (R366 step 5): regions, domains, vault areas, its CTXID. -/
def releaseContext (ctx : Nat) : Cmd := .get fun s => .all [
  Cmd.each (s.regionsOf ctx) releaseReplica,
  freeVault ctx,
  .prim (.svc fun v => { v with replays := v.replays.del ctx }),
  modVd (s.vdOfCtx ctx) (fun v => if v.supervisor == some ctx then { v with supervisor := none } else v),
  .prim (.ten fun t => { t with ctxs := t.ctxs.del ctx }),
  wakeLaunches]

/-- Write a launch's exit word and stamp (R218); where they cannot be written the supervisor's handler gets the record
(R439). A STAMP of zero asks for neither. An interrupt follows the stamp (R400). -/
def writeExit (l : Launch) (word : Nat) : Cmd := .get fun s =>
  let stamp := field l.packet 48 8
  .when (stamp != 0) (writeStamp l.die l.vd stamp (some word) (field l.packet 56 4) (s.hzn (l.die % 4))
    (fun cause a => supervisorFault l.vd l.die cause a) (sendInterrupt l.vd 2))

/-- DONE of a launch's queue descriptor counts its stamp (R299, R344). -/
def launchDone (l : Launch) : Cmd := .get fun s =>
  let at_ := s.descriptor l.vd l.queue true + 32
  .when ((s.engError l.die l.vd at_ 8 .write).isNone)
    (engWrite l.die l.vd at_ (leBytes (s.engNat l.die l.vd at_ 8 + 1) 8) (s.hzn (l.die % 4)) fun _ => .skip)

/-- Whether the place of a launch's exit word, its stamp or DONE waits at home. -/
def State.exitWaits (s : State) (l : Launch) : Bool :=
  let p := s.hzn (l.die % 4)
  let stamp := field l.packet 48 8
  (stamp != 0 && s.stampWaits l.die l.vd stamp true p) || s.engWaits l.die l.vd (s.descriptor l.vd l.queue true + 32) 8 (.store p)

/-- A launch is over: its exit word and stamp are written, then DONE, and what waited for it looks again (R346). While one of
their places waits at home, so does the launch. -/
def endLaunch (id word : Nat) : Cmd := .get fun s => match s.ten.launches.get? id with
  | none => .skip
  | some l => if s.exitWaits l then
      .seq (modLaunch id fun l => { l with exit := some word, ctx := none, state := .ended }) (after 1 (.launchExit id))
    else .all [
      writeExit l word,
      launchDone l,
      .prim (.ten fun t => { t with launches := t.launches.del id }),
      dropJob id,
      wakeJobs l.vd,
      wakeLaunches]

/-- Ask for the end of a context with an exit word (R365, R366). The first reason stands. -/
def endContext (ctx word : Nat) : Cmd := .seq
  (modCtx ctx fun c => if c.exit.isNone then { c with exit := some word } else c)
  (after 0 (.teardown ctx))

/-- TEARDOWN (R366): the regions are frozen; once they have settled, everything is discarded and returned, and the launch
ends. It waits for a context job in progress to write its stamp (R365). -/
def execTeardown (ctx : Nat) (s : State) : Host.Outcome State Fault Refusal :=
  Cmd.next (match s.ctx? ctx with
    | none => .skip
    | some c =>
      let again := after 1 (.teardown ctx)
      let stopping := c.state == .freezing || c.state == .frozen
      if s.ctxJob ctx then again
      else if !stopping then .seq (freezeContext ctx) again
      else if !s.calm ctx then again
      else .all [
        discardContext ctx,
        releaseContext ctx,
        modLaunch c.launch fun l => { l with exit := some (c.exit.getD (endedWord 2)), ctx := none, state := .ended },
        after 0 (.launchExit c.launch)]) s

/-- Whether something of a context still moves (R230, R44): a token, a ready entry, a block or instance on its way, an access
that can go on. A firing that waits for an event of its own, an engine or a held port does not (log 44). -/
def State.moves (s : State) (ctx : Nat) : Bool :=
  ((s.regionsOf ctx).any fun r =>
    (r.starts.any fun q => !s.waitsFrame ctx r.rgn q) || (r.frames.any fun f => f.filling.isSome) ||
    r.sites.any fun sid =>
      let e := s.elem sid
      let stalled := fun (x : ReadyEntry) => e.portHold.isSome && (match e.slots.get? x.slot with
        | some n => (match decode n.word with | .ok i => portNode i | .error _ => false) | none => false)
      let waiting := match e.held with | some (_, .setBusy) | none => false | some _ => true
      !e.outs.isEmpty || e.ready.any (!stalled ·) || e.parked.any (·.released) ||
        (!waiting && (e.inC.isSome || e.inS.isSome || e.inV.isSome)) ||
        [Net.control, .scalar, .vector].any fun n => !(s.box (boxKey sid n)).bufs.isEmpty) ||
  (s.run.reads.any fun (_, q) => q.f.ctx == ctx && !s.writePending q.f q.reg q.vec) ||
  (s.run.pools.any fun (_, q) => q.f.ctx == ctx && q.reply.isSome) ||
  (s.run.reservations.any fun (_, q) => q.ctx == ctx && q.slot.isSome) ||
  (s.fab.spills.any fun (_, p) => p.ctx == ctx) ||
  (s.mem.ops.any fun (k, o) => o.f.ctx == ctx && s.stirs k o)

/-- LAUNCH_EXIT (R218, R230, R347): once every region of the context of a launch that DONE has ended is quiet, or frozen, the
context is torn down; after it the exit word and the stamp are written. -/
def execLaunchExit (l : Nat) (s : State) : Host.Outcome State Fault Refusal :=
  Cmd.next (match s.ten.launches.get? l with
    | none => .skip
    | some x => match x.ctx with
      | some c => Cmd.opt (s.ctx? c) fun y =>
          if y.state != .frozen && s.moves c then after 1 (.launchExit l) else after 0 (.teardown c)
      | none => Cmd.opt x.exit fun w => endLaunch l w) s

end Sys2Proof.Machine
end

