-- ==== Sys2Proof/Machine/Snapshot.lean ====
section
/-! DEFINITION. Saving and restoring a context (R227, R331, R379 to R385): the cut, the save area, snapshots, CTXSV, checkpoints,
and the restore of CTXLD and of a checkpoint victim. -/

namespace Sys2Proof.Machine

/-! ### The body of a save -/

/-- How an operation stands in a save (R331, R380, R381): one that has not begun is saved as it is, a MWAIT or a GRP still in
Declaring unfired, an engine request with its reply as channel state; an access in flight is not saved. -/
def MemOp.saved (o : MemOp) (declaring : Bool) : Option MemOp :=
  if o.isMwait && o.phase != .done then some { o with phase := .ordered, aux := 0 }
  else if o.phase == .resolving || o.phase == .ordered || o.phase == .held then some o
  else if !o.isMemory && declaring then some { o with phase := .ordered, aux := 0 }
  else if !o.isMemory && o.phase != .done then some { o with phase := .acked }
  else none

/-- Whether a firing is a GRP whose group slot is Declaring. -/
def State.declaring (s : State) (id : Nat) : Bool := s.eng.groups.any fun (_, g) => g.state == .declaring && g.grp == some id

/-- Whether an operation is in flight at the cut, so that its result is waited for (R381). -/
def State.inFlight (s : State) (id : Nat) (o : MemOp) : Bool :=
  !(o.isMwait || s.declaring id) && (o.phase == .sent || o.phase == .acked || o.phase == .translating)

/-- A replica's sites as they stand. -/
def State.savedRegion (s : State) (r : Region) : SavedRegion where
  rgn := r.rgn
  region := r
  elements := r.sites.map fun sid => (sid, s.elem sid)
  sets := s.fab.sets.filter fun (k, _) => r.setKeys.contains k
  boxes := s.fab.boxes.filter fun (k, _) => r.sites.contains (k / 3)

/-- Everything of a context at one moment (R382), with the LFSRs of its VD's unit halves on its dies (R297). -/
def State.saveOf (s : State) (ctx : Nat) (c : Ctx) : Save where
  ctxid := ctx
  ctx := c
  launch := s.ten.launches.get? c.launch
  regions := (sortBy (·.rgn) (s.regionsOf ctx)).map s.savedRegion
  vaults := if c.image.vaultBytes = 0 then [] else
    (s.diesOf ctx).map fun d => (d, s.vaultRead d c.vaultBase c.image.vaultBytes)
  ops := (s.mem.ops.filter fun (_, o) => o.f.ctx == ctx).filterMap fun (k, o) => (o.saved (s.declaring k)).map fun x => (k, x)
  reads := s.run.reads.filter fun (_, q) => q.f.ctx == ctx
  pools := s.run.pools.filter fun (_, q) => q.f.ctx == ctx
  resvs := s.run.reservations.filter fun (_, q) => q.ctx == ctx
  spills := s.fab.spills.filter fun (_, p) => p.ctx == ctx
  tasks := (s.agenda.map (·.2)).filter fun t => match t with | .refire _ f => f.ctx == ctx | _ => false
  lfsrs := (s.eng.halves.filter fun (k, _) => (s.diesOf ctx).contains (k / 128) && s.halfOwner k == some c.vd).map fun (k, h) => (k, h.lfsrs)
  bytes := []

/-- The bytes of a save area that a context's state needs (R382). -/
def State.saveSize (s : State) (ctx : Nat) (c : Ctx) : Nat :=
  let rs := s.regionsOf ctx
  65536 + rs.foldl (fun n r => n + 147456 * shapeTiles r.shape +
    r.queues.foldl (fun m q => m + 64 + (c.image.queue q.queue).slot * q.depth) 0) 0 + c.image.vaultBytes * (s.diesOf ctx).length

/-- The most that a context of an image can need: every region at its maximum, vault areas on every die (R362, log 62). -/
def Image.checkpointSize (m : Image) : Nat :=
  65536 + 4 * m.vaultBytes + (List.range m.actors.length).foldl (fun n a =>
    n + (m.regionOf a).maxr * (147456 * shapeTiles (m.regionOf a).shape +
      (m.inputs a).foldl (fun k q => k + 64 + (m.queue q).slot * (m.queue q).depth) 0)) 0

/-- Bytes 8 to 63 of a save area (R382). -/
def Save.header (x : Save) (kind : Nat) (frozen : Bool) (ticks : Nat) : List Byte :=
  let dies := x.vaults.foldl (fun n (d, _) => n + 2 ^ d) 0
  leBytes 0x45564153 4 ++ leBytes kind 1 ++ leBytes dies 1 ++ leBytes x.ctxid 2 ++ leBytes x.ctx.vd 1 ++ leBytes (if frozen then 1 else 0) 1 ++
    leBytes 0 2 ++ leBytes x.regions.length 4 ++ leBytes (64 + x.bytes.length) 8 ++ leBytes x.ctx.image.digest 16 ++ leBytes ticks 8 ++
    leBytes (crc32c x.bytes).toNat 4 ++ leBytes 0 4

/-- Write a save area (R382): its header, and the bytes that stand for the body (log 29). -/
def writeSave (die vd area kind size : Nat) (frozen : Bool) (x : Save) (k : Nat → Cmd) : Cmd := withSerial fun n => .get fun s =>
  let y := { x with bytes := (List.range (size - 64)).map fun o => Config.saveByte x.ctxid n (64 + o) }
  .all [
    .prim (.ten fun t => { t with saves := t.saves.set n y }),
    engWrite die vd (area + 8) (y.header kind frozen s.now ++ y.bytes) (s.hzn die) (fun _ => .skip),
    k n]

/-! ### Moving a saved region -/

/-- Where a saved replica goes: the two regions, the CTXID, and what is added to the serial numbers of its firings and
requests so that they stay apart from those of other contexts (log 3). -/
structure Move where
  old : Region
  new : Bind
  ctx : Nat
  off : Nat

namespace Move

def mx (m : Move) (x : Nat) : Nat := x + m.new.x0 - m.old.x0
def my (m : Move) (y : Nat) : Nat := if y < 24 then y + m.new.y0 - m.old.y0 else y
def sid (m : Move) (k : Nat) : Nat := sidAt m.new.die (m.mx (xOf k)) (m.my (yOf k))

/-- DX, DY, SX and SY move by the change of origin (R384). -/
def token (m : Move) (t : Token) : Token := { t with dx := m.mx t.dx, dy := m.my t.dy, sx := m.mx t.sx, sy := m.my t.sy }

def firing (m : Move) (f : Firing) : Firing := { f with
  fid := f.fid + m.off, sid := m.sid f.sid, ctx := m.ctx, d0x := m.mx f.d0x, d0y := m.my f.d0y, d1x := m.mx f.d1x, d1y := m.my f.d1y }

def slot (m : Move) (n : NodeSlot) : NodeSlot := { n with
  ctx := m.ctx, d0x := m.mx n.d0x, d0y := m.my n.d0y, d1x := m.mx n.d1x, d1y := m.my n.d1y }

/-- An element as its new site takes it. The input taken last counts as vector for a region being bound (R30), and requests that wait
behind a held one are translated anew. -/
def element (m : Move) (e : Element) : Element := { e with
  slots := e.slots.map fun (k, n) => (k, m.slot n)
  inC := e.inC.map m.token
  inS := e.inS.map m.token
  inV := e.inV.map m.token
  held := e.held.map fun (t, w) => (m.token t, w)
  outs := e.outs.map fun o => { o with tok := m.token o.tok, fid := o.fid + m.off }
  tlb := []
  lastIn := 2
  portHold := e.portHold.map (· + m.off)
  portQueue := []
  parked := e.parked.map fun p => { p with f := m.firing p.f }
  stopped := false }

/-- A switch box as its new site takes it: for a region being bound the input served last counts as local (R40). -/
def box (m : Move) (b : SwitchBox) : SwitchBox := { b with
  bufs := b.bufs.map fun (d, t) => (d, m.token t), came := [], last := [], passed := [] }

/-- A set's key: its cluster moves with the region. -/
def setKey (m : Move) (k : Nat) : Nat := 64 * clusterOf (m.sid (siteOfSet k 0)) + k % 64

def region (m : Move) (r : Region) : Region := { r with
  ctx := m.ctx
  die := m.new.die
  x0 := m.new.x0
  y0 := m.new.y0
  stopped := false
  queues := r.queues.map fun q => { q with waiting := q.waiting.map (· + m.off) }
  hitches := r.hitches.map fun h => { h with covers := h.covers.map (· + m.off) }
  starts := r.starts.map fun q => { q with origin := q.origin.map m.firing } }

def op (m : Move) (o : MemOp) : MemOp := { o with
  f := m.firing o.f
  covers := o.covers.map (· + m.off)
  attached := o.attached.map (· + m.off) }

def task (m : Move) : Task → Task
  | .refire i f => .refire i (m.firing f)
  | t => t

end Move

/-! ### Restoring -/

/-- One-to-one maps of the four dies, the identity first. -/
def dieMaps : List (List Nat) := (List.range 4).flatMap fun a => (List.range 4).flatMap fun b => (List.range 4).flatMap fun c =>
  (List.range 4).filterMap fun d => if [a, b, c, d].Nodup then some [a, b, c, d] else none

/-- A place for each saved replica under a map of dies (R384 step 2): the saved y0, the lowest column that is free, ready and
without a retired site. -/
def State.placeSaved (s : State) (m : Image) (dies : List Nat) : List SavedRegion → List Bind → Option (List Bind)
  | [], acc => some acc.reverse
  | x :: rest, acc =>
    let r := x.region
    let die := dies.getD r.die 0
    let fixed := (m.regionOf r.actor).die
    let taken := fun (x0 : Nat) => acc.any fun b => b.die == die && b.x0 < x0 + shapeCols r.shape && x0 < b.x0 + shapeCols b.shape
      && b.y0 < r.y0 + shapeRows r.shape && r.y0 < b.y0 + shapeRows b.shape
    match (originsOf r.shape [r.y0]).find? fun (x0, y0) => !s.areaTaken die x0 y0 r.shape && !taken x0 &&
        (s.retiredIn die x0 y0 r.shape).isEmpty && s.quadsReady die x0 y0 r.shape with
    | none => none
    | some (x0, y0) =>
      if 3 < fixed || fixed = die then s.placeSaved m dies rest (⟨x.rgn, r.actor, r.replica, r.source, die, x0, y0, r.shape⟩ :: acc) else none

/-- The grants of a restore (R384 step 2, R352, R353): saved tags keep their domains, so the saved run must be free (log 63). -/
def State.planRestore (s : State) (x : Save) (vd : Nat) : Option (List Nat × List Bind) :=
  let v := s.vd vd
  let c := x.ctx
  let tiles := x.regions.foldl (fun n r => n + shapeTiles r.region.shape) 0
  let run := s.runFree c.cbase c.image.dcount && v.dbase ≤ c.cbase && c.cbase + c.image.dcount ≤ v.dbase + v.dsize
  let lone := c.priv != 1 || v.supervisor.isNone
  if !run || !lone || v.tiles < s.tilesUsed vd + tiles then none
  else dieMaps.findSome? fun dies => match s.placeSaved c.image dies x.regions [] with
    | none => none
    | some bs =>
      if s.vaultFree ((x.vaults.map fun (d, _) => dies.getD d 0)) c.vaultBase c.image.vaultBytes || x.vaults.isEmpty then some (dies, bs) else none

/-- The moves of a restore. -/
def Save.moves (x : Save) (binds : List Bind) (ctx off : Nat) : List Move :=
  (x.regions.zip binds).map fun (r, b) => ⟨r.region, b, ctx, off⟩

/-- The move of the replica that a firing belongs to. -/
def moveOf (ms : List Move) (rgn : Nat) : Option Move := ms.find? fun m => m.old.rgn == rgn

/-- Put one replica back: its relocation entry, elements, sets and boxes (R384 steps 3 and 4). -/
def restoreRegion (m : Move) (x : SavedRegion) : Cmd := .all [
  clearSites { m.old with die := m.new.die, x0 := m.new.x0, y0 := m.new.y0 },
  .prim (.blocks fun r => { r with regions := r.regions.set (regionKey m.ctx x.rgn) (m.region x.region) }),
  captureBind m.ctx (m.region x.region),
  Cmd.each x.elements fun (k, e) => modElem (m.sid k) fun now => { m.element e with tlb := now.tlb },
  .prim (.fab fun f => { f with
    sets := x.sets.foldl (fun t (k, v) => t.set (m.setKey k) v) f.sets
    boxes := x.boxes.foldl (fun t (k, v) => t.set (3 * m.sid (k / 3) + k % 3) (m.box v)) f.boxes })]

/-- A Siding entry under the new binding: HOME is rewritten (R247, R384). -/
def moveSiding (ms : List Move) (n : SidEntry) : SidEntry := match moveOf ms n.rgn with
  | none => n
  | some m =>
    let sid := m.sid (sidAt m.old.die (m.old.x0 + n.rx) (m.old.y0 + n.ry))
    { n with die := m.new.die, cluster := clusterOf sid % 384 }

/-- Write the bytes of a restored Siding (R247). -/
def writeSiding (ctx : Nat) : Cmd := .get fun s => Cmd.opt (s.ctx? ctx) fun c =>
  let base := c.siding.base.toNat
  .seq (Cmd.each c.siding.entries fun (k, n) => areaWrite c.homeDie c.vd (base + 256 * k) n.bytes)
    (Cmd.each c.siding.buckets fun (k, b) => areaWrite c.homeDie c.vd (base + 256 * c.siding.size + 8 * k) b.bytes)

/-- Put the requests in flight back and let them run on. A held request is translated once more, and a new failure writes a new record (R331); the lanes of any
other are translated anew. -/
def restoreRequests (x : Save) (ms : List Move) (ctx off : Nat) : Cmd := .all [
  Cmd.each x.ops fun (k, o) => Cmd.opt (moveOf ms o.f.rgn) fun m =>
    let y := m.op o
    let id := k + off
    .seq (addOp id y) (
      if y.phase == .held then .seq (modOp id fun x => { x with tries := 0 }) (resumeHold id y)
      else if y.isMemory && !y.isVault && !y.lanes.isEmpty && !y.null then translateOp id
      else after 1 (.storeResolve id)),
  Cmd.each x.reads fun (k, q) => Cmd.opt (moveOf ms q.f.rgn) fun m => .seq
    (.prim (.blocks fun r => { r with reads := r.reads.set (k + off) { q with f := m.firing q.f } })) (after 1 (.globalReadServe (k + off))),
  Cmd.each x.pools fun (k, q) => Cmd.opt (moveOf ms q.f.rgn) fun m => .seq
    (.prim (.blocks fun r => { r with pools := r.pools.set (k + off) { q with f := m.firing q.f } }))
    (after 1 (if q.reply.isSome then .poolReply (k + off) else .poolRequest (k + off))),
  Cmd.each x.resvs fun (k, q) =>
    let y := { q with ctx := ctx, f := q.f.bind fun f => (moveOf ms f.rgn).map fun m => m.firing f }
    .seq (setResv (k + off) y) (match y.f, y.slot with
      | none, _ => after 1 (.deviceQueueAppend (k + off))
      | some _, none => after 1 (.queueReserve (k + off))
      | some _, some _ => after 1 (.reservationGrant (k + off))),
  Cmd.each x.spills fun (k, p) =>
    let key := match ms.find? fun m => m.old.setKeys.contains p.set with | some m => m.setKey p.set | none => p.set
    .seq (.prim (.fab fun f => { f with spills := f.spills.set (k + off) { p with ctx := ctx, set := key } })) (after 1 (.sidingInsert (k + off))),
  Cmd.each x.tasks fun t => match t with
    | .refire _ f => Cmd.opt (moveOf ms f.rgn) fun m => afterTask 1 (m.task t)
    | _ => .skip]

/-- The launch of a restored context: its own, when no other context has it, else a new record of it (log 64). -/
def restoreLaunch (x : Save) (ctx : Nat) : Cmd := .get fun s =>
  let id := x.ctx.launch
  let own : Bool := match s.ten.launches.get? id with
    | some l => (match l.ctx with | some c => c == ctx || (s.ctx? c).isNone | none => true)
    | none => false
  if own then modLaunch id fun l => { l with ctx := some ctx, state := .running, restore := none, drained := none }
  else match x.launch with
    | none => .skip
    | some l => withSerial fun n => .seq
        (.prim (.ten fun t => { t with launches := t.launches.set n { l with vd := x.ctx.vd, ctx := some ctx, state := .running, restore := none } }))
        (modCtx ctx fun c => { c with launch := n })

/-- Restore a save as a context (R384 steps 2 to 5). -/
def restoreSave (x : Save) (ctx vd : Nat) (dies : List Nat) (binds : List Bind) (frozen : Bool) : Cmd := withSerial fun n => .get fun s =>
  let off := 2 ^ 80 * n
  let ms := x.moves binds ctx off
  let v := s.vd vd
  let c := x.ctx
  let state : CtxState := if frozen then .frozen else if v.state = 3 then .stopped else .running
  .all [
    .prim (.ten fun t => { t with ctxs := t.ctxs.set ctx { c with
      vd := vd
      state := state
      homeDie := dies.getD c.homeDie 0
      siding := { c.siding with
        entries := c.siding.entries.map fun (k, e) => (k, moveSiding ms e)
        waiting := 0
        fullSince := none }
      ways := v.mquota
      lastProgress := s.now
      exit := none
      paused := none } }),
    .when (c.priv == 1) (modVd vd fun v => { v with supervisor := some ctx }),
    Cmd.each (ms.zip x.regions) fun (m, r) => restoreRegion m r,
    takeVault ctx c.vaultBase c.image.vaultBytes (x.vaults.map fun (d, _) => dies.getD d 0),
    Cmd.each x.vaults fun (d, bs) => vaultWrite (dies.getD d 0) c.vaultBase bs,
    Cmd.each x.lfsrs fun (k, l) =>
      let k' := 128 * dies.getD (k / 128) 0 + k % 128
      .when (s.halfOwner k' == some vd) (modHalf k' fun h => { h with lfsrs := l }),
    writeSiding ctx,
    restoreRequests x ms ctx off,
    restoreLaunch x ctx,
    .when frozen (.get fun t => Cmd.each (t.regionsOf ctx) fun r => .seq (modRegion ctx r.rgn fun r => { r with stopped := true })
      (Cmd.each r.sites fun sid => modElem sid fun e => { e with stopped := true })),
    .get fun t => Cmd.each (t.regionsOf ctx) kickRegion,
    after (2 ^ v.wdog) (.watchdogExpire ctx)]

/-! ### Snapshots (R379 to R381) -/

/-- Every site of a context stops issuing (R380: a checkpoint is halting). -/
def haltContext (ctx : Nat) : Cmd := .get fun s => Cmd.each (s.regionsOf ctx) fun r => .seq
  (modRegion ctx r.rgn fun r => { r with stopped := true })
  (Cmd.each r.sites fun sid => modElem sid fun e => { e with stopped := true })

/-- The VD's queues that hold packets not yet taken up, with their WIDX. -/
def State.pendingQueues (s : State) (vd : Nat) : List (Nat × Nat) :=
  s.eng.services.filterMap fun (k, x) =>
    if k / 128 = vd && k % 128 < 64 && !x.stopped && !x.bad then some (k, s.engNat x.die vd (s.descriptor vd (k % 64) false + 8) 8) else none

/-- Start a snapshot, a CTXSV or a checkpoint of a context (R380, R383). The job scheduler starts every block sequencer; its
marker reaches the sites a cycle later. -/
def startSnap (ctx kind : Nat) (job : Option Nat) (area : W64) : Cmd := withSerial fun n => .get fun s =>
  let frozen : Bool := match s.ctx? ctx with | some c => c.state == .frozen | none => true
  .all [
    .prim (.ten fun t => { t with snaps := t.snaps.set n ⟨ctx, job, area, kind, frozen, [], none, [], s.serial, s.pendingQueues (s.vdOfCtx ctx)⟩ }),
    .when (kind == 2 && !frozen) (freezeContext ctx),
    .when (kind == 3) (modCtx ctx fun c => { c with state := .saving }),
    if kind = 2 then after 1 (.snapshotComplete n)
    else Cmd.each (s.regionsOf ctx) fun r => after 1 (.snapshotMarker n r.rgn 0)]

/-- SNAPSHOT_MARKER (R379, R380): a sequencer's marker has reached the sites of its region. R380 lets a site save only when
every channel into it has brought its marker, and neighbours are channels of each other; the model takes the cut of all
processes in one step, when the last sequencer's marker has arrived (log 65). A checkpoint halts the sites. -/
def execSnapshotMarker (snap proc _chan : Nat) (s : State) : Host.Outcome State Fault Refusal :=
  Cmd.next (match s.ten.snaps.get? snap with
    | none => .skip
    | some n => match s.ctx? n.ctx with
      | none => .prim (.ten fun t => { t with snaps := t.snaps.del snap })
      | some c =>
        let marks := if n.markers.contains proc then n.markers else n.markers ++ [proc]
        let all := (s.regionsOf n.ctx).all fun r => marks.contains r.rgn || r.state == .placing
        let waits := (s.mem.ops.filter fun (k, o) => o.f.ctx == n.ctx && s.inFlight k o).map fun (_, o) => o.f.fid
        let body := if n.kind = 1 then some (s.saveOf n.ctx c) else none
        .all [
          .prim (.ten fun t => { t with snaps := t.snaps.mod snap fun n => if all && n.body.isNone
            then { n with markers := marks, body := body, waits := waits, upTo := s.serial, queues := s.pendingQueues c.vd }
            else { n with markers := marks } }),
          .when (all && n.kind = 3) (haltContext n.ctx),
          .when all (after 1 (.snapshotComplete snap))]) s

/-- Whether every engine request from before the cut has replied and stamped (R381): jobs of the VD, and packets in its queues
while it is Active. A job that waits for this one's save area is not waited for. -/
def State.requestsDone (s : State) (n : Snap) : Bool :=
  let vd := s.vdOfCtx n.ctx
  let mine := match n.job with | some j => (match s.job? j with | some x => x.extents | none => []) | none => []
  let own := n.job.getD 0
  (s.eng.jobs.all fun (k, x) => n.upTo ≤ k || k == own || (own < k && n.job.isSome && clash x.extents mine) ||
    (match x.kind with | .copy | .handoff _ _ => x.vd != vd | .launch => true | _ => x.ctx != n.ctx)) &&
  ((s.vd vd).state != 2 || n.queues.all fun (k, w) => match s.eng.services.get? k with
    | some x => x.stopped || w ≤ s.engNat x.die vd (s.descriptor vd (k % 64) false + 16) 8
    | none => true) &&
  (s.mem.ops.all fun (_, o) => o.f.ctx != n.ctx || !n.waits.contains o.f.fid || o.phase == .done)

/-- A stopped context whose stores have performed and whose spills and engine requests are done (R383). -/
def State.quiet (s : State) (ctx : Nat) : Bool :=
  s.calm ctx && s.flying ctx == 0 && (s.mem.ops.all fun (k, o) => o.f.ctx != ctx || o.isMemory || o.isMwait || s.declaring k || !s.inFlight k o)

/-- A GRP still in Declaring is abandoned: its slot returns to Empty (R381). -/
def abandonGroups (ctx : Nat) : Cmd := .prim (.eng fun e => { e with
  groups := e.groups.filter fun (k, g) => groupCtx k != ctx || g.state != .declaring })

/-- SNAPSHOT_COMPLETE (R380, R381, R383): when every request from before the cut has replied and stamped, the save area is
written. A job then writes its stamp; a checkpoint releases its context, whose launch returns to Waiting (R378) and may pre-empt
in its turn (R377). -/
def execSnapshotComplete (snap : Nat) (s : State) : Host.Outcome State Fault Refusal :=
  Cmd.next (match s.ten.snaps.get? snap with
    | none => .skip
    | some n => match s.ctx? n.ctx with
      | none => .prim (.ten fun t => { t with snaps := t.snaps.del snap })
      | some c =>
        let ready := s.requestsDone n && (n.kind = 1 || s.quiet n.ctx) && (n.kind != 2 || c.state == .frozen)
        let drop : Cmd := .prim (.ten fun t => { t with snaps := t.snaps.del snap })
        let size := s.saveSize n.ctx c
        let body := match n.body with | some x => x | none => s.saveOf n.ctx c
        if !ready then after 1 (.snapshotComplete snap)
        else match n.job with
          | some j => match s.job? j with
            | none => drop
            | some x => .seq (writeSave x.die x.vd n.area.toNat n.kind size n.frozen body fun _ => .skip)
                (.all [drop, modJob j fun x => { x with state := .finishing }, after 0 (.contextJobEnd j)])
          | none => .seq (writeSave c.homeDie c.vd n.area.toNat 3 size n.frozen body fun k => modLaunch c.launch fun l =>
              { l with state := .waiting, ctx := none, restore := some k, since := s.now, drained := none })
              (.all [drop, abandonGroups n.ctx, discardContext n.ctx, releaseContext n.ctx, after 1 (.preemptDecide c.launch)])) s

/-! ### Context jobs (R227) -/

/-- A context job ends with a status. -/
def endCtxJob (id status : Nat) (target : Option Nat) : Cmd := .seq
  (modJob id fun j => { j with state := .finishing, status := status, target := target.getD j.target }) (after 0 (.contextJobEnd id))

/-- SNAP and CTXSV begin (R227): MAGIC is zero until the save is whole (R418). A target that does not exist is refused as one outside the VD (log 66). -/
def startSave (id : Nat) (j : Job) (kind : Nat) : Cmd := .get fun s =>
  match s.ctx? j.target with
  | none => endCtxJob id 4 none
  | some c =>
    if j.target = j.ctx || (s.priv j.ctx = 1 && c.vd != j.vd) then endCtxJob id 4 none
    else if s.ten.snaps.any fun (_, n) => n.ctx == j.target then endCtxJob id 5 none
    else if (s.engError j.die j.vd j.area.toNat 64 .write).isSome ||
        s.engNat j.die j.vd j.area.toNat 8 < s.saveSize j.target c then endCtxJob id 2 none
    else .all [
      modJob id fun x => { x with state := .running },
      engWrite j.die j.vd (j.area.toNat + 8) [0, 0, 0, 0] j.pts fun _ => .skip,
      startSnap j.target kind (some id) j.area]

/-- The save that an area holds, when its header and bytes are right (R382). -/
def State.readSave (s : State) (j : Job) : Option (Save × Bool) :=
  let a := j.area.toNat
  if (s.engError j.die j.vd a 64 .read).isSome then none
  else
    let h := (s.engBytes j.die j.vd a 64 j.pts none).1
    let used := field h 24 8
    if field h 8 4 != 0x45564153 || used < 64 || (s.engError j.die j.vd a used .read).isSome then none
    else
      let bs := (s.engBytes j.die j.vd (a + 64) (used - 64) j.pts none).1
      if (crc32c bs).toNat != field h 56 4 then none
      else match s.ten.saves.find? fun (_, x) => x.bytes == bs with
        | some (_, x) =>
          if x.ctx.image.digest = field h 32 16 && x.ctxid = field h 14 2 && x.regions.length = field h 20 4 then
            some ({ x with ctx := { x.ctx with vd := field h 16 1 } }, field h 17 1 == 1)
          else none
        | none => none

/-- Whether the image that a save names stands where it stood, with the saved digest. -/
def State.imageAgrees (s : State) (die : Nat) (x : Save) : Bool :=
  let m := x.ctx.image
  (s.engError die x.ctx.vd m.va.toNat 64 .image).isNone && s.engNat die x.ctx.vd (m.va.toNat + 32) 16 == m.digest

/-- CTXLD begins and ends (R384): a Frozen context that bears the saved CTXID is freed before anything is granted. -/
def startLoad (id : Nat) (j : Job) : Cmd := .get fun s =>
  match s.readSave j with
  | none => endCtxJob id 3 none
  | some (x, frozen) =>
    let vd := x.ctx.vd
    let live := s.ctx? x.ctxid
    let old : Bool := match live with | some c => c.state == .frozen && c.vd == vd | none => false
    let wanted := j.target % 65536
    if s.priv j.ctx = 1 && vd != j.vd then endCtxJob id 4 (some x.ctxid)
    else if x.ctxid = j.ctx then endCtxJob id 4 (some x.ctxid)
    else if s.ten.snaps.any fun (_, n) => n.ctx == x.ctxid then endCtxJob id 5 (some x.ctxid)
    else if !s.imageAgrees j.die x then endCtxJob id 3 (some x.ctxid)
    else if s.engNat j.die j.vd j.area.toNat 8 < s.engNat j.die j.vd (j.area.toNat + 24) 8 then endCtxJob id 2 (some x.ctxid)
    else
      let clear : Cmd := .when old (.seq (discardContext x.ctxid) (releaseContext x.ctxid))
      let t := clear.exec s
      let free := if old || live.isNone then some x.ctxid
        else if wanted = 0xFFFF then s.freeCtx else if (s.ctx? wanted).isNone then some wanted else none
      match free, t.planRestore x vd with
      | some ctx, some (dies, binds) => .all [clear, restoreSave x ctx vd dies binds frozen, endCtxJob id 0 (some ctx)]
      | _, _ => .seq clear (endCtxJob id 2 (some x.ctxid))

end Sys2Proof.Machine
end

