-- ==== Sys2Proof/Machine/Launch.lean ====
section
/-! DEFINITION. Launching (R218, R344 to R349, R352, R353, R358 to R361): take-up, checks, refusal, grants, the mapper, the
loading of a context and its start. -/

namespace Sys2Proof.Machine

/-! ### Take-up (R344, R345) -/

def launchTurn (key : Nat) : Nat := 64 + key

/-- Every launch queue of a VD is looked at in turn, starting after the one taken up last (R345, R286). -/
def lookAtLaunches (vd : Nat) (cycles : Nat) : Cmd := .get fun s =>
  let qs := s.eng.services.filterMap fun (k, x) => if k / 128 = vd && 64 ≤ k % 128 && !x.stopped && !x.bad then some (k % 64) else none
  let last := s.eng.turn.getD (launchTurn vd) 63
  Cmd.each ((List.range 64).filterMap fun r => qs.find? fun q => (q + 63 - last) % 64 == r) fun q => after cycles (.launchTakeUp vd q)

/-- The extents of a launch (R346): those of its FOOT record. -/
def State.launchExtents (s : State) (die vd : Nat) (p : List Byte) : Except (Nat × Nat) (List Extent) :=
  let a := field p 40 8
  if a = 0 then .ok []
  else match s.engError die vd a 128 .read with
    | some (c, _, at_) => .error (c, at_)
    | none => .ok (readFootprint (s.engBytes die vd a 128 0 none).1)

/-- A launch just taken up. -/
def Launch.taken (vd q die n prio : Nat) (bs : List Byte) (now : Nat) : Launch where
  vd := vd
  queue := q
  die := die
  order := n
  prio := prio
  state := .blocked
  packet := bs
  ctx := none
  image := none
  restore := none
  since := now
  stage := 0
  drained := none
  exit := none

def setLaunch (n : Nat) (l : Launch) : Cmd := .prim (.ten fun t => { t with launches := t.launches.set n l })

/-- The launch queue of a VD that is taken up next (R286, R345): of those whose head asks for something, the first in turn after
the one taken up last. -/
def State.nextLaunch (s : State) (vd : Nat) : Option Nat :=
  let last := s.eng.turn.getD (launchTurn vd) 63
  let asks := fun (q : Nat) => match s.eng.services.get? (serviceKey vd q true) with
    | none => false
    | some x => !x.stopped && !x.bad && x.die < 4 && s.svc.ready.getLsbD (28 + x.die) && (match s.headSlot vd q true x with
      | .none | .locked => false
      | .fails _ _ => true
      | .slot _ _ bs => field bs 63 1 != 0)
  ((List.range 64).map fun r => (last + 1 + r) % 64).find? asks

/-- The scheduler of a queue's die acts on the VALID byte of the slot at RIDX (R300, R344). -/
def takeLaunch (vd q : Nat) (x : Service) : Cmd := .get fun s =>
  let die := x.die
  let turn := Cmd.prim (.eng fun e => { e with turn := e.turn.set (launchTurn vd) q })
  match s.headSlot vd q true x with
  | .none | .locked => .skip
  | .fails c a => .seq (stopService (serviceKey vd q true)) (supervisorFault vd die c a)
  | .slot va ridx bs => match field bs 63 1 with
    | 0 => .skip
    | 1 => withSerial fun n =>
        let foot := s.launchExtents die vd bs
        let ext := match foot with | .ok l => l | .error _ => []
        .all [
          clearValid vd die va,
          passSlot vd q true die ridx,
          turn,
          setLaunch n (Launch.taken vd q die n (min (field bs 33 1 % 16) (s.vd vd).pceil) bs s.now),
          setJob n { Job.blank die vd 0 with kind := .launch, state := .running, extents := ext },
          (match foot with | .error (c, a) => supervisorFault vd die c a | .ok _ => .skip),
          after 40 (.launchUnblock n),
          lookAtLaunches vd 8]
    | 2 => .all [passSlot vd q true die ridx, turn, lookAtLaunches vd 1]
    | _ => .all [passSlot vd q true die ridx, turn, supervisorFault vd die causeQueuefmt va, lookAtLaunches vd 1]

/-- LAUNCH_TAKE_UP (R300, R344, R345): a queue is looked at; the slot of the queue whose turn it is is taken up. -/
def execLaunchTakeUp (vd q : Nat) (s : State) : Host.Outcome State Fault Refusal :=
  Cmd.next (match s.eng.services.get? (serviceKey vd q true) with
    | none => .skip
    | some x =>
      let ok := (s.vd vd).state == 2 && x.die < 4 && s.svc.ready.getLsbD (28 + x.die) && !x.stopped && !x.bad
      if !ok then .skip
      else match s.headSlot vd q true x, s.nextLaunch vd with
        | .locked, _ => after 8 (.launchTakeUp vd q)
        | _, none => .skip
        | _, some k => if k = q then takeLaunch vd q x else .when (!s.isDue (.launchTakeUp vd k)) (after 0 (.launchTakeUp vd k))) s

/-! ### Checks (R347, R348) -/

/-- The header of an image as the scheduler can read it. -/
def State.imageHeader (s : State) (l : Launch) : Option (List Byte) :=
  let va := field l.packet 16 8
  if (s.engError l.die l.vd va 64 .image).isSome then none else some (s.engBytes l.die l.vd va 64 0 none).1

/-- Cycles of the checks (R359 steps 3 and 4), by the sizes that the header and the BLOCKS entry name. -/
def State.checkTime (s : State) (l : Launch) : Nat :=
  let va := field l.packet 16 8
  match s.imageHeader l with
  | none => 0
  | some h =>
    let size := field h 16 8
    if (s.engError l.die l.vd va size .image).isSome then 0
    else
      let ld := readImage (BitVec.ofNat 64 va) (s.engBytes l.die l.vd va size 0 none).1 (field l.packet 32 1)
      let records := ld.blocks.foldl (fun n b => n + b.recs.length + 1) 0
      max ((size + 255) / 256) ((records + 3) / 4)

/-- LAUNCH_UNBLOCK (R345, R346): no earlier job of the VD holds the launch back, so its checks begin. -/
def execLaunchUnblock (l : Nat) (s : State) : Host.Outcome State Fault Refusal :=
  Cmd.next (match s.ten.launches.get? l, s.job? l with
    | some x, some j =>
      if x.state != .blocked || s.now < x.since + 40 || s.jobHeld l j then .skip
      else .seq (modLaunch l fun x => { x with state := .checking, since := s.now }) (after (s.checkTime x) (.launchCheck l))
    | _, _ => .skip) s

/-- The memory areas that the loader allocates for a context (R246, R312, R327, R362, R382), by kind, with their bytes. -/
def Image.areas (m : Image) : List (Nat × Nat) :=
  [(0, m.dataBytes), (1, 257 * m.siding), (2, 4096), (3, m.slotBytes), (4, m.checkpointSize)]

/-- Whether an area lies in the VD's memory: DATA readable and writable, the rest mapped. -/
def State.areaHeld (s : State) (die vd launch : Nat) (kind n : Nat) : Bool :=
  let a := areaVA launch kind
  n = 0 || (a + n ≤ 2 ^ 64 && (if kind = 0 then (s.engError die vd a n .read).isNone && (s.engError die vd a n .write).isNone
    else (pieces a n).all fun (x, _) => match s.engEntry die vd x .any with | .ok _ => true | .error _ => false))

/-- The failures that depend on the VD (R348): DOMAIN, REGION, SPACE. REGION names the record at which the minimum regions
first exceed the allowance. -/
def State.tenantFails (s : State) (launch : Nat) (l : Launch) (m : Image) : List Fail :=
  let v := s.vd l.vd
  let tiles := fun (l : List (Nat × Nat)) => l.foldl (fun n (a, _) => n + shapeTiles (m.regionOf a).shape) 0
  let beyond := m.minimum.zipIdx.filterMap fun ((a, _), k) =>
    if v.tiles < tiles (m.minimum.take (k + 1)) then some (⟨reasonRegion, (m.actor a).region, 0, 0⟩ : Fail) else none
  let crowd := (List.range m.regions.length).flatMap fun k =>
    failIf (16 < (m.minimum.filter fun (a, _) => (m.actor a).region == k).length) ⟨reasonRegion, k, 0, 0⟩
  failIf (v.dsize < m.dcount) ⟨reasonDomain, 0, 0, 0⟩ ++ beyond.take 1 ++ crowd ++
    failIf (!(m.areas.all fun (k, n) => s.areaHeld l.die l.vd launch k n) || vaultSpace < m.vaultBytes) ⟨reasonSpace, 0, 0, 0⟩

/-- The checks of a launch: its image, or the failure that its status reports. -/
def State.checkLaunch (s : State) (id : Nat) (l : Launch) : Except Fail Image :=
  let va := field l.packet 16 8
  let fail := fun (r d : Nat) => (⟨r, 0, 0, d⟩ : Fail)
  if !launchPacketOk l.packet then .error (fail reasonFormat 0)
  else match s.imageHeader l with
    | none => .error (fail reasonAccess 0)
    | some h =>
      let size := field h 16 8
      if field h 0 4 != 0x00474345 then .error (fail reasonFormat 0)
      else if field h 4 2 != 1 || field h 6 2 != 0 then .error (fail reasonVersion (16 * (field h 4 2 % 16) + field h 6 2 % 16))
      else
        let fails := failIf (!headerFieldsOk h) (fail reasonFormat 0) ++ failIf (va % 64 != 0) (fail reasonAccess 0)
        if (s.engError l.die l.vd va size .image).isSome then
          .error ((firstFail (fails ++ [fail reasonAccess 0])).getD (fail reasonAccess 0))
        else
          let bs := (s.engBytes l.die l.vd va size 0 none).1
          let ld := readImage (BitVec.ofNat 64 va) bs (field l.packet 32 1)
          match firstFail (fails ++ imageFails bs ld (l.packet.take 16) ++ s.tenantFails id l ld.image) with
          | some f => .error f
          | none => .ok ld.image

/-- A refusal ends the launch (R347): bit 32 of the exit word is set. -/
def refuse (id : Nat) (f : Fail) : Cmd := endLaunch id (2 ^ 32 + f.status)

/-- LAUNCH_CHECK (R344, R347 to R349): every check of the loader; the launch is refused, or waits for its grants. -/
def execLaunchCheck (l : Nat) (s : State) : Host.Outcome State Fault Refusal :=
  Cmd.next (match s.ten.launches.get? l with
    | none => .skip
    | some x =>
      if x.state != .checking then .skip
      else match s.checkLaunch l x with
        | .error f => refuse l f
        | .ok m => .all [
            modLaunch l fun x => { x with state := .waiting, image := some m, since := s.now },
            after 0 (.launchGrant x.vd),
            after 1 (.preemptDecide l)]) s

/-! ### Grants (R345, R352, R353, R363) -/

/-- The waiting launches of a VD, highest PRIO first, then the earliest take-up (R345). -/
def State.waitingLaunches (s : State) (vd : Nat) : List (Nat × Launch) :=
  sortBy (fun (_, l) => 15 - l.prio) (sortBy (fun (_, l) => l.order) (s.ten.launches.filter fun (_, l) => l.vd == vd && l.state == .waiting))

/-- A launch from queue 63 while its VD has a supervisor context (R363). -/
def State.secondSupervisor (s : State) (l : Launch) : Bool := l.vd != 0 && l.queue == 63 && (s.vd l.vd).supervisor.isSome

/-- The context of a launch as it is granted (R360, R362, R363). -/
def State.newCtx (s : State) (id : Nat) (l : Launch) (m : Image) (base home vault : Nat) : Ctx where
  vd := l.vd
  priv := if l.vd = 0 then 2 else if l.queue = 63 then 1 else 0
  state := .loading
  launch := id
  image := m
  cbase := base
  homeDie := home
  acts := []
  pts := []
  lost := []
  fpcm := m.fpcm
  fpstat := 0
  lease := List.replicate 4 m.lease
  siding := ⟨BitVec.ofNat 64 (areaVA id 1), m.siding, 0, [], [], 0, none⟩
  pool := List.range 4096
  globals := []
  vglobals := []
  pmaps := []
  placing := []
  dataVA := BitVec.ofNat 64 (areaVA id 0)
  ringVA := BitVec.ofNat 64 (areaVA id 2)
  slotsVA := BitVec.ofNat 64 (areaVA id 3)
  saveVA := BitVec.ofNat 64 (areaVA id 4)
  vaultBase := vault
  args := BitVec.ofNat 64 (field l.packet 24 8)
  ways := 4
  lastProgress := s.now
  ring := []
  fcount := 0
  exit := none
  holdGrowth := false
  paused := none
  waitingDom := []
  equeues := m.engineQueues
  told := []

/-- Whether the tiles of a launch's minimum fit what the VD has left (R353). -/
def State.tilesFit (s : State) (vd : Nat) (m : Image) : Bool :=
  s.tilesUsed vd + m.minimum.foldl (fun n (a, _) => n + shapeTiles (m.regionOf a).shape) 0 ≤ (s.vd vd).tiles

/-- The records of a capture ring (R425). -/
def parseRing : Nat → List Byte → List CapRec
  | 0, _ => []
  | fuel + 1, bs =>
    let n := field bs 1 1
    if bs.length < 16 + n || n = 0 then []
    else ⟨field bs 0 1, field bs 2 2, BitVec.ofNat 32 (field bs 4 4), BitVec.ofNat 64 (field bs 8 8), (bs.drop 16).take n⟩ ::
      parseRing fuel (bs.drop (16 + n))

/-- The capture slot whose ring the next launch of a VD replays (R425), with its records: one that no launch has taken since
CTL was written (log 104). -/
def State.replaySlot (s : State) (vd : Nat) : Option (Nat × List CapRec) :=
  match s.svc.caps.zipIdx.find? fun (c, _) => c.ctl.getLsbD 46 && !c.used && natBits c.ctl.toNat 45 40 == vd with
  | some (c, k) => some (k, parseRing (c.ptr.toNat / 32 + 1) (s.physRead c.base.toNat c.ptr.toNat))
  | none => none

/-- The origin that a replay binds a replica at (R426): that of its last KIND 5 record. -/
def pinned (recs : List CapRec) (rgn : Nat) : Option (Nat × Nat × Nat) :=
  ((recs.filter fun r => r.kind == 5 && r.rgn == rgn).getLast?).map fun r =>
    let e := leNat r.payload
    (natBits e 2 1, natBits e 8 3, natBits e 13 9)

/-- The grants of a launch: the first domain, CTXID and replicas. -/
def State.planLaunch (s : State) (l : Launch) (m : Image) : Option (Nat × Nat × List Bind) :=
  let pin := match s.replaySlot l.vd with | some (_, rs) => pinned rs | none => fun _ => none
  if !s.tilesFit l.vd m then none
  else match s.freeRun l.vd m.dcount, s.freeCtx, s.planBinds (s.loaded l.die l.vd m) l.die pin m.minimum [] with
    | some base, some ctx, some binds => some (base, ctx, binds)
    | _, _, _ => none

/-- Grant a launch (R359 step 6): domain run, regions and vault area; without a vault area it is refused with SPACE. -/
def grantLaunch (id : Nat) (l : Launch) (m : Image) (base ctx : Nat) (binds : List Bind) : Cmd := .get fun s =>
  let dies := (binds.map (·.die)).dedup
  let home := match binds.find? fun b => b.actor == m.entry && b.replica == 0 with | some b => b.die | none => 0
  match s.vaultPlace id dies m.vaultBytes with
  | none => refuse id ⟨reasonSpace, 0, 0, 0⟩
  | some vault =>
    let c := s.newCtx id l m base home vault
    .all [
      .prim (.ten fun t => { t with ctxs := t.ctxs.set ctx c }),
      .when (c.priv == 1) (modVd l.vd fun v => { v with supervisor := some ctx }),
      Cmd.opt (s.replaySlot l.vd) fun (k, rs) => .prim (.svc fun v => { v with
        replays := v.replays.set ctx rs
        caps := v.caps.modify k fun c => { c with used := true } }),
      Cmd.each binds fun b => bindReplica ctx m b .placing,
      takeVault ctx vault m.vaultBytes dies,
      modLaunch id fun l => { l with state := .loading, ctx := some ctx, since := s.now, stage := 0 },
      after (16 * binds.length) (.launchLoadDone id)]

/-- Grant what can be granted, in the order of R345: a launch that must wait for domains or regions lets none after it pass. -/
def grantInOrder : List (Nat × Launch) → Cmd
  | [] => .skip
  | (id, l) :: rest => .get fun s =>
    if s.secondSupervisor l then grantInOrder rest
    else match l.restore, l.image with
      | some k, _ => match s.ten.saves.get? k with
        | none => grantInOrder rest
        | some x => match (s.ctx? x.ctxid).isNone, s.planRestore x l.vd with
          | true, some (dies, binds) => .seq (restoreSave x x.ctxid l.vd dies binds false) (grantInOrder rest)
          | _, _ => .skip
      | none, some m => match s.planLaunch l m with
        | some (base, ctx, binds) => .seq (grantLaunch id l m base ctx binds) (grantInOrder rest)
        | none => .skip
      | none, none => grantInOrder rest

/-- A layout request in progress that names DOM or ALLOW of a VD (R386, R422). -/
def Journal.blocks (j : Journal) (vd : Nat) : Bool :=
  j.state != .idle && j.entries.any fun (o, _) => o / 65536 == 0x100 + vd && (o % 65536 == 0x008 || o % 65536 == 0x010)

/-- LAUNCH_GRANT (R345, R352, R353): grants to the waiting launches of an Active VD, none while a mode change is to be made
(R386). -/
def execLaunchGrant (vd : Nat) (s : State) : Host.Outcome State Fault Refusal :=
  let change := (s.agenda.any fun (_, t) => match t with | .ev (.partitionWrite k _ _) => k == vd | _ => false) ||
    s.svc.journal.blocks vd
  Cmd.next (.when ((s.vd vd).state == 2 && !change) (grantInOrder (s.waitingLaunches vd))) s

/-! ### The mapper (R357, R358) -/

/-- Requests at a die's mapper, in the order of arrival. -/
def State.mapQueue (s : State) (die : Nat) : List (Nat × MapReq) := s.ten.maps.filter fun (_, q) => s.dieOfRegion q.ctx q.rgn == die

/-- The key of a request, and the nodes of its block (R357). -/
def State.mapKey (s : State) (q : MapReq) : Option (Nat × Nat) :=
  match s.ctx? q.ctx, s.region? q.ctx q.rgn with
  | some c, some r =>
    if (s.engError r.die c.vd q.block 12 .image).isSome then none
    else
      let hdr := recOfBytes (s.engBytes r.die c.vd q.block 12 0 none).1
      let n := hdrNodes hdr
      if (s.engError r.die c.vd q.block (12 * (n + 1)) .image).isSome then none
      else some (routedKey hdr (recsOf (s.engBytes r.die c.vd (q.block + 12) (12 * n) 0 none).1 n) c.fpcm r.shape r.y0, n)
  | _, _ => none

/-- MAPPER_REQUEST (R358): a die's mapper serves its requests one at a time, in order of arrival: 20 cycles for a lookup, and
after a miss the cycles of mapping, which spend the VD's credits; without one it waits for a refill. The routed block then fills its frame (R359 step 9). -/
def execMapperRequest (die : Nat) (s : State) : Host.Outcome State Fault Refusal :=
  Cmd.next (if s.isDue (.mapperRequest die) then .skip else match s.mapQueue die with
    | [] => .skip
    | (k, q) :: _ =>
      let put := fun (n : Nat) => Cmd.prim (.ten fun t => { t with maps := t.maps.mod k fun q => { q with left := some n } })
      let look := after 0 (.mapperRequest die)
      let vd := s.vdOfCtx q.ctx
      let arb := mapperArbiter die
      let credit := (s.credit arb vd).left
      if !s.svc.ready.getLsbD (28 + die) then after 1 (.mapperRequest die)
      else match q.left, s.mapKey q with
        | none, some (key, n) =>
          let hit := (s.ten.caches.getD die []).any fun e => e.key == key
          .seq (put (if hit then 0 else mapCycles n - 20)) (after 20 (.mapperRequest die))
        | none, none => .seq (put 0) look
        | some 0, key => .all [
            .prim (.ten fun t => { t with maps := t.maps.del k }),
            Cmd.opt key fun (x, _) => cacheRouted die x,
            (match s.ctx? q.ctx with
             | some c => after (s.fillCycles die c.vd q.block) (.frameFilled q.ctx q.rgn q.frm)
             | none => .skip),
            look]
        | some n, _ =>
          if credit = 0 then .seq (markWaited arb vd) (after (256 - s.now % 256) (.mapperRequest die))
          else .all [spend arb vd (min credit n), put (n - min credit n), after (min credit n) (.mapperRequest die)]) s

/-! ### Loading and starting (R95, R359, R360) -/

/-- Bytes that memory set-up writes (R359 step 8). -/
def Image.setupBytes (m : Image) (dies : Nat) : Nat :=
  m.dataBytes + m.siding + dies * m.vaults.foldl (fun n v => n + v.bytes) 0

/-- Memory set-up: DATA, the Siding's headers zeroed, and the vault areas' initial bytes on each die in use (R94, R95, R177,
R359 step 8). -/
def setUpMemory (ctx : Nat) (c : Ctx) : Cmd := .get fun s =>
  let m := c.image
  let die := c.homeDie
  let data := if m.dataOfs = 0 then List.replicate m.dataBytes 0
    else (s.engBytes die c.vd (m.va.toNat + m.dataOfs) m.dataBytes 0 none).1
  .all [
    engWrite die c.vd c.dataVA.toNat data (s.hzn die) fun _ => .skip,
    areaWrite die c.vd (c.siding.base.toNat + 256 * c.siding.size) (List.replicate c.siding.size 0),
    Cmd.each (s.diesOf ctx) fun d => Cmd.each m.vaults fun v =>
      vaultWrite d (c.vaultBase + v.ofs) (if v.init = 0xFFFFFFFF then List.replicate v.bytes 0 else (data.drop v.init).take v.bytes)]

/-- Partition maps at load (R322). -/
def Image.partitions (m : Image) : Tbl (List Nat) :=
  (List.range m.actors.length).filterMap fun a =>
    let r := m.regionOf a
    if 1 < r.maxr then some (a, (List.range 256).map fun i => 2 ^ (i % max 1 r.minr)) else none

/-- The registers that step 10 writes (R95, R245, R322, R360). -/
def Ctx.loadedRegs (c : Ctx) (ways now : Nat) : Ctx := { c with
  globals := [(0, c.dataVA), (1, BitVec.ofNat 64 c.vaultBase), (2, c.args)]
  ways := ways
  pmaps := c.image.partitions
  state := .running
  lastProgress := now }

/-- LAUNCH_LOAD_DONE (R359 steps 7 to 11, R360): the mapper gets the first blocks, memory is set up, and when both are done
the registers are written and the entry activation starts with the base domain. -/
def execLaunchLoadDone (l : Nat) (s : State) : Host.Outcome State Fault Refusal :=
  Cmd.next (match s.ten.launches.get? l with
    | none => .skip
    | some x => match x.ctx with
      | none => .skip
      | some ctx => match s.ctx? ctx with
        | none => .skip
        | some c =>
          let rs := sortBy (fun r => r.actor * 16 + r.replica) (s.regionsOf ctx)
          let stage := fun (n : Nat) => modLaunch l fun x => { x with stage := n }
          let filled := rs.all fun r => ((r.frames.headD Frame.empty).filling).isNone
          if x.state != .loading || c.state != .loading then .skip
          else match x.stage with
            | 0 => .all [
                stage 1,
                Cmd.each rs fun r => mapFirst ctx c.image r 0,
                after (40 + (c.image.setupBytes (s.diesOf ctx).length + 63) / 64) (.launchLoadDone l)]
            | 1 => .all [stage 2, setUpMemory ctx c, after 0 (.launchLoadDone l)]
            | 2 => .when filled (.seq (stage 3) (after 4 (.launchLoadDone l)))
            | _ => .all [
                modCtx ctx fun c => c.loadedRegs (s.vd c.vd).mquota s.now,
                Cmd.each rs fun r => modRegion ctx r.rgn fun r => { r with state := .available },
                modLaunch l fun x => { x with state := .running, since := s.now },
                .get fun t => match t.ctx? ctx, rs.find? fun r => r.actor == c.image.entry && r.replica == 0 with
                  | some c, some r => beginActivation ctx r.rgn r c c.cbase []
                  | _, _ => .skip,
                after (2 ^ (s.vd c.vd).wdog) (.watchdogExpire ctx)]) s

end Sys2Proof.Machine
end

