-- ==== Sys2Proof/Machine/Placement.lean ====
section
/-! DEFINITION. The placement controller (R317, R319 to R323, R353): samples, growth and shrinking of actors. -/

namespace Sys2Proof.Machine

/-- The largest occupancy among a replica's queue instances. -/
def Region.load (r : Region) : Nat := r.queues.foldl (fun n i => max n i.occupancy) 0

/-- The replicas of an actor. -/
def State.replicasOf (s : State) (ctx a : Nat) : List Region := sortBy (·.replica) ((s.regionsOf ctx).filter fun r => r.actor == a)

/-- The vault area of a context on a die that is new to it: taken and given its initial bytes (R95, R177). -/
def addVault (ctx : Nat) (c : Ctx) (die : Nat) : Cmd := .get fun s =>
  let m := c.image
  let data := (s.engBytes c.homeDie c.vd (m.va.toNat + m.dataOfs) m.dataBytes 0 none).1
  .when (!(s.diesOf ctx).contains die && m.vaultBytes != 0) (.seq (takeVault ctx c.vaultBase m.vaultBytes [die])
    (Cmd.each m.vaults fun v => vaultWrite die (c.vaultBase + v.ofs)
      (if v.init = 0xFFFFFFFF || m.dataOfs = 0 then List.replicate v.bytes 0 else (data.drop v.init).take v.bytes)))

/-- Where a growth of an actor would go: its replica's binding, if the allowance, the RGNIDs and the dies let it (R319, R320,
R353). The source is the replica with the largest occupancy, the lowest number among equals. A replay binds it at its KIND 5
origin, and waits while that is not free (R426). -/
def State.growthOf (s : State) (ctx : Nat) (c : Ctx) (a : Nat) : Option Bind :=
  let m := c.image
  let rec_ := m.regionOf a
  let reps := s.replicasOf ctx a
  let source := (reps.filter fun r => r.state == .available).foldl (fun (b : Option Region) r => match b with
    | none => some r
    | some x => if x.load < r.load then some r else b) none
  let number := (List.range 16).find? fun k => reps.all fun r => r.replica != k
  match source, number, m.rgnid a ((s.regionsOf ctx).map (·.rgn)) with
  | some src, some k, some n =>
    if (s.vd c.vd).tiles < s.tilesUsed c.vd + shapeTiles rec_.shape then none
    else match s.placeAt (pinned (s.svc.replays.getD ctx [])) n ((s.loaded src.die c.vd m).pinned a) rec_ src.die [] with
      | some (d, x, y) =>
        if m.vaultBytes != 0 && !(s.diesOf ctx).contains d && !s.vaultFree [d] c.vaultBase m.vaultBytes then none
        else some ⟨n, a, k, src.replica, d, x, y, rec_.shape⟩
      | none => none
  | _, _, _ => none

/-- A region takes part in a stop of its context: its sites issue nothing. -/
def haltRegionOf (r : Region) : Cmd := .seq (modRegion r.ctx r.rgn fun r => { r with stopped := true })
  (Cmd.each r.sites fun sid => modElem sid fun e => { e with stopped := true })

/-- Growth granted (R320): a replica is Placing, and the mapper is asked for its first block. -/
def grow (ctx : Nat) (c : Ctx) (b : Bind) : Cmd := .all [
  addVault ctx c b.die,
  bindReplica ctx c.image b .placing,
  .when (c.state == .freezing || c.state == .frozen || c.state == .saving) (haltRegionOf (b.region ctx c.image .placing)),
  mapFirst ctx c.image (b.region ctx c.image .placing) 16]

/-- The replica that a shrink takes (R321). -/
def State.shrinkOf (s : State) (ctx : Nat) (c : Ctx) (a : Nat) : Option Region :=
  let reps := s.replicasOf ctx a
  let isOpen := fun (k : Nat) => reps.any fun r => r.replica == k && r.state == .available
  (reps.reverse.filter fun r => r.state == .available).find? fun r =>
    (c.pmaps.getD a []).all fun e => e = 0 || (List.range 16).any fun k => k != r.replica && e.testBit k && isOpen k

/-- A replica retires (R320, R323): it leaves the partition map, and reservations that wait at it choose again (R313). -/
def retireReplica (ctx : Nat) (r : Region) : Cmd := .get fun s => .all [
  modRegion ctx r.rgn fun x => { x with state := .retiring, queues := x.queues.map fun i => { i with waiting := [] } },
  modCtx ctx fun c => { c with pmaps := c.pmaps.mod r.actor fun es => es.map fun e => if e.testBit r.replica then e - 2 ^ r.replica else e },
  Cmd.each (r.queues.flatMap (·.waiting)) fun n => Cmd.opt (s.resv? n) fun q => chooseAgain n q,
  after 0 (.replicaGone ctx r.rgn)]

/-- One sample of one actor (R319). -/
def sampleActor (ctx a : Nat) : Cmd := .get fun s => match s.ctx? ctx with
  | none => .skip
  | some c =>
    let v := s.vd c.vd
    let rec_ := c.image.regionOf a
    let reps := s.replicasOf ctx a
    let avail := reps.filter fun r => r.state == .available
    let load := avail.foldl (fun n r => max n r.load) 0
    let (up0, down0) := c.placing.getD a (0, 0)
    let up := if v.grow ≤ load then up0 + 1 else 0
    let down := if load ≤ v.shrink then down0 + 1 else 0
    let put := fun (x : Nat × Nat) => modCtx ctx fun c => { c with placing := c.placing.set a x }
    let growth := if !v.hold && !c.holdGrowth && 8 ≤ up && reps.length < rec_.maxr then s.growthOf ctx c a else none
    let up' := if growth.isSome then 0 else up
    .all [
      put (up', down),
      Cmd.opt growth fun b => grow ctx c b,
      .when (!v.hold && 64 ≤ down && rec_.minr < avail.length) (.get fun t => match t.ctx? ctx with
        | some d => Cmd.opt (t.shrinkOf ctx d a) fun r => .seq (put (up', 0)) (retireReplica ctx r)
        | none => .skip)]

/-- PLACEMENT_SAMPLE (R319): at each multiple of 1024 the controller samples every actor that has input queues. -/
def execPlacementSample (s : State) : Host.Outcome State Fault Refusal :=
  Cmd.next (.seq
    (Cmd.each s.ten.ctxs fun (ctx, c) =>
      Cmd.each ((List.range c.image.actors.length).filter fun a => !(c.image.inputs a).isEmpty) fun a => sampleActor ctx a)
    (periodic 1024 .placementSample)) s

/-- REPLICA_AVAILABLE (R320, R323): the first block stands in frame 0; reservations are accepted, and the replica joins every
entry that holds its source. -/
def execReplicaAvailable (ctx rgn : Nat) (s : State) : Host.Outcome State Fault Refusal :=
  Cmd.next (match s.ctx? ctx, s.region? ctx rgn with
    | some c, some r =>
      if r.state != .placing || c.state == .loading || (r.frames.headD Frame.empty).filling.isSome then .skip
      else .all [
        modRegion ctx rgn fun x => { x with state := .available },
        (let join := fun (e : Nat) => if e.testBit r.source && !e.testBit r.replica then e + 2 ^ r.replica else e
         modCtx ctx fun c => { c with pmaps := c.pmaps.mod r.actor fun es => es.map join }),
        after 1 (.delivery ctx rgn)]
    | _, _ => .skip) s

/-- REPLICA_GONE (R320): a retiring replica with no occupied slot and no uncommitted instance releases its region and its
number. -/
def execReplicaGone (ctx rgn : Nat) (s : State) : Host.Outcome State Fault Refusal :=
  Cmd.next (match s.region? ctx rgn with
    | some r =>
      let empty := r.queues.all (fun i => i.occupancy == 0) && r.frames.all (fun f => f.insts.isEmpty) && r.starts.isEmpty
      .when (r.state == .retiring && empty) (.seq (releaseReplica r) wakeLaunches)
    | none => .skip) s

end Sys2Proof.Machine
end

