-- ==== Sys2Proof/Machine/Tenancy.lean ====
section
/-! DEFINITION. Contexts and virtual devices at work: watchdogs (R364), bucket refills (R373), pre-emption (R377, R378), the
VDs' commands and partition registers (R366 to R369, R375, R376, R386), partition maps (R322), invalidations (R395), VD
resets (R418 to R421), and the start of jobs (R227, R228, R308). -/

namespace Sys2Proof.Machine

/-! ### Watchdogs (R364) -/

/-- Whether a context's watchdog does not count: Stopped, Frozen or halted (R334, R364). -/
def State.watchStops (s : State) (ctx : Nat) (c : Ctx) : Bool :=
  c.state != .running || (s.vd c.vd).state != 2 || (s.regionsOf ctx).any fun r => r.halted

/-- Cycles that count for a context's watchdog between two cycles without a change of ALLOW: the issue cycles of some die that
holds its regions (R410). -/
def State.watchTicks (s : State) (ctx a b : Nat) : Nat :=
  let dies := s.diesOf ctx
  if dies.any fun d => (s.thermal d).allow == 255 && !(s.thermal d).cut then b - a
  else ((List.range (b - a)).filter fun k => dies.any fun d => (s.thermal d).issueCycle (a + k)).length

/-- Before ALLOW changes, the cycles counted so far are settled (R410). -/
def settleTicks : Cmd := .get fun s => Cmd.each s.ten.ctxs fun (k, c) =>
  let stop := c.paused.getD s.now
  modCtx k fun c => { c with lastProgress := stop - s.watchTicks k (min stop c.lastProgress) stop }

/-- The watchdog of a context stops or goes on counting, as its state asks. -/
def settleWatch (ctx : Nat) : Cmd := .get fun s => match s.ctx? ctx with
  | none => .skip
  | some c => match s.watchStops ctx c, c.paused with
    | true, none => modCtx ctx fun c => { c with paused := some s.now }
    | false, some t => .seq
        (modCtx ctx fun c => { c with paused := none, lastProgress := s.now - (t - min t c.lastProgress) })
        (after 1 (.watchdogExpire ctx))
    | _, _ => .skip

/-- The oldest waiting entry of a context (R364): its site and the entry. -/
def State.oldestEntry (s : State) (ctx : Nat) : Option (Nat × MatchEntry) :=
  let entries := (s.regionsOf ctx).flatMap fun r => (s.fab.sets.filter fun (k, _) => r.setKeys.contains k).flatMap fun (k, t) =>
    t.ways.filterMap fun w => match w with | .held m => some (siteOfSet k m.e, m) | _ => none
  entries.foldl (fun (b : Option (Nat × MatchEntry)) x => match b with
    | none => some x
    | some y => if x.2.age < y.2.age then some x else b) none

/-- The record of an expired watchdog (R364): its origin is the element that holds the oldest waiting entry; a context
without one is named by the first site of its first region (log 67). -/
def State.watchRecord (s : State) (ctx : Nat) (c : Ctx) : FaultRec :=
  let cause := if s.run.pools.any fun (_, q) => q.f.ctx == ctx && q.ret.isNone && q.reply.isNone then causePoolempty else causeWatchdog
  let (sid, frm, node, tag) := match s.oldestEntry ctx with
    | some (sid, m) => (sid, m.frm, m.node, m.tag)
    | none => (match s.regionsOf ctx with | r :: _ => sidAt r.die r.x0 r.y0 | [] => 0, 0, 0, 0)
  let rgn := match s.regionAt sid with | some (_, r) => r.rgn | none => 0
  { s.engineRecord ctx (dieOf sid) cause 0 0 with
    vd := c.vd, ox := xOf sid, oy := yOf sid, ofrm := frm, onode := node, eng := false, rgn := rgn, tag := tag, sx := xOf sid, sy := yOf sid }

/-- WATCHDOG_EXPIRE (R364, R400): 2^LOG cycles without progress freeze the context; the supervisor gets the record. -/
def execWatchdogExpire (ctx : Nat) (s : State) : Host.Outcome State Fault Refusal :=
  Cmd.next (match s.ctx? ctx with
    | none => .skip
    | some c =>
      let span := 2 ^ (s.vd c.vd).wdog
      let ran := s.watchTicks ctx c.lastProgress s.now
      if c.paused.isSome || c.state != .running then .skip
      else if ran < span then .when (!s.isDue (.watchdogExpire ctx)) (after (span - ran) (.watchdogExpire ctx))
      else .all [freezeContext ctx, settleWatch ctx, writeToSupervisor c.vd (s.watchRecord ctx c), sendInterrupt c.vd 4]) s

/-! ### Rate buckets (R371 to R374) -/

/-- The die of an arbiter, for the counters of R226. -/
def arbiterDie (key : Nat) : Nat :=
  let p := arbiterPlace key
  match arbiterClass key with
  | 0 => dieOf p
  | 1 => p / 5 / 3 / 1536
  | 2 => p / 64
  | 3 => p / 2
  | 4 => p / 4
  | 5 => p / 4
  | _ => p

/-- BUCKET_REFILL (R373): every arbiter refills the buckets of the Active and Stopped VDs and lends what was left. Flits
that waited for a credit go out on the new ones. -/
def execBucketRefill (s : State) : Host.Outcome State Fault Refusal :=
  let vds := (s.ten.vds.filter fun (_, v) => v.state == 2 || v.state == 3).map (·.1)
  let one := fun (key : Nat) =>
    let rows := refillArbiter s key vds
    let borrows := rows.any fun (_, _, extra, _) => extra != 0
    .seq (.prim (.ten fun t => { t with buckets := t.buckets.set key (rows.map fun (v, c, _, _) => (v, ⟨c, false⟩)) }))
      (Cmd.each rows fun (v, _, extra, back) => .seq (.when (extra != 0) (count (arbiterDie key % 4) v 8 extra))
        (.when (borrows && back != 0) (count (arbiterDie key % 4) v 9 back)))
  Cmd.next (.all [
    Cmd.each (s.ten.buckets.map (·.1)) one,
    Cmd.each vds fun v => modVd v fun x => { x with idle := s.idleRefill v },
    Cmd.each (List.range 8) drainPort,
    periodic 256 .bucketRefill]) s

/-! ### Pre-emption (R377, R378) -/

/-- Tiles and domains that a waiting launch needs (R377). -/
def State.launchNeeds (s : State) (l : Launch) : Option (Nat × Image × Option Nat) :=
  match l.restore.bind s.ten.saves.get?, l.image with
  | some x, _ => some (x.regions.foldl (fun n r => n + shapeTiles r.region.shape) 0, x.ctx.image, some x.ctx.cbase)
  | none, some m => some (m.minimum.foldl (fun n (a, _) => n + shapeTiles (m.regionOf a).shape) 0, m, none)
  | none, none => none

/-- Whether the tiles and domains of a VD cover a need once some of its contexts are gone. -/
def State.covers (s : State) (vd : Nat) (need : Nat × Image × Option Nat) (gone : List Nat) : Bool :=
  let t := { s with ten := { s.ten with ctxs := s.ten.ctxs.filter fun (k, _) => !gone.contains k } }
  let used := (s.run.regions.filter fun (_, r) => r.state != .gone && !gone.contains r.ctx && s.vdOfCtx r.ctx == vd).foldl
    (fun n (_, r) => n + shapeTiles r.shape) 0
  used + need.1 ≤ (s.vd vd).tiles && (match need.2.2 with
    | some base => t.runFree base need.2.1.dcount
    | none => (t.freeRun vd need.2.1.dcount).isSome)

/-- Victims that a waiting launch may take, in order: lowest PRIO first, among equals the latest launch (R377). -/
def State.candidates (s : State) (l : Launch) : List (Nat × Nat × Launch) :=
  let all := s.ten.launches.filterMap fun (k, x) => match x.ctx with
    | some c => if x.vd = l.vd && x.state == .running && x.prio < l.prio &&
        (match s.ctx? c with | some c => c.state == .running && c.exit.isNone | none => false) && !(s.ten.snaps.any fun (_, n) => n.ctx == c)
        then some (k, c, x) else none
    | none => none
  sortBy (fun (_, _, x) => x.prio) ((sortBy (fun (_, _, x) => x.order) all).reverse)

/-- The first victims that suffice; none when all together do not. -/
def State.victims (s : State) (vd : Nat) (need : Nat × Image × Option Nat) (cs : List (Nat × Nat × Launch)) : List (Nat × Nat × Launch) :=
  match (List.range (cs.length + 1)).find? fun n => s.covers vd need ((cs.take n).map fun (_, c, _) => c) with
  | some n => cs.take n
  | none => []

/-- Policies of R377. -/
inductive Policy where
  | drain (units : Nat)
  | kill
  | checkpoint
  | none
deriving DecidableEq, Repr

/-- The policy for one victim: TN and TV are the TOKENS; `known` is false when EV counts as unknown. -/
def policyFor (tn tv est elapsed : Nat) (known : Bool) : Policy :=
  let ev := max 1 (est - elapsed)
  if known && est != 0 && ev ≤ tn then .drain ev
  else if tv = 0 then .kill
  else if tv < tn then .checkpoint
  else .none

def Launch.tokens (l : Launch) : Nat := field l.packet 34 2
def Launch.est (l : Launch) : Nat := field l.packet 36 4

/-- Apply a policy to a victim (R378). -/
def applyPolicy (id ctx : Nat) (p : Policy) : Cmd := .get fun s => match p with
  | .drain n => .all [
      modCtx ctx fun c => { c with holdGrowth := true },
      modLaunch id fun x => { x with drained := some (s.now + 2 * n * 1024) },
      after (2 * n * 1024) (.drainOverdue ctx)]
  | .kill => endContext ctx (endedWord 1)
  | .checkpoint => match s.ctx? ctx with
    | some c => startSnap ctx 3 none c.saveVA
    | none => .skip
  | .none => .skip

/-- PREEMPT_DECIDE (R377): a waiting launch plans its victims, and again every 1024 cycles while it waits. A victim that drains
counts towards the plan and is not decided again before its time (R378). -/
def execPreemptDecide (l : Nat) (s : State) : Host.Outcome State Fault Refusal :=
  Cmd.next (match s.ten.launches.get? l with
    | none => .skip
    | some x => match s.launchNeeds x with
      | none => .skip
      | some need => .when (x.state == .waiting) (.seq
          (.when ((s.vd x.vd).state == 2) (Cmd.each (s.victims x.vd need (s.candidates x)) fun (k, c, v) =>
            .when v.drained.isNone (applyPolicy k c (policyFor x.tokens v.tokens v.est ((s.now - v.since) / 1024) true))))
          (after 1024 (.preemptDecide l)))) s

/-- DRAIN_OVERDUE (R378): a DRAIN victim that still runs is decided again, its remaining time unknown, for the first launch
that waits with a higher PRIO; with none its growth is released. -/
def execDrainOverdue (ctx : Nat) (s : State) : Host.Outcome State Fault Refusal :=
  Cmd.next (match s.ctx? ctx with
    | none => .skip
    | some c => match s.ten.launches.get? c.launch with
      | none => .skip
      | some v =>
        let overdue : Bool := match v.drained with | some t => t ≤ s.now | none => false
        .when (overdue && c.state == .running && c.exit.isNone) (.all [
          modLaunch c.launch fun x => { x with drained := none },
          match (s.waitingLaunches v.vd).find? fun (_, x) => v.prio < x.prio with
          | some (_, x) => applyPolicy c.launch ctx (policyFor x.tokens v.tokens v.est 0 false)
          | none => modCtx ctx fun c => { c with holdGrowth := false }])) s

/-! ### Commands of a VD (R367, R369) -/

def errBusy : Nat := 1
def errOverlap : Nat := 2
def errSum : Nat := 3
def errState : Nat := 4
def errRange : Nat := 5
def setErr (n e : Nat) : Cmd := modVd n fun v => { v with err := e }

/-- Whatever waited for a VD to be Active looks again: queues, launches, jobs. -/
def wakeVd (n : Nat) : Cmd := .get fun s => .all [
  Cmd.each (s.eng.services.filter fun (k, _) => k / 128 == n && k % 128 < 64) fun (k, _) => after 1 (.slotTakeUp n (k % 64)),
  lookAtLaunches n 1,
  after 1 (.launchGrant n),
  wakeJobs n]

/-- A VD's other non-Absent VDs. -/
def State.otherVds (s : State) (n : Nat) : List Vd := (s.ten.vds.filter fun (k, v) => k != n && v.state != 0).map (·.2)

/-- Why a VD's partition may not stand beside the others (R369); zero when it may. -/
def State.partitionError (s : State) (n : Nat) (v : Vd) : Nat :=
  let others := s.otherVds n
  let meets := others.any fun w => (v.dbase < w.dbase + w.dsize && w.dbase < v.dbase + v.dsize) || v.l2mask &&& w.l2mask != 0
  let total := fun (f : Vd → Nat) => others.foldl (fun k w => k + f w) (f v)
  if meets then errOverlap
  else if (List.range 8).any (fun k => 1024 < total fun w => w.shares.getD k 0) || 384 < total (·.tiles) then errSum
  else if (List.range 8).any (fun k => v.shares.getD k 0 == 0) || v.dsize = 0 || v.tiles = 0 || v.l2mask = 0 || 4096 < v.dbase + v.dsize
    then errRange
  else 0

/-- The command of VD_OPEN (R369): an Absent VD becomes Configured with its registers at their reset values. -/
def openVd (n : Nat) : Cmd := .get fun s =>
  if 64 ≤ n then .skip
    else if (s.vd n).state != 0 then .skip
    else modVd n fun _ => { Vd.reset (n + 1) with state := 1 }

/-- VD_OPEN (R369). -/
def execVdOpen (n : Nat) (s : State) : Host.Outcome State Fault Refusal := (openVd n).next s

/-- The command of VD_ACTIVATE (R369): a Configured VD becomes Active when its partition passes the checks. -/
def activateVd (n : Nat) : Cmd := .get fun s =>
  let e := s.partitionError n (s.vd n)
  if 64 ≤ n then .skip
    else if (s.vd n).state != 1 then .skip
    else if e != 0 then setErr n e
    else .seq (modVd n fun v => { v with state := 2, err := 0, idle := List.replicate 12 0 }) (wakeVd n)

/-- VD_ACTIVATE (R369). -/
def execVdActivate (n : Nat) (s : State) : Host.Outcome State Fault Refusal := (activateVd n).next s

/-- The contexts of an Active VD stop (R228). -/
def stopVd (n : Nat) : Cmd := .seq (modVd n fun v => { v with state := 3, err := 0 }) (.get fun s =>
  Cmd.each (s.ctxsOf n) fun (k, c) => .seq
    (.when (c.state == .running) (modCtx k fun c => { c with state := .stopped })) (settleWatch k))

/-- A stop is lifted (R228). -/
def resumeVd (n : Nat) : Cmd := .all [
  modVd n fun v => { v with state := 2, err := 0 },
  .get fun s => Cmd.each (s.ctxsOf n) fun (k, c) => .seq
    (.when (c.state == .stopped) (modCtx k fun c => { c with state := .running })) (settleWatch k),
  wakeVd n]

/-- The command of VD_STOP (R369): refused by VD 0, and during a reset (R421). -/
def stopCommand (n : Nat) : Cmd := .get fun s =>
  let st := (s.vd n).state
  if 64 ≤ n then .skip else if n = 0 || st = 4 then setErr n errState else .when (st == 2) (stopVd n)

/-- VD_STOP (R369). -/
def execVdStop (n : Nat) (s : State) : Host.Outcome State Fault Refusal := (stopCommand n).next s

/-- The command of VD_RESUME (R369): refused during a reset (R421). -/
def resumeCommand (n : Nat) : Cmd := .get fun s =>
  let st := (s.vd n).state
  if 64 ≤ n then .skip else if st = 4 then setErr n errState else .when (st == 3) (resumeVd n)

/-- VD_RESUME (R369). -/
def execVdResume (n : Nat) (s : State) : Host.Outcome State Fault Refusal := (resumeCommand n).next s

/-- The command of VD_CLOSE (R369, R396): the VD's grants, matrix-unit halves and keys are freed. -/
def closeVd (n : Nat) : Cmd := .get fun s =>
  let st := (s.vd n).state
  let free := fun (o : MxOwn) => { o with gr0 := o.gr0 && o.own0 != n, gr1 := o.gr1 && o.own1 != n }
  if 64 ≤ n then .skip
    else if n = 0 || st = 4 then setErr n errState
    else if st = 0 then .skip
    else if !(s.ctxsOf n).isEmpty then setErr n errBusy
    else .all [
      .prim (.ten fun t => { t with vds := t.vds.set n (Vd.reset (n + 1)) }),
      .prim (.eng fun e => { e with services := e.services.filter fun (k, _) => k / 128 != n }),
      .prim (.svc fun v => { v with
        mxown := v.mxown.map fun (k, o) => (k, free o)
        keyown := v.keyown.map fun (k, o) => (k, if o = 64 + n then n else o) })]

/-- VD_CLOSE (R369, R396). -/
def execVdClose (n : Nat) (s : State) : Host.Outcome State Fault Refusal := (closeVd n).next s

/-- The command of VD_KILL (R366): tears a context of the VD down. -/
def killContext (n ctx : Nat) : Cmd := .get fun s =>
  match s.ctx? ctx with
    | some c => .when (c.vd == n) (endContext ctx (endedWord 2))
    | none => .skip

/-- VD_KILL (R366). -/
def execVdKill (n ctx : Nat) (s : State) : Host.Outcome State Fault Refusal := (killContext n ctx).next s

/-! ### Partition registers (R368, R375, R376, R386) -/

/-- A VD with DOM or ALLOW written (R368). -/
def Vd.withPartition (v : Vd) (allow : Bool) (x : W64) : Vd :=
  if allow then { v with tiles := natBits x.toNat 8 0 } else { v with dbase := natBits x.toNat 11 0, dsize := natBits x.toNat 28 16 }

/-- The command of PARTITION_WRITE (R368, R369, R386): a write of DOM or ALLOW. While the VD holds a context it is a
mode change: refused, or with FORCE made once every context has been checkpointed. -/
def writePartition (n : Nat) (allow : Bool) (value : W64) : Cmd := .get fun s =>
  let v := s.vd n
  let w := v.withPartition allow value
  let e := s.partitionError n w
  let apply : Cmd := if v.state ≤ 1 then modVd n fun _ => { w with err := 0 }
    else if e != 0 then setErr n e
    else .seq (modVd n fun _ => { w with err := 0 }) (after 0 (.launchGrant n))
  if 64 ≤ n then .skip
    else if (s.ctxsOf n).isEmpty then apply
    else if !v.force || v.state = 4 then setErr n errBusy
    else .seq (Cmd.each (s.ctxsOf n) fun (k, c) =>
        .when (c.state == .running && !(s.ten.snaps.any fun (_, x) => x.ctx == k))
          (startSnap k 3 none c.saveVA))
      (after 1 (.partitionWrite n allow value))

/-- PARTITION_WRITE (R368, R369, R386). -/
def execPartitionWrite (n : Nat) (allow : Bool) (value : W64) (s : State) : Host.Outcome State Fault Refusal := (writePartition n allow value).next s

/-- The command of L2WAYS_WRITE (R375): adding free ways takes effect at once, removing ways begins a removal, other writes are refused. -/
def writeL2ways (n : Nat) (value : W64) : Cmd := .get fun s =>
  let v := s.vd n
  let m : BitVec 16 := value.setWidth 16
  let added := m &&& ~~~v.l2mask
  let gone := v.l2mask &&& ~~~m
  let taken := (s.otherVds n).any fun w => w.l2mask &&& added != 0
  if 64 ≤ n then .skip
    else if v.wayStage != .idle then setErr n errBusy
    else if m = 0 then setErr n errRange
    else if (added != 0 && gone != 0) || taken then setErr n errOverlap
    else if gone = 0 then modVd n fun v => { v with l2mask := m, l2new := m, err := 0 }
    else .seq (modVd n fun v => { v with l2new := m, wayStage := .quiesce, err := 0 }) (after 1 (.wayRemovalAdvance n))

/-- L2WAYS_WRITE (R375). -/
def execL2waysWrite (n : Nat) (value : W64) (s : State) : Host.Outcome State Fault Refusal := (writeL2ways n value).next s

/-- Lines of a VD beyond its remaining ways, in any set: home lines and copies, least recently used first (R376). The model
does not say which way a line is in (log 68). -/
def State.beyondWays (s : State) (n : Nat) : List (Nat × Held) :=
  let keep := s.waysOf n
  let sets := ((s.mem.homes.filter fun (_, h) => h.vd == n).map fun (l, h) => (h.die, l)) ++
    ((s.mem.l2.filter fun (_, c) => c.vd == n).map fun (k, _) => (k / 2 ^ 46, k % 2 ^ 46))
  (sets.flatMap fun (die, line) =>
    let held := sortBy (·.used) (s.setHolds die line n)
    (held.take (held.length - keep)).map fun x => (die, x)).dedup

/-- Of the lines to flush, the first of each slice (R376). -/
def flushFirst (l : List (Nat × Held)) : List (Nat × Held) := l.foldl (fun acc (die, x) =>
  if acc.any fun (d, y) => d == die && homeSlice (128 * y.line) == homeSlice (128 * x.line) then acc else acc ++ [(die, x)]) []

/-- WAY_REMOVAL_ADVANCE (R376): Quiesce, Flush, Rehash. A slice flushes one line per cycle. -/
def execWayRemovalAdvance (n : Nat) (s : State) : Host.Outcome State Fault Refusal :=
  let v := s.vd n
  let stage := fun (x : WayStage) => modVd n fun v => { v with wayStage := x }
  let again := after 1 (.wayRemovalAdvance n)
  let busy := (s.beyondWays n).any fun (_, x) => x.stays
  Cmd.next (match v.wayStage with
    | .idle => .skip
    | .quiesce => if busy then again else .seq (stage .flush) again
    | .flush => match s.beyondWays n with
      | [] => .seq (stage .rehash) again
      | l => .seq (Cmd.each (flushFirst l) fun (die, x) => after 0 (.homeEvict die x.line x.copy)) again
    | .rehash => modVd n fun v => { v with l2mask := v.l2new, wayStage := .idle }) s

/-! ### Partition maps and invalidations -/

/-- The command of PMAP (R322, R399): writes one entry of the partition map of an actor that has one. -/
def writePmap (n : Nat) (value : W64) : Cmd := .get fun s =>
  let x := value.toNat
  let ctx := natBits x 15 0
  match s.ctx? ctx with
    | some c => .when (c.vd == n) (modCtx ctx fun c =>
        { c with pmaps := c.pmaps.mod (natBits x 23 16) fun es => es.set (natBits x 31 24) (natBits x 47 32) })
    | none => .skip

/-- PMAP (R322, R399). -/
def execPmap (n : Nat) (value : W64) (s : State) : Host.Outcome State Fault Refusal := (writePmap n value).next s

/-- The command of TLBINV (R395): removes translations of a VD everywhere, then waits for the accesses that used them. -/
def writeTlbinv (n : Nat) (value : W64) : Cmd := .get fun s =>
  let x := value.toNat
  let size := if x.testBit 1 then 2 ^ 28 else 2 ^ 16
  let page := natBits x 63 16 * 65536 / size * size
  let hit := fun (va : Nat) => x.testBit 0 || va / size * size == page
  let gone := fun (e : TlbEntry) => e.vd == n && (hit e.page || (page ≤ e.page && e.page < page + size) || (e.page ≤ page && page < e.page + e.size))
  let ops := (s.mem.ops.filter fun (_, o) => s.vdOfCtx o.f.ctx == n && o.phase != .done && !o.isVault &&
    o.lanes.any fun l => l.ok && hit l.va.toNat).map (·.1)
  withSerial fun k => .all [
    .prim (.fab fun f => { f with elements := f.elements.map fun (i, e) => (i, { e with tlb := e.tlb.filter fun t => !gone t }) }),
    .prim (.mem fun m => { m with
      walkCache := m.walkCache.map fun (d, es) => (d, es.filter fun w => w.vd != n)
      invals := m.invals.set k ⟨n, ops⟩ }),
    after 1 (.tlbinvComplete n)]

/-- TLBINV (R395). -/
def execTlbinv (n : Nat) (value : W64) (s : State) : Host.Outcome State Fault Refusal := (writeTlbinv n value).next s

/-- TLBINV_COMPLETE (R395): the oldest invalidation of the VD whose accesses have performed at system scope adds 1 to TLBSEQ. -/
def execTlbinvComplete (n : Nat) (s : State) : Host.Outcome State Fault Refusal :=
  Cmd.next (match s.mem.invals.find? fun (_, x) => x.vd == n with
    | none => .skip
    | some (k, x) =>
      let done := x.ops.all fun i => match s.op? i with | some o => o.phase == .done || 3 ≤ o.performed | none => true
      if done then .all [
        .prim (.mem fun m => { m with invals := m.invals.del k }),
        modVd n fun v => { v with tlbseq := v.tlbseq + 1 },
        after 0 (.tlbinvComplete n)]
      else after 1 (.tlbinvComplete n)) s

/-! ### VD reset (R418 to R421) -/

/-- A job that a reset of a VD ends with ABORTED_BY_RESET (R418 step 2, R421): a context job that targets or is run by a context of
the VD, and a VDCTL stop of it that has not been stamped. -/
def State.resetAborts (s : State) (n : Nat) (j : Job) : Bool := match j.kind with
  | .snap | .ctxsv => j.vd == n || s.vdOfCtx j.target == n && (s.ctx? j.target).isSome
  | .ctxld => j.vd == n
  | .vdctl sub => sub == 0 && j.target == n || j.vd == n
  | _ => false

/-- Steps 1 to 4 of a VD reset (R418), begun: issue stops, held ports discard, jobs end, queued stores are discarded. -/
def beginReset (n : Nat) (job : Option Nat) : Cmd := .get fun s => .all [
  modVd n fun v => { v with state := 4, err := 0, resetFrom := job },
  Cmd.each (s.ctxsOf n) fun (k, c) => .when (c.state != .freezing && c.state != .frozen && c.state != .loading) (.seq (freezeContext k) (settleWatch k)),
  Cmd.each (s.eng.jobs.filter fun (k, j) => some k != job && j.state != .finishing && s.resetAborts n j) fun (k, _) => endCtxJob k 1 none,
  Cmd.each (s.ten.snaps.filter fun (_, x) => x.job.isNone && s.vdOfCtx x.ctx == n) fun (_, x) => Cmd.opt (s.ctx? x.ctx) fun c =>
    .prim (.ten fun t => { t with launches := t.launches.del c.launch }),
  .prim (.ten fun t => { t with
    snaps := t.snaps.filter fun (_, x) => s.vdOfCtx x.ctx != n
    launches := t.launches.filter fun (_, l) => l.vd != n || l.state == .running || l.state == .ended }),
  .prim (.eng fun e => { e with jobs := e.jobs.filter fun (_, j) => j.vd != n || (match j.kind with
    | .copy | .handoff _ _ => j.state == .finishing
    | .launch => false
    | _ => true) }),
  Cmd.each (List.range 4) fun d => after 1 (.channelAssign d),
  Cmd.each (s.mem.ops.filter fun (_, o) => s.vdOfCtx o.f.ctx == n && o.phase == .held) fun (_, o) => endHold o.f.sid,
  Cmd.each (s.mem.ops.filter fun (_, o) => s.vdOfCtx o.f.ctx == n) fun (_, o) => voidClaim o,
  .prim (.mem fun m => { m with
    ops := m.ops.filter fun (_, o) => s.vdOfCtx o.f.ctx != n || o.phase == .sent || o.phase == .acked
    l2 := m.l2.filter fun (_, c) => c.vd != n || !c.suspect
    l1 := m.l1.filter fun (_, c) => c.vd != n || !c.suspect }),
  after 1 (.vdResetQuiesced n)]

/-- The command of VD_RESET (R418, R421): the reset command of VD.n.CTL. VD 0 refuses it, and
so does a VD that is being reset. -/
def resetCommand (n : Nat) : Cmd := .get fun s =>
  let st := (s.vd n).state
  if 64 ≤ n then .skip else if n = 0 || st = 4 then setErr n errState else .when (st == 2 || st == 3) (beginReset n none)

/-- VD_RESET (R418, R421). -/
def execVdReset (n : Nat) (s : State) : Host.Outcome State Fault Refusal := (resetCommand n).next s

/-- What the replay of one queue re-arms (R420): the new RIDX, and the counts that LOST and REPLAYED grow by. -/
def replayFrom (entry ridx widx slots : Nat) : Nat × Nat × Nat :=
  let f := min entry ridx
  let f2 := min (max f (widx - slots)) ridx
  (f2, f2 - f, ridx - f2)

/-- Step 7 of a reset for one queue (R420). -/
def replayQueue (n k : Nat) (x : Service) : Cmd := .get fun s =>
  let q := k % 64
  let launch := decide (64 ≤ k % 128)
  let a := s.descriptor n q launch
  let base := (s.vd n).rplbase.toNat / 64 * 64
  let at_ := base + 8 * (k % 128)
  let widx := s.engNat x.die n (a + 8) 8
  let ridx := s.engNat x.die n (a + 16) 8
  let readable := base != 0 && (s.engError x.die n at_ 8 .read).isNone
  let (f, lost, again) := replayFrom (if readable then s.engNat x.die n at_ 8 else ridx) ridx widx x.slots
  .when (!x.bad && (s.engError x.die n a 64 .write).isNone) (.all [
    Cmd.each (List.range again) fun i =>
      let va := x.base.toNat + 64 * ((f + i) % x.slots) + 63
      .when ((s.engError x.die n va 1 .write).isNone) (engWrite x.die n va [1] (s.hzn x.die) fun _ => .skip),
    .when (f != ridx) (engWrite x.die n (a + 16) (leBytes f 8) (s.hzn x.die) fun _ => .skip),
    modVd n fun v => { v with rststat := v.rststat + BitVec.ofNat 64 (again + lost * 2 ^ 32) }])

/-- VD_RESET_QUIESCED (R418 to R420): once every context has come to rest, the flits that wait for the VD's credits are discarded
(R419), contexts are torn down, queues are replayed, and the
VD is Active again. -/
def execVdResetQuiesced (n : Nat) (s : State) : Host.Outcome State Fault Refusal :=
  let cs := s.ctxsOf n
  let calm := cs.all fun (k, c) => c.state == .loading || s.calm k
  let job := (s.vd n).resetFrom
  Cmd.next (if (s.vd n).state != 4 then .skip
    else if !calm || s.svc.mpDown.contains 0 then after 1 (.vdResetQuiesced n)
    else .all [
      Cmd.each (List.range 8) fun p => modPort p fun x => { x with waiting := x.waiting.filter fun (v, _) => v != n },
      Cmd.each cs fun (k, c) => .all [discardContext k, releaseContext k, endLaunch c.launch (endedWord 0x14)],
      modVd n fun v => { v with rststat := 0 },
      Cmd.each (s.eng.services.filter fun (k, _) => k / 128 == n) fun (k, x) => replayQueue n k x,
      modVd n fun v => { v with state := 2, resetFrom := none },
      Cmd.opt job fun j => endCtxJob j 0 none,
      wakeVd n]) s

/-! ### Starting jobs (R227, R228, R308) -/

/-- VDCTL (R228): a VD of 0, the firing's own, or none there gives DENIED, and one that is being reset BUSY. -/
def startVdctl (id : Nat) (j : Job) (sub : Nat) : Cmd := .get fun s =>
  let n := j.target
  let v := s.vd n
  let finish := fun (st : Nat) => endCtxJob id st none
  if 64 ≤ n || n = 0 || n = j.vd || v.state = 0 || v.state = 1 then finish 4
  else if v.state = 4 then (if sub = 3 then .seq (modVd n fun v => { v with tracking := true }) (finish 0)
    else if sub = 4 then .seq (modVd n fun v => { v with tracking := false }) (finish 0) else finish 5)
  else match sub with
    | 0 => .all [
        .when (v.state == 2) (stopVd n),
        modJob id fun x => { x with state := .running },
        after 1 (.contextJobEnd id)]
    | 1 => .seq (.when (v.state == 3) (resumeVd n)) (finish 0)
    | 2 => .seq (modJob id fun x => { x with state := .running }) (beginReset n (some id))
    | 3 => .seq (modVd n fun v => { v with tracking := true }) (finish 0)
    | _ => .seq (modVd n fun v => { v with tracking := false }) (finish 0)

/-- JOB_UNBLOCK (R227, R286, R308): no earlier job of the VD holds the job back, so it runs. A context job
needs a channel, and a free one goes to the oldest job that waits (R301). -/
def execJobUnblock (job : Nat) (s : State) : Host.Outcome State Fault Refusal :=
  Cmd.next (match s.job? job with
    | none => .skip
    | some j =>
      let first := ((s.jobsWaiting j.die).head?.map (·.1)) == some job
      let withRoom := fun (c : Cmd) => .seq (.when (s.channelsUsed j.die < 16 && first) c) (after 1 (.channelAssign j.die))
      if j.state != .blocked || s.jobHeld job j then .skip
      else match j.kind with
        | .copy | .handoff _ _ => startCopy job j
        | .snap => withRoom (startSave job j 1)
        | .ctxsv => withRoom (startSave job j 2)
        | .ctxld => withRoom (startLoad job j)
        | .vdctl sub => startVdctl job j sub
        | .launch => .skip) s

/-- Whether a stop of a VD has reached its boundary (R228, R387): no firing of the VD is in progress, and every context job of
the VD accepted before has written its stamp. -/
def State.stopDone (s : State) (id n : Nat) : Bool :=
  (s.ctxsOf n).all (fun (k, _) =>
    ((s.regionsOf k).all fun r => r.sites.all fun sid => (s.elem sid).outs.all fun o => o.due ≤ s.now) &&
    (s.mem.ops.all fun (x, o) => o.f.ctx != k || !s.stirs x o) &&
    (s.run.reads.all fun (_, r) => r.f.ctx != k) && (s.run.pools.all fun (_, q) => q.f.ctx != k || q.reply.isNone)) &&
  (s.eng.jobs.all fun (k, x) => id ≤ k || x.vd != n || (match x.kind with | .snap | .ctxsv | .ctxld | .vdctl _ => false | _ => true))

/-- CONTEXT_JOB_END (R227, R228, R439): a stop that has reached its boundary ends; the status word and then the sequence number of
an ended job are written; where they cannot be, the firing context's handler gets a record. -/
def execContextJobEnd (job : Nat) (s : State) : Host.Outcome State Fault Refusal :=
  Cmd.next (match s.job? job with
    | none => .skip
    | some j =>
      let id := match j.kind with | .vdctl _ => 0 | _ => j.target
      let stop : Bool := match j.kind with | .vdctl 0 => j.state == .running | _ => false
      if stop then (if s.stopDone job j.target then endCtxJob job 0 none
        else after 1 (.contextJobEnd job))
      else if j.state != .finishing then .skip
      else if s.stampWaits j.die j.vd j.stamp.toNat true j.pts then after 1 (.contextJobEnd job)
      else .all [
        writeStamp j.die j.vd j.stamp.toNat (some (j.status % 256 + id % 65536 * 2 ^ 16)) j.sval.toNat j.pts
          (fun cause a => engFault j.ctx j.die cause a 0) .skip,
        progress j.ctx,
        dropJob job,
        wakeJobs j.vd,
        after 0 (.channelAssign j.die)]) s

end Sys2Proof.Machine
end

