-- ==== Sys2Proof/Machine/Debug.lean ====
section
/-! DEFINITION. Debug (R332 to R335): comparators that hit, and the commands of DBGCMD on the region that DBGSEL names. -/

namespace Sys2Proof.Machine

/-- COMPARATOR_HIT (R334): the input buffer withholds its token, the region halts, HIT takes the bit, and a record is
written. -/
def execComparatorHit (sid : Nat) (net : Net) (k : Nat) (s : State) : Host.Outcome State Fault Refusal :=
  Cmd.next (match s.regionAt sid, (s.elem sid).input net with
    | some (_, r), some t => .all [
        withhold sid net,
        modRegion r.ctx r.rgn fun r => { r with halted := true, hit := r.hit ||| (1#8 <<< k) },
        writeRecord { s.fabricRecord sid r.ctx t causeBkpt with detail := 0x8000 + k, vala := t.val.word },
        settleWatch r.ctx]
    | _, _ => .skip) s

/-- The region that DBGSEL shows, if CTX owns it (R332). -/
def State.debugRegion (s : State) : Option Region :=
  s.region? (natBits s.svc.dbgsel.toNat 31 16) (natBits s.svc.dbgsel.toNat 15 0)

/-- Withheld tokens of a site that `which` picks are admitted, without being compared again (R335). -/
def admitWithheld (sid : Nat) (which : Token → Bool) : Cmd := .get fun s =>
  let e := s.elem sid
  let free := e.withheld.filter fun n => match e.input n with | some t => which t | none => true
  .when (!free.isEmpty) (.seq
    (modElem sid fun e => { e with withheld := e.withheld.filter fun n => !free.contains n }) (wakeInput sid))

/-- The BKPT nodes of a site that wait and that `which` picks are released (R221, R335). -/
def releaseWaiting (sid : Nat) (which : Firing → Bool) : Cmd := .get fun s =>
  Cmd.each ((s.elem sid).parked.filter fun p => p.why == .debug && which p.f) releaseBkpt

/-- The halt command (R335). -/
def haltRegion : Cmd := .get fun s => Cmd.opt s.debugRegion fun r => .when (s.debugOn r.ctx) (.seq
  (modRegion r.ctx r.rgn fun r => { r with halted := true }) (settleWatch r.ctx))

/-- The resume command (R335). -/
def resumeRegion : Cmd := .get fun s => Cmd.opt s.debugRegion fun r => .all [
  modRegion r.ctx r.rgn fun r => { r with halted := false, stepping := none },
  Cmd.each r.sites fun sid => .seq (admitWithheld sid fun _ => true) (releaseWaiting sid fun _ => true),
  settleWatch r.ctx]

/-- The step command (R335): a halted region may issue one firing of a node. -/
def stepRegion (frm node : Nat) : Cmd := .get fun s => Cmd.opt s.debugRegion fun r => .when r.halted (.seq
  (modRegion r.ctx r.rgn fun r => { r with stepping := some (frm, node, none) })
  (Cmd.each r.sites fun sid => .seq (admitWithheld sid fun t => t.frm == frm && t.node == node)
    (releaseWaiting sid fun f => f.frm == frm && f.node == node)))

/-- DBG_HALT (R335). -/
def execDbgHalt (s : State) : Host.Outcome State Fault Refusal := haltRegion.next s
/-- DBG_RESUME (R335). -/
def execDbgResume (s : State) : Host.Outcome State Fault Refusal := resumeRegion.next s
/-- DBG_STEP (R335). -/
def execDbgStep (frm node : Nat) (s : State) : Host.Outcome State Fault Refusal := (stepRegion frm node).next s

/-- Whether a result stands in its output buffer (R34, R36): its cycle has come, and no earlier result stands there. -/
def State.buffered (s : State) (sid : Nat) (o : OutTok) : Bool := (s.elem sid).buffer s.now o.which o.tok.val.net == some o

/-- Whether the firing that a step let issue has still to put its results into its output buffers (R335). -/
def State.firingBusy (s : State) (r : Region) (fid : Nat) : Bool :=
  (s.mem.ops.any fun (_, o) => o.f.fid == fid && o.phase != .done) || (s.run.reads.any fun (_, q) => q.f.fid == fid) ||
  (s.run.pools.any fun (_, q) => q.f.fid == fid) ||
  r.sites.any fun sid => (s.elem sid).parked.any (·.f.fid == fid) || (s.elem sid).outs.any fun o => o.fid == fid && !s.buffered sid o

/-- DBGSTAT (R335): HALTED, HIT, STEPPING. -/
def State.dbgStat (s : State) (r : Region) : Nat :=
  let stepping : Bool := match r.stepping with | none => false | some (_, _, none) => true | some (_, _, some f) => s.firingBusy r f
  (if r.halted then 1 else 0) + 2 * r.hit.toNat + (if stepping then 2 ^ 9 else 0)

end Sys2Proof.Machine
end

