-- ==== Sys2Proof/Machine/Signature.lean ====
section
/-! DEFINITION. Ed448 and Ed448ph (R2, R427 to R429), from RFC 8032 section 5.2, to which R427 refers by name (PRESUMED, log 8).
The field is the integers modulo `edP`, held as naturals below it; a point is a pair of them. -/

namespace Sys2Proof.Machine

/-- The prime of the field, 2^448 - 2^224 - 1. -/
def edP : Nat := 2 ^ 448 - 2 ^ 224 - 1

/-- The order of the base point. -/
def edOrder : Nat := 2 ^ 446 - 13818066809895115352007386748515426880336692474882178609894547503885

/-- The curve's d = -39081 in the field. -/
def edD : Nat := edP - 39081

/-- `a ^ e` modulo the prime, `bits` being a bound on the bits of e. -/
def edPow (a e : Nat) : Nat → Nat
  | 0 => 1
  | bits + 1 =>
    let rest := edPow (a * a % edP) (e / 2) bits
    if e % 2 = 1 then a * rest % edP else rest

/-- The inverse in the field (0 of 0). -/
def edInv (a : Nat) : Nat := edPow a (edP - 2) 448

/-- A point of x² + y² = 1 + d x² y². -/
structure EdPoint where
  x : Nat
  y : Nat
deriving DecidableEq, Repr

/-- The neutral point. -/
def EdPoint.zero : EdPoint := ⟨0, 1⟩

/-- The base point. -/
def EdPoint.base : EdPoint where
  x := 224580040295924300187604334099896036246789641632564134246125461686950415467406032909029192869357953282578032075146446173674602635247710
  y := 298819210078481492676017930443930673437544040154080242095928241372331506189835876003536878655418784733982303233503462500531545062832660

/-- The sum of two points. -/
def EdPoint.add (a b : EdPoint) : EdPoint :=
  let t := edD * (a.x * b.x % edP) % edP * (a.y * b.y % edP) % edP
  { x := (a.x * b.y + a.y * b.x) % edP * edInv (1 + t) % edP
    y := (a.y * b.y + (edP - a.x * b.x % edP)) % edP * edInv (1 + (edP - t)) % edP }

/-- `n` times a point, `bits` being a bound on the bits of n. -/
def EdPoint.times (a : EdPoint) (n : Nat) : Nat → EdPoint
  | 0 => .zero
  | bits + 1 =>
    let rest := EdPoint.times (a.add a) (n / 2) bits
    if n % 2 = 1 then a.add rest else rest

/-- The 57 bytes of a point: y, and the lowest bit of x as the last bit. -/
def EdPoint.bytes (a : EdPoint) : List Byte := leBytes (a.y + 2 ^ 455 * (a.x % 2)) 57

/-- The point of 57 bytes, where there is one. -/
def EdPoint.ofBytes (bs : List Byte) : Option EdPoint :=
  let n := leNat bs
  let y := n % 2 ^ 455
  let odd := n / 2 ^ 455
  let u := (y * y + (edP - 1)) % edP
  let v := (edD * (y * y % edP) + (edP - 1)) % edP
  let x := u * u % edP * u % edP * v % edP *
    edPow (u * u % edP * (u * u % edP) % edP * u % edP * (v * v % edP * v % edP) % edP) ((edP - 3) / 4) 448 % edP
  if bs.length != 57 || edP ≤ y || v * (x * x % edP) % edP != u || (x = 0 && odd = 1) then none
  else some { x := if x % 2 = odd then x else edP - x, y := y }

/-- dom4: the name of the scheme, whether the message is hashed first, and the context. -/
def edDomain (prehash : Bool) (context : List Byte) : List Byte :=
  [0x53, 0x69, 0x67, 0x45, 0x64, 0x34, 0x34, 0x38, if prehash then 1 else 0, BitVec.ofNat 8 context.length] ++ context

/-- What is signed in place of a message: its 64-byte digest, or itself. -/
def edMessage (prehash : Bool) (message : List Byte) : List Byte := if prehash then shake256 64 message else message

/-- The scalar of a secret. -/
def edScalar (secret : List Byte) : Nat := leNat ((shake256 114 secret).take 55) / 4 * 4 +
  2 ^ 440 * (leNat (((shake256 114 secret).drop 55).take 1) % 128 + 128)

/-- The public key of a secret. -/
def edPublic (secret : List Byte) : List Byte := (EdPoint.base.times (edScalar secret) 448).bytes

/-- The signature, 114 bytes, of what `edMessage` gives. -/
def edSign (prehash : Bool) (context secret signed : List Byte) : List Byte :=
  let dom := edDomain prehash context
  let r := leNat (shake256 114 (dom ++ (shake256 114 secret).drop 57 ++ signed)) % edOrder
  let point := (EdPoint.base.times r 446).bytes
  let k := leNat (shake256 114 (dom ++ point ++ edPublic secret ++ signed)) % edOrder
  point ++ leBytes ((r + k * edScalar secret) % edOrder) 57

/-- Whether a signature of what `edMessage` gives is right under a public key: 4 S B = 4 R + 4 k A. -/
def edVerify (prehash : Bool) (context key signed signature : List Byte) : Bool :=
  let first := signature.take 57
  let scalar := leNat (signature.drop 57)
  let k := leNat (shake256 114 (edDomain prehash context ++ first ++ key ++ signed)) % edOrder
  match EdPoint.ofBytes first, EdPoint.ofBytes key with
  | some r, some a =>
    signature.length == 114 && decide (scalar < edOrder) &&
      (EdPoint.base.times scalar 446).times 4 3 == (r.times 4 3).add ((a.times k 446).times 4 3)
  | _, _ => false

end Sys2Proof.Machine
end

