-- ==== Sys2Proof/Machine/Registers.lean ====
section
/-! DEFINITION. The MMIO registers (R398, R399): which register lies at an offset, what it reads as, who may write it, and which
MP serves it (R424, R437). -/

namespace Sys2Proof.Machine

/-! ### Offsets -/

/-- The registers of the MP block in the model's own numbering, which `Config.mpRegister` maps offsets to (log 6). -/
def mpRegOf (n : Nat) : Reg :=
  if n < 256 then .mxown n
  else if n < 512 then .keyown (n - 256)
  else if n < 8704 then .dbroute (n - 512)
  else if n < 8800 then .siteret (n - 8704)
  else if n < 8808 then .dbgCmpCtl (n - 8800)
  else if n < 8816 then .dbgCmpTag (n - 8808)
  else if n < 8824 then .dbgCmpVal (n - 8816)
  else if n < 8832 then .retstat (n - 8824)
  else if n < 8836 then .capCtl (n - 8832)
  else if n < 8840 then .capBase (n - 8836)
  else if n < 8844 then .capPtr (n - 8840)
  else if n < 8852 then .idpub (n - 8844)
  else if n < 8868 then .attcert (n - 8852)
  else match n - 8868 with
    | 0 => .dbgSel | 1 => .dbgCmd | 2 => .dbgStat | 3 => .retreq | 4 => .layaddr | 5 => .laycmd | 6 => .laystat
    | 7 => .attreq | 8 => .attsel | 9 => .attstat | _ => .none

/-- The register of a VD block (R399, R420). -/
def vdReg (n r : Nat) : Reg :=
  match r with
  | 0x000 => .vdCtl n | 0x008 => .vdDom n | 0x010 => .vdAllow n | 0x018 => .vdShare0 n | 0x020 => .vdShare1 n
  | 0x028 => .vdL2Ways n | 0x030 => .vdWdog n | 0x038 => .vdKill n | 0x040 => .vdMquota n | 0x048 => .vdPlace n
  | 0x050 => .vdPmap n | 0x058 => .vdWqBase n | 0x060 => .vdLqBase n | 0x068 => .vdPtRoot n | 0x070 => .vdTlbInv n
  | 0x078 => .vdTlbSeq n | 0x080 => .vdIrqAddr n | 0x088 => .vdIrqData n | 0x090 => .vdPeerQ n | 0x098 => .vdRplBase n
  | 0x0A0 => .vdRstStat n | _ => .none

/-- The register at an offset of the MMIO window (R398); `none` where nothing is assigned. -/
def mmioReg (off : Nat) : Reg :=
  if 0x1000000 ≤ off then (if off < 0x5000000 then vdReg ((off - 0x1000000) / 65536) ((off - 0x1000000) % 65536) else .none)
  else if 0x100000 ≤ off then (if off < 0x200000 then mpRegOf (Config.mpRegister (off - 0x100000)) else .none)
  else if 0x20000 ≤ off then
    (if off < 0x22000 && Config.linkCounter (off % 4096) == 1 then .linkDrops ((off - 0x20000) / 4096) 0 else .none)
  else if 0x10000 ≤ off then (if off < 0x14000 then match off % 4096 with
    | 0x000 => .thermAllow ((off - 0x10000) / 4096) | 0x008 => .thermCap ((off - 0x10000) / 4096)
    | 0x010 => .thermTemp ((off - 0x10000) / 4096) | 0x018 => .thermHbmt ((off - 0x10000) / 4096)
    | _ => .none else .none)
  else match off with
    | 0x000 => .devReady | 0x008 => .devFail | 0x010 => .devDramSz | 0x018 => .devStep | 0x020 => .devPkgId | _ => .none

/-- The MP that serves a register, if one does (R424, R437): THERM.d its die's, the MP block that of die 0. -/
def regServedBy : Reg → Option Nat
  | .thermAllow d | .thermCap d | .thermTemp d | .thermHbmt d => some d
  | .mxown _ | .keyown _ | .dbroute _ | .siteret _ | .dbgSel | .dbgCmpCtl _ | .dbgCmpTag _ | .dbgCmpVal _ | .dbgCmd | .dbgStat
  | .retreq | .retstat _ | .layaddr | .laycmd | .laystat | .capCtl _ | .capBase _ | .capPtr _ | .idpub _ | .attcert _ | .attreq
  | .attsel | .attstat => some 0
  | _ => none

/-- Who writes a register: the host, a context of VD 0 (privilege 2), or whoever may (a REGISTER_WRITE, the MP). -/
inductive Writer where
  | host | context | any
deriving DecidableEq, Repr

/-- Whether a register takes a write (R245, R437; log 69): MQUOTA is written at privilege 2 alone, so not by the host. -/
def regWritableBy (r : Reg) (w : Writer) : Bool :=
  match r, w with
  | .vdMquota _, .host => false
  | _, _ => true

/-! ### Reading -/

/-- Bytes as a register: eight from 8 k on, little-endian, zero-padded. -/
def regOfBytes (bs : List Byte) (k : Nat) : Nat := field bs (8 * k) 8

/-- The identity key's secret (R428). -/
def identitySecret : List Byte := shake256 57 (Config.fusedSeed ++ [0x49, 0x44])

def State.journalCode (s : State) : Nat := match s.svc.journal.state with
  | .idle => 0 | .checking => 1 | .prepared => 2 | .committed => 3 | .applying => 4 | .recovering => 5

def shares4 (l : List Nat) : Nat := (List.range 4).foldl (fun n k => n + l.getD k 0 % 1024 * 2 ^ (16 * k)) 0

/-- What a register reads as (R6). -/
def State.readReg (s : State) (r : Reg) : Nat :=
  let debug := fun (f : Region → Nat) => match s.debugRegion with | some g => f g | none => 0
  match r with
  | .devReady => s.svc.ready.toNat
  | .devFail => s.svc.fail.toNat
  | .devDramSz => Config.dramSize
  | .devStep => Config.dieStep.toNat
  | .devPkgId => s.svc.pkgid
  | .thermAllow d => (s.thermal d).allow
  | .thermCap d => (s.thermal d).cap
  | .thermTemp d => (s.thermal d).tj
  | .thermHbmt d => let t := s.thermal d; t.t0 + t.t1 * 2 ^ 8 + t.hot.toNat * 2 ^ 16
  | .linkDrops p _ => s.svc.drops.getD p 0
  | .vdCtl n => let v := s.vd n; v.state + (if v.force then 2 ^ 7 else 0) + v.pceil * 2 ^ 8 + v.err * 2 ^ 12
  | .vdDom n => let v := s.vd n; v.dbase + v.dsize * 2 ^ 16
  | .vdAllow n => (s.vd n).tiles
  | .vdShare0 n => shares4 ((s.vd n).shares.take 4)
  | .vdShare1 n => shares4 ((s.vd n).shares.drop 4)
  | .vdL2Ways n => let v := s.vd n; v.l2mask.toNat + (if v.wayStage != .idle then 2 ^ 16 else 0)
  | .vdWdog n => (s.vd n).wdog
  | .vdMquota n => (s.vd n).mquota
  | .vdPlace n => let v := s.vd n; v.grow + v.shrink * 2 ^ 16 + (if v.hold then 2 ^ 32 else 0)
  | .vdWqBase n => (s.vd n).wqbase.toNat
  | .vdLqBase n => (s.vd n).lqbase.toNat
  | .vdPtRoot n => (s.vd n).ptroot.toNat
  | .vdTlbSeq n => (s.vd n).tlbseq.toNat
  | .vdIrqAddr n => (s.vd n).irqaddr.toNat
  | .vdIrqData n => (s.vd n).irqdata
  | .vdPeerQ n => (s.vd n).peerq.toNat
  | .vdRplBase n => (s.vd n).rplbase.toNat
  | .vdRstStat n => (s.vd n).rststat.toNat
  | .mxown i =>
    let o := s.mxOwn i
    match o.held with
    | some w => w.toNat
    | none => o.own0 + o.own1 * 2 ^ 6 + (if o.split then 2 ^ 12 else 0) + (if o.gr0 then 2 ^ 13 else 0) + (if o.gr1 then 2 ^ 14 else 0)
  | .keyown k => s.svc.keyown.getD k 0
  | .dbroute i => (List.range 8).foldl (fun n j => n + s.svc.dbroute.getD (8 * i + j) 0 * 2 ^ (8 * j)) 0
  | .siteret i => s.svc.siteret.getD i 0
  | .dbgSel => s.svc.dbgsel.toNat
  | .dbgCmpCtl k => debug fun g => (g.comps.getD k Comparator.empty).ctl.toNat
  | .dbgCmpTag k => debug fun g => (g.comps.getD k Comparator.empty).tag.toNat
  | .dbgCmpVal k => debug fun g => (g.comps.getD k Comparator.empty).val.toNat
  | .dbgStat => debug s.dbgStat
  | .retreq => s.svc.retreq.toNat
  | .retstat k => s.svc.retstat.getD k 0
  | .layaddr => s.svc.journal.addr.toNat
  | .laystat => (Config.layStat s.journalCode s.svc.journal.seq s.svc.journal.err).toNat
  | .capCtl k => (s.svc.cap k).ctl.toNat
  | .capBase k => (s.svc.cap k).base.toNat
  | .capPtr k => (s.svc.cap k).ptr.toNat
  | .idpub k => regOfBytes (edPublic identitySecret) k
  | .attcert k => regOfBytes s.svc.attcert k
  | .attreq => s.svc.attreq.toNat
  | .attsel => s.svc.attsel.toNat
  | .attstat => s.svc.attstat.toNat
  | .vdKill _ | .vdPmap _ | .vdTlbInv _ | .dbgCmd | .laycmd | .none => 0

end Sys2Proof.Machine
end

