-- ==== Sys2Proof/Machine/Service.lean ====
section
/-! DEFINITION. Power, readiness and heat (R405 to R411), storage errors and repair (R412 to R417), resets of an MP and of the
package (R406, R424), capture (R425), firmware, identity and attestation (R427 to R429). -/

namespace Sys2Proof.Machine

/-! ### Thermal allowance (R409, R410, R424) -/

def modThermal (d : Nat) (f : Thermal → Thermal) : Cmd := .prim (.svc fun v => { v with thermal := v.thermal.modify d f })

/-- ALLOW takes a value, from the next cycle; the cycles below 255 so far are counted (R226 0x102). -/
def changeAllow (d a : Nat) : Cmd := .get fun s =>
  let th := s.thermal d
  .when (a != th.allow) (.all [
    settleTicks,
    .when (th.allow < 255) (count d 0 0x102 (s.now + 1 - th.accAt)),
    modThermal d fun t => t.setAllow s.now a])

/-- The MP's update (R409): A from the hottest junction in 1/8 °C and the package's watts over the last 1 ms. -/
def nextOwn (a tj8 watts : Nat) : Nat :=
  let b := if 880 ≤ tj8 then 0 else if 800 < tj8 then a - 16 else if tj8 < 760 then min (a + 16) 255 else a
  if 2800 < watts then b - 16 else b

/-- The hardware cut begins or ends (R424). -/
def setCut (d : Nat) (b : Bool) : Cmd := .get fun s =>
  .when ((s.thermal d).cut != b) (.seq settleTicks (modThermal d fun t => { t with cut := b }))

/-- THERMAL_UPDATE (R409): what the MP of a die does every 100 µs; an MP that is reset does nothing (R424). -/
def execThermalUpdate (die tj8 watts : Nat) (s : State) : Host.Outcome State Fault Refusal :=
  let th := s.thermal die
  let a := nextOwn th.own tj8 watts
  Cmd.next (.when (!s.svc.mpDown.contains die) (.all [
    modThermal die fun t => { t with own := a, tj := tj8 % 4096 },
    changeAllow die (min a th.cap),
    setCut die (880 ≤ tj8)])) s

/-- A write of THERM.d.CAP (R409). -/
def writeCap (d : Nat) (value : W64) : Cmd := .get fun s =>
  let c := value.toNat % 256
  .seq (modThermal d fun t => { t with cap := c }) (changeAllow d (min (s.thermal d).own c))

/-- THERMAL_CUT (R424): at 110 °C the hardware cuts issue to zero without the MP; ALLOW keeps its value. -/
def execThermalCut (die tj8 : Nat) (s : State) : Host.Outcome State Fault Refusal := (setCut die (880 ≤ tj8)).next s

/-- HBM_HOT (R411): a stack's sensor; HOT is set above 85 °C and cleared at 83 °C or less. -/
def execHbmHot (stack temp : Nat) (s : State) : Host.Outcome State Fault Refusal :=
  let bit : BitVec 2 := 1#2 <<< (stack % 2)
  (modThermal (stack / 2) fun t => { t with
    t0 := if stack % 2 = 0 then temp % 256 else t.t0
    t1 := if stack % 2 = 1 then temp % 256 else t.t1
    hot := if 85 < temp then t.hot ||| bit else if temp ≤ 83 then t.hot &&& ~~~bit else t.hot }).next s

/-! ### Page and site retirement (R414 to R417) -/

/-- PAGE_RETIRE (R415): a frame of DRAM goes to a spare of its stack, line by line; a line that is locked, or an MP that is
reset, is waited for. A stack with no spare leaves the frame in service. -/
def execPageRetire (frame : Nat) (s : State) : Host.Outcome State Fault Refusal :=
  let stack := s.homeStack (65536 * frame)
  let spares := s.svc.retstat.getD stack 0
  let again := after 1 (.pageRetire frame)
  let at_ := s.svc.retiring.find? fun (f, _) => f == frame
  Cmd.next (
    if Config.dramSize < 65536 * (frame + 1) then .skip
    else if s.svc.mpDown.contains (stack / 2) then again
    else match at_ with
      | none => .when (spares != 0) (.seq
          (.prim (.svc fun v => { v with retstat := v.retstat.set stack (spares - 1), retiring := v.retiring ++ [(frame, 0)] })) again)
      | some (_, k) =>
        let line := 512 * frame + k
        if k = 512 then .all [
          .prim (.svc fun v => { v with
            retiring := v.retiring.filter fun (f, _) => f != frame
            retlog := v.retlog ++ [65536 * frame] }),
          sendInterrupt 0 5]
        else if s.lockedLine line then again
        else .all [
          .prim (.mem fun m => { m with
            remap := m.remap.set line (Config.dramSize / 128 + 512 * (1024 * stack + 1023 - spares) + k)
            lost := [2 * line, 2 * line + 1].foldl (fun l u => if m.poisoned.getD u false then Tbl.set l u true else l) m.lost
            poisoned := m.poisoned.filter fun (u, _) => u / 2 != line }),
          .prim (.svc fun v => { v with retiring := v.retiring.map fun (f, j) => if f = frame then (f, j + 1) else (f, j) }),
          again]) s

/-- A write of a frame's PA[51:16] to MP.RETREQ (R414). -/
def writeRetreq (value : W64) : Cmd := .seq (.prim (.svc fun v => { v with retreq := value }))
  (after 0 (.pageRetire (value.toNat % 2 ^ 36)))

/-- SITERET bits can only be set (R417). -/
def setSites (row : Nat) (bits : Nat) : Cmd := .prim (.svc fun v => { v with siteret := v.siteret.set row (v.siteret.getD row 0 ||| bits) })

/-- SITE_RETIRE (R417): a site is marked; the mapper and later grants and restores avoid it. -/
def execSiteRetire (die x y : Nat) (s : State) : Host.Outcome State Fault Refusal :=
  (Cmd.when (die < 4 && x < 64 && y < 24) (setSites (24 * die + y) (2 ^ x))).next s

/-- A host write of a row of SITERET (R417): before the QUAD bits of the sites are set. -/
def writeSiteret (row : Nat) (value : W64) : Cmd := .get fun s =>
  let ready := fun x => s.svc.ready.getLsbD (12 + 4 * (row / 24) + x + 2 * (row % 24 / 12))
  .when (row < 96) (setSites row (((if ready 0 then 0 else value.toNat % 2 ^ 32)) + (if ready 1 then 0 else value.toNat / 2 ^ 32 * 2 ^ 32)))

/-- SCRUB (R413, R414): a pass over a frame corrects its errors; 16 or more corrected symbols retire it. -/
def execScrub (die frame corrected : Nat) (s : State) : Host.Outcome State Fault Refusal :=
  (Cmd.when (16 ≤ corrected && !s.svc.mpDown.contains die) (after 0 (.pageRetire frame))).next s

/-! ### Storage errors (R42, R412) -/

/-- The context whose domain run holds a domain (R352); a number that names none sends a record to the MP (R42). -/
def State.ctxOfDomain (s : State) (dom : Nat) : Nat :=
  match s.ten.ctxs.find? fun (_, c) => c.cbase ≤ dom && dom < c.cbase + c.image.dcount with | some (k, _) => k | none => 65536

/-- The token that a receiving buffer of a site holds: an input of a switch box, or the element's input buffer. -/
def State.heldToken (s : State) (sid : Nat) (net : Net) (input : Dir) : Option Token := match input with
  | .loc => (s.elem sid).input net
  | d => ((s.box (boxKey sid net)).bufs.find? fun (i, _) => i == d).map (·.2)

/-- Put back or discard the token of a receiving buffer. -/
def setHeld (sid : Nat) (net : Net) (input : Dir) (t : Option Token) : Cmd := match input with
  | .loc => setInput sid net t
  | d =>
    let one := fun (i, x) => if i = d then t.map (fun y => (i, y)) else some (i, x)
    modBox (boxKey sid net) fun b => { b with bufs := b.bufs.filterMap one }

/-- An uncorrectable error of a token that a buffer of a site has received (R42), which `put` replaces: in its value, it becomes
poison of the receiving site, which goes on in the buffers of the network on which the token came (log 43); in its header, it is
discarded with a record, to the MP and without the tag when that cannot be read either. -/
def badToken (sid : Nat) (t : Token) (part : TokenPart) (put : Option Token → Cmd) : Cmd := .get fun s =>
  let dom := tagDomain t.tag
  match part with
  | .value => put (some { t with
      val := .poison (mkOrigin causeEcc (s.vdOfDomain dom) (dieOf sid) (xOf sid) (yOf sid) 0 0) })
  | .header => .seq (put none) (writeRecord (s.fabricRecord sid (s.ctxOfDomain dom) t causeEcc))
  | .tag => .seq (put none) (writeRecord (s.fabricRecord sid 65536 { t with tag := 0 } causeEcc))

/-- A copy with an uncorrectable error is dropped; pending bytes, which the store buffer holds too, stay (R412). -/
def Copy.dropped (c : Copy) : Option Copy :=
  if !c.pending then none else some { c with valid := c.valid.map fun _ => false }

def dropCopy (t : Tbl Copy) (k : Nat) : Tbl Copy := match t.get? k with
  | none => t
  | some c => match c.dropped with | some d => t.set k d | none => t.del k

/-- The entries of a unit half that use a weight bank. -/
def MxHalf.usersOf (h : MxHalf) (bank : Nat) : List MxEntry :=
  h.inbox.filter fun e => e.started && !e.left && bankNo e.bank == bank && (e.op == 1 || e.op == 2)

/-- STORAGE_ERROR (R412): a correctable error is corrected, and counted where the table says so; an uncorrectable one has the
effect of its structure. -/
def execStorageError (place : ErrPlace) (correctable : Bool) (s : State) : Host.Outcome State Fault Refusal :=
  Cmd.next (match place with
    | .link sid net input part => if correctable then count (dieOf sid) 0 0x100 1
      else Cmd.opt (s.heldToken sid net input) fun t => badToken sid t part (setHeld sid net input)
    | .edge die col top part => if correctable then count die 0 0x100 1
      else
        let k := edgeKey die col top
        Cmd.opt (s.edge k).head? fun t => badToken (sidAt die col (if top then 23 else 0)) t part fun x => setEdge k x.toList
    | .nodeSlot sid slot => .when (!correctable) (.seq
        (modElem sid fun e => { e with slots := e.slots.mod slot fun n => { n with bad := true } }) (siteError sid))
    | .matchStore sid =>
      let key := fun (k : Nat) => 64 * clusterOf sid + k
      let hit := (List.range 64).findSome? fun k => ((s.set? (key k)).ways.findIdx? fun w => match w with
        | .held m => m.e == elemIndex sid && !m.poisoned | _ => false).map fun w => (key k, w)
      if correctable then count (dieOf sid) 0 0x101 1
      else match hit with
        | some (k, w) => matchError k w false
        | none => siteError sid
    | .copyL1 sid line => .when (!correctable) (.prim (.mem fun m => { m with l1 := dropCopy m.l1 (l1Key sid line) }))
    | .copyL2 die line => .when (!correctable) (.prim (.mem fun m => { m with l2 := dropCopy m.l2 (l2Key die line) }))
    | .homeUnit pa => .when (!correctable && paWindow pa == 0) (.seq
        (.prim (.mem fun m => { m with poisoned := m.poisoned.set (pa / 64) true })) (after 0 (.pageRetire (pa / 65536))))
    | .vaultWord die addr => .when (!correctable)
        (.prim (.mem fun m => { m with vaultPoison := m.vaultPoison.set (2 ^ 28 * die + addr / 8) true }))
    | .weightBank half bank => .when (!correctable) (.seq
        (Cmd.each ((s.half half).usersOf bank) fun e => mxFail half e 4)
        (modHalf half fun h => { h with banks := h.banks.modify bank fun b => { b with tile := none, loading := false } }))
    | .accumBank half bank => .when (!correctable)
        (modHalf half fun h => { h with poisoned := if h.poisoned.contains bank then h.poisoned else h.poisoned ++ [bank] })
    | .tlb sid page => modElem sid fun e => { e with tlb := e.tlb.filter fun t => t.page != page }
    | .walkCache die => .prim (.mem fun m => { m with walkCache := m.walkCache.set die ((m.walkCache.getD die []).drop 1) })) s

/-! ### Readiness (R407, R408) -/

/-- Coupler pairs in the order of R407. -/
def couplerPairs : List (Nat × Nat) := [(0, 1), (0, 2), (0, 3), (1, 2), (1, 3), (2, 3)]

/-- The functions that a function waits for (R408), as bits of DEV.READY. -/
def readyNeeds (bit : Nat) : List Nat :=
  let l2 := fun (d : Nat) => [2 * d, 2 * d + 1] ++ (couplerPairs.zipIdx.filter fun (p, _) => p.1 == d || p.2 == d).map fun (_, k) => 40 + k
  if 8 ≤ bit && bit < 12 then l2 (bit - 8)
  else if 12 ≤ bit && bit < 28 then [8 + (bit - 12) / 4]
  else if 28 ≤ bit && bit < 40 then [8 + bit % 4]
  else []

/-- The DEV.READY bits after a pass over the functions that are ready themselves. -/
def readyPass (up ready : W64) : W64 := (List.range 56).foldl (fun r k =>
  if up.getLsbD k && (readyNeeds k).all fun n => r.getLsbD n then r ||| (1#64 <<< k) else r) ready

/-- Whatever waits for a function looks again. -/
def wakeAll : Cmd := .get fun s => .all [
  Cmd.each (s.ten.vds.filter fun (_, v) => v.state == 2) fun (n, _) => wakeVd n,
  Cmd.each (s.svc.mxown.filter fun (_, o) => o.held.isSome) fun (u, _) => after 1 (.mxownApply u),
  Cmd.each (List.range 4) fun d => after 1 (.channelAssign d)]

/-- FUNCTION_READY (R407, R408): a function completes bring-up or fails it; READY bits are set in the order of what depends on
what, and never cleared. -/
def execFunctionReady (bit : Nat) (failed : Bool) (s : State) : Host.Outcome State Fault Refusal :=
  let v := s.svc
  let up := if failed || v.fail.getLsbD bit then v.up else v.up ||| (1#64 <<< bit)
  Cmd.next (if 56 ≤ bit then .skip else .seq
    (.prim (.svc fun v => { v with
      up := up
      ready := readyPass up (readyPass up (readyPass up v.ready))
      fail := if failed && !v.ready.getLsbD bit then v.fail ||| (1#64 <<< bit) else v.fail }))
    wakeAll) s

/-! ### Package power (R406) -/

/-- Every register takes its reset value, and contents are lost (R406, log 4). -/
def loseAll : Cmd :=
  let r := State.reset
  .all [
    .prim (.fab fun _ => r.fab), .prim (.blocks fun _ => r.run), .prim (.mem fun _ => r.mem), .prim (.eng fun _ => r.eng),
    .prim (.ten fun _ => r.ten), .prim (.svc fun _ => r.svc), .prim .loseBytes, .prim (.drop fun _ => true), .prim .rewind]

/-- PACKAGE_RESET (R406): power is applied. -/
def execPackageReset (s : State) : Host.Outcome State Fault Refusal :=
  Cmd.next (.all [
    loseAll,
    .prim (.setPower true),
    Cmd.each State.reset.agenda fun (n, t) => afterTask n t]) s

/-- PACKAGE_POWER_OFF (R406): nothing is held and nothing runs. -/
def execPackagePowerOff (s : State) : Host.Outcome State Fault Refusal := (Cmd.seq loseAll (.prim (.setPower false))).next s

/-! ### Capture (R425) -/

/-- CAPTURE_RECORD (R425). -/
def execCaptureRecord (k kind rgn : Nat) (dest : BitVec 32) (tag : W64) (payload : List Byte) (s : State) :
    Host.Outcome State Fault Refusal := (captureTo k ⟨kind, rgn, dest, tag, payload⟩).next s

/-- A write of MP.CAPk.CTL (R425): OVF is read-only and is cleared when EN is set;
setting EN starts a ring with the relocation entries of the regions captured. -/
def writeCapCtl (k : Nat) (value : W64) : Cmd := .get fun s =>
  let old := s.svc.cap k
  let x := value.toNat
  let starts := x.testBit 0 && !old.ctl.getLsbD 0
  let ovf := if starts then 0 else natBits old.ctl.toNat 1 1
  let ctl := natBits x 0 0 + 2 * ovf + natBits x 46 2 * 4
  .when (k < 4) (.seq
    (.prim (.svc fun v => { v with caps := v.caps.set k { old with ctl := BitVec.ofNat 64 ctl, ptr := if starts then 0 else old.ptr, used := false } }))
    (.when starts (Cmd.each ((s.regionsOf (natBits x 17 2)).filter fun r => natBits x 33 18 == 0xFFFF || natBits x 33 18 == r.rgn) fun r =>
      captureTo k ⟨5, r.rgn, 0, 0, leBytes r.entry 16⟩)))

/-! ### Firmware, identity, attestation (R427 to R429) -/

/-- The functions of a die, as bits of DEV.FAIL (R407, R427). -/
def dieFunctions (d : Nat) : List Nat :=
  [2 * d, 2 * d + 1, 8 + d, 12 + 4 * d, 13 + 4 * d, 14 + 4 * d, 15 + 4 * d, 28 + d, 32 + d, 36 + d, 46 + 2 * d, 47 + 2 * d] ++
    ((couplerPairs.zipIdx.filter fun (p, _) => p.1 == d || p.2 == d).map fun (_, k) => 40 + k) ++
    (if d = 0 then [54] else if d = 2 then [55] else [])

/-- The attestation key's secret (R428). -/
def attestSecret (digest : List Byte) (svn : Nat) : List Byte := shake256 57 (Config.fusedSeed ++ digest ++ leBytes svn 4)

/-- The context string of a firmware signature (R427): "KORVAL-SY740-FW". -/
def firmwareContext : List Byte :=
  [0x4B, 0x4F, 0x52, 0x56, 0x41, 0x4C, 0x2D, 0x53, 0x59, 0x37, 0x34, 0x30, 0x2D, 0x46, 0x57]

/-- FIRMWARE_VERIFY (R427, R428): a die whose firmware is refused sets the FAIL bits of its functions (the digest is what Ed448ph
signs, log 8); die 0's firmware gives the attestation key, which the identity key signs. -/
def execFirmwareVerify (die : Nat) (image : List Byte) (s : State) : Host.Outcome State Fault Refusal :=
  let svn := field image 4 4
  let size := field image 8 8
  let digest := shake256 64 (image.take (16 + size))
  let sound := image.length == 16 + size + 114 && field image 0 4 == 0x574B524B &&
    edVerify true firmwareContext Config.korvalKey digest (image.drop (16 + size)) && Config.fuseCount ≤ svn
  let all := s.svc.fwDigest.set die (if sound then digest else [])
  let zero := all.getD 0 []
  let differs := (List.range 4).filter fun d => !(all.getD d []).isEmpty && !zero.isEmpty && all.getD d [] != zero
  let failing := ((if sound then [] else [die]) ++ differs).flatMap dieFunctions
  Cmd.next (.when (die < 4) (.all [
    .prim (.svc fun v => { v with
      fwDigest := all
      fail := failing.foldl (fun f k => if v.ready.getLsbD k then f else f ||| (1#64 <<< k)) v.fail
      up := failing.foldl (fun u k => u &&& ~~~(1#64 <<< k)) v.up }),
    .when (die == 0 && sound) (.prim (.svc fun v => { v with
      fwSvn := svn
      attcert := edSign Config.certPrehash Config.certContext identitySecret
        (edMessage Config.certPrehash (edPublic (attestSecret digest svn))) }))])) s

/-- The registers that the report's hash covers (R429), each as 8 bytes (log 9). -/
def State.reportHash (s : State) (vd : Nat) : List Byte :=
  let regs := [Reg.vdDom vd, .vdAllow vd, .vdShare0 vd, .vdShare1 vd, .vdL2Ways vd].map s.readReg
  let mx := s.svc.mxown.filterMap fun (u, o) => if o.own0 = vd || (o.split && o.own1 == vd) then some (s.readReg (.mxown u)) else none
  let keys := s.svc.keyown.filterMap fun (_, o) => if o = 64 + vd then some o else none
  shake256 64 ((regs ++ mx ++ keys ++ [s.svc.journal.seq]).flatMap fun x => leBytes x 8)

/-- The attestation report (R429). -/
def State.report (s : State) (vd : Nat) (nonce : List Byte) : List Byte :=
  let digest := s.svc.fwDigest.getD 0 []
  let secret := attestSecret digest s.svc.fwSvn
  let cs := ((s.ten.ctxs.filter fun (_, c) => c.vd == vd && c.state == .running).map (·.2)).take 16
  let images := cs.flatMap fun c => leBytes c.image.digest 16
  let pad := fun (bs : List Byte) (n : Nat) => (bs ++ List.replicate n 0).take n
  let body := leBytes 0x41545354 4 ++ leBytes s.svc.fwSvn 4 ++ leBytes s.ticks.toNat 8 ++ nonce ++ pad digest 64 ++ s.reportHash vd ++
    leBytes vd 2 ++ leBytes Config.dieStep.toNat 2 ++ leBytes cs.length 2 ++ List.replicate 18 0 ++ pad images 256 ++
    pad (edPublic secret) 57 ++ List.replicate 7 0
  body ++ pad (edSign true Config.reportContext secret (edMessage true body)) 114 ++ List.replicate 6 0

/-- ATTEST_REQUEST (R429): the report of the oldest request goes to ATTREQ + 64, then ATTSTAT bit 0 is set. A request keeps the
ATTREQ and ATTSEL with which it was made. -/
def execAttestRequest (s : State) : Host.Outcome State Fault Refusal :=
  let q := s.svc.attWait.headD (s.svc.attreq, s.svc.attsel.toNat % 64)
  let a := q.1.toNat
  let bs := s.report q.2 (s.physRead a 64)
  Cmd.next (if s.svc.mpDown.contains 0 then after 1 .attestRequest
    else .seq (if paWindow a = 2 then .prim (.host ((a + 64) % 2 ^ 50) bs) else mpWrite (a + 64) bs)
      (.prim (.svc fun v => { v with attstat := v.attstat ||| 1, attWait := v.attWait.drop 1 }))) s

end Sys2Proof.Machine
end

