-- ==== Sys2Proof/Machine/Layout.lean ====
section
/-! DEFINITION. Partition layout requests and the MP journal (R386, R422, R423). -/

namespace Sys2Proof.Machine

/-- The register that a layout entry names, if it may (R422). -/
def layoutReg (off : Nat) : Option Reg := match mmioReg off with
  | .vdDom n => some (.vdDom n) | .vdAllow n => some (.vdAllow n) | .vdShare0 n => some (.vdShare0 n) | .vdShare1 n => some (.vdShare1 n)
  | .vdL2Ways n => some (.vdL2Ways n) | .vdCtl n => some (.vdCtl n) | .mxown i => some (.mxown i) | .keyown k => some (.keyown k)
  | _ => none

/-- The VD of a layout register. -/
def regVd? : Reg → Option Nat
  | .vdDom n | .vdAllow n | .vdShare0 n | .vdShare1 n | .vdL2Ways n | .vdCtl n => some n
  | _ => none

/-- Four shares of a value (R372). -/
def sharesOf (x : W64) : List Nat := (List.range 4).map fun k => natBits x.toNat (16 * k + 9) (16 * k)

/-- A VD's registers with a layout value; of CTL only PCEIL. -/
def Vd.withReg (v : Vd) (r : Reg) (x : W64) : Vd := match r with
  | .vdDom _ => v.withPartition false x
  | .vdAllow _ => v.withPartition true x
  | .vdShare0 _ => { v with shares := sharesOf x ++ v.shares.drop 4 }
  | .vdShare1 _ => { v with shares := v.shares.take 4 ++ sharesOf x }
  | .vdL2Ways _ => { v with l2mask := x.setWidth 16, l2new := x.setWidth 16 }
  | .vdCtl _ => { v with pceil := natBits x.toNat 11 8 }
  | _ => v

/-- The entries that name a register. -/
def layoutWrites (es : List (Nat × W64)) : List (Reg × W64) := es.filterMap fun (o, x) => (layoutReg o).map fun r => (r, x)

/-- The VDs' registers with every entry of a request. -/
def State.finalVds (s : State) (ws : List (Reg × W64)) : State := ws.foldl (fun t (r, x) => match regVd? r with
  | some n => { t with ten := { t.ten with vds := t.ten.vds.set n ((t.vd n).withReg r x) } }
  | none => t) s

/-- The entries that change a VD's register; one that equals the current value does nothing (R422). -/
def State.layoutChanges (s : State) (ws : List (Reg × W64)) : List (Nat × Reg × W64) := ws.filterMap fun (r, x) => match regVd? r with
  | some n => if (s.vd n).withReg r x = s.vd n then none else some (n, r, x)
  | none => none

/-- Whether a change is one of DOM or ALLOW. -/
def regIsPartition : Reg → Bool | .vdDom _ | .vdAllow _ => true | _ => false

/-- ERR of a request: 0 none, 1 BUSY, 2 OVERLAP, 3 SUM, 4 RANGE (R422). -/
def State.layoutError (s : State) (es : List (Nat × W64)) (force : Bool) : Nat :=
  let ws := layoutWrites es
  let cs := s.layoutChanges ws
  let t := s.finalVds ws
  let ways := cs.filterMap fun (n, r, x) => match r with | .vdL2Ways _ => some (s.vd n, x.setWidth 16) | _ => none
  let busy := cs.any fun (n, r, _) => (s.vd n).state == 4 || (regIsPartition r && !(s.ctxsOf n).isEmpty && !force)
  let mixed := ways.any fun (v, m) => m &&& ~~~v.l2mask != 0 && v.l2mask &&& ~~~m != 0
  let codes := (t.ten.vds.filter fun (_, v) => v.state == 2 || v.state == 3).map fun (n, v) => t.partitionError n v
  if es.isEmpty || 64 < es.length || ws.length != es.length || (ways.any fun (_, m) => m == 0) then 4
  else if busy || (ways.any fun (v, _) => v.wayStage != .idle) then 1
  else if mixed || codes.contains errOverlap then 2
  else if codes.contains errSum then 3
  else if codes.contains errRange then 4
  else 0

def modJournal (f : Journal → Journal) : Cmd := .prim (.svc fun v => { v with journal := f v.journal })

/-- A write of 1 to MP.LAYCMD (R422, R423): the MP reads the request, unless one is in progress. -/
def submitLayout : Cmd := .get fun s =>
  let j := s.svc.journal
  let a := j.addr.toNat
  let hb := s.physRead a 8
  let n := field hb 0 4
  let es := (List.range (min n 65)).map fun k =>
    let e := s.physRead (a + 8 + 16 * k) 16
    (field e 0 8, BitVec.ofNat 64 (field e 8 8))
  if j.state = .recovering then .skip
  else if j.state != .idle then modJournal fun j => { j with err := 1 }
  else .seq (modJournal fun j => { j with
      state := .checking, err := 0, force := (field hb 4 4).testBit 0, entries := es, applied := 0, prepare := false, commit := false, done := false })
    (after 1 .journalAdvance)

/-- The contexts that a mode change of a request checkpoints first (R386). -/
def State.layoutContexts (s : State) : List (Nat × Ctx) :=
  (((s.layoutChanges (layoutWrites s.svc.journal.entries)).filter fun (_, r, _) => regIsPartition r).map fun (n, _, _) => n).dedup.flatMap s.ctxsOf

/-- Apply one entry of a request, an absolute value (R423). -/
def applyEntry (r : Reg) (x : W64) : Cmd := .get fun s => match r with
  | .mxown i => .seq
      (.prim (.svc fun v => { v with mxown := v.mxown.set i { s.mxOwn i with held := some (x &&& 0x7FFF) } })) (after 0 (.mxownApply i))
  | .keyown k => .prim (.svc fun v => { v with keyown := v.keyown.set k (x.toNat % 128) })
  | .vdL2Ways n => writeL2ways n x
  | r => Cmd.opt (regVd? r) fun n => modVd n fun v => v.withReg r x

/-- JOURNAL_ADVANCE (R423): the request moves to its next state; way removals run to completion. -/
def execJournalAdvance (s : State) : Host.Outcome State Fault Refusal :=
  let j := s.svc.journal
  let again := after 1 .journalAdvance
  let go := fun (f : Journal → Journal) => Cmd.seq (modJournal f) again
  let e := s.layoutError j.entries j.force
  Cmd.next (if s.svc.mpDown.contains 0 then .skip
    else match j.state with
    | .idle => .skip
    | .checking =>
      if e != 0 then modJournal fun j => { j with state := .idle, err := e }
      else match s.layoutContexts with
        | [] => go fun j => { j with state := .prepared, prepare := true }
        | cs => .seq (Cmd.each cs fun (k, c) => .when (c.state == .running && !(s.ten.snaps.any fun (_, x) => x.ctx == k))
            (startSnap k 3 none c.saveVA)) again
    | .prepared => go fun j => { j with state := .committed, commit := true }
    | .committed => go fun j => { j with state := .applying, applied := 0 }
    | .applying => match j.entries[j.applied]? with
      | none => .seq (modJournal fun j => { j with state := .idle, done := true, seq := j.seq + 1 }) wakeAll
      | some (o, x) => match layoutReg o with
        | some (.vdL2Ways n) =>
          let v := s.vd n
          if v.wayStage != .idle then again
          else if v.l2mask = x.setWidth 16 then go fun j => { j with applied := j.applied + 1 }
          else .seq (applyEntry (.vdL2Ways n) x) (.get fun t =>
            if (t.vd n).err != 0 then go fun j => { j with applied := j.applied + 1 } else again)
        | some r => .seq (applyEntry r x) (go fun j => { j with applied := j.applied + 1 })
        | none => go fun j => { j with applied := j.applied + 1 }
    | .recovering =>
      if j.commit && !j.done then go fun j => { j with state := .applying, applied := 0 }
      else if j.prepare && !j.commit then modJournal fun j => { j with state := .idle, err := 5 }
      else modJournal fun j => { j with state := .idle }) s

end Sys2Proof.Machine
end

