-- ==== Sys2Proof/Machine/Resolve.lean ====
section
/-! DEFINITION. STORE_RESOLVE (R181, R182, R201): the store buffer orders a firing and lets it begin; requests of engine and
system M nodes; their replies, and the replies that a replay supplies (R426). -/

namespace Sys2Proof.Machine

/-- What an engine or system M node asks its unit once its release allows (R203, R227 to R229). -/
def engineStart (id : Nat) (o : MemOp) : Cmd :=
  match o.i with
  | .mxw _ | .mxa _ | .mxd _ | .mxsStat _ | .mxsClr _ | .mxsSync _ => sendMx id o
  | .ceq _ => appendOp id o false
  | .lnch _ => appendOp id o true
  | .grp _ => .seq (groupOp id o) (.get fun s =>
      let gk := groupKey o.f.ctx o.i.engD.unit.toNat (dieOf o.f.sid) o.f.rgn
      let g := s.group gk
      .when (g.state == .declaring && g.grp == some id) (decideAway gk g 5 g.says))
  | .coll _ => collOp id o collStart
  | .grpxLeave _ => leaveOp id o
  | .grpxBreak _ => breakOp id o
  | _ => systemOp id o

/-- Whether a row is an engine node (R203). -/
def MemOp.isEngine (o : MemOp) : Bool := match o.i.view with | some (.eng ..) => true | _ => false

/-- The record of a destination's reply is taken from the ring, if the destination is valid; its value goes on. -/
def takeReply (o : MemOp) (which : Nat) (d : Dest) (k : Option Val → Cmd) : Cmd := .get fun s =>
  match if d.val then s.replayed o.f.ctx 2 o.f.rgn (some (o.f.destA which d)) o.f.tag else none with
  | some (r, drop) => .seq drop (k (some r.val))
  | none => k none

/-- An engine node of a replaying context sends nothing: its reply comes from the ring, and it waits while the ring has no
further one (R426). Without a valid D0 there is no reply to wait for. -/
def replayReply (id : Nat) (o : MemOp) : Cmd :=
  let h := o.i.hdr
  if !o.replies then acceptOp id
  else takeReply o 0 h.d0 fun v0 => match v0 with
    | none => after 1 (.storeResolve id)
    | some v => takeReply o 1 h.d1 fun v1 => .all [
        modOp id fun x => { x with phase := .acked },
        emitReply o 1 v (v1.getD v),
        after 1 (.storeResolve id)]

/-- A reply has been sent: the node resolves when its token has been delivered (R201). -/
def resolveReply (id : Nat) (o : MemOp) : Cmd := .get fun s =>
  if s.replyFlying o then after 1 (.storeResolve id)
  else .seq (.when (!o.resolved) (orderOp id o)) (finishOp id)

/-- STORE_RESOLVE (R181, R182). A stopped element keeps what it has not begun (R45). -/
def execStoreResolve (op : Nat) (s : State) : Host.Outcome State Fault Refusal :=
  Cmd.next (match s.op? op with
    | none => .skip
    | some o =>
      let waits := (s.elem o.f.sid).stopped && (o.phase == .resolving || o.phase == .ordered)
      if waits then after 1 (.storeResolve op)
      else if o.phase == .acked && !o.isMemory then resolveReply op o
      else resolveOp op fun id x => if s.replaying x.f.ctx && x.isEngine then replayReply id x else engineStart id x) s

end Sys2Proof.Machine
end

