-- ==== Sys2Proof/Machine/Mmio.lean ====
section
/-! DEFINITION. Register writes (R6, R398, R399), accesses of memory nodes to registers (R437), the reset of an MP (R424), and
accesses of the host (R288, R388, R397). -/

namespace Sys2Proof.Machine

/-! ### Writing -/

/-- VD.n.CTL (R367): FORCE and PCEIL are stored, then the command runs. -/
def writeCtl (n : Nat) (value : W64) : Cmd :=
  let x := value.toNat
  .seq (modVd n fun v => { v with force := x.testBit 7, pceil := natBits x 11 8 }) (match natBits x 6 4 with
    | 1 => openVd n
    | 2 => activateVd n
    | 3 => stopCommand n
    | 4 => resumeCommand n
    | 5 => resetCommand n
    | 6 => closeVd n
    | _ => .skip)

/-- Four shares of a VD (R372): checked while it is Active or Stopped (R369). -/
def writeShares (n : Nat) (r : Reg) (value : W64) : Cmd := .get fun s =>
  let v := s.vd n
  let w := v.withReg r value
  let e := if v.state = 2 || v.state = 3 then s.partitionError n w else 0
  if e != 0 then setErr n e else modVd n fun _ => { w with err := 0 }

/-- VD.n.WDOG (R364): the span of the VD's watchdogs, looked at anew. -/
def writeWdog (n : Nat) (value : W64) : Cmd := .seq (modVd n fun v => { v with wdog := max 20 (min 40 (value.toNat % 64)) })
  (.get fun s => Cmd.each (s.ctxsOf n) fun (k, _) => .seq
    (.prim (.drop fun t => match t with | .ev (.watchdogExpire c) => c == k | _ => false)) (after 1 (.watchdogExpire k)))

/-- WQBASE and LQBASE (R299, R344): a new table of descriptors is looked at. -/
def writeTable (n : Nat) (launch : Bool) (value : W64) : Cmd := .seq
  (modVd n fun v => if launch then { v with lqbase := value } else { v with wqbase := value })
  (Cmd.each (List.range 64) fun q => after 1 (.queueEnable n q launch))

/-- A register of the region that DBGSEL shows (R332). -/
def modDebug (f : Region → Region) : Cmd := .get fun s => Cmd.opt s.debugRegion fun r => modRegion r.ctx r.rgn f
def modComparator (k : Nat) (f : Comparator → Comparator) : Cmd := modDebug fun r => { r with comps := r.comps.modify k f }

/-- What a write of a register does (R6). -/
def writeReg (r : Reg) (value : W64) : Cmd :=
  let x := value.toNat
  match r with
  | .devPkgId => .prim (.svc fun v => { v with pkgid := x % 65536 })
  | .thermCap d => writeCap d value
  | .vdCtl n => writeCtl n value
  | .vdDom n => writePartition n false value
  | .vdAllow n => writePartition n true value
  | .vdShare0 n => writeShares n (.vdShare0 n) value
  | .vdShare1 n => writeShares n (.vdShare1 n) value
  | .vdL2Ways n => writeL2ways n value
  | .vdWdog n => writeWdog n value
  | .vdKill n => killContext n (x % 65536)
  | .vdMquota n => modVd n fun v => { v with mquota := if 1 ≤ x % 8 ∧ x % 8 ≤ 4 then x % 8 else 4 }
  | .vdPlace n => modVd n fun v => { v with grow := natBits x 15 0, shrink := natBits x 31 16, hold := x.testBit 32 }
  | .vdPmap n => writePmap n value
  | .vdWqBase n => writeTable n false value
  | .vdLqBase n => writeTable n true value
  | .vdPtRoot n => modVd n fun v => { v with ptroot := value }
  | .vdTlbInv n => writeTlbinv n value
  | .vdIrqAddr n => modVd n fun v => { v with irqaddr := value }
  | .vdIrqData n => modVd n fun v => { v with irqdata := x % 2 ^ 24 }
  | .vdPeerQ n => modVd n fun v => { v with peerq := value }
  | .vdRplBase n => modVd n fun v => { v with rplbase := BitVec.ofNat 64 (x / 64 * 64) }
  | .mxown i => applyEntry (.mxown i) value
  | .keyown k => applyEntry (.keyown k) value
  | .dbroute i => .prim (.svc fun v => { v with
      dbroute := (List.range 8).foldl (fun t j => t.set (8 * i + j) (natBits x (8 * j + 7) (8 * j))) v.dbroute })
  | .siteret i => writeSiteret i value
  | .dbgSel => .prim (.svc fun v => { v with dbgsel := BitVec.ofNat 64 (x % 2 ^ 33) })
  | .dbgCmpCtl k => modComparator k fun c => { c with ctl := BitVec.ofNat 64 (x % 2 ^ 23) }
  | .dbgCmpTag k => modComparator k fun c => { c with tag := value }
  | .dbgCmpVal k => modComparator k fun c => { c with val := value }
  | .dbgCmd => (match natBits x 2 0 with
      | 1 => haltRegion
      | 2 => resumeRegion
      | 3 => stepRegion (natBits x 11 10) (natBits x 9 3)
      | _ => .skip)
  | .dbgStat => modDebug fun r => { r with hit := r.hit &&& ~~~BitVec.ofNat 8 (natBits x 8 1) }
  | .retreq => writeRetreq value
  | .layaddr => modJournal fun j => { j with addr := value }
  | .laycmd => .when (x == 1) submitLayout
  | .capCtl k => writeCapCtl k value
  | .capBase k => .prim (.svc fun v => { v with caps := v.caps.modify k fun c => { c with base := value } })
  | .attreq => .seq (.prim (.svc fun v => { v with
      attreq := value, attstat := 0, attWait := v.attWait ++ [(value, v.attsel.toNat % 64)] })) (after 1 .attestRequest)
  | .attsel => .prim (.svc fun v => { v with attsel := BitVec.ofNat 64 (x % 64) })
  | _ => .skip

/-- A write by someone: it has no effect where a rule bars the writer (log 69), and waits while the MP that serves the
register is reset (R424). -/
def writeAs (w : Writer) (r : Reg) (value : W64) : Cmd := .get fun s =>
  .when (regWritableBy r w) (match regServedBy r with
    | some d => if s.svc.mpDown.contains d then .prim (.svc fun v => { v with mpWrites := v.mpWrites ++ [(d, r, value)] })
      else writeReg r value
    | none => writeReg r value)

/-- REGISTER_WRITE (R6). -/
def execRegisterWrite (reg : Reg) (value : W64) (s : State) : Host.Outcome State Fault Refusal := (writeAs .any reg value).next s
/-- THERM_CAP (R409). -/
def execThermCap (die : Nat) (value : W64) (s : State) : Host.Outcome State Fault Refusal := (writeAs .any (.thermCap die) value).next s
/-- RETREQ (R414). -/
def execRetreq (value : W64) (s : State) : Host.Outcome State Fault Refusal := (writeAs .any .retreq value).next s
/-- LAYCMD (R423). -/
def execLaycmd (s : State) : Host.Outcome State Fault Refusal := (writeAs .any .laycmd 1).next s

/-- MP_WATCHDOG_RESET (R424, R421, R423): the MP is reset; when it is back, the writes that waited for it are made, the journal
recovers and a VD reset in progress begins again. -/
def execMpWatchdogReset (die : Nat) (s : State) : Host.Outcome State Fault Refusal :=
  let mine := s.svc.mpWrites.filter fun (d, _, _) => d == die
  Cmd.next (
    if 4 ≤ die then .skip
    else if !s.svc.mpDown.contains die then .all [
      .prim (.svc fun v => { v with mpDown := v.mpDown ++ [die] }),
      .when (die == 0) (modJournal fun j => { j with state := .recovering }),
      after Config.mpRestart (.mpWatchdogReset die)]
    else if s.isDue (.mpWatchdogReset die) then .skip
    else .all [
      .prim (.svc fun v => { v with
        mpDown := v.mpDown.filter fun d => d != die
        mpWrites := v.mpWrites.filter fun (d, _, _) => d != die }),
      .when (die == 0) (.seq (after 1 .journalAdvance)
        (Cmd.each (s.ten.vds.filter fun (_, v) => v.state == 4) fun (n, v) => beginReset n v.resetFrom)),
      Cmd.each mine fun (_, r, x) => writeReg r x]) s

/-! ### Memory nodes at registers (R437) -/

/-- The register of a lane. -/
def Lane.reg (l : Lane) : Reg := mmioReg (l.pa % 2 ^ 26)

/-- Whether an operation reads or writes its register: LD and ST of an 8-byte type, and MWAIT, at an aligned address (R437). -/
def MemOp.atRegister (o : MemOp) (l : Lane) : Bool := l.pa % 8 == 0 && l.size == 8 && (match o.i with
  | .ld f | .st f => f.ty.width == 64
  | .mwait _ => true
  | _ => false)

/-- MMIO_ACCESS (R437): the lanes of a CC 3 page reach registers through die 0; every other access than R437's loads zero or
stores nothing. An MWAIT reads again every 1024 cycles. -/
def execMmioAccess (op : Nat) (s : State) : Host.Outcome State Fault Refusal :=
  Cmd.next (match s.op? op with
    | none => .skip
    | some o => match o.lanes.find? fun l => !l.bound && l.cc == 3 with
      | none => .skip
      | some l =>
        let r := if o.atRegister l then l.reg else .none
        let down := match regServedBy r with | some d => s.svc.mpDown.contains d | none => false
        let far := match r with | .thermAllow d | .thermCap d | .thermTemp d | .thermHbmt d => (if d = 0 then 0 else 40) | _ => 0
        let lat := halfWay (dieOf o.f.sid) 0 + far
        let v := BitVec.ofNat 64 (s.readReg r)
        let bind := modOp op fun x => { x with
          lanes := x.lanes.map fun y => if !y.bound && y.cc == 3 then
            { y with bound := true, data := if x.isStore then y.data else if y.idx = l.idx then leBytes v.toNat y.size else leBytes 0 y.size }
            else y }
        if o.phase != .sent then .skip
        else if o.isPref then finishOp op
        else if down then after 1 (.mmioAccess op)
        else match o.i with
          | .mwait f =>
            if mwaitHolds f v (orNull o.f.b).word then .seq (emit o.f f.toHdr lat o.f.tag (.scalar v)) (finishOp op)
            else after 1024 (.mmioAccess op)
          | _ => .all [
              .when o.isStore (writeAs .context r (BitVec.ofNat 64 (leNat l.data))),
              bind,
              .get fun t => match t.op? op with
                | none => .skip
                | some x => if x.lanes.all (·.bound) then (if x.isStore then finishOp op else finishLoad op lat) else performOp op x]) s

/-! ### The host (R288, R388, R397) -/

/-- An ATOM as the host asks for it: the node whose operation it is. -/
def hostAtom (sub : BitVec 6) (ty : Ty) : MemNode where
  toHdr := ⟨sub, .always, ty, ⟨false, 0, .a⟩, ⟨false, 0, .a⟩, 0⟩
  l := false
  v := false
  lsid := 0
  g := true
  ord := 0
  scope := 0
  prv := 31
  nxt := 31
  last := false

/-- The bytes that a host operation covers. -/
def hostOpSize : HostOp → Nat
  | .load n => n
  | .store bs => bs.length
  | .atomic _ ty _ => ty.width / 8
  | .cas ty _ _ => ty.width / 8

/-- The new bytes that a host operation writes over old ones; none for a load and an atomic that writes nothing. -/
def hostWrites (h : HostOp) (old : Nat) : Option (List Byte) := match h with
  | .load _ => none
  | .store bs => some bs
  | .atomic sub ty x => (atomNew (hostAtom sub ty) old (x.toNat % 2 ^ ty.width)).1.map fun n => leBytes n (ty.width / 8)
  | .cas ty e n => if old = e.toNat % 2 ^ ty.width then some (leBytes (n.toNat % 2 ^ ty.width) (ty.width / 8)) else none

/-- The value that a host operation returns to its port; a store returns none. -/
def hostAnswers (port : Nat) (h : HostOp) (v : Nat) : Cmd := match h with
  | .store _ => .skip
  | _ => .prim (.svc fun x => { x with hostReply := x.hostReply.set port v })

/-- The base die of a host port (R397): that of its tower. -/
def portDie (port : Nat) : Nat := 2 * (port % 2)

/-- A host port's pts, no further behind HZN than R266 lets it be. -/
def State.hostPts (s : State) (port : Nat) : Stamp := floorPts (s.hzn (portDie port)) (s.mem.hostPts.getD port 0)

/-- The timestamp that a host store takes at a line (R264). -/
def State.hostWts (s : State) (port pa : Nat) : Stamp := Stamp.max (s.hostPts port) (s.homeRts (s.homeDie pa) (pa / 128) + 1)

/-- Bytes written at home by a host port (R264, R281, R288): as G = 1, so that a line homed off the port's die stays locked until
its acknowledgement is confirmed. -/
def hostStore (port pa : Nat) (bs : List Byte) : Cmd := Cmd.each (pieces pa bs.length) fun (a, n) => .get fun s =>
  let line := a / 128
  let home := s.homeDie a
  .all [
    fillHome home line 0 (s.mem.hbmKeys.getD line 0),
    .get fun t =>
      let w := t.hostWts port a
      .all [
        lockAway (portDie port) home line,
        stampHome home line w,
        homeWrite a ((bs.drop (a - pa)).take n),
        .prim (.mem fun m => { m with hostPts := m.hostPts.set port w })],
    markDirty a false,
    notifyLine line]

/-- The lines of a host access to DRAM. -/
def hostLines (pa : Nat) (h : HostOp) : List Nat := (pieces pa (hostOpSize h)).map fun (a, _) => a

/-- A host access to DRAM (R288, R397, R408, R412, R416). -/
def hostDram (port pa : Nat) (h : HostOp) : Cmd := .get fun s =>
  let n := hostOpSize h
  let lines := hostLines pa h
  let ones := 2 ^ (8 * n) - 1
  let old := leNat (lines.flatMap fun a => (s.homeBytes (a / 128)).drop (a % 128)) % 2 ^ (8 * n)
  let met := lines.foldl (fun q a => Stamp.max q (s.homeWts (s.homeDie a) (a / 128))) (s.hostPts port)
  let meet := Cmd.prim (.mem fun m => { m with hostPts := m.hostPts.set port met })
  let load := match h with | .load _ => true | _ => false
  let read := match h with | .store _ => false | _ => true
  if lines.any fun a => !s.l2Ready (s.homeDie a) then .seq
    (.prim (.svc fun v => { v with drops := v.drops.modify port fun k => (k + 1) % 2 ^ 64 })) (hostAnswers port h ones)
  else if read && s.lostAt pa n then hostAnswers port h ones
  else if read && s.poisonedAt pa n then withFree fun x => hostAnswers port h (x.toNat % 2 ^ (8 * n))
  else if load then .all [
    Cmd.each lines fun a => fillHome (s.homeDie a) (a / 128) 0 (s.mem.hbmKeys.getD (a / 128) 0),
    meet,
    hostAnswers port h old]
  else .seq (match hostWrites h old with | some bs => hostStore port pa bs | none => meet) (hostAnswers port h old)

/-- A host access to its own memory (R388): the device never caches host lines (R256). -/
def hostOwn (port pa : Nat) (h : HostOp) : Cmd := .get fun s =>
  let old := leNat (s.physRead pa (hostOpSize h))
  .all [
    Cmd.opt (hostWrites h old) fun bs => physWrite pa bs,
    hostAnswers port h old,
    notifyLine (pa / 128)]

/-- The register at an address of the MMIO window (R388, R398); none where nothing is assigned, PA[49:26] is not zero, or the
address is not aligned. -/
def hostReg (pa : Nat) : Reg := if pa % 8 = 0 && natBits pa 49 26 = 0 then mmioReg (pa % 2 ^ 26) else .none

/-- A host access to a register (R398): 8 bytes at an aligned offset; anything else is ignored and returns zero. -/
def hostRegister (port pa : Nat) (h : HostOp) : Cmd := .get fun s =>
  let r := hostReg pa
  match h with
  | .load n => hostAnswers port h (if n = 8 then s.readReg r else 0)
  | .store bs => .when (bs.length == 8) (writeAs .host r (BitVec.ofNat 64 (leNat bs)))
  | _ => hostAnswers port h 0

/-- The arbiters that a host access passes (R371), charged to VD 0. -/
def State.hostArbiters (s : State) (port pa : Nat) (op : HostOp) : List (Nat × Nat) :=
  if paWindow pa != 0 then []
  else (hostLines pa op).flatMap fun a => s.arbiters (portDie port) (s.homeDie a) a (match op with | .store _ => 1 | _ => 2)

/-- Whether a host access waits: in DRAM for a locked line (R281), a way (R260) or the issue cap (R266), at a register for its MP
(R437, R424). -/
def State.hostHeld (s : State) (port pa : Nat) (op : HostOp) : Bool :=
  let load := match op with | .load _ => true | _ => false
  match paWindow pa with
  | 0 => (hostLines pa op).any fun a => s.homeBusy (s.homeDie a) (a / 128) 0 ||
      (!load && s.l2Ready (s.homeDie a) && s.beyondCap (s.homeDie a) (s.hostWts port a))
  | 2 => false
  | _ => match regServedBy (hostReg pa) with | some d => s.svc.mpDown.contains d | none => false

/-- What a host access does. -/
def hostPerform (port pa : Nat) (op : HostOp) : Cmd := match paWindow pa with
  | 0 => hostDram port pa op
  | 2 => hostOwn port pa op
  | _ => hostRegister port pa op

/-- The accesses that wait at a host port, in the order in which they crossed it (R397). -/
def State.hostQueue (s : State) (port : Nat) : List (Nat × HostOp) := s.svc.hostWait.getD port []
def setHostQueue (port : Nat) (q : List (Nat × HostOp)) : Cmd := .prim (.svc fun v => { v with hostWait := v.hostWait.set port q })

/-- A host access waits at the head of its port and is tried again in the next cycle. -/
def hostStall (port pa : Nat) (op : HostOp) : Cmd := .get fun s => .seq
  (.when (s.hostQueue port).isEmpty (setHostQueue port [(pa, op)])) (after 1 (.hostAccess port pa op))

/-- HOST_ACCESS (R288, R371, R388, R397): a port that is not ready carries nothing (R408); an address that the spec says does not exist, outside the 52 bits,
in the reserved window or beyond DEV.DRAMSZ (R388), ends the run. The accesses of a port are performed in the order in which they
cross it: one that finds others waiting queues behind them, unless it is the first of them, tried again. -/
def execHostAccess (port pa : Nat) (op : HostOp) (s : State) : Host.Outcome State Fault Refusal :=
  let n := hostOpSize op
  let q := s.hostQueue port
  let again := q.head? == some (pa, op) && !s.isDue (.hostAccess port pa op)
  let arbs := s.hostArbiters port pa op
  if 2 ≤ port || !s.svc.ready.getLsbD (54 + port) then Cmd.skip.next s
  else if 2 ^ 52 ≤ pa || paWindow pa = 1 || (paWindow pa = 0 && Config.dramSize < pa + n) then
    .fault (.noSuchAddress pa)
  else Cmd.next (
    if !q.isEmpty && !again then setHostQueue port (q ++ [(pa, op)])
    else if s.hostHeld port pa op then hostStall port pa op
    else match arbs.find? fun (a, _) => !s.hasCredit a 0 with
      | some (a, _) => .seq (markWaited a 0) (hostStall port pa op)
      | none => .all [
          Cmd.each arbs fun (a, k) => spend a 0 k,
          hostPerform port pa op,
          setHostQueue port (q.drop 1),
          match q.drop 1 with | (a, o) :: _ => after 0 (.hostAccess port a o) | [] => .skip]) s

end Sys2Proof.Machine
end

