-- ==== Sys2Proof/Machine/Reduce.lean ====
section
/-! DEFINITION. Tag-window reductions REDA and REDX (R69, R162 to R164). -/

namespace Sys2Proof.Machine

def Accum.isKey (a : Accum) (frm nodeNo : Nat) (outer : W64) : Bool := a.frm == frm && a.node == nodeNo && a.outer == outer

/-- Position of an iteration field from BASE. -/
def Accum.pos (a : Accum) (field : Nat) : Nat := (field + 64 - a.base % 64) % 64

/-- What a contribution brings: a null, a poison, or a value (R163): poison, of the lowest port first, then null by predication
(R33). A poison b only counts as 0. -/
def contribution (f : Firing) (pred : Pred) : Val :=
  match f.a, f.p with
  | some (.poison o), _ | _, some (.poison o) => .poison o
  | _, _ =>
    if (pred != .always && (orNull f.p).isNull) || !f.predOk pred then .null false else orNull f.a

/-- Fold a value into an accumulator with `op` (R163): null changes nothing, the first poison poisons, the first value
stays unrounded. The second component holds the flags. -/
def Accum.fold (a : Accum) (v : Val) (first : Val → Val) (op : Val → Val → Val × Nat) : Accum × Nat :=
  match v with
  | .null _ => (a, 0)
  | .poison o => ({ a with poisoned := match a.poisoned with | some x => some x | none => some o }, 0)
  | _ => match a.acc with
    | none => ({ a with acc := some (first v) }, 0)
    | some x => let (y, fl) := op x v; ({ a with acc := some y }, fl)

/-- "Advance" of R163; `held` folds the value held for position 0 in the ordered variant. The answer says whether the FINAL
position was passed. -/
def Accum.advance (a : Accum) (fl : Nat) (held : Accum → Val → Accum × Nat) : Nat → Bool × Accum × Nat
  | 0 => (false, a, fl)
  | fuel + 1 =>
    if a.present.getLsbD 0 then
      let (a1, f1) := match a.held.find? fun h => h.1 == a.base with
        | some (_, v) => held { a with held := a.held.filter fun h => h.1 != a.base } v
        | none => (a, 0)
      let a2 := { a1 with present := a1.present >>> 1, base := (a1.base + 1) % 64, k := (a1.k + 1) % 2 ^ 32 }
      if a.final = some a.base then (true, a2, fl ||| f1) else Accum.advance a2 (fl ||| f1) held fuel
    else (false, a, fl)

def setAccum (sid : Nat) (a : Accum) : Cmd :=
  modElem sid fun e => { e with accums := e.accums.map fun x => if x.isKey a.frm a.node a.outer then a else x }

/-- Whether a parked contribution can go on: its position is below 32, or it waits for an accumulator and one is free. -/
def Parked.contributes (p : Parked) (as : List Accum) : Bool :=
  match p.why with
  | .accumulator =>
    let d := tagDepth p.f.tag
    match as.find? fun a => a.isKey p.f.frm p.f.node (cutTag p.f.tag (d - 1)) with
    | some a => a.pos (tagField p.f.tag (d - 1)) < 32
    | none => as.length < Config.accumulatorCount
  | _ => false

/-- DUPTAG at a position already present (R32, R163): the capture is filled, or counts one more. -/
def duplicate (f : Firing) (h : Hdr) (lat : Nat) (earlier later : Val) : Cmd := .get fun s => .all [
  modElem f.sid fun e => { e with capture := match e.capture with
    | some c => some { c with count := (c.count + 1) % 65536 }
    | none => some { s.recordAt f causeDuptag with vala := earlier.word, valb := later.word } },
  freshFault f (f.origin (s.vdOfCtx f.ctx) causeDuptag),
  emitPoison f h lat f.tag (f.origin (s.vdOfCtx f.ctx) causeDuptag)]

/-- The shared course of REDA and REDX (R163): `take` puts a contribution at its position, `fold` is used when an ordered
value's turn comes, `out` emits the result under the outer tag. The earlier value of a DUPTAG record (R32) is the one held; where
it has been folded already it is not kept, and the record has 0 (log 119). -/
def reduceNode (i : Instr) (f : Firing) (h : Hdr) (take : Accum → Nat → Val → Accum × Nat)
    (fold : Accum → Val → Accum × Nat) (out : Accum → W64 → Cmd) : Cmd := .get fun s =>
  let d := tagDepth f.tag
  if d = 0 then .seq (markFired f) (match f.poison? with
    | some o => emitPoison f h 4 f.tag o
    | none => raiseFault f h 4 causeIllegal)
  else
    let outer := cutTag f.tag (d - 1)
    let field := tagField f.tag (d - 1)
    let v := contribution f h.pred
    let e := s.elem f.sid
    let go := fun (a : Accum) =>
      let q := a.pos field
      let late : Bool := match a.final with | some fi => decide (a.pos fi < q) | none => false
      if 32 ≤ q then park i f .accumulator
      else if a.present.getLsbD q then
        let earlier := match a.held.find? fun x => x.1 == field with | some (_, x) => x | none => .null false
        .seq (markFired f) (duplicate f h 4 earlier v)
      else if late then .seq (markFired f) (match f.poison? with
        | some o => emitPoison f h 4 f.tag o
        | none => raiseFault f h 4 causeIllegal)
      else
        let last := (orNull f.b).word.getLsbD 0 && !(orNull f.b).isNull && (match f.b with | some (.poison _) => false | _ => true)
        let (a1, f1) := take { a with present := a.present ||| (1#32 <<< q), final := if last then some field else a.final } field v
        let (done, a2, fl) := a1.advance f1 fold 33
        .all [
          markFired f,
          orFlags f.ctx fl,
          if done then .seq (modElem f.sid fun e => { e with accums := e.accums.filter fun x => !x.isKey f.frm f.node outer })
              (out a2 outer)
          else setAccum f.sid a2,
          .get fun s' => releaseWhere f.sid fun p => p.contributes (s'.elem f.sid).accums,
          tryCommit f.ctx f.rgn f.frm (tagDomain f.tag)]
    match e.accums.find? fun a => a.isKey f.frm f.node outer with
    | some a => go a
    | none =>
      if e.accums.length < Config.accumulatorCount then
        let a : Accum := ⟨f.frm, f.node, outer, 0, 0, 0, none, none, none, [], none⟩
        .seq (modElem f.sid fun e => { e with accums := e.accums ++ [a] }) (go a)
      else park i f .accumulator

/-- The op of REDA (R162) as an op code of R159. -/
def redaOp (f : CommonNode) : Nat := match f.sub.toNat % 8 with | 3 => 4 | n => n

/-- The identity in a lane, as bits (R159, R162). -/
def redaIdentity (f : CommonNode) : Nat :=
  if f.ty.isFloat then floatIdentity (Fmt.ofTy f.ty) (redaOp f) else wrapTo f.ty.width (intIdentity f.ty (redaOp f))

/-- One step of REDA on a lane (R163). -/
def redaLane (f : CommonNode) (c : Fpcm) (xs : List Nat) : Res :=
  if f.ty.isFloat then floatStep (Fmt.ofTy f.ty) c (Rm.ofCode f.rm.toNat 0) (redaOp f) (xs.getD 0 0) (xs.getD 1 0)
  else
    let r := intStep f.ty (redaOp f) (readInt f.ty (xs.getD 0 0)) (readInt f.ty (xs.getD 1 0))
    reduceInt f.ty (f.sat && redaOp f == 0) r

/-- REDA (R162, R163): default or ordered variant; a replaying context runs the ordered one (R426). -/
def execReda (f : CommonNode) (s : State) : Host.Outcome State Fault Refusal :=
  let w := f.ty.width
  let c := s.fpcm s.cur.ctx
  let first := fun (v : Val) =>
    let (x, _) := evalLanes f.v w f.mask [v] (fun _ => redaIdentity f) (fun xs => ⟨xs.getD 0 0, 0⟩)
    resultVal f.v f.ty x
  let op := fun (x y : Val) =>
    let (z, fl) := evalLanes f.v w f.mask [x, y] (fun _ => redaIdentity f) (redaLane f c)
    (resultVal f.v f.ty z, fl)
  let fold := fun (a : Accum) (v : Val) => a.fold v first op
  let take := fun (a : Accum) (field : Nat) (v : Val) =>
    if f.sub.getLsbD 3 || s.replaying s.cur.ctx then ({ a with held := a.held ++ [(field, v)] }, 0) else fold a v
  let out := fun (a : Accum) (outer : W64) => match a.poisoned, a.acc with
    | some o, _ => emitPoison s.cur f.toHdr 4 outer o
    | none, some v => emit s.cur f.toHdr 4 outer v
    | none, none => emit s.cur f.toHdr 4 outer (.null f.v)
  (reduceNode (.reda f) s.cur f.toHdr take fold out).next s

/-- Whether a value beats another under min or max; zeros of opposite sign count as equal unless ZSIGN is set (R65). -/
def extremeBeats (t : Ty) (c : Fpcm) (isMax : Bool) (x y : Nat) : Ordering :=
  let o := if t.isFloat then
      let f := Fmt.ofTy t
      let o := fpOrd (f.decode x) (f.decode y)
      if o == .eq && c.zsign && f.isZero x && f.neg x != f.neg y then (if f.neg x then .lt else .gt) else o
    else compare (readInt t x) (readInt t y)
  if isMax then o.swap else o

/-- REDX (R164): the extreme value and its iteration count; NaN values never win. -/
def execRedx (f : CommonNode) (s : State) : Host.Outcome State Fault Refusal :=
  let w := f.ty.width
  let c := s.fpcm s.cur.ctx
  let fmt := Fmt.ofTy f.ty
  let take := fun (a : Accum) (field : Nat) (v : Val) => match v with
    | .null _ => (a, 0)
    | .poison _ => a.fold v id (fun x _ => (x, 0))
    | _ =>
      let (x, fl) := if f.ty.isFloat then flushIn fmt c (v.low w) else (v.low w, 0)
      let a1 := { a with acc := some v }
      if f.ty.isFloat && fmt.isNan x then (a1, fl ||| (if fmt.isSnan x then fIV else 0))
      else
        let n := (a.k + a.pos field) % 2 ^ 32
        let better := match a.best with
          | none => true
          | some (y, m) => match extremeBeats f.ty c (f.sub == 1) x y.toNat with
            | .lt => true | .eq => decide (n < m) | .gt => false
        (if better then { a1 with best := some (BitVec.ofNat 64 x, n) } else a1, fl)
  let out := fun (a : Accum) (outer : W64) => match a.poisoned, a.acc, a.best with
    | some o, _, _ => emitPoison s.cur f.toHdr 4 outer o
    | none, none, _ => emit s.cur f.toHdr 4 outer (.null false)
    | none, some _, some (x, n) => emit2 s.cur f.toHdr 4 outer (.scalar x) (.scalar (BitVec.ofNat 64 n))
    | none, some _, none => emit2 s.cur f.toHdr 4 outer (.scalar (BitVec.ofNat 64 fmt.qnan)) (.scalar 0xFFFFFFFF)
  (reduceNode (.redx f) s.cur f.toHdr take (fun a _ => (a, 0)) out).next s

end Sys2Proof.Machine
end

