-- ==== Sys2Proof/Machine/Dispatch.lean ====
section
/-! DEFINITION. The meaning of each row of the table of operations and events, one arm a row. -/

namespace Sys2Proof.Machine

/-- The meaning of a row, at a state whose `cur` is the firing of a node row. -/
def exec (i : Instr) (s : State) : Host.Outcome State Fault Refusal :=
  match i with
  | .mov f => Sys2Proof.Machine.execMov f s
  | .steer f => Sys2Proof.Machine.execSteer f s
  | .merge f => Sys2Proof.Machine.execMerge f s
  | .gate f => Sys2Proof.Machine.execGate f s
  | .nullg f => Sys2Proof.Machine.execNullg f s
  | .sink f => Sys2Proof.Machine.execSink f s
  | .const f => Sys2Proof.Machine.execConst f s
  | .read f => Sys2Proof.Machine.execRead f s
  | .write f => Sys2Proof.Machine.execWrite f s
  | .br f => Sys2Proof.Machine.execBr f s
  | .bri f => Sys2Proof.Machine.execBri f s
  | .callb f => Sys2Proof.Machine.execCallb f s
  | .retb f => Sys2Proof.Machine.execRetb f s
  | .enter f => Sys2Proof.Machine.execEnter f s
  | .next f => Sys2Proof.Machine.execNext f s
  | .exit f => Sys2Proof.Machine.execExit f s
  | .bound f => Sys2Proof.Machine.execBound f s
  | .tagget f => Sys2Proof.Machine.execTagget f s
  | .tagset f => Sys2Proof.Machine.execTagset f s
  | .spawn f => Sys2Proof.Machine.execSpawn f s
  | .retire f => Sys2Proof.Machine.execRetire f s
  | .retag f => Sys2Proof.Machine.execRetag f s
  | .tagcmp f => Sys2Proof.Machine.execTagcmp f s
  | .add f => Sys2Proof.Machine.execAdd f s
  | .sub f => Sys2Proof.Machine.execSub f s
  | .addc f => Sys2Proof.Machine.execAddc f s
  | .subb f => Sys2Proof.Machine.execSubb f s
  | .mul f => Sys2Proof.Machine.execMul f s
  | .mulh f => Sys2Proof.Machine.execMulh f s
  | .mad f => Sys2Proof.Machine.execMad f s
  | .div f => Sys2Proof.Machine.execDiv f s
  | .rem f => Sys2Proof.Machine.execRem f s
  | .and f => Sys2Proof.Machine.execAnd f s
  | .or f => Sys2Proof.Machine.execOr f s
  | .xor f => Sys2Proof.Machine.execXor f s
  | .andn f => Sys2Proof.Machine.execAndn f s
  | .shl f => Sys2Proof.Machine.execShl f s
  | .shr f => Sys2Proof.Machine.execShr f s
  | .sar f => Sys2Proof.Machine.execSar f s
  | .rot f => Sys2Proof.Machine.execRot f s
  | .clz f => Sys2Proof.Machine.execClz f s
  | .ctz f => Sys2Proof.Machine.execCtz f s
  | .popc f => Sys2Proof.Machine.execPopc f s
  | .brev f => Sys2Proof.Machine.execBrev f s
  | .bfe f => Sys2Proof.Machine.execBfe f s
  | .bfi f => Sys2Proof.Machine.execBfi f s
  | .min f => Sys2Proof.Machine.execMin f s
  | .max f => Sys2Proof.Machine.execMax f s
  | .abs f => Sys2Proof.Machine.execAbs f s
  | .cmp f => Sys2Proof.Machine.execCmp f s
  | .sel f => Sys2Proof.Machine.execSel f s
  | .lea f => Sys2Proof.Machine.execLea f s
  | .fadd f => Sys2Proof.Machine.execFadd f s
  | .fsub f => Sys2Proof.Machine.execFsub f s
  | .fmul f => Sys2Proof.Machine.execFmul f s
  | .fma f => Sys2Proof.Machine.execFma f s
  | .fnma f => Sys2Proof.Machine.execFnma f s
  | .fmin f => Sys2Proof.Machine.execFmin f s
  | .fmax f => Sys2Proof.Machine.execFmax f s
  | .fcmp f => Sys2Proof.Machine.execFcmp f s
  | .fdiv f => Sys2Proof.Machine.execFdiv f s
  | .fsqrt f => Sys2Proof.Machine.execFsqrt f s
  | .frcp f => Sys2Proof.Machine.execFrcp f s
  | .frsq f => Sys2Proof.Machine.execFrsq f s
  | .fexp2 f => Sys2Proof.Machine.execFexp2 f s
  | .flog2 f => Sys2Proof.Machine.execFlog2 f s
  | .fsin f => Sys2Proof.Machine.execFsin f s
  | .fcos f => Sys2Proof.Machine.execFcos f s
  | .ftanh f => Sys2Proof.Machine.execFtanh f s
  | .frnd f => Sys2Proof.Machine.execFrnd f s
  | .fclass f => Sys2Proof.Machine.execFclass f s
  | .fscale f => Sys2Proof.Machine.execFscale f s
  | .fabs f => Sys2Proof.Machine.execFabs f s
  | .fneg f => Sys2Proof.Machine.execFneg f s
  | .cvt f => Sys2Proof.Machine.execCvt f s
  | .qnt f => Sys2Proof.Machine.execQnt f s
  | .dqnt f => Sys2Proof.Machine.execDqnt f s
  | .bscl f => Sys2Proof.Machine.execBscl f s
  | .pack f => Sys2Proof.Machine.execPack f s
  | .unpack f => Sys2Proof.Machine.execUnpack f s
  | .srnd f => Sys2Proof.Machine.execSrnd f s
  | .vbcast f => Sys2Proof.Machine.execVbcast f s
  | .vext f => Sys2Proof.Machine.execVext f s
  | .vins f => Sys2Proof.Machine.execVins f s
  | .vshuf f => Sys2Proof.Machine.execVshuf f s
  | .vred f => Sys2Proof.Machine.execVred f s
  | .vscan f => Sys2Proof.Machine.execVscan f s
  | .vdot f => Sys2Proof.Machine.execVdot f s
  | .vcmpr f => Sys2Proof.Machine.execVcmpr f s
  | .vexpd f => Sys2Proof.Machine.execVexpd f s
  | .vmask f => Sys2Proof.Machine.execVmask f s
  | .vcnt f => Sys2Proof.Machine.execVcnt f s
  | .reda f => Sys2Proof.Machine.execReda f s
  | .redx f => Sys2Proof.Machine.execRedx f s
  | .ld f => Sys2Proof.Machine.execLd f s
  | .st f => Sys2Proof.Machine.execSt f s
  | .ldv f => Sys2Proof.Machine.execLdv f s
  | .stv f => Sys2Proof.Machine.execStv f s
  | .ldg f => Sys2Proof.Machine.execLdg f s
  | .sts f => Sys2Proof.Machine.execSts f s
  | .vld f => Sys2Proof.Machine.execVld f s
  | .vst f => Sys2Proof.Machine.execVst f s
  | .atom f => Sys2Proof.Machine.execAtom f s
  | .cas f => Sys2Proof.Machine.execCas f s
  | .stmc f => Sys2Proof.Machine.execStmc f s
  | .fence f => Sys2Proof.Machine.execFence f s
  | .xfi f => Sys2Proof.Machine.execXfi f s
  | .xfw f => Sys2Proof.Machine.execXfw f s
  | .mwait f => Sys2Proof.Machine.execMwait f s
  | .pref f => Sys2Proof.Machine.execPref f s
  | .bnd f => Sys2Proof.Machine.execBnd f s
  | .mxw f => Sys2Proof.Machine.execMxw f s
  | .mxa f => Sys2Proof.Machine.execMxa f s
  | .mxd f => Sys2Proof.Machine.execMxd f s
  | .mxsStat f => Sys2Proof.Machine.execMxsStat f s
  | .mxsClr f => Sys2Proof.Machine.execMxsClr f s
  | .mxsSync f => Sys2Proof.Machine.execMxsSync f s
  | .ceq f => Sys2Proof.Machine.execCeq f s
  | .grp f => Sys2Proof.Machine.execGrp f s
  | .coll f => Sys2Proof.Machine.execColl f s
  | .grpxLeave f => Sys2Proof.Machine.execGrpxLeave f s
  | .grpxBreak f => Sys2Proof.Machine.execGrpxBreak f s
  | .lnch f => Sys2Proof.Machine.execLnch f s
  | .edge f => Sys2Proof.Machine.execEdge f s
  | .box4 f => Sys2Proof.Machine.execBox4 f s
  | .tri1 f => Sys2Proof.Machine.execTri1 f s
  | .txq f => Sys2Proof.Machine.execTxq f s
  | .blnd f => Sys2Proof.Machine.execBlnd f s
  | .seqt f => Sys2Proof.Machine.execSeqt f s
  | .route f => Sys2Proof.Machine.execRoute f s
  | .trap f => Sys2Proof.Machine.execTrap f s
  | .frec f => Sys2Proof.Machine.execFrec f s
  | .retryResume f => Sys2Proof.Machine.execRetryResume f s
  | .retrySkip f => Sys2Proof.Machine.execRetrySkip f s
  | .poisMake f => Sys2Proof.Machine.execPoisMake f s
  | .poisTest f => Sys2Proof.Machine.execPoisTest f s
  | .rdsr f => Sys2Proof.Machine.execRdsr f s
  | .wrsr f => Sys2Proof.Machine.execWrsr f s
  | .timeNow f => Sys2Proof.Machine.execTimeNow f s
  | .timeUntil f => Sys2Proof.Machine.execTimeUntil f s
  | .timeAfter f => Sys2Proof.Machine.execTimeAfter f s
  | .cntr f => Sys2Proof.Machine.execCntr f s
  | .bkpt f => Sys2Proof.Machine.execBkpt f s
  | .snap f => Sys2Proof.Machine.execSnap f s
  | .ctxsv f => Sys2Proof.Machine.execCtxsv f s
  | .ctxld f => Sys2Proof.Machine.execCtxld f s
  | .vdctlStop f => Sys2Proof.Machine.execVdctlStop f s
  | .vdctlResume f => Sys2Proof.Machine.execVdctlResume f s
  | .vdctlReset f => Sys2Proof.Machine.execVdctlReset f s
  | .vdctlTrackon f => Sys2Proof.Machine.execVdctlTrackon f s
  | .vdctlTrackoff f => Sys2Proof.Machine.execVdctlTrackoff f s
  | .dirty f => Sys2Proof.Machine.execDirty f s
  | .done f => Sys2Proof.Machine.execDone f s
  | .tokenHop sid net out => Sys2Proof.Machine.execTokenHop sid net out s
  | .tokenArrive sid => Sys2Proof.Machine.execTokenArrive sid s
  | .sidingInsert sp => Sys2Proof.Machine.execSidingInsert sp s
  | .sidingLookup sid => Sys2Proof.Machine.execSidingLookup sid s
  | .sidingRefill set => Sys2Proof.Machine.execSidingRefill set s
  | .matchRetry sid => Sys2Proof.Machine.execMatchRetry sid s
  | .sidefull ctx => Sys2Proof.Machine.execSidefull ctx s
  | .stopWave sid => Sys2Proof.Machine.execStopWave sid s
  | .blockStart ctx rgn => Sys2Proof.Machine.execBlockStart ctx rgn s
  | .frameFilled ctx rgn frm => Sys2Proof.Machine.execFrameFilled ctx rgn frm s
  | .instanceCommit ctx rgn frm dom => Sys2Proof.Machine.execInstanceCommit ctx rgn frm dom s
  | .globalReadServe rq => Sys2Proof.Machine.execGlobalReadServe rq s
  | .poolRequest rq => Sys2Proof.Machine.execPoolRequest rq s
  | .poolReply rq => Sys2Proof.Machine.execPoolReply rq s
  | .domainFree ctx dom => Sys2Proof.Machine.execDomainFree ctx dom s
  | .delivery ctx rgn => Sys2Proof.Machine.execDelivery ctx rgn s
  | .queueReserve rs => Sys2Proof.Machine.execQueueReserve rs s
  | .reservationGrant rs => Sys2Proof.Machine.execReservationGrant rs s
  | .deviceQueueAppend rs => Sys2Proof.Machine.execDeviceQueueAppend rs s
  | .storeResolve op => Sys2Proof.Machine.execStoreResolve op s
  | .homeStore op => Sys2Proof.Machine.execHomeStore op s
  | .homeAck op => Sys2Proof.Machine.execHomeAck op s
  | .leaseRenewal op => Sys2Proof.Machine.execLeaseRenewal op s
  | .renewalReply op => Sys2Proof.Machine.execRenewalReply op s
  | .homeEvict die line copy => Sys2Proof.Machine.execHomeEvict die line copy s
  | .homeNotify line => Sys2Proof.Machine.execHomeNotify line s
  | .mwaitPoll op => Sys2Proof.Machine.execMwaitPoll op s
  | .ptsDrift die => Sys2Proof.Machine.execPtsDrift die s
  | .hznMessage src dst hzn => Sys2Proof.Machine.execHznMessage src dst hzn s
  | .timestampSweep die => Sys2Proof.Machine.execTimestampSweep die s
  | .vaultSlotServe die bank => Sys2Proof.Machine.execVaultSlotServe die bank s
  | .vaultRequestArrive op => Sys2Proof.Machine.execVaultRequestArrive op s
  | .mmioAccess op => Sys2Proof.Machine.execMmioAccess op s
  | .couplerRepeat op => Sys2Proof.Machine.execCouplerRepeat op s
  | .ackConfirm op => Sys2Proof.Machine.execAckConfirm op s
  | .ackTimeout op lost => Sys2Proof.Machine.execAckTimeout op lost s
  | .replicaStore op => Sys2Proof.Machine.execReplicaStore op s
  | .tlbMissWalk op => Sys2Proof.Machine.execTlbMissWalk op s
  | .dirtyBitSet op => Sys2Proof.Machine.execDirtyBitSet op s
  | .mxPacketArrive die col top => Sys2Proof.Machine.execMxPacketArrive die col top s
  | .mxEntryStart half => Sys2Proof.Machine.execMxEntryStart half s
  | .mxwLatch half => Sys2Proof.Machine.execMxwLatch half s
  | .mxaRowIssue half => Sys2Proof.Machine.execMxaRowIssue half s
  | .wavefrontAccumulate half => Sys2Proof.Machine.execWavefrontAccumulate half s
  | .mxdRowDrain half => Sys2Proof.Machine.execMxdRowDrain half s
  | .mxReply half entry => Sys2Proof.Machine.execMxReply half entry s
  | .mxAbort half ctx => Sys2Proof.Machine.execMxAbort half ctx s
  | .queueEnable vd q launch => Sys2Proof.Machine.execQueueEnable vd q launch s
  | .slotTakeUp vd q => Sys2Proof.Machine.execSlotTakeUp vd q s
  | .channelAssign die => Sys2Proof.Machine.execChannelAssign die s
  | .jobChecked job => Sys2Proof.Machine.execJobChecked job s
  | .jobUnblock job => Sys2Proof.Machine.execJobUnblock job s
  | .jobPayloadDone job => Sys2Proof.Machine.execJobPayloadDone job s
  | .jobStamp job => Sys2Proof.Machine.execJobStamp job s
  | .groupDeclared key => Sys2Proof.Machine.execGroupDeclared key s
  | .collReport gk rank rep => Sys2Proof.Machine.execCollReport gk rank rep s
  | .collDecide gk => Sys2Proof.Machine.execCollDecide gk s
  | .chunkReceive gk src ofs data => Sys2Proof.Machine.execChunkReceive gk src ofs data s
  | .shareDone gk rank => Sys2Proof.Machine.execShareDone gk rank s
  | .killReport gk rank => Sys2Proof.Machine.execKillReport gk rank s
  | .mpWatchdogReset die => Sys2Proof.Machine.execMpWatchdogReset die s
  | .portDown port => Sys2Proof.Machine.execPortDown port s
  | .launchTakeUp vd q => Sys2Proof.Machine.execLaunchTakeUp vd q s
  | .launchUnblock l => Sys2Proof.Machine.execLaunchUnblock l s
  | .launchCheck l => Sys2Proof.Machine.execLaunchCheck l s
  | .launchGrant vd => Sys2Proof.Machine.execLaunchGrant vd s
  | .mapperRequest die => Sys2Proof.Machine.execMapperRequest die s
  | .launchLoadDone l => Sys2Proof.Machine.execLaunchLoadDone l s
  | .launchExit l => Sys2Proof.Machine.execLaunchExit l s
  | .placementSample => Sys2Proof.Machine.execPlacementSample s
  | .replicaAvailable ctx rgn => Sys2Proof.Machine.execReplicaAvailable ctx rgn s
  | .replicaGone ctx rgn => Sys2Proof.Machine.execReplicaGone ctx rgn s
  | .watchdogExpire ctx => Sys2Proof.Machine.execWatchdogExpire ctx s
  | .bucketRefill => Sys2Proof.Machine.execBucketRefill s
  | .preemptDecide l => Sys2Proof.Machine.execPreemptDecide l s
  | .drainOverdue ctx => Sys2Proof.Machine.execDrainOverdue ctx s
  | .teardown ctx => Sys2Proof.Machine.execTeardown ctx s
  | .snapshotMarker snap proc chan => Sys2Proof.Machine.execSnapshotMarker snap proc chan s
  | .snapshotComplete snap => Sys2Proof.Machine.execSnapshotComplete snap s
  | .contextJobEnd job => Sys2Proof.Machine.execContextJobEnd job s
  | .partitionWrite n allow value => Sys2Proof.Machine.execPartitionWrite n allow value s
  | .hostAccess port pa op => Sys2Proof.Machine.execHostAccess port pa op s
  | .vdResetQuiesced n => Sys2Proof.Machine.execVdResetQuiesced n s
  | .wayRemovalAdvance n => Sys2Proof.Machine.execWayRemovalAdvance n s
  | .mxownApply unit => Sys2Proof.Machine.execMxownApply unit s
  | .tlbinvComplete n => Sys2Proof.Machine.execTlbinvComplete n s
  | .comparatorHit sid net k => Sys2Proof.Machine.execComparatorHit sid net k s
  | .pageRetire frame => Sys2Proof.Machine.execPageRetire frame s
  | .siteRetire die x y => Sys2Proof.Machine.execSiteRetire die x y s
  | .wavefrontPassesLastRow half => Sys2Proof.Machine.execWavefrontPassesLastRow half s
  | .engineQueueTakeUp job => Sys2Proof.Machine.execEngineQueueTakeUp job s
  | .vdOpen n => Sys2Proof.Machine.execVdOpen n s
  | .vdStop n => Sys2Proof.Machine.execVdStop n s
  | .vdResume n => Sys2Proof.Machine.execVdResume n s
  | .vdClose n => Sys2Proof.Machine.execVdClose n s
  | .vdKill n ctx => Sys2Proof.Machine.execVdKill n ctx s
  | .vdActivate n => Sys2Proof.Machine.execVdActivate n s
  | .l2waysWrite n value => Sys2Proof.Machine.execL2waysWrite n value s
  | .pmap n value => Sys2Proof.Machine.execPmap n value s
  | .tlbinv n value => Sys2Proof.Machine.execTlbinv n value s
  | .registerWrite reg value => Sys2Proof.Machine.execRegisterWrite reg value s
  | .dbgHalt => Sys2Proof.Machine.execDbgHalt s
  | .dbgResume => Sys2Proof.Machine.execDbgResume s
  | .dbgStep frm node => Sys2Proof.Machine.execDbgStep frm node s
  | .thermalUpdate die tj8 watts => Sys2Proof.Machine.execThermalUpdate die tj8 watts s
  | .thermCap die value => Sys2Proof.Machine.execThermCap die value s
  | .thermalCut die tj8 => Sys2Proof.Machine.execThermalCut die tj8 s
  | .hbmHot stack temp => Sys2Proof.Machine.execHbmHot stack temp s
  | .scrub die frame corrected => Sys2Proof.Machine.execScrub die frame corrected s
  | .storageError place correctable => Sys2Proof.Machine.execStorageError place correctable s
  | .retreq value => Sys2Proof.Machine.execRetreq value s
  | .laycmd => Sys2Proof.Machine.execLaycmd s
  | .journalAdvance => Sys2Proof.Machine.execJournalAdvance s
  | .flitReplay port seq => Sys2Proof.Machine.execFlitReplay port seq s
  | .captureRecord k kind rgn dest tag payload => Sys2Proof.Machine.execCaptureRecord k kind rgn dest tag payload s
  | .packageReset => Sys2Proof.Machine.execPackageReset s
  | .firmwareVerify die image => Sys2Proof.Machine.execFirmwareVerify die image s
  | .attestRequest => Sys2Proof.Machine.execAttestRequest s
  | .vdReset n => Sys2Proof.Machine.execVdReset n s
  | .packagePowerOff => Sys2Proof.Machine.execPackagePowerOff s
  | .illegalOpcodeFire rec => Sys2Proof.Machine.execIllegalOpcodeFire rec s
  | .matchEccError set way keyBad => Sys2Proof.Machine.execMatchEccError set way keyBad s
  | .sidingEntryError ctx slot keyBad lost => Sys2Proof.Machine.execSidingEntryError ctx slot keyBad lost s
  | .flitReceive port flit => Sys2Proof.Machine.execFlitReceive port flit s
  | .functionReady bit failed => Sys2Proof.Machine.execFunctionReady bit failed s

end Sys2Proof.Machine
end

