-- ==== Sys2Proof/Machine/Step.lean ====
section
/-! DEFINITION. One step of the machine: the earliest task of the agenda is done. -/

namespace Sys2Proof.Machine

/-- The step. -/
def step (s : State) : Host.Outcome State Fault Refusal :=
  match s.next with
  | .idle t => .next t
  | .exec i t => exec i t
  | .illegal w t => execIllegalOpcodeFire w t

/-- `s` with the record of a table word placed where the next step issues it (log 32). -/
def State.withFetchWord (s : State) (nbits w : Nat) : State := s.placeRecord (recOfTableWord (w % 2 ^ nbits))

end Sys2Proof.Machine
end

