-- ==== Sys2Proof/Safety.lean ====
section
/-! DEFINITION. The terms in which claims about the machine are stated: what holds of every state a run meets, what a
firing sends, what it leaves alone, and what is due. -/

namespace Sys2Proof.Machine

/-! ### Outcomes and the agenda -/

/-- The row answers a next state, of which `P` holds. -/
def Answers (i : Instr) (s : State) (P : State → Prop) : Prop := ∃ t, exec i s = .next t ∧ P t

/-- The row is due in a state. -/
def State.due (t : State) (n : Nat) (i : Instr) : Prop := (n, Task.ev i) ∈ t.agenda

/-- The agenda is in order. -/
def State.ordered (s : State) : Prop := s.agenda.Pairwise fun x y => x.1 ≤ y.1

/-- What every step keeps: byte memories in canonical form (log 4), and the agenda in order with no task overdue (log 1). -/
structure State.Inv (s : State) : Prop where
  bytes : s.bytes.wf = true
  ordered : s.ordered
  timely : ∀ x ∈ s.agenda, s.now ≤ x.1

/-- The keys of a table rise, as every table of a run has them. -/
def Tbl.rising {α : Type} (t : Tbl α) : Prop := (t.map (·.1)).Pairwise (· < ·)

/-- No capture slot records (R425). -/
def State.uncaptured (s : State) : Prop := ∀ c ∈ s.svc.caps, c.ctl.getLsbD 0 = false

/-! ### Firings of nodes -/

/-- No operand is poison or null, and the predicate matches (R33 rule 3, R75). -/
def Firing.ordinary (f : Firing) (pred : Pred) : Prop := f.poison? = none ∧ f.off pred = false

/-- The result tokens of a firing (R34, R74): one for each valid destination, written in cycle `due`. -/
def Firing.results (f : Firing) (h : Hdr) (due : Nat) (tag : W64) (v0 v1 : Val) : List OutTok :=
  (if h.d0.val then [⟨0, f.token 0 h.d0 tag v0, due, f.fid⟩] else []) ++
  (if h.d1.val then [⟨1, f.token 1 h.d1 tag v1, due, f.fid⟩] else [])

/-- Between two states the element of a firing gains its result tokens, `lat` cycles from now, and each valid one is due to
hop in the cycle after it is written (R34, R36, R38). -/
structure Sends (s t : State) (f : Firing) (h : Hdr) (lat : Nat) (tag : W64) (v0 v1 : Val) : Prop where
  outs : (t.elem f.sid).outs = (s.elem f.sid).outs ++ f.results h (s.now + lat) tag v0 v1
  hop0 : h.d0.val = true → t.due (s.now + (lat + 1)) (.tokenHop f.sid v0.net (routeDir (xOf f.sid) (yOf f.sid) f.d0x f.d0y))
  hop1 : h.d1.val = true → t.due (s.now + (lat + 1)) (.tokenHop f.sid v1.net (routeDir (xOf f.sid) (yOf f.sid) f.d1x f.d1y))

/-- The firing sends one value on both destinations under its own tag. -/
def Emits (s t : State) (h : Hdr) (lat : Nat) (v : Val) : Prop := Sends s t s.cur h lat s.cur.tag v v

/-- A context's FPSTAT has gained flags (R59). -/
def FlagsOr (s t : State) (ctx flags : Nat) : Prop :=
  (t.ctx? ctx).map (·.fpstat) = (s.ctx? ctx).map fun c => c.fpstat ||| flags

/-- The row's firing sends `r.1` after `lat` cycles and ORs the flags `r.2` into FPSTAT. -/
def Computes (i : Instr) (s : State) (h : Hdr) (lat : Nat) (r : Val × Nat) : Prop :=
  Answers i s fun t => Emits s t h lat r.1 ∧ FlagsOr s t s.cur.ctx r.2

/-- As `Computes`, without flags. -/
def Passes (i : Instr) (s : State) (h : Hdr) (lat : Nat) (v : Val) : Prop := Answers i s fun t => Emits s t h lat v

/-- What a row of the common overlay computes from its operands: one result, or one for each lane; a disabled lane passes
operand a (R78, R132). -/
def laneResult (f : CommonNode) (ops : List Val) (op : List Nat → Res) : Val × Nat :=
  let (x, fl) := evalLanes f.v f.ty.width f.mask ops passA op
  (resultVal f.v f.ty x, fl)

/-! ### Tokens at elements -/

/-- A token is admitted by a node of its site (R25, R31, R241): its domain belongs to the region's run, its instance is in its
frame, the slot exists, and the port takes the token's shape. -/
structure Admits (s : State) (sid : Nat) (t : Token) (ctx rgn slot : Nat) (sl : NodeSlot) : Prop where
  region : (s.regionAt sid).map (fun (_, r) => (r.ctx, r.rgn)) = some (ctx, rgn)
  run : ∃ c, s.ctx? ctx = some c ∧ c.cbase ≤ tagDomain t.tag ∧ tagDomain t.tag < c.cbase + c.image.dcount
  inst : (s.inst? ctx rgn t.frm (tagDomain t.tag)).isSome = true
  slot : (s.elem sid).slotOf t.frm t.node = some (slot, sl)
  port : ∃ sh, (slotPorts sl.word).1.port (slotPorts sl.word).2 t.port = some sh ∧
    ((∃ o, t.val = .poison o) ∨ sh.accepts t.val.isVec = true)

/-- The token is what a row brings to the match stage of an element (R29, R30, R438). -/
def Presents (s : State) (sid : Nat) (t : Token) (i : Instr) : Prop :=
  (s.elem sid).stopped = false ∧ (s.elem sid).unplaced = none ∧
  ((i = .tokenArrive sid ∧ (s.elem sid).held = none ∧ ∃ n, (s.elem sid).nextInput = some (n, t)) ∨
   (i = .matchRetry sid ∧ ((s.elem sid).held = some (t, .noRoom) ∨ (s.elem sid).held = some (t, .readyFull))))

/-- The ports that a slot's node requires (R24). -/
def NodeSlot.needs (sl : NodeSlot) : List Port := (slotPorts sl.word).1.required (slotPorts sl.word).2

/-- The ready entry holds a token and the operands of an entry (R35). -/
def ReadyEntry.isOf (x : ReadyEntry) (slot : Nat) (t : Token) (operand : Port → Option Val) : Prop :=
  x.slot = slot ∧ x.tag = t.tag ∧ x.a = (if t.port = .a then some t.val else operand .a) ∧
    x.b = (if t.port = .b then some t.val else operand .b) ∧ x.c = (if t.port = .c then some t.val else operand .c) ∧
    x.p = if t.port = .p then some t.val else operand .p

/-! ### What a computing node leaves alone -/

/-- A region but for what a firing records in it: the nodes fired by an instance (R239). -/
def Region.still (r : Region) : Region :=
  { r with frames := r.frames.map fun fr => { fr with insts := fr.insts.map fun i => { i with fired := [] } } }

/-- A context but for its progress cycle (R364), FPSTAT (R59) and the faults told (R106). -/
def Ctx.still (c : Ctx) : Ctx := { c with lastProgress := 0, fpstat := 0, told := [] }

/-- An element but for its output buffers and its fault capture. -/
def Element.still (e : Element) : Element := { e with outs := [], capture := none }

/-- The frame of a computing node: all bytes of memory, the memory system, the engines, the service state, every other
element, and of its own element, region and context everything but what a firing records, are as before. -/
structure NodeFrame (s t : State) (f : Firing) : Prop where
  power : t.power = s.power
  now : t.now = s.now
  bytes : t.bytes = s.bytes
  mem : t.mem = s.mem
  eng : t.eng = s.eng
  svc : t.svc = s.svc
  sets : t.fab.sets = s.fab.sets
  boxes : t.fab.boxes = s.fab.boxes
  edges : t.fab.edges = s.fab.edges
  spills : t.fab.spills = s.fab.spills
  others : ∀ k, k ≠ f.sid → t.elem k = s.elem k
  own : (t.elem f.sid).still = (s.elem f.sid).still
  pools : t.run.pools = s.run.pools
  reads : t.run.reads = s.run.reads
  reservations : t.run.reservations = s.run.reservations
  regions : ∀ c r, (t.region? c r).map Region.still = (s.region? c r).map Region.still
  vds : t.ten.vds = s.ten.vds
  launches : t.ten.launches = s.ten.launches
  saves : t.ten.saves = s.ten.saves
  otherCtxs : ∀ c, c ≠ f.ctx → t.ctx? c = s.ctx? c
  ctx : (t.ctx? f.ctx).map Ctx.still = (s.ctx? f.ctx).map Ctx.still

end Sys2Proof.Machine
end

