-- ==== Sys2Proof/Certificates/Slice0/Obligations.lean ====
section
/-! DEFINITION. The statements for the provers (listed in OBLIGATIONS.json). -/

open Sys2Proof Sys2Proof.Machine

/-! ### Integer and address rows (R131 to R140) -/

/-- R78, R132: in the vector form, lane j of the result is the operation on lane j of the operands where MASK enables it,
and else what a disabled lane holds; the flags are those of the enabled lanes. In the scalar form it is the operation on the
low bits of the operands. -/
def Obligations.LanesAreIndependent : Prop :=
  ∀ (w : Nat) (mask : BitVec 16) (ops : List Val) (dis : List Nat → Nat) (op : List Nat → Res) (j : Nat),
    w ∈ [4, 8, 16, 32, 64] → j < 512 / w →
    let at_ := fun (k : Nat) => ops.map fun o => o.wide.toNat / 2 ^ (w * k) % 2 ^ w
    let on := fun (k : Nat) => mask.getLsbD (16 * k / (512 / w))
    (evalLanes true w mask ops dis op).1 / 2 ^ (w * j) % 2 ^ w =
      (if on j then (op (at_ j)).bits else dis (at_ j)) % 2 ^ w ∧
    (∀ b, (evalLanes true w mask ops dis op).2.testBit b =
      (List.range (512 / w)).any fun k => on k && (op (at_ k)).flags.testBit b) ∧
    evalLanes false w mask ops dis op =
      ((op (ops.map fun o => o.word.toNat % 2 ^ w)).bits, (op (ops.map fun o => o.word.toNat % 2 ^ w)).flags)

/-- R48: without SAT a result wraps and raises no flag; with SAT it is clamped, and SA is raised when that changes it. -/
def Obligations.WrapAndSaturate : Prop :=
  ∀ (t : Ty) (x : Int), t.isInt = true →
    let lo : Int := if t.isSigned then -(2 ^ (t.width - 1)) else 0
    let hi : Int := if t.isSigned then 2 ^ (t.width - 1) - 1 else 2 ^ t.width - 1
    ((reduceInt t false x).bits : Int) = x % 2 ^ t.width ∧ (reduceInt t false x).flags = 0 ∧
    readInt t (reduceInt t true x).bits = max lo (min hi x) ∧
    (reduceInt t true x).flags = (if lo ≤ x ∧ x ≤ hi then 0 else fSA)

/-- R131, R132, R140: ADD, SUB, MIN, MAX, ABS and LEA compute the exact integer and reduce it; AND, OR, XOR and ANDN act on
bit patterns. -/
def Claims.ExactIntegerRows : Prop :=
  ∀ (s : State) (f : CommonNode), s.cur.ordinary f.pred →
    let n := fun (xs : List Nat) (k : Nat) => readInt f.ty (xs.getD k 0)
    let one := [orNull s.cur.a]
    let two := [orNull s.cur.a, f.opB s.cur.b]
    let bits := fun (op : Nat → Nat → Nat) => laneResult f two fun xs => ⟨op (xs.getD 0 0) (xs.getD 1 0), 0⟩
    Computes (.add f) s f.toHdr 1 (laneResult f two fun xs => reduceInt f.ty f.sat (n xs 0 + n xs 1)) ∧
    Computes (.sub f) s f.toHdr 1 (laneResult f two fun xs => reduceInt f.ty f.sat (n xs 0 - n xs 1)) ∧
    Computes (.min f) s f.toHdr 1 (laneResult f two fun xs => reduceInt f.ty false (min (n xs 0) (n xs 1))) ∧
    Computes (.max f) s f.toHdr 1 (laneResult f two fun xs => reduceInt f.ty false (max (n xs 0) (n xs 1))) ∧
    Computes (.abs f) s f.toHdr 1 (laneResult f one fun xs => reduceInt f.ty f.sat (n xs 0).natAbs) ∧
    Computes (.lea f) s f.toHdr 1 (laneResult f two fun xs => reduceInt f.ty false (n xs 0 + n xs 1 * 2 ^ f.sub.toNat)) ∧
    Computes (.and f) s f.toHdr 1 (bits (· &&& ·)) ∧ Computes (.or f) s f.toHdr 1 (bits (· ||| ·)) ∧
    Computes (.xor f) s f.toHdr 1 (bits (· ^^^ ·)) ∧ Computes (.andn f) s f.toHdr 1 (bits fun a b => a - (a &&& b))

/-- R138, R139: CMP and SEL. In the vector form, a lane of CMP is all ones or 0, disabled lanes are 0; a disabled lane of SEL
takes a. -/
def Claims.CompareAndSelectRows : Prop :=
  ∀ (s : State) (f : CommonNode), s.cur.ordinary f.pred → f.rm.toNat < 6 →
    let w := f.ty.width
    let holds := fun (x y : Int) => match f.rm.toNat with
      | 0 => decide (x = y) | 1 => decide (x ≠ y) | 2 => decide (x < y) | 3 => decide (x ≤ y) | 4 => decide (y < x)
      | _ => decide (y ≤ x)
    let a := orNull s.cur.a
    let b := f.opB s.cur.b
    let c := orNull s.cur.c
    (f.v = false → Passes (.cmp f) s f.toHdr 1
      (.bit (holds (readInt f.ty (a.word.toNat % 2 ^ w)) (readInt f.ty (b.word.toNat % 2 ^ w))))) ∧
    (f.v = true → Passes (.cmp f) s f.toHdr 1 (.vector (BitVec.ofNat 512 (evalLanes true w f.mask [a, b] (fun _ => 0) fun xs =>
      ⟨if holds (readInt f.ty (xs.getD 0 0)) (readInt f.ty (xs.getD 1 0)) then 2 ^ w - 1 else 0, 0⟩).1))) ∧
    (f.v = false → Passes (.sel f) s f.toHdr 1 (f.ty.scalarVal (if c.word.getLsbD 0 then a.word.toNat else b.word.toNat))) ∧
    (f.v = true → Passes (.sel f) s f.toHdr 1 (.vector (BitVec.ofNat 512 (evalLanes true w f.mask [a, b, c] (fun xs => xs.getD 0 0)
      fun xs => ⟨if xs.getD 2 0 ≠ 0 then xs.getD 0 0 else xs.getD 1 0, 0⟩).1)))

/-- R131, R132, R138 to R140: the integer, address, compare and select rows complete with the value the rules give. -/
def Obligations.IntegerRows : Prop := Claims.ExactIntegerRows ∧ Claims.CompareAndSelectRows

/-- R134: MUL, MULH and MAD compute the exact product, and MAD reduces the exact sum once. -/
def Obligations.ProductRows : Prop :=
  ∀ (s : State) (f : CommonNode), s.cur.ordinary f.pred →
    let n := fun (xs : List Nat) (k : Nat) => readInt f.ty (xs.getD k 0)
    let two := [orNull s.cur.a, f.opB s.cur.b]
    let three := [orNull s.cur.a, f.opB s.cur.b, orNull s.cur.c]
    Computes (.mul f) s f.toHdr 1 (laneResult f two fun xs => reduceInt f.ty f.sat (n xs 0 * n xs 1)) ∧
    Computes (.mulh f) s f.toHdr 1
      (laneResult f two fun xs => ⟨(n xs 0 * n xs 1 / 2 ^ f.ty.width % 2 ^ f.ty.width).toNat, 0⟩) ∧
    Computes (.mad f) s f.toHdr 1 (laneResult f three fun xs => reduceInt f.ty f.sat (n xs 0 * n xs 1 + n xs 2))

/-- R133: ADDC and SUBB send the sum or difference, wrapped, on D0 and the unsigned carry or borrow, a pr, on D1. -/
def Obligations.CarryRows : Prop :=
  ∀ (s : State) (f : CommonNode), s.cur.ordinary f.pred →
    let w := f.ty.width
    let a := (orNull s.cur.a).word.toNat % 2 ^ w
    let b := (f.opB s.cur.b).word.toNat % 2 ^ w
    let c := (orNull s.cur.c).word.toNat % 2
    Answers (.addc f) s (fun t => Sends s t s.cur f.toHdr 1 s.cur.tag
      (f.ty.scalarVal (a + b + c)) (.bit (decide (2 ^ w ≤ a + b + c)))) ∧
    Answers (.subb f) s (fun t => Sends s t s.cur f.toHdr 1 s.cur.tag
      (f.ty.scalarVal ((a + 2 * 2 ^ w - b - c) % 2 ^ w)) (.bit (decide (a < b + c))))

/-- R135: DIV and REM, scalar form: a divisor of zero gives all ones and 0, or fault DIVZERO with FPCM.DIVZ, whose poison
has the node as its origin; else the quotient is truncated toward zero and the remainder has the dividend's sign. -/
def Obligations.DivideRows : Prop :=
  ∀ (s : State) (f : CommonNode), s.cur.ordinary f.pred → f.v = false → f.ty.isInt = true →
    (f.d0.val || f.d1.val) = true →
    let w := f.ty.width
    let lat := if w = 64 then 20 else 12
    let a := readInt f.ty ((orNull s.cur.a).word.toNat % 2 ^ w)
    let b := readInt f.ty ((f.opB s.cur.b).word.toNat % 2 ^ w)
    (b ≠ 0 → Passes (.div f) s f.toHdr lat (f.ty.scalarVal (a.tdiv b % 2 ^ w).toNat) ∧
      Passes (.rem f) s f.toHdr lat (f.ty.scalarVal (a.tmod b % 2 ^ w).toNat)) ∧
    (b = 0 → (s.fpcm s.cur.ctx).divz = false →
      Passes (.div f) s f.toHdr lat (f.ty.scalarVal (2 ^ w - 1)) ∧ Passes (.rem f) s f.toHdr lat (f.ty.scalarVal 0)) ∧
    (b = 0 → (s.fpcm s.cur.ctx).divz = true →
      Passes (.div f) s f.toHdr lat (.poison (s.cur.origin (s.vdOfCtx s.cur.ctx) 0x13)) ∧
      Passes (.rem f) s f.toHdr lat (.poison (s.cur.origin (s.vdOfCtx s.cur.ctx) 0x13)))

/-- R136: the shifts, for every count. -/
def Claims.ShiftRows : Prop :=
  ∀ (s : State) (f : CommonNode), s.cur.ordinary f.pred → (f.ty.isInt = true ∨ f.ty = .x64) → (f.ty = .x64 → f.sat = false) →
    let w := f.ty.width
    let two := fun (op : List Nat → Res) => laneResult f [orNull s.cur.a, f.opB s.cur.b] op
    Computes (.shl f) s f.toHdr 1 (two fun xs => reduceInt f.ty f.sat (readInt f.ty (xs.getD 0 0) * 2 ^ xs.getD 1 0)) ∧
    Computes (.shr f) s f.toHdr 1 (two fun xs => ⟨xs.getD 0 0 / 2 ^ xs.getD 1 0, 0⟩) ∧
    Computes (.sar f) s f.toHdr 1 (two fun xs =>
      ⟨((BitVec.ofNat w (xs.getD 0 0)).sshiftRight (xs.getD 1 0)).toNat, 0⟩) ∧
    Computes (.rot f) s f.toHdr 1 (two fun xs => ⟨((BitVec.ofNat w (xs.getD 0 0)).rotateLeft (xs.getD 1 0)).toNat, 0⟩)

/-- R137: counts and fields, scalar form. -/
def Claims.FieldRows : Prop :=
  ∀ (s : State) (f : CommonNode), s.cur.ordinary f.pred → f.v = false → (f.ty.isInt = true ∨ f.ty = .x64) →
    let w := f.ty.width
    let a := (orNull s.cur.a).word.toNat % 2 ^ w
    let b := (f.opB s.cur.b).word.toNat % 2 ^ w
    let spec := fun (v : Val) => let x := v.word.toNat % 2 ^ w; (x % 64, min (x / 256 % 128) 64)
    (∃ n, Passes (.clz f) s f.toHdr 1 (f.ty.scalarVal n) ∧ n ≤ w ∧ a < 2 ^ (w - n) ∧ (n < w → 2 ^ (w - n - 1) ≤ a)) ∧
    (∃ n, Passes (.ctz f) s f.toHdr 1 (f.ty.scalarVal n) ∧ n ≤ w ∧ a % 2 ^ n = 0 ∧ (n < w → a.testBit n = true)) ∧
    Passes (.popc f) s f.toHdr 1 (f.ty.scalarVal ((List.range w).countP a.testBit)) ∧
    (∃ x, Passes (.brev f) s f.toHdr 1 (f.ty.scalarVal x) ∧ x < 2 ^ w ∧ ∀ j, j < w → x.testBit (w - 1 - j) = a.testBit j) ∧
    (∃ x, Passes (.bfe f) s f.toHdr 1 (f.ty.scalarVal x) ∧ x < 2 ^ w ∧
      let (pos, len) := spec (f.opB s.cur.b)
      ∀ j, j < w → x.testBit j = (if j < len then a.testBit (pos + j)
        else decide (0 < len) && f.ty.isSigned && a.testBit (pos + len - 1))) ∧
    (∃ x, Passes (.bfi f) s f.toHdr 1 (f.ty.scalarVal x) ∧ x < 2 ^ w ∧
      let (pos, len) := spec (orNull s.cur.c)
      ∀ j, j < w → x.testBit j = if pos ≤ j ∧ j < pos + len then b.testBit (j - pos) else a.testBit j)

/-- R136, R137: shifts for every count, and the counting and bit-field rows. -/
def Obligations.ShiftAndFieldRows : Prop := Claims.ShiftRows ∧ Claims.FieldRows

/-! ### Float rows (R141 to R148) -/

/-- R143 to R148: the float rows compute lane by lane under the context's FPCM and the node's rounding mode; the class takes
4 cycles, the transcendental rows 8, FDIV and FSQRT 12, 16 or 20 on the divider (R36). -/
def Claims.FloatRows : Prop :=
  ∀ (s : State) (f : CommonNode), s.cur.ordinary f.pred →
    let m := Fmt.ofTy f.ty
    let c := s.fpcm s.cur.ctx
    let r := Rm.ofCode f.rm.toNat 0
    let lat := if f.ty.width = 64 then 20 else if f.v then 16 else 12
    let row := fun (i : Instr) (n : Nat) (ops : List Val) (op : Nat → Nat → Nat → Res) =>
      Computes i s f.toHdr n (laneResult f ops fun xs => op (xs.getD 0 0) (xs.getD 1 0) (xs.getD 2 0))
    let a := orNull s.cur.a
    let b := f.opB s.cur.b
    let k := fun (y : Nat) => if f.l then f.lit.toInt else (BitVec.ofNat f.ty.width y).toInt
    row (.fadd f) 4 [a, b] (fun x y _ => fpAdd m c r x y) ∧ row (.fsub f) 4 [a, b] (fun x y _ => fpSub m c r x y) ∧
    row (.fmul f) 4 [a, b] (fun x y _ => fpMul m c r x y) ∧
    row (.fma f) 4 [a, b, orNull s.cur.c] (fun x y z => fpFma m c r false x y z) ∧
    row (.fnma f) 4 [a, b, orNull s.cur.c] (fun x y z => fpFma m c r true x y z) ∧
    row (.fmin f) 4 [a, b] (fun x y _ => fpMinMax m c false x y) ∧
    row (.fmax f) 4 [a, b] (fun x y _ => fpMinMax m c true x y) ∧
    row (.fdiv f) lat [a, b] (fun x y _ => fpDiv m c r x y) ∧ row (.fsqrt f) lat [a] (fun x _ _ => fpSqrt m c r x) ∧
    row (.frcp f) 4 [a] (fun x _ _ => fpRcp m c r x) ∧ row (.frsq f) 4 [a] (fun x _ _ => fpRsq m c r x) ∧
    row (.fexp2 f) 8 [a] (fun x _ _ => fpExp2 m c r x) ∧ row (.flog2 f) 8 [a] (fun x _ _ => fpLog2 m c r x) ∧
    row (.fsin f) 8 [a] (fun x _ _ => fpSin m c r x) ∧ row (.fcos f) 8 [a] (fun x _ _ => fpCos m c r x) ∧
    row (.ftanh f) 8 [a] (fun x _ _ => fpTanh m c r x) ∧ row (.frnd f) 4 [a] (fun x _ _ => fpRnd m c r x) ∧
    row (.fclass f) 4 [a] (fun x _ _ => ⟨fpClass m x, 0⟩) ∧
    row (.fscale f) 4 [a, orNull s.cur.b] (fun x y _ => fpScale m c r x (k y)) ∧
    row (.fabs f) 4 [a] (fun x _ _ => ⟨x % 2 ^ (m.ebits + m.fbits), 0⟩) ∧
    row (.fneg f) 4 [a] (fun x _ _ => ⟨m.negate x, 0⟩)

/-- R138, R145: FCMP, in both forms: a pr, or a vector with all ones in the enabled lanes that compare true and 0 in every
other lane. -/
def Claims.FloatCompareRow : Prop :=
  ∀ (s : State) (f : CommonNode), s.cur.ordinary f.pred →
    let w := f.ty.width
    let cmp := fun (x y : Nat) => fpCmp (Fmt.ofTy f.ty) (s.fpcm s.cur.ctx) f.rm.toNat x y
    let a := orNull s.cur.a
    let b := f.opB s.cur.b
    (f.v = false → Computes (.fcmp f) s f.toHdr 4
      (.bit (cmp (a.word.toNat % 2 ^ w) (b.word.toNat % 2 ^ w)).1, (cmp (a.word.toNat % 2 ^ w) (b.word.toNat % 2 ^ w)).2)) ∧
    (f.v = true → ∃ v fl, Computes (.fcmp f) s f.toHdr 4 (.vector v, fl) ∧ ∀ j, j < 512 / w →
      v.toNat / 2 ^ (w * j) % 2 ^ w =
        if laneOn f.mask (512 / w) j && (cmp (a.wide.toNat / 2 ^ (w * j) % 2 ^ w) (b.wide.toNat / 2 ^ (w * j) % 2 ^ w)).1
        then 2 ^ w - 1 else 0)

/-- R61 to R67, R143, R146: what the float arithmetic gives, in every format and rounding mode and with subnormals kept: sums and
products do not depend on the order of operands that are no NaN; a sum with +0, and a product or quotient by 1, is exact and
raises no flag; a nonzero number over zero is infinite with DZ; 0 / 0, ∞ / ∞ and the root of a negative number are invalid. -/
def Claims.FloatFacts : Prop :=
  ∀ (m : Fmt) (c : Fpcm) (r : Rm) (a b : Nat), m ∈ [Fmt.f16, .bf16, .f32, .f64] → c.denorm = 0 → c.mulz = false →
    a < 2 ^ m.width → b < 2 ^ m.width → m.isNan a = false → m.isNan b = false → (∀ x, r = .sr x → x < 2 ^ 32) →
    let one := m.bias * 2 ^ m.fbits
    let finite := fun (x : Nat) => x % 2 ^ (m.ebits + m.fbits) < m.infBits false
    let zero := fun (x : Nat) => x % 2 ^ (m.ebits + m.fbits) = 0
    fpAdd m c r a b = fpAdd m c r b a ∧ fpMul m c r a b = fpMul m c r b a ∧
    (finite a → ¬ zero a → fpAdd m c r a 0 = ⟨a, 0⟩) ∧ (finite a → fpMul m c r a one = ⟨a, 0⟩ ∧ fpDiv m c r a one = ⟨a, 0⟩) ∧
    (finite a → ¬ zero a → zero b → fpDiv m c r a b = ⟨m.infBits (m.neg a != m.neg b), fDZ⟩) ∧
    (zero a → zero b → fpDiv m c r a b = ⟨m.qnan, fIV⟩) ∧
    (¬ finite a → ¬ finite b → fpDiv m c r a b = ⟨m.qnan, fIV⟩) ∧
    (¬ zero a → m.neg a = true → fpSqrt m c r a = ⟨m.qnan, fIV⟩)

/-- R141 to R148: the float rows complete with their lanes' results; what the arithmetic gives on special and exact operands. -/
def Obligations.FloatingRows : Prop := Claims.FloatRows ∧ Claims.FloatCompareRow ∧ Claims.FloatFacts

/-! ### Conversion, vector and reduction rows (R149 to R164) -/

/-- R149 to R156: CVT, DQNT, BSCL, PACK, UNPACK and SRND in their scalar or only form, and QNT; the SR mode uses the lane's
LFSR and steps it. -/
def Obligations.ConversionRows : Prop :=
  ∀ (s : State) (f : CommonNode), s.cur.ordinary f.pred →
    let c := s.fpcm s.cur.ctx
    let a := orNull s.cur.a
    let x := a.wide.toNat
    let lfsr := fun (j : Nat) => ((s.elem s.cur.sid).lfsrs.getD j 1)
    let mode := fun (j : Nat) => Rm.ofCode f.rm.toNat (lfsr j)
    let param := (if f.l then f.lit.toNat else (orNull s.cur.b).word.toNat) % 2 ^ 32
    let stepped := fun (t : State) => f.rm = 5 → (t.elem s.cur.sid).lfsrs.getD 0 1 =
      (if lfsr 0 % 2 = 1 then lfsr 0 / 2 ^^^ 0x80200003 else lfsr 0 / 2)
    (f.v = false →
      let r := cvtOne c (mode 0) f.sty f.ty (a.word.toNat % 2 ^ f.sty.width)
      Answers (.cvt f) s fun t => Emits s t f.toHdr 4 (f.ty.scalarVal r.bits) ∧ FlagsOr s t s.cur.ctx r.flags ∧ stepped t) ∧
    (f.v = false → param ≤ (if f.ty = .f32 then 23 else 52) →
      let r := fpSrnd (Fmt.ofTy f.ty) c (mode 0) param (a.word.toNat % 2 ^ f.ty.width)
      Answers (.srnd f) s fun t => Emits s t f.toHdr 4 (f.ty.scalarVal r.bits) ∧ FlagsOr s t s.cur.ctx r.flags ∧ stepped t) ∧
    (param < 64 → param / 16 < packedBlocks f.ty →
      let w := f.sty.width
      let xs := if f.sty = .f32 then a.lanes 32 ++ ((orNull s.cur.c).lanes 32).take 8 else (a.lanes w).take 24
      let b := quantise f.ty (param % 16) (xs.map (Fmt.ofTy f.sty).decode) ((List.range 24).map mode)
      Answers (.qnt f) s fun t => Emits s t f.toHdr 4 (.vector (BitVec.ofNat 512 (packBlock f.ty (param / 16) b))) ∧
        FlagsOr s t s.cur.ctx b.flags ∧ stepped t) ∧
    (let (els, lo, hi) := unpackBlock f.sty f.part x
      let rs := els.map fun e => elemTo (Fmt.ofTy f.ty) (Rm.ofCode f.rm.toNat 0) (elemValue f.sty lo hi e)
      let bits := rs.map (·.bits)
      let wide := f.ty == .f32
      Answers (.dqnt f) s fun t => Sends s t s.cur f.toHdr 4 s.cur.tag
        (vecVal f.ty.width (if wide then bits.take 16 else bits)) (vecVal f.ty.width (if wide then bits.drop 16 else bits))) ∧
    (∃ v, Passes (.bscl f) s f.toHdr 4 (.vector v) ∧ v.toNat % 2 ^ 384 = x % 2 ^ 384 ∧
      ∀ i, i < 2 * packedBlocks f.ty → v.toNat / 2 ^ (384 + 8 * i) % 256 =
        let e := x / 2 ^ (384 + 8 * i) % 256
        let y : Int := e + (if f.l then f.lit.toInt else ((orNull s.cur.b).word.setWidth 32).toInt)
        if e = 0 ∨ e = 255 then e else if y < 1 then 0 else if 254 < y then 255 else y.toNat) ∧
    Passes (.pack f) s f.toHdr 4 (.vector (BitVec.ofNat 512
      (x % 2 ^ 384 + (orNull s.cur.b).wide.toNat % 2 ^ (16 * packedBlocks f.ty) * 2 ^ 384))) ∧
    Answers (.unpack f) s fun t => Sends s t s.cur f.toHdr 4 s.cur.tag
      (.vector (BitVec.ofNat 512 (x % 2 ^ 384))) (.vector (BitVec.ofNat 512 (x / 2 ^ 384 % 2 ^ (16 * packedBlocks f.ty))))

/-- R158: the vector rows that move, pack and count lanes. -/
def Claims.VectorRows : Prop :=
  ∀ (s : State) (f : CommonNode), s.cur.ordinary f.pred →
    let w := f.ty.width
    let n := 512 / w
    let lane := fun (x : Nat) (j : Nat) => x / 2 ^ (w * j) % 2 ^ w
    let on := fun (j : Nat) => f.mask.getLsbD (16 * j / n)
    let a := (orNull s.cur.a).wide.toNat
    let b := (orNull s.cur.b).wide.toNat
    let idx := (if f.l then f.lit.toNat else (orNull s.cur.b).word.toNat) % 2 ^ 32 % n
    let gives := fun (i : Instr) (v : Nat → Nat) => ∃ x : W512, Passes i s f.toHdr 4 (.vector x) ∧
      ∀ j, j < n → lane x.toNat j = v j
    let sel := (List.range n).filter fun j => on j && lane b j != 0
    gives (.vbcast f) (fun j => if on j then (orNull s.cur.a).word.toNat % 2 ^ w else 0) ∧
    Passes (.vext f) s f.toHdr 4 (f.ty.scalarVal (lane a idx)) ∧
    gives (.vins f) (fun j => if j = idx then (orNull s.cur.c).word.toNat % 2 ^ w else lane a j) ∧
    gives (.vshuf f) (fun j => if on j then lane a (lane b j % n) else lane a j) ∧
    (∃ x : W512, (∀ j, j < n → lane x.toNat j = match sel[j]? with | some k => lane a k | none => 0) ∧
      Answers (.vcmpr f) s fun t => Sends s t s.cur f.toHdr 4 s.cur.tag (.vector x) (.scalar (BitVec.ofNat 64 sel.length))) ∧
    gives (.vexpd f) (fun j => if sel.contains j then lane a (sel.idxOf j) else 0) ∧
    (f.sub ≠ 0 → gives (.vmask f) fun j => if on j && (orNull s.cur.a).word.getLsbD j then 2 ^ w - 1 else 0) ∧
    (f.sub = 0 → w ∈ [8, 16, 32, 64] → ∃ x : W64, Passes (.vmask f) s f.toHdr 4 (.scalar x) ∧
      ∀ j, j < n → x.getLsbD j = (on j && lane a j != 0)) ∧
    Passes (.vcnt f) s f.toHdr 4 (.scalar (BitVec.ofNat 64 ((List.range n).countP fun j => on j && lane a j != 0)))

/-- R68, R159 to R161: VRED, VSCAN and VDOT. The integer sums are exact and reduced once; the float sums of f32 and f64 follow
the pairwise tree. -/
def Claims.VectorReductionRows : Prop :=
  ∀ (s : State) (f : CommonNode), s.cur.ordinary f.pred →
    let w := f.ty.width
    let n := 512 / w
    let on := fun (j : Nat) => f.mask.getLsbD (16 * j / n)
    let lanes := fun (v : Option Val) => (List.range n).map fun j => (orNull v).wide.toNat / 2 ^ (w * j) % 2 ^ w
    let c := s.fpcm s.cur.ctx
    let m := Fmt.ofTy f.ty
    let r := Rm.ofCode f.rm.toNat 0
    let sum := fun (xs : List Int) => xs.foldl (· + ·) 0
    let kept := fun (g : Nat → Nat → Int) => ((lanes s.cur.a).zip (lanes s.cur.b)).zipIdx.map fun ((x, y), j) =>
      if on j then g x y else 0
    (f.ty.isInt = true → f.sub = 0 → Passes (.vred f) s f.toHdr 4
      (f.ty.scalarVal (reduceInt f.ty f.sat (sum (kept fun x _ => readInt f.ty x))).bits)) ∧
    (f.ty = .f32 ∨ f.ty = .f64 → f.sub = 0 → Passes (.vred f) s f.toHdr 4 (f.ty.scalarVal
      (tree (fun x y => fpAdd m c r x y) (Nat.log2 n) ((lanes s.cur.a).zipIdx.map fun (x, j) =>
        if on j then x else m.signBit true)).bits)) ∧
    (f.ty.isInt = true → f.sub = 0 → f.sat = false → ∃ x : W512, Passes (.vscan f) s f.toHdr 4 (.vector x) ∧
      ∀ j, j < n → x.toNat / 2 ^ (w * j) % 2 ^ w = if on j
        then (sum ((kept fun x _ => readInt f.ty x).take (j + 1)) % 2 ^ w).toNat
        else (orNull s.cur.a).wide.toNat / 2 ^ (w * j) % 2 ^ w) ∧
    (f.ty.isInt = true → Passes (.vdot f) s f.toHdr 4 ((dotTy f.ty).scalarVal
      (reduceInt (dotTy f.ty) f.sat (sum (kept fun x y => readInt f.ty x * readInt f.ty y))).bits))

/-- R162 to R164: the first contribution of an accumulator, at position 0 with LAST false, is taken by REDA and REDX: the
accumulator holds it and nothing is sent; with LAST true the result goes out under the outer tag. -/
def Claims.ReductionRows : Prop :=
  ∀ (s : State) (f : CommonNode), s.cur.poison? = none → s.cur.off f.pred = false → f.v = false → f.ty.isInt = true →
    s.replaying s.cur.ctx = false → f.sub.toNat < 8 →
    let d := tagDepth s.cur.tag
    let outer := cutTag s.cur.tag (d - 1)
    let x := (orNull s.cur.a).word.toNat % 2 ^ f.ty.width
    let e := s.elem s.cur.sid
    let last := (orNull s.cur.b).word.getLsbD 0
    0 < d → tagField s.cur.tag (d - 1) = 0 → e.parked = [] → e.accums.length < 8 →
    (∀ a ∈ e.accums, a.isKey s.cur.frm s.cur.node outer = false) →
    (last = false → Answers (.reda f) s fun t => (t.elem s.cur.sid).outs = e.outs ∧
      ∃ a ∈ (t.elem s.cur.sid).accums, a.isKey s.cur.frm s.cur.node outer ∧ a.acc = some (f.ty.scalarVal x) ∧ a.base = 1 ∧ a.k = 1) ∧
    (last = true → Answers (.reda f) s fun t => Sends s t s.cur f.toHdr 4 outer (f.ty.scalarVal x) (f.ty.scalarVal x) ∧
      (t.elem s.cur.sid).accums = e.accums) ∧
    (last = false → Answers (.redx f) s fun t => (t.elem s.cur.sid).outs = e.outs ∧
      ∃ a ∈ (t.elem s.cur.sid).accums, a.isKey s.cur.frm s.cur.node outer ∧ a.best = some (BitVec.ofNat 64 x, 0) ∧ a.base = 1) ∧
    (last = true → Answers (.redx f) s fun t => Sends s t s.cur f.toHdr 4 outer (.scalar (BitVec.ofNat 64 x)) (.scalar 0) ∧
      (t.elem s.cur.sid).accums = e.accums)

/-- R157 to R166, R68 to R70: the lane-moving, vector-reducing, REDA and REDX rows complete as their rules say. -/
def Obligations.VectorAndReductionRows : Prop := Claims.VectorRows ∧ Claims.VectorReductionRows ∧ Claims.ReductionRows

/-! ### Plumbing and control (R107 to R118) -/

/-- R47, R110 to R113: MOV, STEER, MERGE, GATE, NULLG and CONST; a narrow scalar passes with zeros above. -/
def Claims.PlumbingRows : Prop :=
  ∀ (s : State) (f : PlumbNode), s.cur.ordinary f.pred →
    let a := orNull s.cur.a
    let b := orNull s.cur.b
    let v := f.ty.pass a
    let h0 : Hdr := { f.toHdr with d1 := { f.d1 with val := false } }
    let h1 : Hdr := { f.toHdr with d0 := { f.d0 with val := false } }
    Passes (.mov f) s f.toHdr 1 v ∧ Passes (.gate f) s f.toHdr 1 v ∧ Passes (.nullg f) s f.toHdr 1 (.null f.v) ∧
    Passes (.const f) s f.toHdr 1 (f.ty.literalVal f.v f.lit) ∧
    (a.isNull = false → Passes (.merge f) s f.toHdr 1 v) ∧
    (a.isNull = false → b.isNull = false → f.sub ≠ 0 → b.word.getLsbD 0 = true → Passes (.steer f) s h0 1 v) ∧
    (a.isNull = false → b.isNull = false → f.sub ≠ 0 → b.word.getLsbD 0 = false → Passes (.steer f) s h1 1 v) ∧
    (a.isNull = false → b.isNull = false → f.sub = 0 → f.d0.val = true → f.d1.val = true → Answers (.steer f) s fun t =>
      (t.elem s.cur.sid).outs = (s.elem s.cur.sid).outs ++
        (if b.word.getLsbD 0
         then [⟨0, s.cur.token 0 f.d0 s.cur.tag v, s.now + 1, s.cur.fid⟩, ⟨1, s.cur.token 1 f.d1 s.cur.tag (.null f.v), s.now + 1, s.cur.fid⟩]
         else [⟨1, s.cur.token 1 f.d1 s.cur.tag v, s.now + 1, s.cur.fid⟩, ⟨0, s.cur.token 0 f.d0 s.cur.tag (.null f.v), s.now + 1, s.cur.fid⟩]))

/-- R112: MERGE whose predicate matches sends a unless it is null, else b unless it is null, else null. -/
def Claims.MergeTakesTheOther : Prop :=
  ∀ (s : State) (f : PlumbNode), s.cur.poison? = none → s.cur.predOk f.pred = true →
    (f.pred ≠ .always → (orNull s.cur.p).isNull = false) →
    Passes (.merge f) s f.toHdr 1 (if (orNull s.cur.a).isNull = false then f.ty.pass (orNull s.cur.a)
      else if (orNull s.cur.b).isNull = false then f.ty.pass (orNull s.cur.b) else .null f.v)

/-- R108, R110, R114, R115: SINK sends nothing; WRITE holds its operand in its instance; READ asks the job scheduler. None of
them sends a token. -/
def Claims.SinkReadWriteRows : Prop :=
  ∀ (s : State) (f : PlumbNode), s.cur.ordinary f.pred →
    let c := s.cur
    Answers (.sink f) s (fun t => t.fab = s.fab ∧ t.due s.now (.instanceCommit c.ctx c.rgn c.frm (tagDomain c.tag))) ∧
    Answers (.read f) s (fun t => t.fab = s.fab ∧ t.due s.now (.globalReadServe s.serial) ∧
      t.run.reads.get? s.serial = some ⟨c, f.toHdr, f.greg.toNat, f.v⟩) ∧
    ∀ i, c.tag = instTag (tagDomain c.tag) → s.inst? c.ctx c.rgn c.frm (tagDomain c.tag) = some i →
      Answers (.write f) s fun t => t.fab = s.fab ∧ (t.inst? c.ctx c.rgn c.frm (tagDomain c.tag)).map (·.writes) =
        some (i.writes ++ [⟨c.node, f.v, f.greg.toNat, f.ty.pass (orNull c.a)⟩])

/-- R107 to R115: MOV, STEER, MERGE, GATE, NULLG, CONST, SINK, READ and WRITE. -/
def Obligations.PlumbingNodes : Prop := Claims.PlumbingRows ∧ Claims.MergeTakesTheOther ∧ Claims.SinkReadWriteRows

/-- R116 to R118: the branch rows, on the first branch of an instance with its instance tag. BR, BRI, CALLB and RETB record
the successor and send the block sequencer a start request, which reaches it two cycles later (R238); CALLB pushes the block
after the current one in memory, RETB pops. BR.end and a RETB of an empty link stack end the chain. -/
def Claims.BranchRows : Prop :=
  ∀ (s : State) (f : PlumbNode) (i : Inst) (b : Block) (a : Act) (r : Region), s.cur.ordinary f.pred →
    let c := s.cur
    let dom := tagDomain c.tag
    let inst := fun (t : State) => (t.inst? c.ctx c.rgn c.frm dom).map (·.branch)
    let link := fun (t : State) => (t.act? c.ctx dom).map (·.link)
    let starts := fun (t : State) => (t.region? c.ctx c.rgn).map (·.starts)
    let goes := fun (t : State) (dst : Nat) => inst t = some (.taken (some dst)) ∧
      starts t = some (r.starts ++ [⟨s.now + 2, dst, dom, s.serial, some c, []⟩]) ∧ t.due (s.now + 2) (.blockStart c.ctx c.rgn)
    let at_ := fun (units : Int) => ((b.addr + 64 * units) % 2 ^ 64).toNat
    c.tag = instTag dom → s.inst? c.ctx c.rgn c.frm dom = some i → i.branch = .none → s.blockOf c = some b →
    s.region? c.ctx c.rgn = some r → s.act? c.ctx dom = some a →
    (f.sub ≠ 1 → Answers (.br f) s fun t => goes t (at_ f.lit.toInt) ∧ link t = some a.link) ∧
    (f.sub = 1 → Answers (.br f) s fun t => inst t = some (.taken none) ∧ starts t = some r.starts) ∧
    Answers (.bri f) s (fun t => goes t (at_ (f.lit.toInt + ((orNull c.a).word.setWidth 32).toInt)) ∧ link t = some a.link) ∧
    (a.link.length < 8 → Answers (.callb f) s fun t => goes t (at_ f.lit.toInt) ∧
      link t = some ((b.addr + 64 * ((12 * (b.nodes.length + 1) + 63) / 64)) :: a.link)) ∧
    (∀ top rest, a.link = top :: rest → Answers (.retb f) s fun t => goes t top ∧ link t = some rest) ∧
    (a.link = [] → Answers (.retb f) s fun t => inst t = some (.taken none))

/-- R108, R116: a token whose tag is not the instance tag, and a second branch of an instance, take fault ILLEGAL: a record is
written and no branch is taken. -/
def Claims.BranchFaults : Prop :=
  ∀ (s : State) (f : PlumbNode) (x : Ctx), s.cur.ordinary f.pred → s.ctx? s.cur.ctx = some x → x.ring.length < 64 →
    let c := s.cur
    let dom := tagDomain c.tag
    (c.tag ≠ instTag dom ∨ ∃ i, s.inst? c.ctx c.rgn c.frm dom = some i ∧ i.branch ≠ .none) →
    ∀ j ∈ [Instr.br f, .bri f, .callb f, .retb f], Answers j s fun t => (∀ k, (t.elem k).outs = (s.elem k).outs) ∧
      (t.inst? c.ctx c.rgn c.frm dom).map (·.branch) = (s.inst? c.ctx c.rgn c.frm dom).map (·.branch) ∧
      ∃ rec ∈ ((t.ctx? c.ctx).map (·.ring)).getD [], rec.cause = 1 ∧ rec.onode = c.node ∧ rec.tag = c.tag

/-- R108, R116 to R118: BR, BRI, CALLB and RETB record a successor and ask for its start; where they fault instead. -/
def Obligations.BranchNodes : Prop := Claims.BranchRows ∧ Claims.BranchFaults

/-- R32, R105, R106, R326 to R328: taking a fault. Poison that reaches a SINK writes one record to its context's ring, with the
origin that the poison carries, the sink's position and VIA; FCOUNT rises by 1, and a handler is sent the new count. A full
ring stores nothing, and no second record is written of one fault. -/
def Obligations.SinksWriteRecords : Prop :=
  ∀ (s : State) (f : PlumbNode) (x : Ctx) (o : W64), s.cur.poison? = some o → s.ctx? s.cur.ctx = some x →
    let c := s.cur
    let b := fun (hi lo : Nat) => natBits o.toNat hi lo
    let ring := fun (t : State) => (t.ctx? c.ctx).map (·.ring)
    let count := fun (t : State) => (t.ctx? c.ctx).map (·.fcount)
    (s.elem (sidAt (b 49 48) (b 47 42) (b 41 37))).capture = none →
    ((o, c.tag) ∉ x.told → x.ring.length < 64 → Answers (.sink f) s fun t =>
      (∃ rec, ring t = some (x.ring ++ [rec]) ∧ rec.cause = b 63 56 ∧ rec.vd = b 55 50 ∧ rec.die = b 49 48 ∧ rec.ox = b 47 42 ∧
        rec.oy = b 41 37 ∧ rec.ofrm = b 36 35 ∧ rec.onode = b 34 28 ∧ rec.ctx = c.ctx ∧ rec.tag = c.tag ∧ rec.via = true ∧
        rec.sx = xOf c.sid ∧ rec.sy = yOf c.sid ∧ rec.ticks = s.ticks) ∧
      count t = some ((x.fcount + 1) % 2 ^ 32) ∧
      (x.hasHandler = true → t.due s.now (.deviceQueueAppend s.serial) ∧
        (t.run.reservations.get? s.serial).map (fun r => (r.ctx, r.queue, r.val)) =
          some (c.ctx, 63, .scalar (BitVec.ofNat 64 ((x.fcount + 1) % 2 ^ 32))))) ∧
    ((o, c.tag) ∉ x.told → x.ring.length = 64 → Answers (.sink f) s fun t =>
      (ring t).map (fun r => (r.length, r.take 63)) = some (64, x.ring.take 63) ∧ count t = some x.fcount) ∧
    ((o, c.tag) ∈ x.told → Answers (.sink f) s fun t => ring t = some x.ring ∧ count t = some x.fcount)

/-! ### Tags (R119 to R130) -/

/-- R22, R119, R120, R124 to R127: the rows that rewrite or read tags. ENTER, EXIT, TAGSET and RETAG send a under the new tag;
TAGGET and TAGCMP send what they read under a's own. -/
def Claims.TagRows : Prop :=
  ∀ (s : State) (f : TagNode), s.cur.ordinary f.pred →
    let c := s.cur
    let t := c.tag
    let d := tagDepth t
    let l := f.lvl.toNat
    let a := f.ty.pass (orNull c.a)
    let u := (orNull c.a).word
    let b := (orNull c.b).word
    let sends := fun (i : Instr) (tag : W64) => Answers i s fun t => Sends s t c f.toHdr 1 tag a a
    let field := fun (x : W64) (k : Nat) => x.toNat / 2 ^ (6 * k) % 64
    (d < 8 → l = d → sends (.enter f) (mkTag (tagDomain t) (d + 1) ((tagFields t).set d 0))) ∧
    (0 < d → l + 1 = d → sends (.exit f) (mkTag (tagDomain t) (d - 1) (tagFields t))) ∧
    (l < d → sends (.tagset f) (mkTag (tagDomain t) d ((tagFields t).set l ((litOr f.l f.lit c.b).toNat % 64)))) ∧
    (tagDepth b ≤ 8 → (∀ k, tagDepth b ≤ k → k < 8 → field b k = 0) → f.sub = 0 →
      (∀ x, s.ctx? c.ctx = some x → x.cbase ≤ tagDomain t ∧ tagDomain t < x.cbase + x.image.dcount) →
      sends (.retag f) (BitVec.ofNat 64 (b.toNat % 2 ^ 52 + tagDomain t * 2 ^ 52))) ∧
    Passes (.tagget f) s f.toHdr 1 (f.ty.scalarVal (match f.sub.toNat with
      | 0 => if l < d then field t l else 0
      | 1 => d
      | 2 => t.toNat
      | 3 => t.toNat / 2 ^ 52
      | _ => if l + 1 < d then field t l + 64 * field t (l + 1) else 0)) ∧
    Passes (.tagcmp f) s f.toHdr 1 (.bit (match f.sub.toNat with
      | 0 => decide (t = u)
      | 1 => decide (tagDomain t = tagDomain u ∧ l < d ∧ l < tagDepth u ∧ ∀ k, k < l → field t k = field u k)
      | _ => decide (l < d ∧ l < tagDepth u ∧ 1 ≤ (field u l + 64 - field t l) % 64 ∧ (field u l + 64 - field t l) % 64 ≤ 31)))

/-- R105, R119, R326: ENTER at depth 8 takes fault TAGDEPTH, and ENTER, EXIT and TAGSET at a wrong level fault ILLEGAL: poison
whose origin is the node goes out under the token's own tag. -/
def Claims.TagFaults : Prop :=
  ∀ (s : State) (f : TagNode), s.cur.ordinary f.pred → (f.d0.val || f.d1.val) = true →
    let c := s.cur
    let d := tagDepth c.tag
    let l := f.lvl.toNat
    let faults := fun (i : Instr) (cause : Nat) => Answers i s fun t =>
      Sends s t c f.toHdr 1 c.tag (.poison (c.origin (s.vdOfCtx c.ctx) cause)) (.poison (c.origin (s.vdOfCtx c.ctx) cause))
    (8 ≤ d → faults (.enter f) 0x06) ∧ (d < 8 → l ≠ d → faults (.enter f) 0x01) ∧
    (l + 1 ≠ d → faults (.exit f) 0x01) ∧ (d ≤ l → faults (.tagset f) 0x01)

/-- R119 to R127: the rows that rewrite or read tags, and where they fault. -/
def Obligations.TagNodes : Prop := Claims.TagRows ∧ Claims.TagFaults

/-- R119, R122: an iteration that its window admits goes on under the next iteration's tag; one that is not admitted parks. -/
def Claims.LoopRows : Prop :=
  ∀ (s : State) (f : TagNode) (w : LoopWin), s.cur.ordinary f.pred →
    let c := s.cur
    let d := tagDepth c.tag
    let l := f.lvl.toNat
    let a := f.ty.pass (orNull c.a)
    let e := s.elem c.sid
    let i := tagField c.tag l
    let ahead := fun (j : Nat) => (j + 64 - w.head) % 64
    0 < d → l + 1 = d → w.head < 64 →
    (e.windows.find? (fun x => x.isKey c.frm (f.lit.toNat % 128) (cutTag c.tag l)) = some w → w.final = none →
      ahead ((i + 1) % 64) < w.k → Answers (.next f) s fun t => Sends s t c f.toHdr 1 (setField c.tag l ((i + 1) % 64)) a a) ∧
    (e.windows.find? (fun x => x.isKey c.frm (f.lit.toNat % 128) (cutTag c.tag l)) = some w → w.final = none →
      w.k ≤ ahead ((i + 1) % 64) → Answers (.next f) s fun t => (t.elem c.sid).outs = e.outs ∧
        ∃ p ∈ (t.elem c.sid).parked, p.i = .next f ∧ p.f = c) ∧
    (e.windows.find? (fun x => x.isKey c.frm c.node (cutTag c.tag l)) = some w → w.final = none → e.parked = [] →
      ahead i < w.k → w.done.getLsbD i = false → w.done.getLsbD w.head = false → i ≠ w.head → (orNull c.b).word.getLsbD 0 = true →
      Answers (.bound f) s fun t => Sends s t c f.toHdr 1 c.tag a a ∧
        ∃ v ∈ (t.elem c.sid).windows, v.isKey c.frm c.node (cutTag c.tag l) ∧ v.done.getLsbD i = true ∧ v.head = w.head)

/-- R128 to R130: SPAWN and RETIRE ask the tag pool of the context's home die; nothing is sent until the reply. -/
def Claims.PoolRows : Prop :=
  ∀ (s : State) (f : TagNode),
    let c := s.cur
    let d := tagDepth c.tag
    let l := f.lvl.toNat
    let lat := match s.ctx? c.ctx with | some x => if x.homeDie = dieOf c.sid then 6 else 15 | none => 6
    (d < 7 → l = d → Answers (.spawn f) s fun t => t.fab = s.fab ∧ t.due (s.now + lat) (.poolRequest s.serial) ∧
      t.run.pools.get? s.serial = some ⟨.spawn f, c, none, none, none⟩) ∧
    (2 ≤ d → l + 2 = d → Answers (.retire f) s fun t => t.fab = s.fab ∧ t.due (s.now + lat) (.poolRequest s.serial) ∧
      t.run.pools.get? s.serial =
        some ⟨.retire f, c, some (tagField c.tag l + 64 * tagField c.tag (l + 1)), none, none⟩)

/-- R128 to R130: the pool grants a SPAWN its oldest number, and takes a RETIRE's number back unless it is free already; the
results go out under the new tag. -/
def Claims.PoolServes : Prop :=
  ∀ (s : State) (rq : Nat) (q : PoolReq) (c : Ctx), s.ctx? q.f.ctx = some c →
    let lat := if c.homeDie = dieOf q.f.sid then 6 else 15
    let d := tagDepth q.f.tag
    let reply := fun (t : State) => (t.run.pools.get? rq).map (·.reply)
    (s.run.pools = [(rq, q)] → q.reply = none →
      (∀ n rest, q.ret = none → c.pool = n :: rest → Answers (.poolRequest rq) s fun t => reply t = some (some (some n)) ∧
        (t.ctx? q.f.ctx).map (·.pool) = some rest ∧ t.due (s.now + lat) (.poolReply rq)) ∧
      (∀ n, q.ret = some n → Answers (.poolRequest rq) s fun t => t.due (s.now + lat) (.poolReply rq) ∧
        (n ∉ c.pool → reply t = some (some (some n)) ∧ (t.ctx? q.f.ctx).map (·.pool) = some (c.pool ++ [n])) ∧
        (n ∈ c.pool → reply t = some (some none) ∧ (t.ctx? q.f.ctx).map (·.pool) = some c.pool))) ∧
    (∀ f n, s.run.pools.get? rq = some q → q.f.ordinary f.pred → q.reply = some (some n) →
      (q.i = .spawn f → Answers (.poolReply rq) s fun t =>
        Sends s t q.f f.toHdr 1 (mkTag (tagDomain q.f.tag) (d + 2) (((tagFields q.f.tag).set d (n % 64)).set (d + 1) (n / 64 % 64)))
          (f.ty.pass (orNull q.f.a)) (if f.l then f.ty.literalVal f.v f.lit else f.ty.pass (orNull q.f.b))) ∧
      (q.i = .retire f → Answers (.poolReply rq) s fun t =>
        Sends s t q.f f.toHdr 1 (mkTag (tagDomain q.f.tag) (d - 2) (tagFields q.f.tag)) (f.ty.pass (orNull q.f.a))
          (f.ty.pass (orNull q.f.a))))

/-- R119 to R123, R128 to R130: loop windows let iterations on or park them; the tag pool gives and takes back activation numbers. -/
def Obligations.LoopsAndPools : Prop := Claims.LoopRows ∧ Claims.PoolRows ∧ Claims.PoolServes

/-! ### Memory rows (R175 to R199) -/

/-- R176, R184, R185, R187, R189, R190, R194: an access with an aligned base, from an M-element whose TLB holds nothing yet,
becomes an operation with its virtual addresses and the bytes it stores, and waits for a walk, which begins where the walkers
have no other; no byte of memory changes. -/
def Claims.AccessRows : Prop :=
  ∀ (s : State) (f : MemNode), s.cur.ordinary f.pred → (s.elem s.cur.sid).tlb = [] →
    let c := s.cur
    let ea : W64 := (orNull c.a).word + (if f.l then f.lit.signExtend 64 else 0)
    let n := f.ty.width / 8
    let data := fun (v : Option Val) (k : Nat) => leBytes (orNull v).wide.toNat k
    let opens := fun (i : Instr) (load store : Bool) (lanes : List (Nat × W64 × Nat × List Byte)) =>
      Answers i s fun t => t.bytes = s.bytes ∧ ∃ o k, t.op? s.serial = some o ∧ o.i = i ∧ o.f = c ∧ o.isLoad = load ∧
        o.isStore = store ∧ o.lanes.map (fun l => (l.idx, l.va, l.size, l.data)) = lanes ∧
        (if lanes.isEmpty then t.due k (.storeResolve s.serial)
         else (∃ m ∈ t.mem.misses, s.serial ∈ m.ops) ∧ (s.mem.misses = [] → s.vdOfCtx c.ctx < 64 → t.due k (.tlbMissWalk s.serial)))
    let index := fun (j : Nat) => (orNull c.b).wide.toNat / 2 ^ (f.ty.width * j) % 2 ^ f.ty.width
    let taken := (List.range (512 / f.ty.width)).filter fun j => !(decide (f.sub = 1) && index j == 2 ^ f.ty.width - 1)
    let at_ := fun (j : Nat) => ea + (BitVec.ofNat f.ty.width (index j)).signExtend 64 * BitVec.ofNat 64 n
    (ea.toNat % n = 0 →
      opens (.ld f) true false [(0, ea, n, [])] ∧ opens (.st f) false true [(0, ea, n, data c.b n)] ∧
      opens (.atom f) true true [(0, ea, n, [])] ∧ opens (.cas f) true true [(0, ea, n, [])] ∧
      opens (.stmc f) false true [(0, ea, n, data c.b n)] ∧
      opens (.ldg f) true false (taken.map fun j => (j, at_ j, n, [])) ∧
      opens (.sts f) false true (taken.map fun j =>
        (j, at_ j, n, leBytes ((orNull c.c).wide.toNat / 2 ^ (f.ty.width * j) % 2 ^ f.ty.width) n))) ∧
    (ea.toNat % 64 = 0 → opens (.ldv f) true false [(0, ea, 64, [])] ∧ opens (.stv f) false true [(0, ea, 64, data c.b 64)]) ∧
    (ea.toNat % 8 = 0 → opens (.mwait f) true false [(0, ea, 8, [])])

/-- R177, R181, R186, R191 to R193, R195, R196: a vault access within the context's area, and the rows without an address,
ask the store buffer for their place in program order at once; PREF resolves beside a request of its own. -/
def Claims.UntranslatedRows : Prop :=
  ∀ (s : State) (f : MemNode), s.cur.ordinary f.pred → (s.elem s.cur.sid).tlb = [] →
    let c := s.cur
    let ea : W64 := (orNull c.a).word + (if f.l then f.lit.signExtend 64 else 0)
    let va := ((orNull c.a).word.setWidth 32 + (if f.l then f.lit else 0)).toNat
    let n := if f.v then 64 else f.ty.width / 8
    let asks := fun (i : Instr) (P : MemOp → Prop) => Answers i s fun t => t.bytes = s.bytes ∧
      ∃ o, t.op? s.serial = some o ∧ o.i = i ∧ o.f = c ∧ P o ∧ t.due s.now (.storeResolve s.serial)
    let vault := fun (load : Bool) (bs : List Byte) (o : MemOp) => o.isVault = true ∧ o.isLoad = load ∧ o.isStore = !load ∧
      o.lanes.map (fun l => (l.pa, l.size, l.data)) = [(va, n, bs)]
    ((orNull c.a).word.toNat < 2 ^ 32 → va % n = 0 → s.vaultAllowed c.ctx va n = true →
      asks (.vld f) (vault true []) ∧ asks (.vst f) (vault false (leBytes (orNull c.b).wide.toNat n))) ∧
    asks (.fence f) (fun o => o.null = false) ∧ asks (.xfi f) (fun o => o.null = false) ∧
    asks (.xfw f) (fun o => o.null = false) ∧ asks (.bnd f) (fun o => o.null = false) ∧
    asks (.pref f) (fun o => o.isPref = true) ∧
    Answers (.pref f) s (fun t => ∃ o, t.op? (s.serial + 1) = some o ∧ o.isLoad = true ∧ o.isStore = false ∧
      o.lanes.map (·.va) = [ea])

/-- R33, R181, R198: a null firing of a memory row sends null in its result's shape and resolves as a null access, with no
effect on memory; a misaligned access writes an ALIGN record with its address and sends null. -/
def Claims.MemoryNullAndAlign : Prop :=
  ∀ (s : State) (f : MemNode), s.cur.poison? = none →
    let c := s.cur
    let ea : W64 := (orNull c.a).word + (if f.l then f.lit.signExtend 64 else 0)
    (s.cur.off f.pred = true →
      ∀ i ∈ [Instr.ld f, .st f, .ldv f, .stv f, .ldg f, .sts f, .vld f, .vst f, .atom f, .cas f, .stmc f, .fence f, .xfi f, .xfw f,
        .mwait f, .pref f],
      Answers i s fun t => t.bytes = s.bytes ∧ Sends s t c f.toHdr 1 c.tag (.null i.sig.r0) (.null i.sig.r1) ∧
        ∃ o, t.op? s.serial = some o ∧ o.null = true ∧ o.isStore = false ∧ t.due s.now (.storeResolve s.serial)) ∧
    (s.cur.off f.pred = false → ∀ x, s.ctx? c.ctx = some x → x.ring.length < 64 → ea.toNat % (f.ty.width / 8) ≠ 0 →
      ∀ i ∈ [Instr.ld f, .st f, .atom f, .cas f, .stmc f, .ldg f, .sts f],
      Answers i s fun t => Sends s t c f.toHdr 1 c.tag (.null i.sig.r0) (.null i.sig.r1) ∧
        ∃ rec ∈ ((t.ctx? c.ctx).map (·.ring)).getD [], rec.cause = 0x0B ∧ rec.addr = ea ∧ rec.onode = c.node ∧ rec.tag = c.tag)

/-- R179 to R199: the memory rows make their requests; null firings resolve; a misaligned address takes ALIGN. -/
def Obligations.MemoryNodes : Prop := Claims.AccessRows ∧ Claims.UntranslatedRows ∧ Claims.MemoryNullAndAlign

/-! ### The memory system (R255 to R288, R393) -/

/-- R181 to R183, R188, R191: when nothing is before it, a fence sends its operand on, and a store leaves for its home. -/
def Claims.OrderedAccesses : Prop :=
  ∀ (s : State) (op : Nat) (o : MemOp), s.mem.ops = [(op, o)] → o.phase = .resolving → o.resolved = false → o.null = false →
    o.attached = [] → s.chainReady o = true → s.pastLast o = false →
    (∀ f, o.i = .fence f → o.lanes = [] → Answers (.storeResolve op) s fun t =>
      Sends s t o.f f.toHdr 1 o.f.tag (f.ty.pass (orNull o.f.a)) (f.ty.pass (orNull o.f.a))) ∧
    (∀ f l, o.i = .st f → o.lanes = [l] → l.bound = false → o.isLoad = false → o.isStore = true → o.isVault = false → l.cc = 0 →
      paWindow l.pa = 0 → l.home = dieOf o.f.sid → s.l2Ready l.home = true → s.mem.unreachable = [] →
      Answers (.storeResolve op) s fun t => (t.op? op).map (·.phase) = some .sent ∧ t.due (s.now + 16) (.homeStore op))

/-- R264: a store whose line is free at home, within the issue cap and with its credits, writes its bytes there and gives the
line the next timestamp; its acknowledgement is on the way. -/
def Claims.HomeStorePerforms : Prop :=
  ∀ (s : State) (op : Nat) (o : MemOp) (l : Lane) (f : MemNode) (h : HomeLine), s.bytes.wf = true → s.op? op = some o →
    o.i = .st f → o.isLoad = false → o.xack = false → o.lanes = [l] → l.bound = false → paWindow l.pa = 0 →
    l.home = dieOf o.f.sid → l.pa % 128 + l.data.length ≤ 128 →
    s.mem.homes.get? (l.pa / 128) = some h → h.die = l.home → h.lock = none →
    let w := Stamp.max o.pts (h.rts + 1)
    s.beyondCap l.home w = false →
    (∀ a ∈ s.arbiters l.home l.home l.pa 1, s.hasCredit a.1 (s.vdOfCtx o.f.ctx) = true) →
    Answers (.homeStore op) s fun t =>
      (∀ j, (hj : j < l.data.length) → t.bytes.dram.byte (l.pa + j) = l.data[j]) ∧ t.bytes.vault = s.bytes.vault ∧
      (∀ a, a / 128 ≠ l.pa / 128 → t.bytes.dram.byte a = s.bytes.dram.byte a) ∧
      (t.mem.homes.get? (l.pa / 128)).map (fun x => (x.wts, x.rts)) = some (w, w) ∧ ∃ n, t.due n (.homeAck op)

/-- R181, R255 to R264: accesses resolve in order, and a store performs at its home. -/
def Obligations.OrderAndHome : Prop := Claims.OrderedAccesses ∧ Claims.HomeStorePerforms

/-- R189, R190, R264, R281: the acknowledgement of an ATOM sends the old value; the home unlocks the lines of an operation
when its acknowledgement is confirmed; a repeated request that home has applied is acknowledged again, any other is applied. -/
def Claims.AcknowledgeAndConfirm : Prop :=
  ∀ (s : State) (op : Nat) (o : MemOp), s.op? op = some o →
    (∀ f v, o.i = .atom f → o.isLoad = true → o.isStore = true → o.xack = false → o.group = [] → o.result = some v →
      Answers (.homeAck op) s fun t => Sends s t o.f f.toHdr 0 o.f.tag v v) ∧
    Answers (.ackConfirm op) s (fun t => t.bytes = s.bytes ∧ ∀ line h x, s.mem.homes.get? line = some h → h.lock = some x →
      (t.mem.homes.get? line).map (·.lock) = some (if x.op = op then none else some x)) ∧
    (∀ l, o.phase ≠ .done → o.xack = false → o.lanes = [l] → o.line = l.pa / 128 → l.bound = false →
      let record := s.mem.seqs.get? (seqKey (if o.multi then l.primHome else l.home) o.f.sid)
      (record = some o.req → Answers (.couplerRepeat op) s fun t => t.due s.now (.homeAck op)) ∧
      (record ≠ some o.req → o.multi = false → Answers (.couplerRepeat op) s fun t => t.due s.now (.homeStore op)) ∧
      (record ≠ some o.req → o.multi = true → Answers (.couplerRepeat op) s fun t => t.due s.now (.replicaStore op)))

/-- R263, R267: a renewal extends the line's lease at home and replies with its bytes; the reply binds a load's lane and its
value goes out. -/
def Claims.LeasedLoad : Prop :=
  ∀ (s : State) (op : Nat) (o : MemOp) (l : Lane) (f : MemNode), s.op? op = some o → o.i = .ld f → o.lanes = [l] → l.bound = false →
    l.cc = 0 → paWindow l.pa = 0 →
    (∀ h, s.mem.homes.get? (l.pa / 128) = some h → h.die = l.home → h.lock = none →
      let r := Stamp.max h.rts (o.pts + BitVec.ofNat 16 o.aux)
      s.beyondCap l.home r = false →
      (∀ a ∈ s.arbiters (dieOf o.f.sid) l.home l.pa 2, s.hasCredit a.1 (s.vdOfCtx o.f.ctx) = true) →
      Answers (.leaseRenewal op) s fun t => (t.mem.homes.get? (l.pa / 128)).map (·.rts) = some r ∧
        (t.op? op).map (·.reply) = some (s.homeBytes (l.pa / 128)) ∧
        t.due (s.now + halfWay (dieOf o.f.sid) l.home) (.renewalReply op)) ∧
    (s.laneError l = none → l.home = dieOf o.f.sid → Answers (.renewalReply op) s fun t =>
      Sends s t o.f f.toHdr 0 o.f.tag (.scalar (BitVec.ofNat 64 (leNat ((o.reply.drop (l.pa % 128)).take l.size))))
        (.scalar (BitVec.ofNat 64 (leNat ((o.reply.drop (l.pa % 128)).take l.size)))))

/-- R259 to R270: an acknowledged access confirms and releases; a leased load reads under its lease. -/
def Obligations.AcksAndLeases : Prop := Claims.AcknowledgeAndConfirm ∧ Claims.LeasedLoad

/-- R194, R265, R266: evictions, notifications, MWAIT's reads, and the clocks. -/
def Claims.LinesAndClocks : Prop :=
  ∀ (s : State) (die line : Nat),
    (∀ h, s.mem.homes.get? line = some h → h.lock = none → h.die = die → Answers (.homeEvict die line false) s fun t =>
      t.bytes = s.bytes ∧ (t.stamps die (homeSlice (128 * line))).mts = Stamp.max (s.stamps die (homeSlice (128 * line))).mts h.rts) ∧
    (∀ c, s.mem.l2.get? (l2Key die line) = some c → (∀ p ∈ c.pend, p = []) → Answers (.homeEvict die line true) s fun t =>
      t.bytes = s.bytes ∧ (t.stamps die (homeSlice (128 * line))).cts = Stamp.max (s.stamps die (homeSlice (128 * line))).cts c.rts) ∧
    (∀ id o f l, (id, o) ∈ s.mem.ops → o.i = .mwait f → o.phase = .sent → o.lanes = [l] → l.pa / 128 = line →
      Answers (.homeNotify line) s fun t => t.due (s.now + halfWay (dieOf o.f.sid) l.home) (.mwaitPoll id)) ∧
    (∀ id o f l, s.op? id = some o → o.i = .mwait f → o.lanes = [l] → o.phase = .sent → o.aux = 1 → paWindow l.pa = 0 →
      s.homeBusy l.home (l.pa / 128) (s.vdOfCtx o.f.ctx) = false → s.laneError l = none →
      let v := BitVec.ofNat 64 (leNat (((s.homeBytes (l.pa / 128)).drop (l.pa % 128)).take 8))
      (mwaitHolds f v (orNull o.f.b).word = true → Answers (.mwaitPoll id) s fun t =>
        Sends s t o.f f.toHdr (halfWay (dieOf o.f.sid) l.home) o.f.tag (.scalar v) (.scalar v)) ∧
      (mwaitHolds f v (orNull o.f.b).word = false → Answers (.mwaitPoll id) s fun t => t.due (s.now + 1024) (.mwaitPoll id))) ∧
    (die < s.mem.horizons.length → s.isDue (.ptsDrift die) = false → Answers (.ptsDrift die) s fun t =>
      t.hzn die = s.hzn die + 1 ∧ t.due (s.now + (256 - s.now % 256)) (.ptsDrift die)) ∧
    (∀ src v, die < s.mem.horizons.length → Answers (.hznMessage src die v) s fun t => t.hzn die = Stamp.max (s.hzn die) v) ∧
    (s.isDue (.timestampSweep die) = false → Answers (.timestampSweep die) s fun t =>
      t.due (s.now + (16384 - s.now % 16384)) (.timestampSweep die) ∧
      ∀ x ∈ t.mem.l2, x.1 / 2 ^ 46 = die → (∀ p ∈ x.2.pend, p = []) →
        staleBehind (s.hzn die) x.2.rts = false ∧ staleBehind (s.hzn die) x.2.wts = false)

/-- R281 to R284: a store that is not acknowledged in time ends in XACK, with its address in the record; a store to a replica
page gives every replica's line one timestamp. -/
def Claims.LostAndReplicated : Prop :=
  ∀ (s : State) (op : Nat) (o : MemOp) (l : Lane), s.op? op = some o → o.lanes = [l] →
    (∀ lost x, o.phase = .sent → o.isStore = true → o.isVault = false →
      (if o.multi then l.primHome else l.home) ≠ dieOf o.f.sid → (o.early l = true → lost = .unreachable ∨ o.tries ≠ 0) →
      s.ctx? o.f.ctx = some x → x.ring.length < 64 → Answers (.ackTimeout op lost) s fun t =>
        ∃ rec ∈ ((t.ctx? o.f.ctx).map (·.ring)).getD [], rec.cause = 0x0E ∧ rec.addr = l.va ∧ rec.onode = o.f.node) ∧
    (let rts := l.reps.map fun x => match s.mem.homes.get? (x.2 / 128) with
       | some h => h.rts | none => (s.stamps x.1 (homeSlice (128 * (x.2 / 128)))).mts
     let w := rts.foldl (fun p r => Stamp.max p (r + 1)) o.pts
     l.bound = false → o.isLoad = false → o.isStore = true → o.xack = false →
     (∀ x ∈ l.reps, s.homeBusy x.1 (x.2 / 128) (s.vdOfCtx o.f.ctx) = false ∧ s.beyondCap x.1 w = false) →
     Answers (.replicaStore op) s fun t =>
       (∀ x ∈ l.reps, (t.mem.homes.get? (x.2 / 128)).map (fun h => (h.wts, h.rts)) = some (w, w)) ∧
       t.due (s.now + halfWay (dieOf o.f.sid) l.primHome) (.homeAck op))

/-- R262 to R288, R412: lines are fetched and evicted, clocks drift, and lost accesses and replicated pages. -/
def Obligations.LinesAndReplicas : Prop := Claims.LinesAndClocks ∧ Claims.LostAndReplicated

/-- R186, R257, R258: a vault request waits at its bank for an E slot, and in one the bank performs the access of the site
that is next. -/
def Claims.VaultAccesses : Prop :=
  ∀ (s : State) (op : Nat) (o : MemOp) (l : Lane), s.bytes.wf = true → s.op? op = some o → o.lanes = [l] →
    let die := dieOf o.f.sid
    let bank := bankOf l.pa
    let key := bankKey die bank
    (∀ b, s.mem.banks.get? key = some b → Answers (.vaultRequestArrive op) s fun t =>
      (t.mem.banks.get? key).map (·.waiting) = some (b.waiting ++ [op]) ∧
      (b.waiting = [] → t.due (s.now + toESlot s.now b.free) (.vaultSlotServe die bank))) ∧
    (∀ b, s.mem.banks.get? key = some b → s.nextAtBank b = some (op, o) → toESlot s.now b.free = 0 →
      (o.isStore = true → Answers (.vaultSlotServe die bank) s fun t =>
        (∀ j, (hj : j < l.data.length) → t.bytes.vault.byte (2 ^ 31 * die + l.pa + j) = l.data[j]) ∧ t.bytes.dram = s.bytes.dram ∧
        ∀ a, a < 2 ^ 31 * die + l.pa ∨ 2 ^ 31 * die + l.pa + l.data.length ≤ a → t.bytes.vault.byte a = s.bytes.vault.byte a) ∧
      (∀ f, o.i = .vld f → f.v = false → o.isStore = false → s.vaultBad die l.pa l.size = false →
        Answers (.vaultSlotServe die bank) s fun t =>
          let v := Val.scalar (BitVec.ofNat 64 (leNat (s.bytes.vault.read (2 ^ 31 * die + l.pa) l.size)))
          Sends s t o.f f.toHdr 10 o.f.tag v v))

/-- R391 to R393: a walk for a miss that finds a leaf puts it into the TLB; a walk that fails with XLATE holds the request at the head of
its port; the first store to a page sets D of its leaf in memory. -/
def Claims.WalksAndHolds : Prop :=
  ∀ (s : State) (op : Nat) (o : MemOp) (l : Lane), s.op? op = some o → o.lanes = [l] → o.isPref = false →
    let vd := s.vdOfCtx o.f.ctx
    let die := dieOf o.f.sid
    let page : W64 := BitVec.ofNat 64 (65536 * (l.va.toNat / 65536))
    (s.mem.misses = [⟨die, vd, l.va.toNat / 65536, [op], true⟩] → s.tlbFind o.f.sid vd l.va = none →
      s.walkLocked (s.walk die vd page) = false →
      (∀ e a, (s.walk die vd page).finish = .leaf e a → e.covers vd l.va = true → (s.elem o.f.sid).tlb.length < 64 →
        Answers (.tlbMissWalk op) s fun t => (t.tlbFind o.f.sid vd l.va).isSome = true ∧ t.mem.misses = []) ∧
      (∀ detail, (s.walk die vd page).finish = .fails causeXlate detail → (s.elem o.f.sid).portHold = none →
        Answers (.tlbMissWalk op) s fun t => t.mem.misses = [] ∧
        (t.elem o.f.sid).portHold = some op ∧ (t.op? op).map (·.phase) = some .held)) ∧
    (∀ e now a, s.tlbFind o.f.sid vd l.va = some e → pteD e.pte = false → (s.walk die vd l.va).finish = .leaf now a →
      now.pte ||| 32 = e.pte ||| 32 → paWindow a = 0 → s.lockedLine (a / 128) = false →
      s.homeBytes (a / 128) = s.bytes.dram.read (128 * (a / 128)) 128 → Answers (.dirtyBitSet op) s fun t =>
        t.bytes.dram = s.bytes.dram.write a (leBytes (now.pte ||| 32).toNat 8) ∧ t.bytes.vault = s.bytes.vault)

/-- R177 to R199, R390 to R394: vault accesses, page walks and held accesses. -/
def Obligations.VaultsAndWalks : Prop := Claims.VaultAccesses ∧ Claims.WalksAndHolds

/-! ### The engine class (R200 to R218) -/

/-- R200, R203, R204, R211, R213, R214, R217, R218: an engine node whose grant or packet is right makes its request with its
release, and asks for its place in program order at once; no byte of memory changes. -/
def Claims.EngineRows : Prop :=
  ∀ (s : State) (f : EngNode), s.cur.ordinary f.pred →
    let c := s.cur
    let asks := fun (i : Instr) (release : Option Nat) => Answers i s fun t => t.bytes = s.bytes ∧ t.fab = s.fab ∧
      ∃ o, t.op? s.serial = some o ∧ o.i = i ∧ o.f = c ∧ o.null = false ∧ (∀ sc, release = some sc → o.ord = 2 ∧ o.scope = sc) ∧
        t.due s.now (.storeResolve s.serial)
    (∀ k, s.mxTarget (dieOf c.sid) f.unit.toNat (if f.half then 1 else 0) = (k, s.vdOfCtx c.ctx, true) →
      asks (.mxw f) (some 1) ∧ asks (.mxa f) (some 1) ∧ asks (.mxd f) (some 1) ∧ asks (.mxsStat f) none ∧
      asks (.mxsClr f) none ∧ asks (.mxsSync f) none) ∧
    (copyPacketOk c.packet = true → asks (.ceq f) (some 2)) ∧ (launchPacketOk c.packet = true → asks (.lnch f) (some 3)) ∧
    asks (.grp f) (some 2) ∧ asks (.coll f) (some 3) ∧ asks (.grpxLeave f) (some 3) ∧ asks (.grpxBreak f) (some 3)

/-- R202, R204, R211, R218: a matrix node without a grant of its VD faults PROT, a bad packet QUEUEFMT: the node writes the
record itself and sends null. -/
def Claims.EngineFaults : Prop :=
  ∀ (s : State) (f : EngNode) (x : Ctx), s.cur.ordinary f.pred → s.ctx? s.cur.ctx = some x → x.ring.length < 64 →
    let c := s.cur
    let faults := fun (i : Instr) (cause : Nat) => Answers i s fun t => t.bytes.dram = s.bytes.dram ∧
      Sends s t c f.toHdr 1 c.tag (.null i.sig.r0) (.null i.sig.r1) ∧
      ∃ rec ∈ ((t.ctx? c.ctx).map (·.ring)).getD [], rec.cause = cause ∧ rec.onode = c.node ∧ rec.tag = c.tag ∧ rec.via = false
    (∀ k vd g, s.mxTarget (dieOf c.sid) f.unit.toNat (if f.half then 1 else 0) = (k, vd, g) → (g = false ∨ vd ≠ s.vdOfCtx c.ctx) →
      ∀ i ∈ [Instr.mxw f, .mxa f, .mxd f, .mxsStat f, .mxsClr f, .mxsSync f], faults i 0x0A) ∧
    (copyPacketOk c.packet = false → faults (.ceq f) 0x16) ∧ (launchPacketOk c.packet = false → faults (.lnch f) 0x16)

/-- R201 to R218: the engine rows make their requests, or fault on a missing privilege, key or alignment. -/
def Obligations.EngineNodes : Prop := Claims.EngineRows ∧ Claims.EngineFaults

/-! ### Matrix units (R204 to R210, R289 to R298) -/

/-- R204, R289, R292, R293: a packet enters the inbox of its half; the oldest entry that can start takes its path; a bank
latches its tile from the planes in the vault once all its bytes have arrived. -/
def Claims.MatrixLoads : Prop :=
  ∀ (s : State) (half : Nat) (h : MxHalf), s.half half = h → h.banks.length = 2 →
    (∀ die unit top t rest, half = 128 * die + 2 * unit → unit < 64 → (top = decide (32 ≤ unit)) →
      (s.mxOwn (64 * die + unit)).split = false → s.edge (edgeKey die (2 * (unit % 32)) top) = t :: rest → h.waiting.length < 32 →
      ∀ id o, s.mem.ops = [(id, o)] → (∃ f, o.i = .mxw f ∨ o.i = .mxa f ∨ o.i = .mxd f) → o.phase = .sent →
        xOf o.f.sid = t.sx → yOf o.f.sid = t.sy → dieOf o.f.sid = die → o.f.frm = t.frm → o.f.node = t.node → o.f.tag = t.tag →
        (∀ x ∈ h.inbox, x.memop ≠ id) → (∀ w, t.val ≠ .poison w) →
        let p := leBytes t.val.wide.toNat 64
        field p 0 1 ≠ 4 →
        Answers (.mxPacketArrive die (2 * (unit % 32)) top) s fun u => u.edge (edgeKey die (2 * (unit % 32)) top) = rest ∧
          (∃ n, u.due n (.mxEntryStart half)) ∧
          ∃ e, (u.half half).inbox = h.inbox ++ [e] ∧ e.memop = id ∧ e.op = field p 0 1 ∧ e.ty.code.toNat = field p 1 1 % 16 ∧
            e.sub = field p 3 1 ∧ e.ctrl.toNat = field p 16 8 ∧ e.tag.toNat = field p 24 8 ∧ e.ctx = field p 40 2 ∧
            e.started = false ∧ e.left = false ∧ e.rows = 0) ∧
    (∀ e, s.mxCheck half e = 0 →
      let k := s.mxK half
      (h.load = none → h.next .load = some e → h.stream.isSome = true → h.drain.isSome = true → e.op = 1 →
        Answers (.mxEntryStart half) s fun t => (t.half half).load = some e.serial ∧ t.due (s.now + loadCycles e k) (.mxwLatch half)) ∧
      (h.stream = none → h.next .stream = some e → h.load.isSome = true → h.drain.isSome = true → e.op = 2 →
        Answers (.mxEntryStart half) s fun t => (t.half half).stream = some e.serial ∧
          ((t.half half).bank e.bank).ref = (h.bank e.bank).ref + e.m ∧ ∃ n, s.now + 8 ≤ n ∧ t.due n (.mxaRowIssue half)) ∧
      (h.drain = none → h.next .drain = some e → h.load.isSome = true → h.stream.isSome = true → e.op = 3 →
        Answers (.mxEntryStart half) s fun t => (t.half half).drain = some e.serial ∧ t.due (s.now + 4) (.mxdRowDrain half))) ∧
    (∀ e, h.load.bind h.entry? = some e → e.startAt + loadCycles e (s.mxK half) ≤ s.now →
      let nd := 128 * mxBytes e.ty (s.mxK half)
      let ns := 128 * mxScaleBytes e.ty (s.mxK half)
      s.vaultBad (half / 128) e.arga.toNat nd = false → s.vaultBad (half / 128) e.argb.toNat ns = false →
      Answers (.mxwLatch half) s fun t => ((t.half half).bank e.bank).tile =
          some ⟨e.ty, e.tag, s.vaultRead (half / 128) e.arga.toNat nd, s.vaultRead (half / 128) e.argb.toNat ns⟩ ∧
        ((t.half half).bank e.bank).loading = false ∧ t.due s.now (.mxReply half e.serial))

/-- R70, R207, R290, R294: the rows of an MXA issue one group at a time, each as a wavefront; past the last row of the unit a
wavefront leaves its weight bank, and then adds its block sums, in block order, into its accumulator row. -/
def Claims.MatrixStreams : Prop :=
  ∀ (s : State) (half : Nat) (h : MxHalf) (e : MxEntry), s.half half = h → h.banks.length = 2 →
    (∀ t, h.stream.bind h.entry? = some e → (h.bank e.bank).tile = some t → e.op = 2 → s.issueCycle (half / 128) = true →
      let k := s.mxK half
      let rows := ((List.range (issuePace e.ty t.ty).1).map (e.rows + ·)).filter (· < e.m)
      rowDue e k t.ty e.rows ≤ s.now →
      (∀ j ∈ rows, s.vaultBad (half / 128) (e.arga.toNat + j * mxBytes e.ty k) (mxBytes e.ty k) = false ∧
        s.vaultBad (half / 128) (e.argb.toNat + j * mxScaleBytes e.ty k) (mxScaleBytes e.ty k) = false) →
      h.poisoned = [] →
      Answers (.mxaRowIssue half) s fun u => ∃ ws, (u.half half).waves = h.waves ++ ws ∧
        ws.map (fun w => (w.entry, w.row, w.wbank, w.issued, w.passed)) = rows.map (fun j => (e.serial, j, e.bank, s.now, false)) ∧
        ws.map (·.sums) = rows.map (fun j => (mxSums e.ty k
          (s.vaultRead (half / 128) (e.arga.toNat + j * mxBytes e.ty k) (mxBytes e.ty k))
          (s.vaultRead (half / 128) (e.argb.toNat + j * mxScaleBytes e.ty k) (mxScaleBytes e.ty k)) t).map fun c => c.map (·.bits)) ∧
        (rows ≠ [] → u.due (s.now + 16) (.wavefrontPassesLastRow half) ∧ u.due (s.now + 20) (.wavefrontAccumulate half))) ∧
    (∀ w, h.waves.find? (fun w => !w.passed && decide (w.issued + 16 ≤ s.now)) = some w →
      Answers (.wavefrontPassesLastRow half) s fun u => ((u.half half).bank w.wbank).ref = (h.bank w.wbank).ref - 1 ∧
        (u.half half).waves = h.waves.map (fun x => if x = w then { x with passed := true } else x) ∧ u.bytes = s.bytes) ∧
    (∀ w, h.waves.find? (fun w => w.passed && decide (w.issued + 20 ≤ s.now)) = some w → h.entry? w.entry = some e →
      let key := 512 * bankNo e.accBank + e.base + w.row
      Answers (.wavefrontAccumulate half) s fun u => (u.half half).waves = h.waves.erase w ∧
        (u.half half).acc.getD key [] = w.sums.zipIdx.map (fun (xs, n) =>
          (mxAdd (e.ctrl.getLsbD 20) ((h.acc.getD key []).getD n 0) xs).bits) ∧
        (∀ k, k ≠ key → (u.half half).acc.getD k [] = h.acc.getD k []) ∧
        (e.acc + 1 = e.m → u.due (s.now + 2) (.mxReply half e.serial)))

/-- R208 to R210, R295, R298, R370: a drained row goes to the main copy in the vault, where it performs in an X slot; MXS.clr zeroes its rows; the reply
carries flags and rows, or the state word, and a failure writes an ENGINE record; an abort empties the banks of its context;
a held MXOWN value takes effect on an idle unit. -/
def Claims.MatrixDrainsAndEnds : Prop :=
  ∀ (s : State) (half : Nat) (h : MxHalf), s.half half = h →
    (∀ e, h.drain.bind h.entry? = some e → e.startAt + 4 + e.rows ≤ s.now → h.poisoned = [] → h.outbox = [] →
      (e.op = 4 → Answers (.mxdRowDrain half) s fun u => u.bytes = s.bytes ∧
        (u.half half).acc.getD (512 * bankNo e.bank + e.rows) [] = List.replicate 128 0 ∧
        (if e.rows + 1 < 512 then u.due (s.now + 1) (.mxdRowDrain half) else u.due (s.now + 2) (.mxReply half e.serial))) ∧
      (e.op = 3 → natBits e.ctrl.toNat 21 20 = 0 → e.argb = 0x80000000 → e.ctrl.getLsbD 26 = false → e.ty.isBlock = false →
        let row := match h.acc.get? (512 * bankNo e.bank + e.base + e.rows) with | some r => r | none => List.replicate 128 0
        Answers (.mxdRowDrain half) s fun u => u.bytes = s.bytes ∧ (u.half half).outbox =
            [(e.arga.toNat + e.rows * drainBytes e.ty 128, (mainRow e.ty 0 row (h.lfsrs.map fun _ => Rm.rne)).1)] ∧
          u.due (s.now + (1 + xSlotWait (s.now + 1))) (.mxdRowDrain half) ∧
          (if e.rows + 1 = e.m then ∃ n, u.due n (.mxReply half e.serial) else u.due (s.now + 1) (.mxdRowDrain half)))) ∧
    (∀ a bs, h.drain = none → h.outbox = [(a, bs)] → xSlotWait s.now = 0 → Answers (.mxdRowDrain half) s fun u =>
      u.bytes = { s.bytes with vault := s.bytes.vault.write (vaultByte (half / 128) a) bs } ∧ (u.half half).outbox = []) ∧
    (∀ n e, h.entry? n = some e → (s.ctx? e.ctx).isSome = true →
      let answers := fun (word : Nat) => ∀ o, s.op? e.memop = some o → Answers (.mxReply half n) s fun u =>
        Sends s u o.f o.i.hdr 1 o.f.tag (.scalar (BitVec.ofNat 64 word)) (.scalar (BitVec.ofNat 64 word)) ∧
          (u.half half).inbox = h.inbox.filter fun x => x.serial != n
      let word := e.flags % 128 * 2 ^ 8 + s.mxRows half e * 2 ^ 16
      (e.status = 0 → (e.op ≠ 4 ∨ e.sub = 1) → answers word) ∧
      (e.status = 0 → e.op = 4 → s.mxCheck half e = 0 → e.sub = 0 → answers (s.mxState half)) ∧
      (e.status = 0 → e.op = 4 → s.mxCheck half e = 0 → e.sub = 2 → (∀ w ∈ e.waits, s.mxPending h w = false) → answers word) ∧
      (e.status ≠ 0 → (e.op ≠ 4 ∨ e.sub = 1) → answers (e.status + word) ∧
        ∀ x, s.ctx? e.ctx = some x → x.ring.length < 64 → Answers (.mxReply half n) s fun u =>
          ∃ rec ∈ ((u.ctx? e.ctx).map (·.ring)).getD [], rec.cause = 0x10 ∧ rec.eng = true ∧ rec.detail = e.status ∧ rec.addr = e.arga)) ∧
    (∀ ctx, Answers (.mxAbort half ctx) s fun u =>
      (∀ b ∈ (u.half half).banks, b.ctx = ctx → b.tile = none ∧ b.loading = false) ∧
      (∀ e ∈ h.inbox, e.ctx = ctx → u.due s.now (.mxReply half e.serial))) ∧
    (∀ unit w, (s.mxOwn unit).held = some w → half = 128 * (unit / 64) + 2 * (unit % 64) →
      s.svc.ready.getLsbD (12 + 4 * (unit / 64) + unit % 64 / 16) = true →
      (∀ k ∈ [half, half + 1], (s.half k).waiting = [] ∧ ∀ b ∈ (s.half k).banks, b.ref = 0) →
      Answers (.mxownApply unit) s fun u =>
        u.mxOwn unit = ⟨natBits w.toNat 5 0, natBits w.toNat 11 6, w.getLsbD 12, w.getLsbD 13, w.getLsbD 14, none⟩ ∧
        (w.getLsbD 12 ≠ (s.mxOwn unit).split → (u.half half).acc = [] ∧ ∀ b ∈ (u.half half).banks, b.tile = none ∧ b.ref = 0))

/-- R204 to R210, R289 to R298: a matrix unit latches tiles, streams rows, accumulates, drains and replies. -/
def Obligations.MatrixUnits : Prop := Claims.MatrixLoads ∧ Claims.MatrixStreams ∧ Claims.MatrixDrainsAndEnds

/-! ### Graphics (R165 to R174) -/

/-- R167: EDGE sends the mask whose bit 4j + i says that all three edges cover the sample of pixel (i, j): E exactly positive,
or zero under the top-left rule; a NaN or infinite input clears every bit. Values are taken times 2^149, sample points too. -/
def Obligations.EdgeCoverage : Prop :=
  ∀ (s : State) (f : GfxNode), s.cur.ordinary f.pred →
    let x := fun (k : Nat) => exact32 (((orNull s.cur.a).lanes 32).getD k 0)
    let v := fun (k : Nat) => (x k).getD 0
    Answers (.edge f) s fun t => ∃ m : W64, Emits s t f.toHdr 4 (.scalar m) ∧
      ∀ p, p < 64 → (m.getLsbD p = true ↔ p < 16 ∧ (∀ k, k < 11 → (x k).isSome = true) ∧ ∀ k, k < 3 →
        let px := v 9 + (2 * (p % 4 : Nat) + 1) * 2 ^ 148
        let py := v 10 + (2 * (p / 4 : Nat) + 1) * 2 ^ 148
        let e := v (3 * k) * px + v (3 * k + 1) * py + v (3 * k + 2) * 2 ^ 149
        0 < e ∨ (e = 0 ∧ (0 < v (3 * k) ∨ (v (3 * k) = 0 ∧ 0 < v (3 * k + 1)))))

/-- R166, R168 to R170, R173: BOX4 sends the entry distances and the hit mask, TRI1 the hit's parameters and whether it hit,
TXQ the offsets and weights of four texels, SEQT its counter, which it then raises or clears; bad descriptors and tile numbers
fault ILLEGAL. -/
def Claims.GraphicsRows : Prop :=
  ∀ (s : State) (f : GfxNode), s.cur.ordinary f.pred →
    let c := s.cur
    let r := Rm.ofCode f.rm.toNat 0
    let la := (orNull c.a).lanes 32
    let lb := (orNull c.b).lanes 32
    let lc := (orNull c.c).lanes 32
    let boxes := [lb.take 6, (lb.drop 6).take 6, lc.take 6, (lc.drop 6).take 6].map (boxTest r la)
    let tri := triTest r (f.gmode == 1) la lb
    let d := (orNull c.b).word.toNat
    let n := (orNull c.a).word.toNat % 2 ^ 32
    let old := (s.seqtOf c).getD n 0
    let faults := fun (i : Instr) (lat : Nat) => Answers i s fun t =>
      Sends s t c f.toHdr lat c.tag (.poison (c.origin (s.vdOfCtx c.ctx) 1)) (.poison (c.origin (s.vdOfCtx c.ctx) 1))
    Answers (.box4 f) s (fun t => ∃ m : W64, Sends s t c f.toHdr 8 c.tag (vecVal 32 (boxes.map (·.1))) (.scalar m) ∧
      ∀ k, k < 64 → m.getLsbD k = ((boxes.map (·.2)).getD k false)) ∧
    Answers (.tri1 f) s (fun t => Sends s t c f.toHdr 16 c.tag (vecVal 32 tri.1) (.bit tri.2)) ∧
    (∀ offs wts, texOk d = true → texels r d (la.getD 0 0) (la.getD 1 0) = some (offs, wts) →
      Answers (.txq f) s fun t => Sends s t c f.toHdr 8 c.tag (vecVal 32 offs) (vecVal 32 wts)) ∧
    (texOk d = true → Answers (.txq f) s fun t => ∃ v w, Sends s t c f.toHdr 8 c.tag v w) ∧
    (n ≤ 255 → Answers (.seqt f) s fun t => (t.elem c.sid).outs = (s.elem c.sid).outs ++
        c.results f.toHdr (s.now + 1) c.tag (.scalar (BitVec.ofNat 64 old)) (.scalar (BitVec.ofNat 64 old)) ∧
      ((s.region? c.ctx c.rgn).isSome = true → (t.seqtOf c).getD n 0 = (if f.gmode = 0 then (old + 1) % 2 ^ 32 else 0))) ∧
    ((f.d0.val || f.d1.val) = true → (texOk d = false → faults (.txq f) 8) ∧ (255 < n → faults (.seqt f) 1))

/-- R171, R172: a fragment whose turn has come is applied, the tile's NEXTSEQ moves on and, with nothing held, its OWNER is
cleared; pr says whether the pixel was written. One that is 1 to 15 ahead is held in the window; one further ahead parks. -/
def Claims.BlendRow : Prop :=
  ∀ (s : State) (f : GfxNode) (w : BlndWin), s.cur.ordinary f.pred →
    let c := s.cur
    let e := s.elem c.sid
    let die := dieOf c.sid
    let addr := (orNull c.b).word.toNat % 2 ^ 32
    let seq := (orNull c.c).word.toNat % 2 ^ 32
    let lat := 16 + vaultHops (vaultAbove c.sid) (addr / 2 ^ 24) + eSlotWait s.now
    let pixel := fun (m : Mem) (p : Option (Nat × List Byte)) => match p with
      | some (a, bs) => m.write (vaultByte die a) bs | none => m
    addr % 64 = 0 → s.vaultAllowed c.ctx addr tileBytes = true →
    (e.blnds.filter (fun x => x.frm == c.frm && x.node == c.node)).find? (fun x => x.addr == addr) = some w →
    (∀ store written, seq = w.next % 2 ^ 32 → w.next < 2 ^ 32 → w.frags = [] →
      applyFragment f s die addr (orNull c.a).wide = (store, written, none) →
      Answers (.blnd f) s fun t => Sends s t c f.toHdr lat c.tag (.bit written) (.bit written) ∧
        t.bytes.dram = s.bytes.dram ∧ t.bytes.vault =
          (pixel s.bytes.vault store).write (vaultByte die addr) (leBytes ((seq + 1) % 2 ^ 32) 4 ++ leBytes 0 4)) ∧
    (w.next < 2 ^ 32 → (∀ x ∈ w.frags, x.1 ≠ seq) →
      let ahead := (seq + 2 ^ 32 - w.next) % 2 ^ 32
      (1 ≤ ahead → ahead ≤ 15 → Answers (.blnd f) s fun t => (t.elem c.sid).outs = e.outs ∧ (t.elem c.sid).parked = e.parked ∧
        ∃ v ∈ (t.elem c.sid).blnds, v.addr = addr ∧ v.next = w.next ∧ v.frags = w.frags ++ [(seq, ⟨seq, (orNull c.a).wide, c.tag⟩)]) ∧
      (16 ≤ ahead → ahead < 2 ^ 31 → Answers (.blnd f) s fun t => (t.elem c.sid).outs = e.outs ∧
        ∃ p ∈ (t.elem c.sid).parked, p.i = .blnd f ∧ p.f = c))

/-- R174, R313: ROUTE asks the owner's instance for a slot and parks until it is granted; then it writes its value into the
slot and sends pr 1. A key without an owner gives pr 0; a queue that the actor may not use faults QUEUEFMT. -/
def Claims.RouteRow : Prop :=
  ∀ (s : State) (f : GfxNode),
    let c := s.cur
    let q := if f.l then f.lit.toNat else (orNull c.b).word.toNat % 2 ^ 32
    let key := (orNull c.c).word
    let val : Val := if f.v then .vector (orNull c.a).wide else .scalar (f.ty.pass (orNull c.a)).word
    (∀ n r k g, s.grantOf c = some (n, r) → r.slot = some k → s.qinst r.ctx r.queue r.rgn = some g →
      Answers (.route f) s fun t =>
        Sends s t c f.toHdr (s.queueWay (dieOf c.sid) c.ctx r.rgn) c.tag (.bit true) (.bit true) ∧
          (t.qinst r.ctx r.queue r.rgn).map (fun x => (x.slot k, x.resv, x.head)) = some (.written val, g.resv, g.head)) ∧
    (s.grantOf c = none → c.ordinary f.pred →
      (∀ rgn, s.routeOk c f.v q = true → s.ownerOf c.ctx q key = some rgn → Answers (.route f) s fun t =>
        (t.elem c.sid).outs = (s.elem c.sid).outs ∧ t.run.reservations.get? s.serial = some ⟨some c, c.ctx, q, key, val, rgn, none, 0⟩ ∧
          t.due (s.now + s.queueWay (dieOf c.sid) c.ctx rgn) (.queueReserve s.serial) ∧
          ∃ p ∈ (t.elem c.sid).parked, p.i = .route f ∧ p.f = c) ∧
      (s.routeOk c f.v q = true → s.ownerOf c.ctx q key = none → Passes (.route f) s f.toHdr 1 (.bit false)) ∧
      (s.routeOk c f.v q = false → (f.d0.val || f.d1.val) = true → Answers (.route f) s fun t =>
        Sends s t c f.toHdr 1 c.tag (.poison (c.origin (s.vdOfCtx c.ctx) 0x16)) (.poison (c.origin (s.vdOfCtx c.ctx) 0x16))))

/-- R167 to R175: BOX4, TRI1, TXQ, BLND, SEQT and ROUTE. -/
def Obligations.GraphicsNodes : Prop := Claims.GraphicsRows ∧ Claims.BlendRow ∧ Claims.RouteRow

/-! ### The system class (R219 to R230) -/

/-- R220 to R223, R327: TRAP writes a record with its value; FREC takes the oldest record of a ring that it may handle, or zeros;
a RETRY that finds no held request answers 0, resume lets a held engine request go on, and with it the request that failed
behind it, and skip resolves a held access of another element as null. -/
def Claims.RecordRows : Prop :=
  ∀ (s : State) (f : SysSNode), s.cur.ordinary f.pred →
    let c := s.cur
    let n := (orNull c.a).word.toNat % 65536
    let ctx := if n = 65535 then c.ctx else n
    let w0 := (orNull c.a).word
    let w8 := (orNull c.b).word
    (∀ x, s.ctx? c.ctx = some x → x.ring.length < 64 → Answers (.trap f) s fun t => (∀ k, (t.elem k).outs = (s.elem k).outs) ∧
      ∃ rec, (t.ctx? c.ctx).map (·.ring) = some (x.ring ++ [rec]) ∧ rec.cause = 0x12 ∧ rec.vala = (orNull c.a).word ∧
        rec.detail = f.lit.toNat % 65536 ∧ rec.onode = c.node ∧ rec.tag = c.tag) ∧
    (∀ x, s.mayHandle c ctx = true → s.ctx? ctx = some x →
      (x.ring = [] → Passes (.frec f) s f.toHdr 8 (.vector 0)) ∧
      (∀ r rest, x.ring = r :: rest → Answers (.frec f) s fun t => Emits s t f.toHdr 8 (.vector r.bits) ∧
        (t.ctx? ctx).map (·.ring) = some rest)) ∧
    (s.mayHandle c ctx = false → (f.d0.val || f.d1.val) = true →
      Passes (.frec f) s f.toHdr 8 (.poison (c.origin (s.vdOfCtx c.ctx) 0x0A))) ∧
    (s.mayHandle c (natBits w0.toNat 31 16) = true →
      (s.heldPort w0 w8 = none → Passes (.retryResume f) s f.toHdr 1 (.bit false) ∧ Passes (.retrySkip f) s f.toHdr 1 (.bit false)) ∧
      (∀ id o, s.heldPort w0 w8 = some (id, o) → o.isMemory = false → (s.elem o.f.sid).portQueue = [] →
        Answers (.retryResume f) s fun t => Emits s t f.toHdr 1 (.bit true) ∧ (t.elem o.f.sid).portHold = none ∧
          (t.op? id).map (·.phase) = some .ordered ∧ t.due s.now (.storeResolve id)) ∧
      (∀ id o k x, s.heldPort w0 w8 = some (id, o) → o.isMemory = false → (s.elem o.f.sid).portQueue = [k] → k ≠ id →
        s.op? k = some x → x.isMemory = false → Answers (.retryResume f) s fun t => (t.elem o.f.sid).portQueue = [] ∧
          (t.op? k).map (·.phase) = some .ordered ∧ t.due s.now (.storeResolve k)) ∧
      (∀ id o, s.heldPort w0 w8 = some (id, o) → o.f.sid ≠ c.sid → (s.elem o.f.sid).portQueue = [] →
        Answers (.retrySkip f) s fun t => Emits s t f.toHdr 1 (.bit true) ∧ (t.elem o.f.sid).portHold = none ∧
          (t.op? id).map (·.null) = some true ∧ t.due s.now (.storeResolve id)))

/-- R102, R221, R222, R224, R226: POIS.make sends poison of its cause, POIS.test looks for poison on a; RDSR, WRSR and CNTR
read and write the special registers and counters; BKPT passes a, or with debug records and waits. -/
def Claims.RegisterRows : Prop :=
  ∀ (s : State) (f : SysSNode) (x : Ctx), s.cur.ordinary f.pred → s.ctx? s.cur.ctx = some x →
    let c := s.cur
    let h := f.toHdr
    let a := h.ty.pass (orNull c.a)
    let n := f.sreg.toNat
    let v := (litOr f.l f.lit c.b).toNat
    let word := fun (k : Nat) => Val.scalar (BitVec.ofNat 64 k)
    let die := dieOf c.sid
    let bad := fun (i : Instr) => (f.d0.val || f.d1.val) = true → Passes i s h 1 (.poison (c.origin x.vd 1))
    ((f.d0.val || f.d1.val) = true → Passes (.poisMake f) s h 1 (.poison (c.origin x.vd (f.lit.toNat % 256)))) ∧
    Answers (.poisTest f) s (fun t => Sends s t c h 1 c.tag (.bit false) a) ∧
    (∀ m k, (m, k) ∈ [(0x000, x.fpcm), (0x001, x.fpstat), (0x002, x.lease.getD die 0), (0x010, c.ctx), (0x011, x.vd),
        (0x012, die), (0x013, c.rgn), (0x014, c.tag.toNat), (0x021, (s.thermal die).allow), (0x030, x.siding.base.toNat),
        (0x031, x.siding.size), (0x032, x.siding.use), (0x040, x.pool.length), (0x041, x.fcount)] →
      n = m → Passes (.rdsr f) s h 1 (word k) ∧
        Answers (.wrsr f) s (fun t => Emits s t h 1 a ∧ ∃ y, t.ctx? c.ctx = some y ∧ y.fpcm = x.fpcm ∧
          (if m = 2 then y.lease = x.lease.map fun _ => if v % 1024 = 0 then 1 else v % 1024 else y.lease = x.lease) ∧
          ∀ j, y.fpstat.testBit j = (x.fpstat.testBit j && !(decide (m = 1 ∧ j < 16) && v.testBit j)))) ∧
    (n = 0x020 → s.replaying c.ctx = false → Passes (.rdsr f) s h 1 (.scalar s.ticks)) ∧
    (n ∉ [0, 1, 2, 0x10, 0x11, 0x12, 0x13, 0x14, 0x20, 0x21, 0x30, 0x31, 0x32, 0x40, 0x41] → bad (.rdsr f) ∧ bad (.wrsr f)) ∧
    ((n ≤ 9 ∨ 0x10 ≤ n ∧ n ≤ 0x61) → Passes (.cntr f) s h 1 (word (s.counter die x.vd n))) ∧
    ((n = 0x100 ∨ n = 0x101) → Passes (.cntr f) s h 1 (word (if x.priv < 2 then 0 else s.counter die 0 n))) ∧
    (n = 0x102 → ∃ k, Passes (.cntr f) s h 1 (word k)) ∧
    ((9 < n ∧ n < 0x10 ∨ 0x61 < n ∧ n < 0x100 ∨ 0x102 < n) → bad (.cntr f)) ∧
    (s.debugOn c.ctx = false → Passes (.bkpt f) s h 1 a) ∧
    (s.debugOn c.ctx = true → x.ring.length < 64 → Answers (.bkpt f) s fun t => (t.elem c.sid).outs = (s.elem c.sid).outs ∧
      (∃ p ∈ (t.elem c.sid).parked, p.i = .bkpt f ∧ p.f = c) ∧
      ∃ rec ∈ ((t.ctx? c.ctx).map (·.ring)).getD [], rec.cause = 0x11 ∧ rec.vala = (orNull c.a).word ∧ rec.detail = f.lit.toNat % 65536)

/-- R222: POIS.test consumes a poison on a, whatever its predicate says: it sends 1 and the origin. -/
def Claims.PoisonTestConsumes : Prop :=
  ∀ (s : State) (f : SysSNode) (o : W64), s.cur.a = some (.poison o) → (∀ q, s.cur.p ≠ some (.poison q)) →
    Answers (.poisTest f) s fun t => Sends s t s.cur f.toHdr 1 s.cur.tag (.bit true) (.scalar o)

/-- R220 to R226: TRAP, FREC, RETRY, POIS, RDSR, WRSR, CNTR and BKPT. -/
def Obligations.SystemNodes : Prop := Claims.RecordRows ∧ Claims.RegisterRows ∧ Claims.PoisonTestConsumes

/-- R225, R230, R251: TIME.now sends TICKS; TIME.until and TIME.after send a once their cycle is reached and wait, parked, till
then; one whose parked entry has spilled goes on when the Siding has brought that entry back; DONE, once the memory firings before it have performed, completes the launch if it is the first, and answers whether it was. -/
def Claims.TimeAndDone : Prop :=
  ∀ (s : State) (f : SysSNode), s.cur.ordinary f.pred →
    let c := s.cur
    let a := f.ty.pass (orNull c.a)
    let b := (litOr f.l f.lit c.b).toNat
    let here := ∀ p, s.parkedSelf c = some p → s.parkPlace p ≠ .flying ∧ ∀ k, s.parkPlace p ≠ .slot k
    let waits := fun (i : Instr) (due : Nat) => Answers i s fun t => (t.elem c.sid).outs = (s.elem c.sid).outs ∧
      (due, Task.refire i c) ∈ t.agenda ∧ ∃ p ∈ (t.elem c.sid).parked, p.i = i ∧ p.f = c ∧ p.since = s.now
    (s.replaying c.ctx = false → Passes (.timeNow f) s f.toHdr 1 (.scalar s.ticks)) ∧
    (b ≤ s.now → here → Passes (.timeUntil f) s f.toHdr 1 a) ∧
    (∀ p k, b ≤ s.now → s.parkedSelf c = some p → s.parkPlace p = .slot k → Answers (.timeUntil f) s fun t =>
      (t.elem c.sid).outs = (s.elem c.sid).outs ∧ ∃ q ∈ (t.elem c.sid).parked, q.isFiring c = true ∧ q.released = true) ∧
    (s.now < b → s.parkedSelf c = none → waits (.timeUntil f) b) ∧
    (∀ p, s.parkedSelf c = some p → p.since + max b 1 ≤ s.now → here → Passes (.timeAfter f) s f.toHdr 1 a) ∧
    (s.parkedSelf c = none → waits (.timeAfter f) (s.now + max b 1)) ∧
    (∀ x, s.ctx? c.ctx = some x → s.drained c = true →
      let way := if x.homeDie = dieOf c.sid then 6 else 15
      (x.exit = none → Answers (.done f) s fun t => Emits s t f.toHdr (2 * way) (.bit true) ∧
        (t.ctx? c.ctx).map (·.exit) = some (some ((orNull c.a).word.toNat % 2 ^ 32)) ∧ t.due (s.now + (2 * way + 2)) (.launchExit x.launch)) ∧
      (∀ k, x.exit = some k → Answers (.done f) s fun t => Emits s t f.toHdr (2 * way) (.bit false) ∧
        (t.ctx? c.ctx).map (·.exit) = some (some k)))

/-- R202, R219, R227 to R229: a system M node of the right privilege with an aligned stamp address makes its request; a lower
privilege faults PROT, a misaligned stamp ALIGN. -/
def Claims.JobRows : Prop :=
  ∀ (s : State) (f : SysMNode) (x : Ctx), s.cur.ordinary f.pred → s.ctx? s.cur.ctx = some x →
    let c := s.cur
    let asks := fun (i : Instr) => Answers i s fun t => t.bytes = s.bytes ∧ t.fab = s.fab ∧ ∃ o, t.op? s.serial = some o ∧
      o.i = i ∧ o.f = c ∧ o.null = false ∧ t.due s.now (.storeResolve s.serial)
    let faults := fun (i : Instr) (cause : Nat) => x.ring.length < 64 → Answers i s fun t =>
      Sends s t c f.toHdr 1 c.tag (.null i.sig.r0) (.null i.sig.r1) ∧
      ∃ rec ∈ ((t.ctx? c.ctx).map (·.ring)).getD [], rec.cause = cause ∧ rec.onode = c.node ∧ rec.tag = c.tag
    let area := [Instr.snap f, .ctxsv f, .ctxld f]
    let control := [Instr.vdctlStop f, .vdctlResume f, .vdctlReset f, .vdctlTrackon f, .vdctlTrackoff f]
    (∀ i ∈ area, (1 ≤ x.priv → c.argC % 8 = 0 → asks i) ∧ (x.priv < 1 → faults i 0x0A) ∧
      (1 ≤ x.priv → c.argC % 8 ≠ 0 → faults i 0x0B)) ∧
    (∀ i ∈ control, (2 ≤ x.priv → c.argB % 8 = 0 → asks i) ∧ (x.priv < 2 → faults i 0x0A) ∧
      (2 ≤ x.priv → c.argB % 8 ≠ 0 → faults i 0x0B)) ∧
    (2 ≤ x.priv → asks (.dirty f)) ∧ (x.priv < 2 → faults (.dirty f) 0x0A)

/-- R219 to R230: TIME and DONE complete or wait; the system M rows make their requests by privilege. -/
def Obligations.TimeDoneAndJobs : Prop := Claims.TimeAndDone ∧ Claims.JobRows

/-! ### Switch boxes and matching (R25 to R45, R246 to R253) -/

/-- R37 to R40, R371: an output of a switch box that is free, with a ready receiver, passes the first token in round-robin order
whose VD holds a credit, and spends it: into the element's input buffer, or into the facing buffer of the next box. -/
def Claims.TokenHops : Prop :=
  ∀ (s : State) (sid : Nat) (net : Net) (out i : Dir) (t : Token),
    let port := portArbiter (boxKey sid net) out
    let vd := s.vdOfDomain (tagDomain t.tag)
    ((s.rrInputs sid net out).filterMap fun j => (s.offer sid net out j).map fun u => (j, u)).find?
      (fun x => s.hasCredit port (s.vdOfDomain (tagDomain x.2.tag))) = some (i, t) →
    (s.elem sid).stopped = false → (∀ p ∈ (s.box (boxKey sid net)).passed, p.1 = out → p.2 + 1 < s.now) →
    s.receiverReady sid net out = true →
    (out = .loc → Answers (.tokenHop sid net out) s fun u => (u.elem sid).input net = some t ∧
      (u.credit port vd).left = (s.credit port vd).left - 1 ∧ (out, i) ∈ (u.box (boxKey sid net)).last ∧
      ∃ n, u.due n (.tokenArrive sid)) ∧
    (∀ n, out ≠ .loc → neighbour sid out = some n → Answers (.tokenHop sid net out) s fun u =>
      (u.box (boxKey n net)).bufs = (s.box (boxKey n net)).bufs ++ [(dirBack out, t)] ∧
      (u.credit port vd).left = (s.credit port vd).left - 1 ∧ (out, i) ∈ (u.box (boxKey sid net)).last ∧
      u.due (s.now + 1) (.tokenHop n net (t.routeAt n)))

/-- R24, R27 to R30, R32, R35: an admitted token of a node with one operand, or the last one of its group, makes a ready entry;
the first of a group takes a free way; a lookup in a set that another lookup has taken in this cycle repeats in the next; a token
on a port that is present is a DUPTAG: the capture keeps both values and poison goes out, or, at a node without a valid
destination, the record of both values goes to the ring at once. -/
def Claims.TokensMatch : Prop :=
  let hasDest := fun (w : Rec) => ((RawNode.unpack w).hdr .always).d0.val || ((RawNode.unpack w).hdr .always).d1.val
  ∀ (s : State) (sid : Nat) (t : Token) (i : Instr) (ctx rgn slot : Nat) (sl : NodeSlot), Presents s sid t i →
    Admits s sid t ctx rgn slot sl →
    let e := s.elem sid
    let key := setKeyAt sid t.frm t.node t.tag
    let set := s.set? key
    let found := set.find (elemIndex sid) t.frm t.node t.tag
    (sl.needs.length ≤ 1 → e.ready.length < Config.readyDepth → Answers i s fun u =>
      ∃ x, (u.elem sid).ready = e.ready ++ [x] ∧ x.isOf slot t (fun _ => none) ∧ (∃ n, (n, Task.issue sid) ∈ u.agenda)) ∧
    (2 ≤ sl.needs.length → set.looked = s.now + 1 → Answers i s fun u => (u.elem sid).held = some (t, .setBusy) ∧
      u.due (s.now + 1) (.matchRetry sid)) ∧
    (2 ≤ sl.needs.length → set.looked ≠ s.now + 1 → ∀ k m, found = some (k, m) → m.poisoned = false →
      (m.port t.port = none → (∀ q ∈ sl.needs, q = t.port ∨ q ∈ m.present) → e.ready.length < Config.readyDepth →
        Answers i s fun u => (∃ x, (u.elem sid).ready = e.ready ++ [x] ∧ x.isOf slot t m.operand) ∧
          (set.spills = 0 → k < set.ways.length → (u.set? key).ways[k]? = some .free)) ∧
      (∀ h, m.port t.port = some h → e.capture = none → k < set.ways.length → Answers i s fun u =>
        (hasDest sl.word = true →
          ∃ r, (u.elem sid).capture = some r ∧ r.cause = 0x04 ∧ r.vala = h.val.word ∧ r.valb = t.val.word ∧ r.tag = t.tag) ∧
        (hasDest sl.word = false → sid < 6144 → t.frm < 4 → t.node < 128 → ∀ c, s.ctx? sl.ctx = some c → c.ring.length < 64 →
          ∃ r ∈ ((u.ctx? sl.ctx).map (·.ring)).getD [], r.cause = 0x04 ∧ r.vala = h.val.word ∧ r.valb = t.val.word ∧ r.tag = t.tag ∧
            r.via = true) ∧
        ((u.elem sid).outs = e.outs ++ (slotFiring sid slot sl t.tag).results ((RawNode.unpack sl.word).hdr .always) (s.now + 0) t.tag
          (.poison ((slotFiring sid slot sl t.tag).origin (s.vdOfCtx sl.ctx) 4))
          (.poison ((slotFiring sid slot sl t.tag).origin (s.vdOfCtx sl.ctx) 4))) ∧
        ((∃ q ∈ sl.needs, q ∉ m.present) → (u.set? key).ways[k]? = some (.held m.poison)))) ∧
    (2 ≤ sl.needs.length → set.looked ≠ s.now + 1 → found = none → set.spills = 0 → ∀ k h, s.fits sid t.port t.val = some h → set.freeWay (s.quota sl.ctx) = some k →
      Answers i s fun u => (u.elem sid).held = none ∧ (u.elem sid).ready = e.ready ∧
        (u.set? key).find (elemIndex sid) t.frm t.node t.tag = some (k, freshEntry sid t h s.now))

/-- R247 to R253: a spilled entry goes into its bucket and to the tail of its set; a lookup finds it there and, when it
completes, makes a ready entry; a way that is reserved is refilled by the entry that its element has asked for, or else by the
oldest that is not parked; an error in an
entry frees it, with a record when its key is lost and poison from its node otherwise. -/
def Claims.SidingAccesses : Prop :=
  (∀ (s : State) (sp : Nat) (p : Spill) (c : Ctx) (r : Region) (rk k : Nat) (d : Siding), s.fab.spills.get? sp = some p →
    s.ctx? p.ctx = some c → s.regionAt (siteOfSet p.set p.m.e) = some (rk, r) →
    let sid := siteOfSet p.set p.m.e
    let set := s.set? p.set
    c.siding.insert ⟨p.m, r.rgn, xOf sid - r.x0, yOf sid - r.y0, set.tail, noSlot, false, false, dieOf sid, clusterOf sid % 384, p.set % 64⟩ =
      some (k, d) →
    Answers (.sidingInsert sp) s fun u => (u.ctx? p.ctx).map (·.siding.use) = some (c.siding.use + 1) ∧
      ((u.ctx? p.ctx).bind fun x => (x.siding.entries.get? k).map (·.m)) = some p.m ∧
      (u.set? p.set).tail = k ∧ (u.set? p.set).flying = set.flying - 1 ∧
      (u.set? p.set).head = (if set.head = noSlot then k else set.head)) ∧
  (∀ (s : State) (sid : Nat) (t : Token) (ctx rgn slot : Nat) (sl : NodeSlot) (c : Ctx) (r : Region) (rk k : Nat) (n : SidEntry),
    Admits s sid t ctx rgn slot sl → (s.elem sid).held = some (t, .sidingLookup) → (s.elem sid).stopped = false →
    s.ctx? ctx = some c → s.regionAt sid = some (rk, r) →
    let key := setKeyAt sid t.frm t.node t.tag
    let set := s.set? key
    set.find (elemIndex sid) t.frm t.node t.tag = none → set.spills ≠ 0 → set.flying = 0 →
    s.sidingFind ctx rgn (xOf sid - r.x0) (yOf sid - r.y0) t.frm t.node t.tag = some (k, n) → c.siding.entries.get? k = some n →
    n.refill = false → n.m.poisoned = false → n.m.port t.port = none → (∀ q ∈ sl.needs, q = t.port ∨ q ∈ n.m.present) →
    (s.elem sid).ready.length < Config.readyDepth →
    Answers (.sidingLookup sid) s fun u => (∃ x, (u.elem sid).ready = (s.elem sid).ready ++ [x] ∧ x.isOf slot t n.m.operand) ∧
      (u.set? key).spills = set.spills - 1 ∧ (u.ctx? ctx).map (·.siding.use) = some (c.siding.use - 1)) ∧
  (∀ (s : State) (set way : Nat) (c : Ctx) (k : Nat) (n : SidEntry),
    let t := s.set? set
    let ctx := s.ctxOfSet set
    let chain := c.siding.chain t.head (t.spills + 1)
    s.ctx? ctx = some c → t.ways.findIdx? (fun w => w == .reserved) = some way →
    (chain.find? (fun x => x.2.refill) = none →
      (match chain.find? fun x => x.2.wanted with | some x => some x | none => chain.find? fun x => !x.2.m.parked) = some (k, n) →
      Answers (.sidingRefill set) s fun u => u.due (s.now + s.sidingCycles ctx (set / 64 / 384) k) (.sidingRefill set) ∧
        ((u.ctx? ctx).bind fun x => (x.siding.entries.get? k).map (·.refill)) = some true) ∧
    (∀ m, chain.find? (fun x => x.2.refill) = some (k, n) → n.m.place (s.usedWords (siteOfSet set n.m.e)) = some m →
      m.parked = false → Answers (.sidingRefill set) s fun u => (u.set? set).ways[way]? = some (.held m) ∧
        (u.set? set).spills = t.spills - 1)) ∧
  (∀ (s : State) (ctx slot : Nat) (keyBad lost : Bool) (c : Ctx) (n : SidEntry), s.ctx? ctx = some c →
    c.siding.entries.get? slot = some n → Answers (.sidingEntryError ctx slot keyBad lost) s fun u =>
      (u.ctx? ctx).map (·.siding.use) = some (c.siding.use - 1) ∧
      (keyBad = true → c.ring.length < 64 → ∃ rec ∈ ((u.ctx? ctx).map (·.ring)).getD [],
        rec.cause = (if lost then 0x0D else 0x0C) ∧ rec.addr = c.siding.base + BitVec.ofNat 64 (256 * slot)))

/-- R25 to R45, R241 to R250: tokens hop box by box, are admitted and matched, and spill to the Siding and return. -/
def Obligations.TokensMoveAndMatch : Prop := Claims.TokenHops ∧ Claims.TokensMatch ∧ Claims.SidingAccesses

/-- R29, R45, R252: an uncorrectable error poisons a matching entry; a stop reaches an element; a context whose full counter has
run out is frozen, and a stop wave goes out over its regions, one cycle per site of distance. -/
def Obligations.ErrorsAndStops : Prop :=
  (∀ (s : State) (set way : Nat) (m : MatchEntry) (slot : Nat) (sl : NodeSlot), (s.set? set).ways[way]? = some (.held m) →
    (s.elem (siteOfSet set m.e)).slotOf m.frm m.node = some (slot, sl) → m.poisoned = false →
    let sid := siteOfSet set m.e
    let f := slotFiring sid slot sl m.tag
    let o := f.origin (s.vdOfCtx sl.ctx) 0x0C
    Answers (.matchEccError set way false) s fun u => (u.set? set).ways[way]? = some (.held m.poison) ∧
      (u.elem sid).outs = (s.elem sid).outs ++ f.results ((RawNode.unpack sl.word).hdr .always) (s.now + 0) m.tag (.poison o) (.poison o)) ∧
  (∀ (s : State) (sid k : Nat) (r : Region), s.regionAt sid = some (k, r) → r.stopped = true →
    Answers (.stopWave sid) s fun u => (u.elem sid).stopped = true ∧ ∀ x, x ≠ sid → u.elem x = s.elem x) ∧
  (∀ (s : State) (ctx t : Nat) (c : Ctx), s.ctx? ctx = some c → c.siding.fullSince = some t →
    (c.state = .running ∨ c.state = .stopped) → Config.fullLimit ≤ c.siding.waiting + (s.now - t) →
    Answers (.sidefull ctx) s fun u => (u.ctx? ctx).map (·.state) = some .freezing ∧
      ∀ r ∈ s.regionsOf ctx, ∀ sid ∈ r.sites, u.due (s.now + (1 + (xOf sid - r.x0) + (yOf sid - r.y0))) (.stopWave sid))

/-! ### Blocks, activations and queues (R231 to R242, R311 to R316) -/

/-- R86, R236, R238: a start request whose block is in a frame starts an instance there, its source nodes become ready, and it
leaves; a miss takes a frame and fetches the block from the image. A block that arrives sound fills its frame, one that does
not leaves a record of the fault. -/
def Obligations.BlockStarts : Prop :=
  ∀ (s : State) (ctx rgn : Nat) (c : Ctx) (r : Region), s.ctx? ctx = some c → s.region? ctx rgn = some r → r.stopped = false →
    (∀ q a, r.starts = [q] → q.due ≤ s.now → s.act? ctx q.dom = some a →
      (∀ k f b, r.frameOf q.block = some k → r.frames[k]? = some f → f.filling = none → f.block = some b →
        (∀ i ∈ f.insts, i.dom ≠ q.dom) →
        Answers (.blockStart ctx rgn) s fun t => (t.region? ctx rgn).map (·.starts) = some [] ∧
          (t.act? ctx q.dom).map (·.seq) = some (a.seq + 1) ∧
          (∃ i, ((t.region? ctx rgn).bind fun x => (x.frames[k]?).map (·.insts)) = some (f.insts ++ [i]) ∧
            i.dom = q.dom ∧ i.seq = a.seq ∧ i.start = s.serial ∧ i.fired = [] ∧ i.writes = [] ∧ i.branch = .none) ∧
          ∀ n w i slot sl, b.nodes[n]? = some w → laxRow w = some i → i.isSource = true →
            (s.elem (r.siteOf b n)).slotOf k n = some (slot, sl) →
            ∃ x ∈ (t.elem (r.siteOf b n)).ready, x.slot = slot ∧ x.tag = instTag q.dom) ∧
      (∀ k, r.frameOf q.block = none → r.victim = some k → k < r.frames.length → c.image.holds q.block = true →
        Answers (.blockStart ctx rgn) s fun t => t.due (s.now + s.fillCycles r.die c.vd q.block) (.frameFilled ctx rgn k) ∧
          ((t.region? ctx rgn).bind fun x => (x.frames[k]?).map fun f => (f.block, f.filling)) = some (none, some q.block))) ∧
    (∀ frm addr f, r.frames[frm]? = some f → f.filling = some addr →
      (∀ b, s.fetchBlock c r addr = .ok b → Answers (.frameFilled ctx rgn frm) s fun t =>
        ((t.region? ctx rgn).bind fun x => (x.frames[frm]?).map fun f => (f.block, f.filling)) = some (some b, none) ∧
          t.due (s.now + 1) (.blockStart ctx rgn)) ∧
      (∀ q g cause detail vala, s.fetchBlock c r addr = .error (cause, detail, vala) → r.starts = [q] → q.block = addr →
        q.origin = some g → g.ctx = ctx → c.ring.length < 64 → Answers (.frameFilled ctx rgn frm) s fun t =>
          (t.region? ctx rgn).map (·.starts) = some [] ∧
          ∃ rec ∈ ((t.ctx? ctx).map (·.ring)).getD [], rec.cause = cause ∧ rec.detail = detail ∧ rec.onode = g.node ∧
            rec.addr = BitVec.ofNat 64 addr))

/-- R114, R115, R239 to R241, R254: an instance that is ready to commit applies its WRITEs and leaves its frame; without a
successor its activation ends. A READ sends the register's value once no earlier WRITE is pending. -/
def Obligations.CommitsAndReads : Prop :=
  (∀ (s : State) (ctx rgn frm dom : Nat) (c : Ctx) (r : Region) (i : Inst) (f : Frame) (b : Block), s.ctx? ctx = some c →
    s.region? ctx rgn = some r → s.inst? ctx rgn frm dom = some i → r.frames[frm]? = some f → f.block = some b → r.stopped = false →
    s.commitReady ctx rgn frm dom r b i = true →
    Answers (.instanceCommit ctx rgn frm dom) s fun t => t.inst? ctx rgn frm dom = none ∧ t.due s.now (.blockStart ctx rgn) ∧
      (∀ w, i.writes = [w] → w.val.isNull = false → (t.ctx? ctx).map (fun x => if w.vec then (x.vglobals.getD (w.reg % 32) 0)
        else (x.globals.getD w.reg 0).setWidth 512) = some (if w.vec then w.val.wide else w.val.word.setWidth 512)) ∧
      (i.writes = [] → (t.ctx? ctx).map (fun x => (x.globals, x.vglobals)) = some (c.globals, c.vglobals)) ∧
      ((i.branch = .none ∨ i.branch = .taken none) → t.due s.now (.domainFree ctx dom))) ∧
  (∀ (s : State) (rq : Nat) (q : GlobalRead) (c : Ctx), s.run.reads.get? rq = some q → s.ctx? q.f.ctx = some c →
    (s.writePending q.f q.reg q.vec = false → Answers (.globalReadServe rq) s fun t =>
      let v : Val := if q.vec then .vector (c.vglobals.getD (q.reg % 32) 0)
        else if q.h.ty = .pr then .bit ((c.globals.getD q.reg 0).toNat % 2 == 1)
        else .scalar (BitVec.ofNat 64 ((c.globals.getD q.reg 0).toNat % 2 ^ q.h.ty.width))
      Sends s t q.f q.h (if dieOf q.f.sid = c.homeDie then 4 else 30) q.f.tag v v) ∧
    (s.writePending q.f q.reg q.vec = true → Answers (.globalReadServe rq) s fun t =>
      t.due (s.now + 1) (.globalReadServe rq) ∧ t.fab = s.fab ∧ t.run = s.run))

/-- R231, R313 to R315, R328: a reservation takes the next slot of the instance, or waits in turn when none is free; a granted
device append writes its slot, a granted ROUTE fires; a complete delivery takes the lowest free domain, empties the slots and
starts an activation; a freed domain lets the delivery that waited longest look again. -/
def Obligations.QueuesAndDeliveries : Prop :=
  (∀ (s : State) (rs : Nat) (r : Reservation) (i : QInst), s.resv? rs = some r → r.slot = none →
    s.qinst r.ctx r.queue r.rgn = some i → (∀ g x, r.rgn = some g → s.region? r.ctx g = some x → x.state = .available) →
    (i.waiting = [] → 0 < i.room → Answers (.queueReserve rs) s fun t =>
      (t.qinst r.ctx r.queue r.rgn).map (fun x => (x.resv, x.slot (i.resv % i.depth))) = some ((i.resv + 1) % 2 ^ 32, .reserved) ∧
        (t.resv? rs).map (·.slot) = some (some (i.resv % i.depth)) ∧
        t.due (s.now + s.queueWay (s.resvDie r) r.ctx r.rgn) (.reservationGrant rs)) ∧
    (r.f.isSome = true → rs ∉ i.waiting → (i.waiting ≠ [] ∨ i.room = 0) → Answers (.queueReserve rs) s fun t =>
      (t.qinst r.ctx r.queue r.rgn).map (·.waiting) = some (i.waiting ++ [rs]))) ∧
  (∀ (s : State) (rs k : Nat) (r : Reservation) (i : QInst), s.resv? rs = some r → r.slot = some k →
    (∀ f p, r.f = some f → (s.elem f.sid).parked.filter (fun q => q.f.fid == f.fid && q.why == .reservation) = [p] →
      p.released = false → s.parkPlace p ≠ .flying → (∀ n, s.parkPlace p ≠ .slot n) → Answers (.reservationGrant rs) s fun t => (s.now, Task.refire p.i p.f) ∈ t.agenda) ∧
    (r.f = none → s.qinst r.ctx r.queue r.rgn = some i → Answers (.reservationGrant rs) s fun t =>
      (t.qinst r.ctx r.queue r.rgn).map (·.slot k) = some (.written r.val) ∧
        (∀ g, r.rgn = some g → t.due s.now (.delivery r.ctx g)))) ∧
  (∀ (s : State) (rs : Nat) (r : Reservation) (rgn : Option Nat), s.resv? rs = some r → s.ownerOf r.ctx r.queue r.key = some rgn →
    Answers (.deviceQueueAppend rs) s fun t => (t.resv? rs).map (·.rgn) = some rgn ∧
      t.due (s.now + s.queueWay (s.resvDie r) r.ctx rgn) (.queueReserve rs)) ∧
  (∀ (s : State) (ctx rgn dom : Nat) (c : Ctx) (r : Region), s.ctx? ctx = some c → s.region? ctx rgn = some r → r.stopped = false →
    c.state = .running → s.replaying ctx = false → r.state = .available → c.waitingDom = [] → c.freeDomain = some dom →
    let inputs := c.image.inputs r.actor
    inputs ≠ [] → (∀ q ∈ inputs, ∃ i, r.queues.find? (fun i => i.queue == q) = some i ∧ i.ready (c.image.queue q).consume = true) →
    Answers (.delivery ctx rgn) s fun t => t.act? ctx dom = some ⟨r.actor, rgn, [], 0⟩ ∧
      (∃ x, (t.region? ctx rgn).map (·.starts) = some (r.starts ++ [x]) ∧ x.dom = dom ∧ x.origin = none ∧
        x.block = c.image.blocksVA + (c.image.actor r.actor).first ∧ x.inject.length = inputs.length) ∧
      (∀ q ∈ inputs, ∀ i, s.qinst ctx q (some rgn) = some i →
        (t.qinst ctx q (some rgn)).map (·.head) = some ((i.head + (c.image.queue q).consume) % 2 ^ 32)) ∧
      t.due s.now (.blockStart ctx rgn)) ∧
  (∀ (s : State) (ctx dom g w : Nat) (c : Ctx) (rest : List (Nat × Nat)), s.ctx? ctx = some c → s.act? ctx dom = none →
    c.waitingDom = (g, w) :: rest → Answers (.domainFree ctx dom) s fun t => t.due s.now (.delivery ctx g))

/-! ### The copy engine (R299 to R308) -/

/-- R299 to R301: a descriptor that is enabled and valid is put in service; the slot at its head becomes a job when VALID is 1,
is left alone at 0 and passed over at 2, and a queue whose turn has not come gives way; a free channel goes to the oldest job
that waits. -/
def Claims.CopyQueues : Prop :=
  (∀ (s : State) (vd q : Nat) (launch : Bool), let a := s.descriptor vd q launch
    s.engError 0 vd a 64 .read = none →
    let d := (s.engBytes 0 vd a 64 0 none).1
    (field d 31 1 % 2 = 0 → Answers (.queueEnable vd q launch) s fun t =>
      t.eng.services = s.eng.services.del (serviceKey vd q launch) ∧ t.agenda = s.agenda) ∧
    (field d 31 1 % 2 = 1 → s.eng.services.get? (serviceKey vd q launch) = none → slotsOk (field d 24 4) = true → field d 0 8 % 64 = 0 →
      Answers (.queueEnable vd q launch) s fun t => t.eng.services.get? (serviceKey vd q launch) =
          some ⟨BitVec.ofNat 64 (field d 0 8), field d 24 4, field d 28 2, field d 30 1, false, false⟩ ∧
        t.due s.now (if launch then .launchTakeUp vd q else .slotTakeUp vd q))) ∧
  (∀ (s : State) (vd q : Nat) (x : Service) (va ridx : Nat) (bs : List Byte), s.eng.services.get? (serviceKey vd q false) = some x →
    s.serves vd x = true → vd < 64 → s.channelsUsed x.die < 16 → s.jobsWaiting x.die = [] →
    s.headSlot vd q false x = .slot va ridx bs →
    (field bs 63 1 = 0 → s.nextQueue x.die = none → exec (.slotTakeUp vd q) s = .next s) ∧
    (∀ v k, s.nextQueue x.die = some (v, k) → (v, k) ≠ (vd, q) → s.isDue (.slotTakeUp v k) = false →
      Answers (.slotTakeUp vd q) s fun t => t.eng = s.eng ∧ t.bytes = s.bytes ∧ t.due s.now (.slotTakeUp v k)) ∧
    (field bs 63 1 = 1 → s.nextQueue x.die = some (vd, q) → Answers (.slotTakeUp vd q) s fun t => t.eng.turn.getD vd 63 = q ∧
      ∃ j n, t.job? s.serial = some j ∧ j.kind = .copy ∧ j.state = .checking ∧ j.packet = bs ∧ j.die = x.die ∧ j.vd = vd ∧ j.ctx = x.ctx ∧
        j.stamp = BitVec.ofNat 64 (field bs 24 8) ∧ j.sval = BitVec.ofNat 64 (field bs 32 8) ∧ t.due n (.jobChecked s.serial)) ∧
    (field bs 63 1 = 2 → s.nextQueue x.die = some (vd, q) → Answers (.slotTakeUp vd q) s fun t => t.eng.turn.getD vd 63 = q ∧ t.eng.jobs = s.eng.jobs ∧
      t.due (s.now + 1) (.channelAssign x.die))) ∧
  (∀ (s : State) (die id : Nat) (j : Job) (rest : List (Nat × Job)), s.channelsUsed die < 16 → s.jobsWaiting die = (id, j) :: rest →
    s.job? id = some j →
    (j.state = .waiting → Answers (.channelAssign die) s fun t => (t.job? id).map (·.state) = some .checking ∧
      t.due (s.now + s.checkCycles j) (.jobChecked id)) ∧
    (j.state ≠ .waiting → Answers (.channelAssign die) s fun t => t.eng = s.eng ∧ t.due s.now (.jobUnblock id)))

/-- R258, R286, R301, R303, R304, R307, R308, R371: a job that passes its checks waits for the jobs before it and then runs, a cycle of
its channel for each credit of its VD at the copy engine and at the arbiters on the way to its lines, in a C slot where it moves vault bytes; a FILL moves 64 bytes in each and performs in its
last; the job ends with its status, and a nonzero one leaves a record. -/
def Claims.CopyJobs : Prop :=
  ∀ (s : State) (id : Nat) (j : Job), s.job? id = some j → j.kind = .copy →
    let state := fun (t : State) => (t.job? id).map (·.state)
    (j.state = .checking → ∀ src dst ext decl, s.checkCopy j = .ok src dst ext decl → Answers (.jobChecked id) s fun t =>
      state t = some .blocked ∧ (t.job? id).map (fun x => (x.src, x.dst, x.extents, x.declared)) = some (src, dst, ext, decl) ∧
        t.due s.now (.jobUnblock id)) ∧
    (j.state = .checking → j.status = 0 → ∀ st a c, s.checkCopy j = .fails st a c → Answers (.jobChecked id) s fun t =>
      state t = some .finishing ∧ (t.job? id).map (·.status) = some st ∧ t.due s.now (.jobStamp id)) ∧
    (j.state = .blocked → s.jobHeld id j = false → Answers (.jobUnblock id) s fun t =>
      state t = some .running ∧ t.due (s.now + s.firstWrite j) (.jobPayloadDone id)) ∧
    (j.state = .blocked → s.jobHeld id j = true → exec (.jobUnblock id) s = .next s) ∧
    (∀ b, j.state = .running → j.src = none → j.dst = some b → field j.packet 0 1 = 4 →
      let credit := fun (t : State) => (t.credit (engineArbiter j.die) j.vd).left
      let cells := ((List.range b.perCycle).map (j.got + ·)).map (· % max 1 b.cells)
      let paid := credit s ≠ 0 ∧ ∀ a ∈ s.spotArbiters j true (b.spots cells), s.hasCredit a.1 j.vd = true
      (b.inVault = true → cSlotWait s.now ≠ 0 → Answers (.jobPayloadDone id) s fun t => t.bytes = s.bytes ∧ t.eng = s.eng ∧
        t.due (s.now + cSlotWait s.now) (.jobPayloadDone id)) ∧
      ((b.inVault = true → cSlotWait s.now = 0) → ¬ paid → Answers (.jobPayloadDone id) s fun t => t.bytes = s.bytes ∧
        t.eng = s.eng ∧ t.due (s.now + 1) (.jobPayloadDone id)) ∧
      ((b.inVault = true → cSlotWait s.now = 0) → j.die < 4 → paid → s.cellsWait j b true cells = false → j.got + b.perCycle < b.cells →
        Answers (.jobPayloadDone id) s fun t => credit t = credit s - 1 ∧ ((t.job? id).map (·.status) = some 0 →
          (t.job? id).map (·.got) = some (j.got + b.perCycle) ∧ state t = some .running ∧ t.due (s.now + 1) (.jobPayloadDone id))) ∧
      ((b.inVault = true → cSlotWait s.now = 0) → j.die < 4 → paid → s.cellsWait j b true cells = false → b.cells ≤ j.got + b.perCycle →
       Answers (.jobPayloadDone id) s fun t => credit t = credit s - 1 ∧ state t = some .finishing ∧ t.due s.now (.jobStamp id) ∧
        (∀ d a, b.cells = 1 → j.got = 0 → b.inside 0 = true → b.dataSpot 0 = .vault d a → j.status = 0 →
          let cell := b.cellOf (field j.packet 48 8 % 2 ^ b.fmt.width)
          s.spotFails j (.vault d a) cell.length true = none → t.bytes.vault = s.bytes.vault.write (vaultByte d a) cell))) ∧
    (j.state = .finishing → s.stampWaits j.die j.vd j.stamp.toNat true j.pts = false →
      (∀ q, j.queue = some q → s.engWaits j.die j.vd (s.descriptor j.vd q false + 32) 8 (.store j.pts) = false) →
      Answers (.jobStamp id) s fun t => t.eng.jobs = s.eng.jobs.del id ∧
      t.due s.now (.channelAssign j.die) ∧ (∀ k x, s.eng.jobs.del id = [(k, x)] → x.vd = j.vd → x.state = .blocked → x.kind = .copy →
        t.due s.now (.jobUnblock k)) ∧
      (j.status ≠ 0 → ∀ c, s.ctx? j.ctx = some c → c.ring.length < 64 → ∃ rec ∈ ((t.ctx? j.ctx).map (·.ring)).getD [],
        rec.cause = (if j.status = 1 then 0x16 else 0x10) ∧ rec.detail = j.status ∧ rec.addr = j.addr))

/-- R305, R371: the running TRANSFORM of an engine queue takes the token at its head, on credits for the lines that it writes. -/
def Claims.TransformTakesTokens : Prop :=
  ∀ (s : State) (id q : Nat) (j : Job) (b : Tensor) (i : QInst), s.eng.jobs = [(id, j)] → j.kind = .copy → j.state = .running →
    j.target = 64 + q → j.dst = some b → (b.inVault = true → cSlotWait s.now = 0) → j.got < j.expected → s.qinst j.ctx q none = some i → i.ready 1 = true → i.depth ≠ 0 →
    (∀ a ∈ s.spotArbiters j true (b.spots ((List.range b.perToken).map (j.got * b.perToken + ·))), s.hasCredit a.1 j.vd = true) →
    Answers (.engineQueueTakeUp id) s fun t => (t.job? id).map (·.got) = some (j.got + 1) ∧
      (t.qinst j.ctx q none).map (·.head) = some ((i.head + 1) % 2 ^ 32) ∧
      (∀ o, i.slot (i.head % i.depth) = .written (.poison o) → j.status = 0 →
        (t.job? id).map (fun x => (x.status, x.vala)) = some (5, o) ∧ t.bytes = s.bytes) ∧
      (∀ v, i.slot (i.head % i.depth) = .written (.null v) → t.bytes = s.bytes ∧ (t.job? id).map (·.status) = some j.status)

/-- R211, R212, R286, R299 to R308: copy queues are taken up in order; jobs check, wait, run and stamp. -/
def Obligations.CopyEngine : Prop := Claims.CopyQueues ∧ Claims.CopyJobs ∧ Claims.TransformTakesTokens

/-! ### Registers as memory (R437) -/

/-- R437: a LD of an 8-byte type from a register page sends the register; a MWAIT whose condition holds sends it too, and
else looks again every 1024 cycles; a ST writes the register. -/
def Obligations.RegisterPages : Prop :=
  ∀ (s : State) (op : Nat) (o : MemOp) (l : Lane), s.op? op = some o → o.lanes = [l] → l.bound = false → l.cc = 3 → l.pa % 8 = 0 →
    l.size = 8 → l.idx = 0 → o.phase = .sent → (∀ d, regServedBy l.reg = some d → d ∉ s.svc.mpDown) →
    let lat := halfWay (dieOf o.f.sid) 0 + (match l.reg with
      | .thermAllow d | .thermCap d | .thermTemp d | .thermHbmt d => if d = 0 then 0 else 40 | _ => 0)
    let v := BitVec.ofNat 64 (s.readReg l.reg)
    (∀ f, o.i = .ld f → f.ty = .n64 → f.v = false → o.isStore = false → Answers (.mmioAccess op) s fun t =>
      t.bytes = s.bytes ∧ Sends s t o.f f.toHdr lat o.f.tag (.scalar v) (.scalar v)) ∧
    (∀ f, o.i = .mwait f → mwaitHolds f v (orNull o.f.b).word = true → Answers (.mmioAccess op) s fun t =>
      Sends s t o.f f.toHdr lat o.f.tag (.scalar v) (.scalar v)) ∧
    (∀ f, o.i = .mwait f → mwaitHolds f v (orNull o.f.b).word = false → Answers (.mmioAccess op) s fun t =>
      t.fab = s.fab ∧ t.due (s.now + 1024) (.mmioAccess op)) ∧
    (∀ f n, o.i = .st f → f.ty = .n64 → o.isStore = true → l.reg = .vdPeerQ n → Answers (.mmioAccess op) s fun t =>
      (t.vd n).peerq = BitVec.ofNat 64 (leNat l.data))

/-! ### Registers, service and debug (R6, R332 to R335, R388, R397 to R429) -/

/-- R6, R245, R332, R398 to R400, R404, R424: a write of a register that its MP serves takes the register's bits, and it reads
back; a read-only register ignores it; while the MP is reset the write waits. -/
def Obligations.RegisterWrites : Prop :=
  ∀ (s : State) (n : Nat) (value : W64),
    let x := value.toNat
    let writes := fun (r : Reg) (P : State → Prop) => Answers (.registerWrite r value) s P
    writes .devPkgId (fun t => t.readReg .devPkgId = x % 65536 ∧ t.ten = s.ten) ∧
    (∀ r ∈ [Reg.vdPeerQ n, .vdPtRoot n, .vdIrqAddr n], writes r fun t => t.readReg r = x ∧ t.svc = s.svc ∧
      ∀ k, k ≠ n → t.vd k = s.vd k) ∧
    writes (.vdIrqData n) (fun t => t.readReg (.vdIrqData n) = x % 2 ^ 24) ∧
    writes (.vdRplBase n) (fun t => t.readReg (.vdRplBase n) = x / 64 * 64) ∧
    writes (.vdMquota n) (fun t => t.readReg (.vdMquota n) = if 1 ≤ x % 8 ∧ x % 8 ≤ 4 then x % 8 else 4) ∧
    writes (.vdPlace n) (fun t => t.readReg (.vdPlace n) = x % 2 ^ 33) ∧
    ((s.vd n).state < 2 → writes (.vdShare0 n) fun t => (t.vd n).shares = (List.range 4).map (fun k => x / 2 ^ (16 * k) % 1024) ++ (s.vd n).shares.drop 4) ∧
    (0 ∉ s.svc.mpDown → writes .dbgSel (fun t => t.readReg .dbgSel = x % 2 ^ 33) ∧ writes .laycmd (fun t => t.bytes = s.bytes) ∧
      writes (.keyown n) (fun t => t.readReg (.keyown n) = x % 128)) ∧
    (∀ r ∈ [Reg.devReady, .devFail, .devDramSz, .devStep, .vdTlbSeq n, .vdRstStat n], exec (.registerWrite r value) s = .next s) ∧
    (∀ r ∈ [Reg.dbgSel, .retreq, .laycmd, .attsel], 0 ∈ s.svc.mpDown → Answers (.registerWrite r value) s fun t =>
      t.svc = { s.svc with mpWrites := s.svc.mpWrites ++ [(0, r, value)] } ∧ t.ten = s.ten)

/-- R409 to R411, R424: the allowance follows the hottest junction and the package's watts, under CAP; the hardware cut follows
110 °C, and HOT a stack's sensor. -/
def Claims.HeatRules : Prop :=
  ∀ (s : State) (d : Nat), d < s.svc.thermal.length →
    let th := s.thermal d
    (∀ tj8 watts, d ∉ s.svc.mpDown → Answers (.thermalUpdate d tj8 watts) s fun t =>
      let b := if 880 ≤ tj8 then 0 else if 800 < tj8 then th.own - 16 else if tj8 < 760 then min (th.own + 16) 255 else th.own
      let a := if 2800 < watts then b - 16 else b
      (t.thermal d).own = a ∧ (t.thermal d).allow = min a th.cap ∧ (t.thermal d).cut = decide (880 ≤ tj8) ∧ (t.thermal d).tj = tj8 % 4096) ∧
    (∀ value : W64, d ∉ s.svc.mpDown → Answers (.thermCap d value) s fun t => (t.thermal d).cap = value.toNat % 256 ∧
      (t.thermal d).allow = min th.own (value.toNat % 256)) ∧
    (∀ tj8, Answers (.thermalCut d tj8) s fun t => (t.thermal d).cut = decide (880 ≤ tj8) ∧ (t.thermal d).allow = th.allow) ∧
    (∀ k temp, k < 2 → Answers (.hbmHot (2 * d + k) temp) s fun t => (t.thermal d).hot.getLsbD k =
        (decide (85 < temp) || (decide (83 < temp) && th.hot.getLsbD k)) ∧
      (if k = 0 then (t.thermal d).t0 else (t.thermal d).t1) = temp % 256 ∧ ∀ j, j ≠ k → (t.thermal d).hot.getLsbD j = th.hot.getLsbD j)

/-- R410: with ALLOW unchanged, exactly ALLOW of any 255 cycles are issue cycles; the first is one when the accumulator and ALLOW
reach 255; under the hardware cut none is (R424). -/
def Claims.IssueCycles : Prop :=
  ∀ (th : Thermal) (t : Nat), th.allow ≤ 255 → th.accAt ≤ t →
    (th.cut = false → ((List.range 255).filter fun k => th.issueCycle (t + k)).length = th.allow) ∧
    (th.cut = false → th.acc < 255 → (th.issueCycle th.accAt = true ↔ 255 ≤ th.acc + th.allow)) ∧
    (th.cut = true → th.issueCycle t = false)

/-- R409 to R411, R424: the thermal allowance follows temperature and power, and gives exactly ALLOW of 255 issue cycles. -/
def Obligations.HeatAndAllowance : Prop := Claims.HeatRules ∧ Claims.IssueCycles

/-- R412 to R417: uncorrectable errors mark what they strike; a scrub with 16 corrected symbols, and a write of RETREQ, retire
the frame: it takes a spare of its stack and is copied line by line; a site is marked in SITERET. -/
def Obligations.ErrorsAndRepair : Prop :=
  ∀ (s : State),
    (∀ pa, paWindow pa = 0 → Answers (.storageError (.homeUnit pa) false) s fun t => t.bytes = s.bytes ∧
      t.mem.poisoned.getD (pa / 64) false = true ∧ t.due s.now (.pageRetire (pa / 65536))) ∧
    (∀ die a, Answers (.storageError (.vaultWord die a) false) s fun t => t.bytes = s.bytes ∧
      t.mem.vaultPoison.getD (2 ^ 28 * die + a / 8) false = true) ∧
    (∀ die a, exec (.storageError (.vaultWord die a) true) s = .next s) ∧
    (∀ sid slot n, (s.elem sid).slots.get? slot = some n → Answers (.storageError (.nodeSlot sid slot) false) s fun t =>
      ((t.elem sid).slots.get? slot).map (·.bad) = some true) ∧
    (∀ die frame corrected, die ∉ s.svc.mpDown → (16 ≤ corrected → Answers (.scrub die frame corrected) s fun t => t.due s.now (.pageRetire frame)) ∧
      (corrected < 16 → exec (.scrub die frame corrected) s = .next s)) ∧
    (∀ value : W64, 0 ∉ s.svc.mpDown → Answers (.retreq value) s fun t => t.readReg .retreq = value.toNat ∧
      t.due s.now (.pageRetire (value.toNat % 2 ^ 36))) ∧
    (∀ frame, let stack := s.homeStack (65536 * frame)
      65536 * (frame + 1) ≤ Config.dramSize → stack / 2 ∉ s.svc.mpDown →
      (stack < s.svc.retstat.length → s.svc.retstat.getD stack 0 ≠ 0 → (∀ p ∈ s.svc.retiring, p.1 ≠ frame) →
        Answers (.pageRetire frame) s fun t => t.readReg (.retstat stack) = s.readReg (.retstat stack) - 1 ∧
          (frame, 0) ∈ t.svc.retiring ∧ t.due (s.now + 1) (.pageRetire frame)) ∧
      (∀ k, s.svc.retiring.find? (fun p => p.1 == frame) = some (frame, k) → k ≠ 512 → s.lockedLine (512 * frame + k) = false →
        Answers (.pageRetire frame) s fun t => t.bytes = s.bytes ∧ (t.mem.remap.get? (512 * frame + k)).isSome = true ∧
          (frame, k + 1) ∈ t.svc.retiring ∧ t.due (s.now + 1) (.pageRetire frame)) ∧
      (s.svc.retiring.find? (fun p => p.1 == frame) = some (frame, 512) → Answers (.pageRetire frame) s fun t =>
        t.svc.retlog = s.svc.retlog ++ [65536 * frame] ∧ ∀ p ∈ t.svc.retiring, p.1 ≠ frame)) ∧
    (∀ die x y, die < 4 → x < 64 → y < 24 → Answers (.siteRetire die x y) s fun t =>
      (t.svc.siteret.getD (24 * die + y) 0).testBit x = true ∧
      ∀ j, j ≠ x → (t.svc.siteret.getD (24 * die + y) 0).testBit j = (s.svc.siteret.getD (24 * die + y) 0).testBit j)

/-- R406 to R408, R422 to R425, R429: power, readiness, the layout journal, the reset of an MP, attestation, and the capture
ring, whose sizes are stated for the LOG values that R425 lists. -/
def Claims.PowerAndReadiness : Prop :=
  ∀ (s : State),
    Answers .packageReset s (fun t => t.power = true ∧ t.now = 0 ∧ t.bytes = ⟨[], [], []⟩ ∧ t.fab = State.reset.fab ∧
      t.run = State.reset.run ∧ t.mem = State.reset.mem ∧ t.eng = State.reset.eng ∧ t.ten = State.reset.ten ∧ t.svc = State.reset.svc ∧
      t.agenda = State.reset.agenda) ∧
    Answers .packagePowerOff s (fun t => t.power = false ∧ t.bytes = ⟨[], [], []⟩ ∧ t.agenda = [] ∧ t.ten = State.reset.ten ∧
      t.svc = State.reset.svc) ∧
    (∀ bit, bit < 56 → s.svc.fail.getLsbD bit = false → Answers (.functionReady bit false) s fun t =>
      (∀ k, s.svc.ready.getLsbD k = true → t.svc.ready.getLsbD k = true) ∧
      ((∀ k ∈ readyNeeds bit, s.svc.ready.getLsbD k = true) → t.svc.ready.getLsbD bit = true)) ∧
    (∀ bit, bit < 56 → s.svc.ready.getLsbD bit = false → Answers (.functionReady bit true) s fun t => t.svc.fail.getLsbD bit = true) ∧
    (0 ∉ s.svc.mpDown → Answers .attestRequest s fun t => (t.readReg .attstat).testBit 0 = true) ∧
    (∀ die, die < 4 → die ∉ s.svc.mpDown → Answers (.mpWatchdogReset die) s fun t => die ∈ t.svc.mpDown ∧
      t.due (s.now + Config.mpRestart) (.mpWatchdogReset die)) ∧
    (∀ die, die < 4 → die ∈ s.svc.mpDown → s.isDue (.mpWatchdogReset die) = false → s.svc.mpWrites = [] → Answers (.mpWatchdogReset die) s fun t =>
      die ∉ t.svc.mpDown) ∧
    (0 ∉ s.svc.mpDown → (s.svc.journal.state = .recovering → exec .laycmd s = .next s) ∧
      (s.svc.journal.state ≠ .idle → s.svc.journal.state ≠ .recovering → Answers .laycmd s fun t => t.svc.journal = { s.svc.journal with err := 1 }) ∧
      (s.svc.journal.state = .idle → Answers .laycmd s fun t => t.svc.journal.state = .checking ∧ t.due (s.now + 1) .journalAdvance)) ∧
    (0 ∉ s.svc.mpDown → let j := s.svc.journal
      let state := fun (t : State) => t.svc.journal.state
      (j.state = .checking → s.layoutError j.entries j.force ≠ 0 → Answers .journalAdvance s fun t => state t = .idle ∧
        t.svc.journal.err = s.layoutError j.entries j.force ∧ t.ten = s.ten) ∧
      (j.state = .checking → s.layoutError j.entries j.force = 0 → s.layoutContexts = [] → Answers .journalAdvance s fun t =>
        state t = .prepared ∧ t.due (s.now + 1) .journalAdvance) ∧
      (j.state = .prepared → Answers .journalAdvance s fun t => state t = .committed ∧ t.svc.journal.commit = true) ∧
      (j.state = .committed → Answers .journalAdvance s fun t => state t = .applying ∧ t.svc.journal.applied = 0) ∧
      (∀ o (x : W64) n, j.state = .applying → j.entries[j.applied]? = some (o, x) → layoutReg o = some (.vdShare0 n) →
        Answers .journalAdvance s fun t => t.svc.journal.applied = j.applied + 1 ∧
          (t.vd n).shares = (List.range 4).map (fun k => x.toNat / 2 ^ (16 * k) % 1024) ++ (s.vd n).shares.drop 4) ∧
      (j.state = .applying → j.entries.length ≤ j.applied → Answers .journalAdvance s fun t => state t = .idle ∧ t.svc.journal.seq = j.seq + 1) ∧
      (j.state = .recovering → Answers .journalAdvance s fun t => state t = if j.commit && !j.done then .applying else .idle)) ∧
    (∀ k kind rgn dest tag payload c, s.svc.caps[k]? = some c → c.ctl.getLsbD 0 = true → c.ctl.getLsbD 1 = false →
      let bs := (⟨kind, rgn, dest, tag, payload⟩ : CapRec).bytes
      let log := natBits c.ctl.toNat 39 34
      let size := 2 ^ log
      12 ≤ log → log ≤ 32 → (c.ptr.toNat + bs.length ≤ size → c.ptr.toNat + bs.length < 2 ^ 64 → Answers (.captureRecord k kind rgn dest tag payload) s fun t =>
        (t.svc.caps[k]?).map (·.ptr.toNat) = some (c.ptr.toNat + bs.length)) ∧
      (size < c.ptr.toNat + bs.length → Answers (.captureRecord k kind rgn dest tag payload) s fun t => t.bytes = s.bytes ∧
        (t.svc.caps[k]?).map (fun x => (x.ctl.getLsbD 1, x.ptr)) = some (true, c.ptr)))

/-- R427, R428: a firmware image that is whole, carries MAGIC and a signature of its SHAKE256 digest under the fused key, and is
no older than the fuses say, is kept by its digest, and die 0's also by its SVN; any other brings the die's functions down. -/
def Claims.FirmwareIsVerified : Prop :=
  ∀ (s : State) (die : Nat) (image : List Byte), die < 4 →
    let size := field image 8 8
    let digest := shake256 64 (image.take (16 + size))
    let sound := image.length = 16 + size + 114 ∧ field image 0 4 = 0x574B524B ∧ Config.fuseCount ≤ field image 4 4 ∧
      edVerify true firmwareContext Config.korvalKey digest (image.drop (16 + size)) = true
    (sound → die < s.svc.fwDigest.length → Answers (.firmwareVerify die image) s fun t => t.svc.fwDigest.getD die [] = digest ∧ t.bytes = s.bytes ∧
      (die = 0 → t.svc.fwSvn = field image 4 4) ∧
      ((∀ d, d ≠ die → s.svc.fwDigest.getD d [] = [] ∨ s.svc.fwDigest.getD d [] = digest) → t.svc.fail = s.svc.fail) ∧
      (die ≠ 0 → s.svc.fwDigest.getD 0 [] ≠ [] → s.svc.fwDigest.getD 0 [] ≠ digest → digest ≠ [] →
        ∀ k ∈ dieFunctions die, t.svc.fail.getLsbD k = (s.svc.fail.getLsbD k || !s.svc.ready.getLsbD k))) ∧
    (¬ sound → Answers (.firmwareVerify die image) s fun t => t.svc.fwDigest.getD die [] = [] ∧ t.bytes = s.bytes ∧
      ∀ k ∈ dieFunctions die, t.svc.fail.getLsbD k = (s.svc.fail.getLsbD k || !s.svc.ready.getLsbD k) ∧ t.svc.up.getLsbD k = false)

/-- R406 to R408, R422 to R425, R427 to R429: power, readiness, the firmware check, the layout journal, the reset of an MP,
attestation, and the capture ring. -/
def Obligations.PowerAndManagement : Prop := Claims.PowerAndReadiness ∧ Claims.FirmwareIsVerified

/-- R333 to R335: a comparator that hits holds its token back, halts its region and writes a record; halt, resume and step act
on the region that DBGSEL names. -/
def Obligations.DebugRules : Prop :=
  (∀ (s : State) (sid : Nat) (net : Net) (k rk : Nat) (r : Region) (c : Ctx) (t : Token), s.regionAt sid = some (rk, r) →
    (s.elem sid).input net = some t → s.region? r.ctx r.rgn = some r → s.ctx? r.ctx = some c → c.ring.length < 64 → k < 8 →
    Answers (.comparatorHit sid net k) s fun u => net ∈ (u.elem sid).withheld ∧ (u.elem sid).input net = some t ∧
      (u.region? r.ctx r.rgn).map (fun x => (x.halted, x.hit.getLsbD k)) = some (true, true) ∧
      ∃ rec ∈ ((u.ctx? r.ctx).map (·.ring)).getD [], rec.cause = 0x11 ∧ rec.detail = 0x8000 + k ∧ rec.vala = t.val.word) ∧
  (∀ (s : State) (r : Region), s.debugRegion = some r → s.region? r.ctx r.rgn = some r →
    (s.debugOn r.ctx = true → Answers .dbgHalt s fun u => (u.region? r.ctx r.rgn).map (·.halted) = some true) ∧
    Answers .dbgResume s (fun u => (u.region? r.ctx r.rgn).map (fun x => (x.halted, x.stepping)) = some (false, none)) ∧
    (∀ frm node, r.halted = true → Answers (.dbgStep frm node) s fun u =>
      (u.region? r.ctx r.rgn).map (fun x => (x.halted, x.stepping)) = some (true, some (frm, node, none))))

/-- R288, R388, R397, R398, R408: a host port reads and writes DRAM at home, its own memory and the registers; a port that is
not ready carries nothing; an address that does not exist ends the run. An access that finds others waiting at its port queues
behind them. -/
def Obligations.HostAccesses : Prop :=
  ∀ (s : State) (port pa : Nat), port < 2 →
    let q := s.hostQueue port
    let turn := fun (op : HostOp) => q = [] ∨ (q.head? = some (pa, op) ∧ s.isDue (.hostAccess port pa op) = false)
    let pays := fun (op : HostOp) => ∀ a ∈ s.hostArbiters port pa op, s.hasCredit a.1 0 = true
    (s.svc.ready.getLsbD (54 + port) = false → ∀ op, exec (.hostAccess port pa op) s = .next s) ∧
    (s.svc.ready.getLsbD (54 + port) = true →
      (2 ^ 52 ≤ pa ∨ paWindow pa = 1 → ∀ op, exec (.hostAccess port pa op) s = .fault (.noSuchAddress pa)) ∧
      (∀ n, paWindow pa = 0 → Config.dramSize < pa + n → pa < 2 ^ 52 → exec (.hostAccess port pa (.load n)) s = .fault (.noSuchAddress pa)) ∧
      (∀ op, paWindow pa = 2 ∨ paWindow pa = 3 → pa < 2 ^ 52 → port < s.svc.hostWait.length → ¬ turn op →
        Answers (.hostAccess port pa op) s fun t => t.bytes = s.bytes ∧ t.hostQueue port = q ++ [(pa, op)]) ∧
      (paWindow pa = 2 → pa < 2 ^ 52 →
        (∀ n, port < s.svc.hostReply.length → turn (.load n) → Answers (.hostAccess port pa (.load n)) s fun t => t.bytes = s.bytes ∧
          t.svc.hostReply.getD port 0 = leNat (s.physRead pa n)) ∧
        (∀ bs, s.bytes.wf = true → pa % 2 ^ 50 + bs.length ≤ 2 ^ 50 → turn (.store bs) → Answers (.hostAccess port pa (.store bs)) s fun t =>
          t.bytes.dram = s.bytes.dram ∧ t.bytes.vault = s.bytes.vault ∧
          (∀ j, (hj : j < bs.length) → t.bytes.host.byte (pa % 2 ^ 50 + j) = bs[j]))) ∧
      (∀ l : Nat, paWindow pa = 0 → pa + 8 ≤ Config.dramSize → pa < 2 ^ 52 → pa % 8 = 0 → l = pa / 128 → s.homeBusy (s.homeDie pa) l 0 = false →
        s.l2Ready (s.homeDie pa) = true → s.lostAt pa 8 = false → s.poisonedAt pa 8 = false → port < s.svc.hostReply.length →
        turn (.load 8) → pays (.load 8) → Answers (.hostAccess port pa (.load 8)) s fun t => t.bytes = s.bytes ∧
          t.svc.hostReply.getD port 0 = leNat (((s.homeBytes l).drop (pa % 128)).take 8)) ∧
      (∀ l : Nat, paWindow pa = 0 → pa + 8 ≤ Config.dramSize → pa < 2 ^ 52 → pa % 8 = 0 → l = pa / 128 → s.lockedLine l = true → ∀ bs, bs.length = 8 → turn (.store bs) →
        Answers (.hostAccess port pa (.store bs)) s fun t => t.bytes = s.bytes ∧ t.due (s.now + 1) (.hostAccess port pa (.store bs))) ∧
      (paWindow pa = 3 → pa < 2 ^ 52 → natBits pa 49 26 ≠ 0 →
        (∀ n, port < s.svc.hostReply.length → turn (.load n) → Answers (.hostAccess port pa (.load n)) s fun t => t.bytes = s.bytes ∧
          t.svc.hostReply.getD port 0 = 0) ∧
        (∀ bs, turn (.store bs) → Answers (.hostAccess port pa (.store bs)) s fun t => t.bytes = s.bytes ∧ t.ten = s.ten ∧
          t.svc = { s.svc with hostWait := s.svc.hostWait.set port (q.drop 1) })))

/-! ### Groups, collectives and links (R213 to R216, R309, R310, R401 to R404) -/

/-- R213, R309: the slots whose members all declare the same become intact; slots that differ end with MISMATCH, each as it
was before; while a member is missing all wait. -/
def Claims.GroupsForm : Prop :=
  ∀ (s : State) (key : W64) (gk : Nat) (g : Group) (rest : Tbl Group),
    s.eng.groups.filter (fun (_, x) => x.state == .declaring && x.key == key) = (gk, g) :: rest →
    s.group gk = g → gk ∈ s.declarers gk g → (∀ y ∈ rest, y.1 ∈ s.declarers gk g) →
    (s.declaredAs gk g = .agrees → Answers (.groupDeclared key) s fun t => ∀ x ∈ s.declarers gk g,
      (t.group x).state = .intact ∧ (t.group x).grp = none ∧ (t.group x).list = (s.group x).list) ∧
    (∀ x, s.declaredAs gk g = .differs [x] → (∀ y ∈ rest, y.1 = x) → x ≠ gk → Answers (.groupDeclared key) s fun t =>
      (t.group gk).state = (if g.broken then .broken else .empty) ∧
      (t.group x).state = if (s.group x).broken then .broken else .empty) ∧
    (s.declaredAs gk g = .waits → rest = [] → exec (.groupDeclared key) s = .next s)

/-- R214 to R216, R310: the coordinator collects every member's report and decides before anything moves; shares that are all
done commit, and a kill first aborts and breaks the slot. -/
def Claims.CoordinatorDecides : Prop :=
  ∀ (s : State) (gk : Nat),
    let g := s.group gk
    let d := g.desk
    let open' := g.state = .intact ∨ g.state = .leaving
    (∀ rank rep, open' → (∀ x ∈ d.reports, x.1 ≠ rank) → Answers (.collReport gk rank rep) s fun t =>
      (t.group gk).desk.reports = d.reports ++ [(rank, rep)] ∧
      (d.reports.length + 1 = g.count → t.due s.now (.collDecide gk))) ∧
    (d.accepted = false → d.reports.length = g.count → (∀ r, g.run = some r → r.go = false) →
      (collDecision g.count d.reports = 0 → Answers (.collDecide gk) s fun t => (t.group gk).desk.accepted = true) ∧
      (collDecision g.count d.reports ≠ 0 → Answers (.collDecide gk) s fun t => (t.group gk).desk = CollDesk.empty ∧
        (s.uncaptured → t.bytes = s.bytes) ∧ ∀ p ∈ s.groupPeers g, (t.group p.2).run = none)) ∧
    (∀ rank, d.accepted = true → rank ∉ d.shares →
      (d.shares.length + 1 ≠ g.count → Answers (.shareDone gk rank) s fun t => (t.group gk).desk.shares = d.shares ++ [rank]) ∧
      (d.shares.length + 1 = g.count → Answers (.shareDone gk rank) s fun t => (t.group gk).desk = CollDesk.empty ∧
        ∀ p ∈ s.groupPeers g, (t.group p.2).run = none ∧ (t.group p.2).state = (s.group p.2).state)) ∧
    (∀ rank, rank < g.count → open' → Answers (.killReport gk rank) s fun t => ∀ p ∈ s.groupPeers g,
      (s.group p.2).state = .intact ∨ (s.group p.2).state = .leaving → (t.group p.2).state = .broken ∧ (t.group p.2).run = none) ∧
    (∀ rank, ¬ open' → exec (.killReport gk rank) s = .next s)

/-- R310: a chunk goes into its place of the destination box, and the last completes the share; a line in a fetch-and-hold
keeps it back. -/
def Claims.ChunksArrive : Prop :=
  ∀ (s : State) (gk src ofs : Nat) (data : List Byte) (r : CollRun) (b : Tensor),
    let g := s.group gk
    let at_ := if r.rep.sub = 4 then ofs else src * r.chunk g.count + ofs
    let ps := b.pieces at_ data
    let j := s.memberJob gk r
    g.run = some r → r.dst = some b → r.rep.sub ≠ 1 →
    ((∃ p ∈ ps, s.spotWaits j true p.1 p.2.length = true) → Answers (.chunkReceive gk src ofs data) s fun t => t.bytes = s.bytes ∧
      t.eng = s.eng ∧ t.due (s.now + 1) (.chunkReceive gk src ofs data)) ∧
    ((∀ p ∈ ps, s.spotWaits j true p.1 p.2.length = false ∧ s.spotFails j p.1 p.2.length true = none) →
      (∀ a ∈ s.spotArbiters j true (ps.map fun p => (p.1, p.2.length)), s.hasCredit a.1 j.vd = true) →
      Answers (.chunkReceive gk src ofs data) s fun t =>
        ((t.group gk).run.map fun x => (x.written, x.shared)) = some (r.written + data.length,
          r.shared || decide (r.written + data.length = r.total g.count)) ∧
        ∀ ck, s.coordinator g = some ck → r.shared = false → r.written + data.length = r.total g.count →
          t.due (s.now + hopCycles (groupDie gk) (groupDie ck)) (.shareDone ck g.rank))

/-- R213 to R216, R309, R310: groups form, and a collective is decided, moved, committed or aborted as a whole. -/
def Obligations.Collectives : Prop := Claims.GroupsForm ∧ Claims.CoordinatorDecides ∧ Claims.ChunksArrive

/-- R402, R403: a flit with a bad CRC asks for a replay and one out of order waits for it; one for another package is dropped
and counted; an acknowledgement frees what was kept; a replay sends again from a SEQ on; a port that no acknowledgement has
reached for 64 microseconds is down. -/
def Obligations.Links : Prop :=
  ∀ (s : State) (p : Nat),
    let x := s.port p
    (∀ flit, s.svc.ready.getLsbD (46 + p) = true → flit.length = 256 →
      let good := (crc32c (flit.take 252)).toNat = field flit 252 4
      let kind := field flit 4 1 / 16
      (¬ good → Answers (.flitReceive p flit) s fun t => t.port p = { x with asked := some x.expect } ∧ t.eng = s.eng ∧ t.bytes = s.bytes) ∧
      (good → kind ≠ 4 → field flit 6 2 ≠ x.expect → exec (.flitReceive p flit) s = .next s) ∧
      (good → kind ≠ 4 → field flit 6 2 = x.expect → field flit 0 2 ≠ s.svc.pkgid → Answers (.flitReceive p flit) s fun t =>
        t.eng = s.eng ∧ t.bytes = s.bytes ∧ (t.port p).expect = (x.expect + 1) % 65536 ∧
        t.svc.drops = s.svc.drops.modify (Config.linkOfPort p % 2) fun n => (n + 1) % 2 ^ 64) ∧
      (∀ bs rest, good → kind = 4 → x.kept = (field flit 6 2, bs) :: rest → Answers (.flitReceive p flit) s fun t =>
        (t.port p).kept = rest ∧ (t.port p).lastAck = s.now ∧ (t.port p).down = none)) ∧
    (∀ seq before bs rest, x.kept = before ++ (seq, bs) :: rest → (∀ y ∈ before, y.1 ≠ seq) → Answers (.flitReplay p seq) s fun t =>
      (t.port p).sent = x.sent ++ bs :: rest.map (·.2) ∧ (t.port p).kept = x.kept) ∧
    (x.down = none → x.kept ≠ [] →
      (s.now < x.lastAck + Config.linkTimeout → Answers (.portDown p) s fun t => t.svc = s.svc ∧
        t.due (x.lastAck + Config.linkTimeout) (.portDown p)) ∧
      (x.lastAck + Config.linkTimeout ≤ s.now → Answers (.portDown p) s fun t =>
        (t.port p).down = some s.now ∧ (t.port p).kept = []))

/-! ### Launching and ending contexts (R218, R344 to R349, R352, R353, R358 to R360, R365, R366) -/

/-- R218, R299, R346, R347: what becomes of a launch that ends with an exit word. It is gone and the launches that wait look
again; without a stamp, and with a descriptor that cannot be written, no byte changes. While one of its places waits at home
(R281) it is kept with its exit word, and tries again a cycle later. -/
def Claims.LaunchEnds (s : State) (l : Nat) (x : Launch) (word : Nat) (t : State) : Prop :=
  if s.exitWaits x = true then
    t.ten.launches.get? l = some { x with exit := some word, ctx := none, state := .ended } ∧ t.bytes = s.bytes ∧
      t.due (s.now + 1) (.launchExit l)
  else t.ten.launches = s.ten.launches.del l ∧ t.eng.jobs = s.eng.jobs.del l ∧
    (field x.packet 48 8 = 0 → (s.engError x.die x.vd (s.descriptor x.vd x.queue true + 32) 8 .write).isSome = true → t.bytes = s.bytes) ∧
    (∀ k y, (k, y) ∈ s.ten.launches.del l → y.state = .waiting → t.due s.now (.launchGrant y.vd))

/-- R344 to R349: a packet at the head of a launch queue becomes a launch, which is checked when no earlier job holds it back;
a sound one waits for its grants, and a bad one is refused. -/
def Obligations.LaunchesAreChecked : Prop :=
  ∀ (s : State),
    (∀ vd q x va ridx bs, s.eng.services.get? (serviceKey vd q true) = some x → (s.vd vd).state = 2 → x.die < 4 →
      s.svc.ready.getLsbD (28 + x.die) = true → x.stopped = false → x.bad = false →
      s.headSlot vd q true x = .slot va ridx bs → field bs 63 1 = 1 → s.nextLaunch vd = some q →
      Answers (.launchTakeUp vd q) s fun t =>
        t.ten.launches.get? s.serial = some (Launch.taken vd q x.die s.serial (min (field bs 33 1 % 16) (s.vd vd).pceil) bs s.now) ∧
        (t.job? s.serial).map (·.kind) = some .launch ∧ t.due (s.now + 40) (.launchUnblock s.serial)) ∧
    (∀ vd q x va ridx bs, s.eng.services.get? (serviceKey vd q true) = some x → s.headSlot vd q true x = .slot va ridx bs →
      field bs 63 1 = 0 → s.nextLaunch vd = none → exec (.launchTakeUp vd q) s = .next s) ∧
    (∀ l x j, s.ten.launches.get? l = some x → s.job? l = some j → x.state = .blocked → x.since + 40 ≤ s.now →
      (s.jobHeld l j = false → Answers (.launchUnblock l) s fun t =>
        t.ten.launches.get? l = some { x with state := .checking, since := s.now } ∧ t.due (s.now + s.checkTime x) (.launchCheck l)) ∧
      (s.jobHeld l j = true → exec (.launchUnblock l) s = .next s)) ∧
    (∀ l x, s.ten.launches.get? l = some x → x.state = .checking → Answers (.launchCheck l) s fun t => match s.checkLaunch l x with
      | .ok m => t.ten.launches.get? l = some { x with state := .waiting, image := some m, since := s.now } ∧
        t.due s.now (.launchGrant x.vd) ∧ t.due (s.now + 1) (.preemptDecide l)
      | .error f => Claims.LaunchEnds s l x (2 ^ 32 + f.status) t)

/-- R345, R352, R353, R359, R360: a launch gets its grants only when all that it needs is free; its blocks are then asked for,
its memory is set up, and when both are done its registers are written and it runs. -/
def Claims.LaunchesStart : Prop :=
  ∀ (s : State) (l : Nat) (x : Launch), s.ten.launches.get? l = some x →
    (∀ vd m, (s.vd vd).state = 2 → s.waitingLaunches vd = [(l, x)] → s.secondSupervisor x = false → x.restore = none →
      x.image = some m → s.svc.journal.state = .idle →
      (∀ n a v, (n, Task.ev (.partitionWrite vd a v)) ∉ s.agenda) →
      (s.planLaunch x m = none → exec (.launchGrant vd) s = .next s) ∧
      (∀ base ctx binds v, s.planLaunch x m = some (base, ctx, binds) →
        s.vaultPlace l ((binds.map (·.die)).dedup) m.vaultBytes = some v → Answers (.launchGrant vd) s fun t =>
          t.ten.launches.get? l = some { x with state := .loading, ctx := some ctx, since := s.now, stage := 0 } ∧
          (t.ctx? ctx).map (fun c => (c.vd, c.state, c.cbase, c.image)) = some (vd, .loading, base, m) ∧
          t.due (s.now + 16 * binds.length) (.launchLoadDone l))) ∧
    (∀ ctx c, x.ctx = some ctx → s.ctx? ctx = some c → x.state = .loading → c.state = .loading →
      (x.stage = 0 → Answers (.launchLoadDone l) s fun t => t.bytes = s.bytes ∧ (t.ten.launches.get? l).map (·.stage) = some 1 ∧
        t.due (s.now + (40 + (c.image.setupBytes (s.diesOf ctx).length + 63) / 64)) (.launchLoadDone l)) ∧
      (x.stage = 1 → Answers (.launchLoadDone l) s fun t => (t.ten.launches.get? l).map (·.stage) = some 2 ∧
        t.due s.now (.launchLoadDone l)) ∧
      (x.stage = 2 → (∀ r ∈ s.regionsOf ctx, (r.frames.headD Frame.empty).filling = none) → Answers (.launchLoadDone l) s fun t =>
        (t.ten.launches.get? l).map (·.stage) = some 3 ∧ t.due (s.now + 4) (.launchLoadDone l)) ∧
      (3 ≤ x.stage → Answers (.launchLoadDone l) s fun t => (t.ten.launches.get? l).map (·.state) = some .running ∧
        (t.ctx? ctx).map (fun d => (d.state, d.globals, d.ways)) =
          some (.running, [(0, c.dataVA), (1, BitVec.ofNat 64 c.vaultBase), (2, c.args)], (s.vd c.vd).mquota) ∧
        t.due (s.now + 2 ^ (s.vd c.vd).wdog) (.watchdogExpire ctx)))

/-- R358, R371: a die's mapper takes 20 cycles for a lookup, and after a miss the cycles of mapping; without a credit it waits
for a refill; then the block fills its frame. -/
def Claims.MapperServes : Prop :=
  ∀ (s : State) (die k : Nat) (q : MapReq) (rest : List (Nat × MapReq)), s.isDue (.mapperRequest die) = false →
    s.mapQueue die = (k, q) :: rest → s.ten.maps.get? k = some q → s.svc.ready.getLsbD (28 + die) = true →
    let vd := s.vdOfCtx q.ctx
    let credit := (s.credit (mapperArbiter die) vd).left
    let left := fun (t : State) => (t.ten.maps.get? k).map (·.left)
    (∀ key n, q.left = none → s.mapKey q = some (key, n) → Answers (.mapperRequest die) s fun t =>
      left t = some (some (if (s.ten.caches.getD die []).any (fun e => e.key == key) then 0 else mapCycles n - 20)) ∧
      t.due (s.now + 20) (.mapperRequest die)) ∧
    (∀ n, q.left = some (n + 1) → credit ≠ 0 → Answers (.mapperRequest die) s fun t =>
      left t = some (some (n + 1 - min credit (n + 1))) ∧ t.due (s.now + min credit (n + 1)) (.mapperRequest die)) ∧
    (∀ n, q.left = some (n + 1) → credit = 0 → Answers (.mapperRequest die) s fun t => left t = some q.left ∧
      t.due (s.now + (256 - s.now % 256)) (.mapperRequest die)) ∧
    (∀ c, q.left = some 0 → s.ctx? q.ctx = some c → Answers (.mapperRequest die) s fun t => t.ten.maps = s.ten.maps.del k ∧
      t.due (s.now + s.fillCycles die c.vd q.block) (.frameFilled q.ctx q.rgn q.frm))

/-- R345, R352, R353, R358 to R360: a launch gets its grants at once, loads, and runs; the mapper serves blocks. -/
def Obligations.LaunchesRun : Prop := Claims.LaunchesStart ∧ Claims.MapperServes

/-- R218, R230, R365, R366: a context that ends is frozen; once it has settled its grants are returned and its launch ends with
the exit word. -/
def Obligations.ContextsEnd : Prop :=
  (∀ (s : State) (ctx : Nat) (c : Ctx), s.ctx? ctx = some c →
    (s.ctxJob ctx = true → Answers (.teardown ctx) s fun t => t.ten = s.ten ∧ t.fab = s.fab ∧ t.run = s.run ∧ t.due (s.now + 1) (.teardown ctx)) ∧
    (s.ctxJob ctx = false → c.state ≠ .freezing → c.state ≠ .frozen → Answers (.teardown ctx) s fun t =>
      (t.ctx? ctx).map (·.state) = some .freezing ∧ t.due (s.now + 1) (.teardown ctx) ∧
      ∀ r ∈ s.regionsOf ctx, s.region? ctx r.rgn = some r → (t.region? ctx r.rgn).map (·.stopped) = some true) ∧
    (∀ l, s.ctxJob ctx = false → (c.state = .freezing ∨ c.state = .frozen) → s.calm ctx = true → s.eng.groups = [] →
      s.ten.launches.get? c.launch = some l → Answers (.teardown ctx) s fun t => t.ten.ctxs = s.ten.ctxs.del ctx ∧
        t.ten.launches.get? c.launch = some { l with exit := some (c.exit.getD (endedWord 2)), ctx := none, state := .ended } ∧
        (∀ o ∈ t.mem.ops, o.2.f.ctx ≠ ctx) ∧ t.due s.now (.launchExit c.launch))) ∧
  (∀ (s : State) (l : Nat) (x : Launch), s.ten.launches.get? l = some x →
    (∀ w, x.ctx = none → x.exit = some w → Answers (.launchExit l) s fun t => Claims.LaunchEnds s l x w t) ∧
    (∀ c y, x.ctx = some c → s.ctx? c = some y → Answers (.launchExit l) s fun t => t.ten = s.ten ∧ t.bytes = s.bytes ∧
      if y.state ≠ .frozen ∧ s.moves c = true then t.due (s.now + 1) (.launchExit l) else t.due s.now (.teardown c)))

/-! ### Virtual devices (R322, R364, R367 to R369, R373, R375 to R378, R386, R395, R396, R418 to R421) -/

/-- R367, R369: the states of a virtual device. Opening gives its registers their reset values; an Active one that stops or goes
on takes its contexts with it; a closed one frees its matrix-unit grants and keys. A command for a state that R369 does not
list it for changes nothing; VD 0, and a VD that is being reset, refuse to stop and to close (R421). -/
def Obligations.DeviceStates : Prop :=
  ∀ (s : State) (n : Nat), n < 64 →
    let v := s.vd n
    let state := fun (t : State) => (t.vd n).state
    let refuses := fun (i : Instr) (e : Nat) => Answers i s fun t => t.vd n = { v with err := e } ∧ t.fab = s.fab ∧ t.run = s.run ∧
      t.svc = s.svc ∧ t.agenda = s.agenda ∧ t.ten.ctxs = s.ten.ctxs
    let allOf := fun (a b : CtxState) (t : State) => ∀ c x, (c, x) ∈ s.ctxsOf n →
      (t.ctx? c).map (·.state) = some (if x.state = a then b else x.state)
    (v.state = 0 → Answers (.vdOpen n) s fun t => t.vd n = { Vd.reset (n + 1) with state := 1 }) ∧
    (v.state ≠ 0 → exec (.vdOpen n) s = .next s) ∧
    (v.state = 1 → s.partitionError n v = 0 → Answers (.vdActivate n) s fun t =>
      t.vd n = { v with state := 2, err := 0, idle := List.replicate 12 0 } ∧ t.due (s.now + 1) (.launchGrant n)) ∧
    (v.state = 1 → s.partitionError n v ≠ 0 → refuses (.vdActivate n) (s.partitionError n v)) ∧
    (v.state ≠ 1 → exec (.vdActivate n) s = .next s) ∧
    (n ≠ 0 → v.state = 2 → s.ten.ctxs.rising → Answers (.vdStop n) s fun t => state t = 3 ∧ allOf .running .stopped t) ∧
    (n = 0 ∨ v.state = 4 → refuses (.vdStop n) 4) ∧ (n ≠ 0 → v.state ≠ 4 → v.state ≠ 2 → exec (.vdStop n) s = .next s) ∧
    (v.state = 3 → s.ten.ctxs.rising → Answers (.vdResume n) s fun t => state t = 2 ∧ allOf .stopped .running t ∧ t.due (s.now + 1) (.launchGrant n)) ∧
    (v.state = 4 → refuses (.vdResume n) 4) ∧ (v.state ≠ 4 → v.state ≠ 3 → exec (.vdResume n) s = .next s) ∧
    (n ≠ 0 → v.state = 1 ∨ v.state = 2 ∨ v.state = 3 → s.ctxsOf n = [] → Answers (.vdClose n) s fun t => t.vd n = Vd.reset (n + 1) ∧
      (∀ k o, (k, o) ∈ t.svc.mxown → (o.own0 = n → o.gr0 = false) ∧ (o.own1 = n → o.gr1 = false)) ∧
      (∀ k o, (k, o) ∈ t.svc.keyown → o ≠ 64 + n)) ∧
    (n ≠ 0 → v.state = 1 ∨ v.state = 2 ∨ v.state = 3 → s.ctxsOf n ≠ [] → refuses (.vdClose n) 1) ∧
    (n = 0 ∨ v.state = 4 → refuses (.vdClose n) 4) ∧ (n ≠ 0 → v.state = 0 → exec (.vdClose n) s = .next s) ∧
    (∀ c x, s.ctx? c = some x → x.vd = n → x.exit = none → Answers (.vdKill n c) s fun t =>
      (t.ctx? c).map (·.exit) = some (some 0x2FFFFFF02) ∧ t.due s.now (.teardown c)) ∧
    (∀ c x, s.ctx? c = some x → x.vd ≠ n → exec (.vdKill n c) s = .next s)

/-- R322, R368, R369, R375, R376, R386: a partition register of a VD without contexts takes a value that agrees with the other
VDs; with contexts it is refused unless FORCE is set. L2 ways are added at once and removed in stages. PMAP writes one entry. -/
def Claims.PartitionWrites : Prop :=
  ∀ (s : State) (n : Nat) (value : W64), n < 64 →
    let v := s.vd n
    let m : BitVec 16 := value.setWidth 16
    (∀ allow, let w := v.withPartition allow value
      (s.ctxsOf n = [] → v.state ≤ 1 ∨ s.partitionError n w = 0 → Answers (.partitionWrite n allow value) s fun t =>
        t.vd n = { w with err := 0 }) ∧
      (s.ctxsOf n = [] → 2 ≤ v.state → s.partitionError n w ≠ 0 → Answers (.partitionWrite n allow value) s fun t =>
        t.vd n = { v with err := s.partitionError n w }) ∧
      (s.ctxsOf n ≠ [] → v.force = false → Answers (.partitionWrite n allow value) s fun t => t.vd n = { v with err := 1 } ∧
        t.agenda = s.agenda)) ∧
    (v.wayStage = .idle → m ≠ 0 → (∀ w ∈ s.otherVds n, w.l2mask &&& (m &&& ~~~v.l2mask) = 0) →
      (v.l2mask &&& ~~~m = 0 → Answers (.l2waysWrite n value) s fun t => t.vd n = { v with l2mask := m, l2new := m, err := 0 }) ∧
      (v.l2mask &&& ~~~m ≠ 0 → m &&& ~~~v.l2mask = 0 → Answers (.l2waysWrite n value) s fun t =>
        t.vd n = { v with l2new := m, wayStage := .quiesce, err := 0 } ∧ t.due (s.now + 1) (.wayRemovalAdvance n))) ∧
    (v.wayStage = .quiesce → s.beyondWays n = [] → Answers (.wayRemovalAdvance n) s fun t => t.vd n = { v with wayStage := .flush } ∧
      t.due (s.now + 1) (.wayRemovalAdvance n)) ∧
    (v.wayStage = .flush → s.beyondWays n = [] → Answers (.wayRemovalAdvance n) s fun t => t.vd n = { v with wayStage := .rehash }) ∧
    (v.wayStage = .flush → ∀ die x, (die, x) ∈ flushFirst (s.beyondWays n) → Answers (.wayRemovalAdvance n) s fun t => t.vd n = v ∧
      t.due s.now (.homeEvict die x.line x.copy)) ∧
    (v.wayStage = .rehash → Answers (.wayRemovalAdvance n) s fun t => t.vd n = { v with l2mask := v.l2new, wayStage := .idle }) ∧
    (let x := value.toNat
     let ctx := x % 65536
     let a := x / 65536 % 256
     let e := x / 2 ^ 24 % 256
     ∀ c es, s.ctx? ctx = some c → c.vd = n → c.pmaps.get? a = some es → e < es.length → Answers (.pmap n value) s fun t =>
      (t.ctx? ctx).bind (fun d => d.pmaps.get? a) = some (es.set e (x / 2 ^ 32 % 65536)))

/-- R395: an invalidation removes a VD's translations everywhere; when the accesses that used them have performed, TLBSEQ rises
by 1. -/
def Claims.Invalidations : Prop :=
  ∀ (s : State) (n : Nat),
    (∀ value : W64, value.getLsbD 0 = true → Answers (.tlbinv n value) s fun t =>
      (∀ k e, (k, e) ∈ t.fab.elements → ∀ x ∈ e.tlb, x.vd ≠ n) ∧ (∀ d es, (d, es) ∈ t.mem.walkCache → ∀ x ∈ es, x.vd ≠ n) ∧
      t.bytes = s.bytes ∧ t.due (s.now + 1) (.tlbinvComplete n) ∧ (t.vd n).tlbseq = (s.vd n).tlbseq) ∧
    (∀ value : W64, value.getLsbD 0 = false → value.getLsbD 1 = false → Answers (.tlbinv n value) s fun t =>
      ∀ k e, (k, e) ∈ t.fab.elements → ∀ x ∈ e.tlb, x.vd = n → x.page ≠ value.toNat / 65536 * 65536) ∧
    (∀ k x, s.mem.invals.find? (fun p => p.2.vd == n) = some (k, x) →
      ((∀ i ∈ x.ops, ∀ o, s.op? i = some o → o.phase = .done ∨ 3 ≤ o.performed) → Answers (.tlbinvComplete n) s fun t =>
        (t.vd n).tlbseq = (s.vd n).tlbseq + 1 ∧ t.mem.invals = s.mem.invals.del k) ∧
      ((∃ i ∈ x.ops, ∃ o, s.op? i = some o ∧ o.phase ≠ .done ∧ o.performed < 3) → Answers (.tlbinvComplete n) s fun t =>
        t.mem = s.mem ∧ t.ten = s.ten ∧ t.due (s.now + 1) (.tlbinvComplete n)))

/-- R322, R368 to R376, R386, R395: partition registers change only into agreeing partitions; invalidations remove translations. -/
def Obligations.PartitionsAndInvalidations : Prop := Claims.PartitionWrites ∧ Claims.Invalidations

/-- R418 to R421: a reset stops the VD, and when its contexts have come to rest they are torn down and the VD is Active again;
VD 0, and a VD that is being reset, refuse it, and on an Absent or Configured VD it does nothing (R369). A replay re-arms what the ring still holds. -/
def Obligations.DeviceResets : Prop :=
  (∀ (s : State) (n : Nat), n < 64 →
    (n ≠ 0 → (s.vd n).state = 2 ∨ (s.vd n).state = 3 → Answers (.vdReset n) s fun t => (t.vd n).state = 4 ∧ (t.vd n).err = 0 ∧
      t.due (s.now + 1) (.vdResetQuiesced n) ∧ (∀ p ∈ t.ten.launches, p.2.vd = n → p.2.state = .running ∨ p.2.state = .ended) ∧
      (∀ p ∈ t.eng.jobs, p.2.vd = n → p.2.kind = .copy → p.2.state = .finishing)) ∧
    (n = 0 ∨ (s.vd n).state = 4 → Answers (.vdReset n) s fun t => t.vd n = { s.vd n with err := 4 } ∧ t.agenda = s.agenda) ∧
    (n ≠ 0 → (s.vd n).state < 2 → exec (.vdReset n) s = .next s) ∧
    ((s.vd n).state ≠ 4 → exec (.vdResetQuiesced n) s = .next s) ∧
    ((s.vd n).state = 4 → 0 ∉ s.svc.mpDown → (∀ p ∈ s.ctxsOf n, p.2.state = .loading ∨ s.calm p.1 = true) →
      Answers (.vdResetQuiesced n) s fun t => (t.vd n).state = 2 ∧ (t.vd n).resetFrom = none ∧ (∀ p ∈ s.ctxsOf n, t.ctx? p.1 = none) ∧
        t.due (s.now + 1) (.launchGrant n)) ∧
    ((s.vd n).state = 4 → 0 ∉ s.svc.mpDown →
      ((∃ p ∈ s.ctxsOf n, p.2.state ≠ .loading ∧ s.calm p.1 = false) → Answers (.vdResetQuiesced n) s fun t => t.ten = s.ten ∧
        t.due (s.now + 1) (.vdResetQuiesced n)) ∧
      (s.ctxsOf n = [] → (∀ p ∈ s.eng.services, p.1 / 128 ≠ n) → (s.vd n).resetFrom = none → Answers (.vdResetQuiesced n) s fun t =>
        t.vd n = { s.vd n with state := 2, rststat := 0, resetFrom := none } ∧ t.due (s.now + 1) (.launchGrant n)))) ∧
  (∀ entry ridx widx slots, let r := replayFrom entry ridx widx slots
    r.1 ≤ ridx ∧ (r.1 = ridx ∨ widx ≤ r.1 + slots) ∧ r.1 = min entry ridx + r.2.1 ∧ r.1 + r.2.2 = ridx)

/-- R364, R373, R377, R378: a context without progress for its watchdog's span is frozen; buckets refill every 256 cycles,
and a flit that waits for a credit goes on then;
a waiting launch ends the victims that its policy kills, and one whose time has run out is decided again. -/
def Obligations.TenancyTimers : Prop :=
  (∀ (s : State) (ctx : Nat) (c : Ctx), s.ctx? ctx = some c → c.paused = none → c.state = .running →
    let span := 2 ^ (s.vd c.vd).wdog
    let ran := s.watchTicks ctx c.lastProgress s.now
    (span ≤ ran → Answers (.watchdogExpire ctx) s fun t => (t.ctx? ctx).map (·.state) = some .freezing ∧
      ∀ r ∈ s.regionsOf ctx, s.region? ctx r.rgn = some r → (t.region? ctx r.rgn).map (·.stopped) = some true) ∧
    (ran < span → s.isDue (.watchdogExpire ctx) = false → Answers (.watchdogExpire ctx) s fun t => t.ten = s.ten ∧
      t.due (s.now + (span - ran)) (.watchdogExpire ctx))) ∧
  (∀ (s : State), (s.ten.buckets.map (·.1)).Nodup →
    let vds := (s.ten.vds.filter fun (_, v) => v.state == 2 || v.state == 3).map (·.1)
    (∀ p vd body, p < 8 → (∀ q < 8, q ≠ p → (s.port q).waiting = []) → (s.port p).waiting = [(vd, body)] →
      drawbarArbiter p true ∈ s.ten.buckets.map (·.1) →
      (∃ c e b, (vd, c, e, b) ∈ refillArbiter s (drawbarArbiter p true) vds ∧ c ≠ 0) → s.ten.vds.rising → Answers .bucketRefill s fun t =>
        (t.port p).waiting = [] ∧ (t.port p).sent = (s.port p).sent ++ [flitBytes (s.port p).seq body]) ∧
    ((∀ p < 8, (s.port p).waiting = []) → Answers .bucketRefill s fun t =>
      (∀ key ∈ s.ten.buckets.map (·.1), t.ten.buckets.get? key =
        some ((refillArbiter s key vds).map fun (v, c, _, _) => (v, ⟨c, false⟩))) ∧
      (vds.Nodup → ∀ v ∈ vds, (t.vd v).idle = s.idleRefill v) ∧
      (s.isDue .bucketRefill = false → t.due (s.now + (256 - s.now % 256)) .bucketRefill))) ∧
  (∀ (s : State) (l : Nat) (x : Launch) (need : Nat × Image × Option Nat), s.ten.launches.get? l = some x → s.launchNeeds x = some need →
    x.state = .waiting → (s.vd x.vd).state = 2 →
    (s.victims x.vd need (s.candidates x) = [] → Answers (.preemptDecide l) s fun t => t.ten = s.ten ∧
      t.due (s.now + 1024) (.preemptDecide l)) ∧
    (∀ k c v y, s.victims x.vd need (s.candidates x) = [(k, c, v)] → s.ctx? c = some y → y.exit = none → v.drained = none →
      (policyFor x.tokens v.tokens v.est ((s.now - v.since) / 1024) true = .kill → Answers (.preemptDecide l) s fun t =>
        (t.ctx? c).map (·.exit) = some (some 0x2FFFFFF01) ∧ t.due s.now (.teardown c)) ∧
      (∀ u, policyFor x.tokens v.tokens v.est ((s.now - v.since) / 1024) true = .drain u → Answers (.preemptDecide l) s fun t =>
        (t.ctx? c).map (·.holdGrowth) = some true ∧ t.due (s.now + 2 * u * 1024) (.drainOverdue c)))) ∧
  (∀ (s : State) (ctx : Nat) (c : Ctx) (v : Launch) (d : Nat), s.ctx? ctx = some c → s.ten.launches.get? c.launch = some v →
    v.drained = some d → d ≤ s.now → c.state = .running → c.exit = none → s.waitingLaunches v.vd = [] →
    Answers (.drainOverdue ctx) s fun t => (t.ctx? ctx).map (·.holdGrowth) = some false ∧
      t.ten.launches.get? c.launch = some { v with drained := none })

/-- R319 to R323: the controller counts, at each multiple of 1024 cycles, how long an actor's load has stood above or below its
thresholds; a replica that has its first block joins the partition map beside its source; a retiring one that is empty
releases its region. -/
def Obligations.ReplicasComeAndGo : Prop :=
  (∀ (s : State) (ctx : Nat) (c : Ctx), s.ten.ctxs = [(ctx, c)] → c.image.actors.length = 1 →
    c.image.inputs 0 ≠ [] → (s.vd c.vd).hold = true → s.isDue .placementSample = false →
    let load := ((s.replicasOf ctx 0).filter fun r => r.state == .available).foldl (fun n r => max n r.load) 0
    let was := c.placing.getD 0 (0, 0)
    Answers .placementSample s fun t => t.run = s.run ∧ t.due (s.now + (1024 - s.now % 1024)) .placementSample ∧
      (t.ctx? ctx).bind (fun d => d.placing.get? 0) =
        some (if (s.vd c.vd).grow ≤ load then was.1 + 1 else 0, if load ≤ (s.vd c.vd).shrink then was.2 + 1 else 0)) ∧
  (∀ (s : State) (ctx rgn : Nat) (c : Ctx) (r : Region), s.ctx? ctx = some c → s.region? ctx rgn = some r → r.ctx = ctx → r.rgn = rgn →
    (r.state = .placing → c.state ≠ .loading → (r.frames.headD Frame.empty).filling = none → Answers (.replicaAvailable ctx rgn) s fun t =>
      t.region? ctx rgn = some { r with state := .available } ∧ t.due (s.now + 1) (.delivery ctx rgn) ∧
      ∀ es, c.pmaps.get? r.actor = some es → (t.ctx? ctx).bind (fun d => d.pmaps.get? r.actor) =
        some (es.map fun e => if e.testBit r.source && !e.testBit r.replica then e + 2 ^ r.replica else e)) ∧
    (r.state = .retiring → (∀ q ∈ r.queues, q.occupancy = 0) → (∀ f ∈ r.frames, f.insts = []) → r.starts = [] →
      Answers (.replicaGone ctx rgn) s fun t => t.run.regions = s.run.regions.del (regionKey ctx rgn) ∧
        ∀ sid ∈ r.sites, (t.elem sid).slots = [] ∧ (t.elem sid).ready = [] ∧ (t.elem sid).tlb = (s.elem sid).tlb) ∧
    (r.state = .available → exec (.replicaGone ctx rgn) s = .next s))

/-- R227, R228, R378 to R381, R383: the cut of a snapshot is taken when every sequencer's marker has arrived, and its save is
written once every request from before it is done; the job then writes its status and sequence number. -/
def Obligations.Snapshots : Prop :=
  ∀ (s : State),
    (∀ k n c p q, s.ten.snaps.get? k = some n → s.ctx? n.ctx = some c → n.body = none →
      ((∀ r ∈ s.regionsOf n.ctx, r.rgn ∈ n.markers ∨ r.rgn = p) → n.kind = 1 → Answers (.snapshotMarker k p q) s fun t =>
        (t.ten.snaps.get? k).map (·.body) = some (some (s.saveOf n.ctx c)) ∧ t.due (s.now + 1) (.snapshotComplete k) ∧ t.fab = s.fab) ∧
      ((∃ r ∈ s.regionsOf n.ctx, r.state ≠ .placing ∧ r.rgn ∉ n.markers ∧ r.rgn ≠ p) → Answers (.snapshotMarker k p q) s fun t =>
        (t.ten.snaps.get? k).map (fun x => (x.markers, x.body)) = some (if p ∈ n.markers then n.markers else n.markers ++ [p], none) ∧
        t.agenda = s.agenda)) ∧
    (∀ k n c, s.ten.snaps.get? k = some n → s.ctx? n.ctx = some c →
      let ready := s.requestsDone n && (n.kind = 1 || s.quiet n.ctx) && (n.kind != 2 || c.state == .frozen)
      (ready = false → Answers (.snapshotComplete k) s fun t => t.ten = s.ten ∧ t.bytes = s.bytes ∧ t.due (s.now + 1) (.snapshotComplete k)) ∧
      (∀ j x, ready = true → n.job = some j → s.job? j = some x → Answers (.snapshotComplete k) s fun t =>
        t.ten.snaps = s.ten.snaps.del k ∧ (t.job? j).map (·.state) = some .finishing ∧ t.due s.now (.contextJobEnd j) ∧
        (t.ten.saves.get? s.serial).isSome = true) ∧
      (∀ l, ready = true → n.job = none → s.eng.groups = [] → s.ten.launches.get? c.launch = some l → Answers (.snapshotComplete k) s fun t =>
        t.ten.ctxs = s.ten.ctxs.del n.ctx ∧
        t.ten.launches.get? c.launch = some { l with state := .waiting, ctx := none, restore := some s.serial, since := s.now, drained := none })) ∧
    (∀ id j, s.job? id = some j →
      (j.state = .finishing → s.stampWaits j.die j.vd j.stamp.toNat true j.pts = false → Answers (.contextJobEnd id) s fun t => t.eng.jobs = s.eng.jobs.del id ∧
        t.due s.now (.channelAssign j.die)) ∧
      (j.kind = .vdctl 0 → j.state = .running → s.stopDone id j.target = true → Answers (.contextJobEnd id) s fun t =>
        (t.job? id).map (fun x => (x.state, x.status)) = some (.finishing, 0) ∧ t.due s.now (.contextJobEnd id)) ∧
      (j.kind = .vdctl 0 → j.state = .running → s.stopDone id j.target = false → Answers (.contextJobEnd id) s fun t =>
        t.eng = s.eng ∧ t.due (s.now + 1) (.contextJobEnd id)))

/-! ### Records and the step (R33 to R35, R72 to R91) -/

/-- Worked examples of "Node records and assembly" and of the programs, written out from their fields: the bytes in memory of
an ADD, a LDG, an MXA, an MWAIT and a DIRTY decode to these instructions. -/
def Obligations.SampleWordsDecode : Prop :=
  let to' := fun (n : BitVec 7) (p : Port) => (⟨true, n, p⟩ : Dest)
  let no : Dest := ⟨false, 0, .a⟩
  decode (recOfBytes [0x92, 0x28, 0x01, 0x20, 0x00, 0x00, 0x80, 0x31, 0x07, 0x00, 0x00, 0x00]) = .ok (.add {
    sub := 0, pred := .ifTrue, ty := .i32, d0 := to' 9 .a, d1 := to' 12 .b, lit := 7, l := true, v := false, rm := 0, sat := false, mask := 0 }) ∧
  decode (recOfBytes [0x70, 0xA8, 0x04, 0x84, 0x88, 0x00, 0xC6, 0x00, 0x40, 0x00, 0x00, 0x00]) = .ok (.ldg {
    sub := 1, pred := .always, ty := .f32, d0 := to' 7 .a, d1 := no, lit := 64, l := true, v := true, lsid := 3, g := false, ord := 0,
    scope := 0, prv := 2, nxt := 4, last := false }) ∧
  decode (recOfBytes [0x90, 0xC8, 0x00, 0xA1, 0x46, 0x28, 0x85, 0x00, 0x00, 0x00, 0x00, 0x00]) = .ok (.mxa {
    sub := 0, pred := .always, ty := .eb8, d0 := to' 9 .a, d1 := no, lit := 0, bank := true, half := false, lsid := 2, unit := 37,
    prv := 1, nxt := 3, last := false }) ∧
  decode (recOfBytes [0x10, 0x79, 0x08, 0x8E, 0x88, 0x50, 0x86, 0x00, 0x00, 0x02, 0x00, 0x00]) = .ok (.mwait {
    sub := 2, pred := .always, ty := .n64, d0 := to' 17 .a, d1 := no, lit := 512, l := true, v := false, lsid := 3, g := false, ord := 1,
    scope := 2, prv := 2, nxt := 4, last := false }) ∧
  decode (recOfBytes [0xC2, 0x78, 0x00, 0xCD, 0xFE, 0x07, 0x08, 0x3C, 0x00, 0x00, 0x00, 0x00]) = .ok (.dirty {
    sub := 0, pred := .always, ty := .n64, d0 := to' 12 .a, d1 := to' 15 .a, lit := 0, lsid := 4, prv := 31, nxt := 31, last := false })

/-- R72 to R91: a record decodes to an instruction exactly when it is that instruction's encoding and the instruction is within
the limits of its row: decoding an encoded instruction gives it back with every field, and no other record is accepted. -/
def Obligations.DecodeIsExact : Prop := ∀ (w : Rec) (i : Instr), decode w = .ok i ↔ i.WellFormed ∧ i.encode = some w

/-- R75, R76, R91: records that are refused, by name: reserved and unassigned opcodes, PRED = 11, and a reserved bit of the common
overlay. -/
def Claims.RecordsAreRefused : Prop :=
  ∀ (w : Rec),
    let o := (w.extractLsb' 88 8).toNat
    let pred := w.extractLsb' 80 2
    let gap := fun (a b : Nat) => a ≤ o ∧ o ≤ b
    (gap 0xE0 0xFE → decode w = .error .reservedOpcode) ∧
    (o = 0 ∨ o = 0xFF ∨ gap 0x0E 0x0F ∨ gap 0x1A 0x1F ∨ gap 0x3D 0x3F ∨ gap 0x56 0x5F ∨ o = 0x67 ∨ gap 0x73 0x77 ∨ gap 0x7A 0x7F ∨
      gap 0x91 0x9F ∨ gap 0xA9 0xAF ∨ gap 0xB7 0xBF ∨ gap 0xCF 0xDF → decode w = .error .illegalOpcode) ∧
    (opcodeAssigned o = true → pred = 3 → decode w = .error .predIllegal) ∧
    (gap 0x20 0x3C ∨ gap 0x40 0x55 → pred ≠ 3 → w.getLsbD 48 = true → decode w = .error .reservedBits)

/-- R75, R76, R106: an opcode without a row takes fault ILLEGAL, a reserved one RESERVED_OPC; arriving poison passes instead. -/
def Claims.UnknownOpcodes : Prop :=
  ∀ (s : State) (w : Rec),
    let c := s.cur
    let raw := RawNode.unpack w
    let h := raw.hdr .always
    (h.d0.val || h.d1.val) = true →
    (∀ o, c.poison? = some o → Answers (.illegalOpcodeFire w) s fun t => Emits s t h 1 (.poison o)) ∧
    (c.poison? = none → raw.opc.toNat < 0xE0 ∨ 0xFE < raw.opc.toNat → Answers (.illegalOpcodeFire w) s fun t =>
      Emits s t h 1 (.poison (c.origin (s.vdOfCtx c.ctx) 0x01))) ∧
    (c.poison? = none → 0xE0 ≤ raw.opc.toNat → raw.opc.toNat ≤ 0xFE → Answers (.illegalOpcodeFire w) s fun t =>
      Emits s t h 1 (.poison (c.origin (s.vdOfCtx c.ctx) 0x02)))

/-- R75, R76, R91, R106: records that are refused by name, and what they do if they reach an element. -/
def Obligations.UnknownRecords : Prop := Claims.RecordsAreRefused ∧ Claims.UnknownOpcodes

/-- A step does the earliest task of the agenda: an event runs as its row; a parked firing runs again where issue is allowed;
without a task a cycle passes; and without power only a package reset acts (R406). -/
def Claims.StepDoesTheEarliestTask : Prop :=
  ∀ (s : State),
    (s.agenda = [] → step s = .next { s with now := s.now + 1 }) ∧
    (∀ due task rest, s.agenda = (due, task) :: rest →
      let u := { s with agenda := rest, now := max s.now due }
      (∀ i, s.power = true → task = .ev i → step s = exec i u) ∧
      (∀ i f, s.power = true → task = .refire i f → (u.ctx? f.ctx).isSome = true →
        u.mayIssue (u.elem f.sid) f.ctx f.rgn = true → u.refireAllowed f = true → step s = exec i { u with cur := f }) ∧
      (s.power = false → task ≠ .ev .packageReset → step s = .next u) ∧
      (s.power = false → task = .ev .packageReset → step s = exec .packageReset u))

/-- R29, R33, R35, R91: when an element's issue is due and its choice is an entry, the step takes the entry out of the ready
queue and runs the instruction that the entry's record decodes to, on the entry's operands; a record that decodes to none runs
as an opcode without a row. -/
def Claims.StepRunsTheDecodedRecord : Prop :=
  ∀ (s : State) (due sid : Nat) (rest : List (Nat × Task)) (c : Candidate), s.power = true → s.agenda = (due, .issue sid) :: rest →
    let s' := { s with agenda := rest, now := max s.now due }
    choose ((s'.elem sid).ready.filterMap (s'.candidate sid (s'.elem sid))) = some c →
    ∃ u : State, u.cur = c.firing s' sid s.serial ∧ u.serial = s.serial + 1 ∧ u.now = s'.now ∧ u.bytes = s.bytes ∧ u.mem = s.mem ∧
      u.eng = s.eng ∧ (∀ r ∈ (u.elem sid).ready, r.same c.entry = false) ∧ (∀ k, k ≠ sid → u.elem k = s.elem k) ∧
      (∀ i, decode c.slot.word = .ok i → step s = exec i u) ∧
      (∀ why, decode c.slot.word = .error why → step s = exec (.illegalOpcodeFire c.slot.word) u)

/-- R29, R33, R35, R91, R406: a step does the earliest task; an issue runs the instruction that the record decodes to. -/
def Obligations.StepRuns : Prop := Claims.StepDoesTheEarliestTask ∧ Claims.StepRunsTheDecodedRecord

/-- R35: the choice among ready entries is eligible and holds a credit; it is one that 64 issues have passed over when there is
such a one, and otherwise the oldest; there is none only when no entry is eligible. -/
def Obligations.IssueChoosesTheOldest : Prop :=
  ∀ (cs : List Candidate),
    let able := fun (c : Candidate) => c ∈ cs ∧ c.free = true ∧ c.credit = true
    (choose cs = none ↔ ∀ c, ¬ able c) ∧
    ∀ c, choose cs = some c → able c ∧
      (64 ≤ c.entry.bypass → ∀ d, able d → 64 ≤ d.entry.bypass → d.entry.before c.entry = false) ∧
      (c.entry.bypass < 64 → ∀ d, able d → d.entry.bypass < 64 ∧ d.entry.before c.entry = false)

/-! ### What holds of every state and every step -/

/-- Every step keeps the byte memories in canonical form (log 4), the agenda in order, and no task overdue (log 1). -/
def Obligations.StepKeepsInv : Prop := ∀ (s t : State), s.Inv → step s = .next t → t.Inv

/-- The state after reset meets the invariant. -/
def Obligations.ResetMeetsInv : Prop := State.reset.Inv

/-- R406: time goes on except at a package reset or when power goes off, when it begins again. -/
def Obligations.TimeGoesOn : Prop :=
  ∀ (s t : State), step s = .next t → s.now ≤ t.now ∨ t.now = 0

/-- R398, R407, R367, R368, R372, R364, R245, R318, R409, R416: what the registers read after reset: VD 0 is Active with 256
domains, 16 tiles and 64/1024 of each class, every other VD is Absent. -/
def Obligations.ResetValues : Prop :=
  let r := State.reset.readReg
  State.reset.power = true ∧ r .devReady = 0 ∧ r .devFail = 0 ∧ r .devPkgId = 0xFFFF ∧
  (∀ d, d < 4 → r (.thermAllow d) = 255 ∧ r (.thermCap d) = 255) ∧ r (.retstat 0) = 1024 ∧
  r (.vdCtl 0) = 0xF02 ∧ r (.vdDom 0) = 0x1000000 ∧ r (.vdAllow 0) = 16 ∧ r (.vdL2Ways 0) = 0xFFFF ∧
  r (.vdShare0 0) = 0x0040004000400040 ∧ r (.vdShare1 0) = 0x0040004000400040 ∧
  (∀ n, n < 64 → 0 < n → r (.vdCtl n) = 0xF00 ∧ r (.vdAllow n) = 0 ∧ r (.vdShare0 n) = 0 ∧ r (.vdShare1 n) = 0) ∧
  (∀ n, n < 64 → r (.vdWdog n) = 30 ∧ r (.vdMquota n) = 4 ∧ r (.vdPlace n) = 8 ∧ r (.vdPtRoot n) = 0 ∧ r (.vdTlbSeq n) = 0)

/-- R33, R106: on every row of the common overlay but REDA and REDX, the poison of the lowest port goes to both destinations,
and else a null operand, or a predicate that does not match, sends null on both. -/
def Claims.PoisonThenNull : Prop :=
  ∀ (s : State) (i : Instr) (opc : BitVec 8) (f : CommonNode), i.view = some (.common opc f) → opc.toNat < 0x78 →
    (f.d0.val || f.d1.val) = true →
    (∀ o, s.cur.poison? = some o → ∃ lat, Answers i s fun t => Emits s t f.toHdr lat (.poison o)) ∧
    (s.cur.poison? = none → s.cur.off f.pred = true → ∃ lat, Answers i s fun t =>
      Sends s t s.cur f.toHdr lat s.cur.tag (.null i.sig.r0) (.null i.sig.r1))

/-- R33, R34, R59: a firing of an integer, address or float row with a destination changes its output buffers and fault capture,
the flags, the progress and the told faults of its context, and what its instance has fired; every byte of memory, every other
element, engine, register and context is as it was. -/
def Claims.ComputingRowsFrame : Prop :=
  ∀ (s t : State) (i : Instr) (opc : BitVec 8) (f : CommonNode), i.view = some (.common opc f) → opc.toNat < 0x60 → i.WellFormed →
    (f.d0.val || f.d1.val) = true → exec i s = .next t → NodeFrame s t s.cur

/-- R33, R34, R59, R106: poison wins, then null; a computing row changes nothing but its outputs, flags and progress. -/
def Obligations.ComputingNodes : Prop := Claims.PoisonThenNull ∧ Claims.ComputingRowsFrame
end

