-- ==== Sys2Proof/Laws/State.lean ====
section
/-! SUPPORT. What every change of the state leaves in every field of the state, and how commands run. -/

namespace Sys2Proof.Machine

/-! The change `fab`. -/

@[simp] theorem Prim.fab_power (f : Fabric → Fabric) (s : State) : (Prim.run (.fab f) s).power = s.power := rfl
@[simp] theorem Prim.fab_fab (f : Fabric → Fabric) (s : State) : (Prim.run (.fab f) s).fab = f s.fab := rfl
@[simp] theorem Prim.fab_run (f : Fabric → Fabric) (s : State) : (Prim.run (.fab f) s).run = s.run := rfl
@[simp] theorem Prim.fab_bytes (f : Fabric → Fabric) (s : State) : (Prim.run (.fab f) s).bytes = s.bytes := rfl
@[simp] theorem Prim.fab_mem (f : Fabric → Fabric) (s : State) : (Prim.run (.fab f) s).mem = s.mem := rfl
@[simp] theorem Prim.fab_eng (f : Fabric → Fabric) (s : State) : (Prim.run (.fab f) s).eng = s.eng := rfl
@[simp] theorem Prim.fab_ten (f : Fabric → Fabric) (s : State) : (Prim.run (.fab f) s).ten = s.ten := rfl
@[simp] theorem Prim.fab_svc (f : Fabric → Fabric) (s : State) : (Prim.run (.fab f) s).svc = s.svc := rfl
@[simp] theorem Prim.fab_agenda (f : Fabric → Fabric) (s : State) : (Prim.run (.fab f) s).agenda = s.agenda := rfl
@[simp] theorem Prim.fab_free (f : Fabric → Fabric) (s : State) : (Prim.run (.fab f) s).free = s.free := rfl
@[simp] theorem Prim.fab_serial (f : Fabric → Fabric) (s : State) : (Prim.run (.fab f) s).serial = s.serial := rfl
@[simp] theorem Prim.fab_cur (f : Fabric → Fabric) (s : State) : (Prim.run (.fab f) s).cur = s.cur := rfl
@[simp] theorem Prim.fab_now (f : Fabric → Fabric) (s : State) : (Prim.run (.fab f) s).now = s.now := rfl

/-! The change `blocks`. -/

@[simp] theorem Prim.blocks_power (f : RunState → RunState) (s : State) : (Prim.run (.blocks f) s).power = s.power := rfl
@[simp] theorem Prim.blocks_fab (f : RunState → RunState) (s : State) : (Prim.run (.blocks f) s).fab = s.fab := rfl
@[simp] theorem Prim.blocks_run (f : RunState → RunState) (s : State) : (Prim.run (.blocks f) s).run = f s.run := rfl
@[simp] theorem Prim.blocks_bytes (f : RunState → RunState) (s : State) : (Prim.run (.blocks f) s).bytes = s.bytes := rfl
@[simp] theorem Prim.blocks_mem (f : RunState → RunState) (s : State) : (Prim.run (.blocks f) s).mem = s.mem := rfl
@[simp] theorem Prim.blocks_eng (f : RunState → RunState) (s : State) : (Prim.run (.blocks f) s).eng = s.eng := rfl
@[simp] theorem Prim.blocks_ten (f : RunState → RunState) (s : State) : (Prim.run (.blocks f) s).ten = s.ten := rfl
@[simp] theorem Prim.blocks_svc (f : RunState → RunState) (s : State) : (Prim.run (.blocks f) s).svc = s.svc := rfl
@[simp] theorem Prim.blocks_agenda (f : RunState → RunState) (s : State) : (Prim.run (.blocks f) s).agenda = s.agenda := rfl
@[simp] theorem Prim.blocks_free (f : RunState → RunState) (s : State) : (Prim.run (.blocks f) s).free = s.free := rfl
@[simp] theorem Prim.blocks_serial (f : RunState → RunState) (s : State) : (Prim.run (.blocks f) s).serial = s.serial := rfl
@[simp] theorem Prim.blocks_cur (f : RunState → RunState) (s : State) : (Prim.run (.blocks f) s).cur = s.cur := rfl
@[simp] theorem Prim.blocks_now (f : RunState → RunState) (s : State) : (Prim.run (.blocks f) s).now = s.now := rfl

/-! The change `mem`. -/

@[simp] theorem Prim.mem_power (f : MemSys → MemSys) (s : State) : (Prim.run (.mem f) s).power = s.power := rfl
@[simp] theorem Prim.mem_fab (f : MemSys → MemSys) (s : State) : (Prim.run (.mem f) s).fab = s.fab := rfl
@[simp] theorem Prim.mem_run (f : MemSys → MemSys) (s : State) : (Prim.run (.mem f) s).run = s.run := rfl
@[simp] theorem Prim.mem_bytes (f : MemSys → MemSys) (s : State) : (Prim.run (.mem f) s).bytes = s.bytes := rfl
@[simp] theorem Prim.mem_mem (f : MemSys → MemSys) (s : State) : (Prim.run (.mem f) s).mem = f s.mem := rfl
@[simp] theorem Prim.mem_eng (f : MemSys → MemSys) (s : State) : (Prim.run (.mem f) s).eng = s.eng := rfl
@[simp] theorem Prim.mem_ten (f : MemSys → MemSys) (s : State) : (Prim.run (.mem f) s).ten = s.ten := rfl
@[simp] theorem Prim.mem_svc (f : MemSys → MemSys) (s : State) : (Prim.run (.mem f) s).svc = s.svc := rfl
@[simp] theorem Prim.mem_agenda (f : MemSys → MemSys) (s : State) : (Prim.run (.mem f) s).agenda = s.agenda := rfl
@[simp] theorem Prim.mem_free (f : MemSys → MemSys) (s : State) : (Prim.run (.mem f) s).free = s.free := rfl
@[simp] theorem Prim.mem_serial (f : MemSys → MemSys) (s : State) : (Prim.run (.mem f) s).serial = s.serial := rfl
@[simp] theorem Prim.mem_cur (f : MemSys → MemSys) (s : State) : (Prim.run (.mem f) s).cur = s.cur := rfl
@[simp] theorem Prim.mem_now (f : MemSys → MemSys) (s : State) : (Prim.run (.mem f) s).now = s.now := rfl

/-! The change `eng`. -/

@[simp] theorem Prim.eng_power (f : EngState → EngState) (s : State) : (Prim.run (.eng f) s).power = s.power := rfl
@[simp] theorem Prim.eng_fab (f : EngState → EngState) (s : State) : (Prim.run (.eng f) s).fab = s.fab := rfl
@[simp] theorem Prim.eng_run (f : EngState → EngState) (s : State) : (Prim.run (.eng f) s).run = s.run := rfl
@[simp] theorem Prim.eng_bytes (f : EngState → EngState) (s : State) : (Prim.run (.eng f) s).bytes = s.bytes := rfl
@[simp] theorem Prim.eng_mem (f : EngState → EngState) (s : State) : (Prim.run (.eng f) s).mem = s.mem := rfl
@[simp] theorem Prim.eng_eng (f : EngState → EngState) (s : State) : (Prim.run (.eng f) s).eng = f s.eng := rfl
@[simp] theorem Prim.eng_ten (f : EngState → EngState) (s : State) : (Prim.run (.eng f) s).ten = s.ten := rfl
@[simp] theorem Prim.eng_svc (f : EngState → EngState) (s : State) : (Prim.run (.eng f) s).svc = s.svc := rfl
@[simp] theorem Prim.eng_agenda (f : EngState → EngState) (s : State) : (Prim.run (.eng f) s).agenda = s.agenda := rfl
@[simp] theorem Prim.eng_free (f : EngState → EngState) (s : State) : (Prim.run (.eng f) s).free = s.free := rfl
@[simp] theorem Prim.eng_serial (f : EngState → EngState) (s : State) : (Prim.run (.eng f) s).serial = s.serial := rfl
@[simp] theorem Prim.eng_cur (f : EngState → EngState) (s : State) : (Prim.run (.eng f) s).cur = s.cur := rfl
@[simp] theorem Prim.eng_now (f : EngState → EngState) (s : State) : (Prim.run (.eng f) s).now = s.now := rfl

/-! The change `ten`. -/

@[simp] theorem Prim.ten_power (f : TenState → TenState) (s : State) : (Prim.run (.ten f) s).power = s.power := rfl
@[simp] theorem Prim.ten_fab (f : TenState → TenState) (s : State) : (Prim.run (.ten f) s).fab = s.fab := rfl
@[simp] theorem Prim.ten_run (f : TenState → TenState) (s : State) : (Prim.run (.ten f) s).run = s.run := rfl
@[simp] theorem Prim.ten_bytes (f : TenState → TenState) (s : State) : (Prim.run (.ten f) s).bytes = s.bytes := rfl
@[simp] theorem Prim.ten_mem (f : TenState → TenState) (s : State) : (Prim.run (.ten f) s).mem = s.mem := rfl
@[simp] theorem Prim.ten_eng (f : TenState → TenState) (s : State) : (Prim.run (.ten f) s).eng = s.eng := rfl
@[simp] theorem Prim.ten_ten (f : TenState → TenState) (s : State) : (Prim.run (.ten f) s).ten = f s.ten := rfl
@[simp] theorem Prim.ten_svc (f : TenState → TenState) (s : State) : (Prim.run (.ten f) s).svc = s.svc := rfl
@[simp] theorem Prim.ten_agenda (f : TenState → TenState) (s : State) : (Prim.run (.ten f) s).agenda = s.agenda := rfl
@[simp] theorem Prim.ten_free (f : TenState → TenState) (s : State) : (Prim.run (.ten f) s).free = s.free := rfl
@[simp] theorem Prim.ten_serial (f : TenState → TenState) (s : State) : (Prim.run (.ten f) s).serial = s.serial := rfl
@[simp] theorem Prim.ten_cur (f : TenState → TenState) (s : State) : (Prim.run (.ten f) s).cur = s.cur := rfl
@[simp] theorem Prim.ten_now (f : TenState → TenState) (s : State) : (Prim.run (.ten f) s).now = s.now := rfl

/-! The change `svc`. -/

@[simp] theorem Prim.svc_power (f : SvcState → SvcState) (s : State) : (Prim.run (.svc f) s).power = s.power := rfl
@[simp] theorem Prim.svc_fab (f : SvcState → SvcState) (s : State) : (Prim.run (.svc f) s).fab = s.fab := rfl
@[simp] theorem Prim.svc_run (f : SvcState → SvcState) (s : State) : (Prim.run (.svc f) s).run = s.run := rfl
@[simp] theorem Prim.svc_bytes (f : SvcState → SvcState) (s : State) : (Prim.run (.svc f) s).bytes = s.bytes := rfl
@[simp] theorem Prim.svc_mem (f : SvcState → SvcState) (s : State) : (Prim.run (.svc f) s).mem = s.mem := rfl
@[simp] theorem Prim.svc_eng (f : SvcState → SvcState) (s : State) : (Prim.run (.svc f) s).eng = s.eng := rfl
@[simp] theorem Prim.svc_ten (f : SvcState → SvcState) (s : State) : (Prim.run (.svc f) s).ten = s.ten := rfl
@[simp] theorem Prim.svc_svc (f : SvcState → SvcState) (s : State) : (Prim.run (.svc f) s).svc = f s.svc := rfl
@[simp] theorem Prim.svc_agenda (f : SvcState → SvcState) (s : State) : (Prim.run (.svc f) s).agenda = s.agenda := rfl
@[simp] theorem Prim.svc_free (f : SvcState → SvcState) (s : State) : (Prim.run (.svc f) s).free = s.free := rfl
@[simp] theorem Prim.svc_serial (f : SvcState → SvcState) (s : State) : (Prim.run (.svc f) s).serial = s.serial := rfl
@[simp] theorem Prim.svc_cur (f : SvcState → SvcState) (s : State) : (Prim.run (.svc f) s).cur = s.cur := rfl
@[simp] theorem Prim.svc_now (f : SvcState → SvcState) (s : State) : (Prim.run (.svc f) s).now = s.now := rfl

/-! The change `dram`. -/

@[simp] theorem Prim.dram_power (a : Nat) (bs : List Byte) (s : State) : (Prim.run (.dram a bs) s).power = s.power := rfl
@[simp] theorem Prim.dram_fab (a : Nat) (bs : List Byte) (s : State) : (Prim.run (.dram a bs) s).fab = s.fab := rfl
@[simp] theorem Prim.dram_run (a : Nat) (bs : List Byte) (s : State) : (Prim.run (.dram a bs) s).run = s.run := rfl
@[simp] theorem Prim.dram_bytes (a : Nat) (bs : List Byte) (s : State) : (Prim.run (.dram a bs) s).bytes = { s.bytes with dram := s.bytes.dram.write a bs } := rfl
@[simp] theorem Prim.dram_mem (a : Nat) (bs : List Byte) (s : State) : (Prim.run (.dram a bs) s).mem = s.mem := rfl
@[simp] theorem Prim.dram_eng (a : Nat) (bs : List Byte) (s : State) : (Prim.run (.dram a bs) s).eng = s.eng := rfl
@[simp] theorem Prim.dram_ten (a : Nat) (bs : List Byte) (s : State) : (Prim.run (.dram a bs) s).ten = s.ten := rfl
@[simp] theorem Prim.dram_svc (a : Nat) (bs : List Byte) (s : State) : (Prim.run (.dram a bs) s).svc = s.svc := rfl
@[simp] theorem Prim.dram_agenda (a : Nat) (bs : List Byte) (s : State) : (Prim.run (.dram a bs) s).agenda = s.agenda := rfl
@[simp] theorem Prim.dram_free (a : Nat) (bs : List Byte) (s : State) : (Prim.run (.dram a bs) s).free = s.free := rfl
@[simp] theorem Prim.dram_serial (a : Nat) (bs : List Byte) (s : State) : (Prim.run (.dram a bs) s).serial = s.serial := rfl
@[simp] theorem Prim.dram_cur (a : Nat) (bs : List Byte) (s : State) : (Prim.run (.dram a bs) s).cur = s.cur := rfl
@[simp] theorem Prim.dram_now (a : Nat) (bs : List Byte) (s : State) : (Prim.run (.dram a bs) s).now = s.now := rfl

/-! The change `host`. -/

@[simp] theorem Prim.host_power (a : Nat) (bs : List Byte) (s : State) : (Prim.run (.host a bs) s).power = s.power := rfl
@[simp] theorem Prim.host_fab (a : Nat) (bs : List Byte) (s : State) : (Prim.run (.host a bs) s).fab = s.fab := rfl
@[simp] theorem Prim.host_run (a : Nat) (bs : List Byte) (s : State) : (Prim.run (.host a bs) s).run = s.run := rfl
@[simp] theorem Prim.host_bytes (a : Nat) (bs : List Byte) (s : State) : (Prim.run (.host a bs) s).bytes = { s.bytes with host := s.bytes.host.write a bs } := rfl
@[simp] theorem Prim.host_mem (a : Nat) (bs : List Byte) (s : State) : (Prim.run (.host a bs) s).mem = s.mem := rfl
@[simp] theorem Prim.host_eng (a : Nat) (bs : List Byte) (s : State) : (Prim.run (.host a bs) s).eng = s.eng := rfl
@[simp] theorem Prim.host_ten (a : Nat) (bs : List Byte) (s : State) : (Prim.run (.host a bs) s).ten = s.ten := rfl
@[simp] theorem Prim.host_svc (a : Nat) (bs : List Byte) (s : State) : (Prim.run (.host a bs) s).svc = s.svc := rfl
@[simp] theorem Prim.host_agenda (a : Nat) (bs : List Byte) (s : State) : (Prim.run (.host a bs) s).agenda = s.agenda := rfl
@[simp] theorem Prim.host_free (a : Nat) (bs : List Byte) (s : State) : (Prim.run (.host a bs) s).free = s.free := rfl
@[simp] theorem Prim.host_serial (a : Nat) (bs : List Byte) (s : State) : (Prim.run (.host a bs) s).serial = s.serial := rfl
@[simp] theorem Prim.host_cur (a : Nat) (bs : List Byte) (s : State) : (Prim.run (.host a bs) s).cur = s.cur := rfl
@[simp] theorem Prim.host_now (a : Nat) (bs : List Byte) (s : State) : (Prim.run (.host a bs) s).now = s.now := rfl

/-! The change `vault`. -/

@[simp] theorem Prim.vault_power (a : Nat) (bs : List Byte) (s : State) : (Prim.run (.vault a bs) s).power = s.power := rfl
@[simp] theorem Prim.vault_fab (a : Nat) (bs : List Byte) (s : State) : (Prim.run (.vault a bs) s).fab = s.fab := rfl
@[simp] theorem Prim.vault_run (a : Nat) (bs : List Byte) (s : State) : (Prim.run (.vault a bs) s).run = s.run := rfl
@[simp] theorem Prim.vault_bytes (a : Nat) (bs : List Byte) (s : State) : (Prim.run (.vault a bs) s).bytes = { s.bytes with vault := s.bytes.vault.write a bs } := rfl
@[simp] theorem Prim.vault_mem (a : Nat) (bs : List Byte) (s : State) : (Prim.run (.vault a bs) s).mem = s.mem := rfl
@[simp] theorem Prim.vault_eng (a : Nat) (bs : List Byte) (s : State) : (Prim.run (.vault a bs) s).eng = s.eng := rfl
@[simp] theorem Prim.vault_ten (a : Nat) (bs : List Byte) (s : State) : (Prim.run (.vault a bs) s).ten = s.ten := rfl
@[simp] theorem Prim.vault_svc (a : Nat) (bs : List Byte) (s : State) : (Prim.run (.vault a bs) s).svc = s.svc := rfl
@[simp] theorem Prim.vault_agenda (a : Nat) (bs : List Byte) (s : State) : (Prim.run (.vault a bs) s).agenda = s.agenda := rfl
@[simp] theorem Prim.vault_free (a : Nat) (bs : List Byte) (s : State) : (Prim.run (.vault a bs) s).free = s.free := rfl
@[simp] theorem Prim.vault_serial (a : Nat) (bs : List Byte) (s : State) : (Prim.run (.vault a bs) s).serial = s.serial := rfl
@[simp] theorem Prim.vault_cur (a : Nat) (bs : List Byte) (s : State) : (Prim.run (.vault a bs) s).cur = s.cur := rfl
@[simp] theorem Prim.vault_now (a : Nat) (bs : List Byte) (s : State) : (Prim.run (.vault a bs) s).now = s.now := rfl

/-! The change `loseBytes`. -/

@[simp] theorem Prim.loseBytes_power (s : State) : (Prim.run .loseBytes s).power = s.power := rfl
@[simp] theorem Prim.loseBytes_fab (s : State) : (Prim.run .loseBytes s).fab = s.fab := rfl
@[simp] theorem Prim.loseBytes_run (s : State) : (Prim.run .loseBytes s).run = s.run := rfl
@[simp] theorem Prim.loseBytes_bytes (s : State) : (Prim.run .loseBytes s).bytes = ⟨[], [], []⟩ := rfl
@[simp] theorem Prim.loseBytes_mem (s : State) : (Prim.run .loseBytes s).mem = s.mem := rfl
@[simp] theorem Prim.loseBytes_eng (s : State) : (Prim.run .loseBytes s).eng = s.eng := rfl
@[simp] theorem Prim.loseBytes_ten (s : State) : (Prim.run .loseBytes s).ten = s.ten := rfl
@[simp] theorem Prim.loseBytes_svc (s : State) : (Prim.run .loseBytes s).svc = s.svc := rfl
@[simp] theorem Prim.loseBytes_agenda (s : State) : (Prim.run .loseBytes s).agenda = s.agenda := rfl
@[simp] theorem Prim.loseBytes_free (s : State) : (Prim.run .loseBytes s).free = s.free := rfl
@[simp] theorem Prim.loseBytes_serial (s : State) : (Prim.run .loseBytes s).serial = s.serial := rfl
@[simp] theorem Prim.loseBytes_cur (s : State) : (Prim.run .loseBytes s).cur = s.cur := rfl
@[simp] theorem Prim.loseBytes_now (s : State) : (Prim.run .loseBytes s).now = s.now := rfl

/-! The change `schedule`. -/

@[simp] theorem Prim.schedule_power (d : Nat) (t : Task) (s : State) : (Prim.run (.schedule d t) s).power = s.power := rfl
@[simp] theorem Prim.schedule_fab (d : Nat) (t : Task) (s : State) : (Prim.run (.schedule d t) s).fab = s.fab := rfl
@[simp] theorem Prim.schedule_run (d : Nat) (t : Task) (s : State) : (Prim.run (.schedule d t) s).run = s.run := rfl
@[simp] theorem Prim.schedule_bytes (d : Nat) (t : Task) (s : State) : (Prim.run (.schedule d t) s).bytes = s.bytes := rfl
@[simp] theorem Prim.schedule_mem (d : Nat) (t : Task) (s : State) : (Prim.run (.schedule d t) s).mem = s.mem := rfl
@[simp] theorem Prim.schedule_eng (d : Nat) (t : Task) (s : State) : (Prim.run (.schedule d t) s).eng = s.eng := rfl
@[simp] theorem Prim.schedule_ten (d : Nat) (t : Task) (s : State) : (Prim.run (.schedule d t) s).ten = s.ten := rfl
@[simp] theorem Prim.schedule_svc (d : Nat) (t : Task) (s : State) : (Prim.run (.schedule d t) s).svc = s.svc := rfl
@[simp] theorem Prim.schedule_agenda (d : Nat) (t : Task) (s : State) : (Prim.run (.schedule d t) s).agenda = agendaInsert s.agenda (s.now + d) t := rfl
@[simp] theorem Prim.schedule_free (d : Nat) (t : Task) (s : State) : (Prim.run (.schedule d t) s).free = s.free := rfl
@[simp] theorem Prim.schedule_serial (d : Nat) (t : Task) (s : State) : (Prim.run (.schedule d t) s).serial = s.serial := rfl
@[simp] theorem Prim.schedule_cur (d : Nat) (t : Task) (s : State) : (Prim.run (.schedule d t) s).cur = s.cur := rfl
@[simp] theorem Prim.schedule_now (d : Nat) (t : Task) (s : State) : (Prim.run (.schedule d t) s).now = s.now := rfl

/-! The change `drop`. -/

@[simp] theorem Prim.drop_power (p : Task → Bool) (s : State) : (Prim.run (.drop p) s).power = s.power := rfl
@[simp] theorem Prim.drop_fab (p : Task → Bool) (s : State) : (Prim.run (.drop p) s).fab = s.fab := rfl
@[simp] theorem Prim.drop_run (p : Task → Bool) (s : State) : (Prim.run (.drop p) s).run = s.run := rfl
@[simp] theorem Prim.drop_bytes (p : Task → Bool) (s : State) : (Prim.run (.drop p) s).bytes = s.bytes := rfl
@[simp] theorem Prim.drop_mem (p : Task → Bool) (s : State) : (Prim.run (.drop p) s).mem = s.mem := rfl
@[simp] theorem Prim.drop_eng (p : Task → Bool) (s : State) : (Prim.run (.drop p) s).eng = s.eng := rfl
@[simp] theorem Prim.drop_ten (p : Task → Bool) (s : State) : (Prim.run (.drop p) s).ten = s.ten := rfl
@[simp] theorem Prim.drop_svc (p : Task → Bool) (s : State) : (Prim.run (.drop p) s).svc = s.svc := rfl
@[simp] theorem Prim.drop_agenda (p : Task → Bool) (s : State) : (Prim.run (.drop p) s).agenda = s.agenda.filter (fun x => !p x.2) := rfl
@[simp] theorem Prim.drop_free (p : Task → Bool) (s : State) : (Prim.run (.drop p) s).free = s.free := rfl
@[simp] theorem Prim.drop_serial (p : Task → Bool) (s : State) : (Prim.run (.drop p) s).serial = s.serial := rfl
@[simp] theorem Prim.drop_cur (p : Task → Bool) (s : State) : (Prim.run (.drop p) s).cur = s.cur := rfl
@[simp] theorem Prim.drop_now (p : Task → Bool) (s : State) : (Prim.run (.drop p) s).now = s.now := rfl

/-! The change `takeSerial`. -/

@[simp] theorem Prim.takeSerial_power (s : State) : (Prim.run .takeSerial s).power = s.power := rfl
@[simp] theorem Prim.takeSerial_fab (s : State) : (Prim.run .takeSerial s).fab = s.fab := rfl
@[simp] theorem Prim.takeSerial_run (s : State) : (Prim.run .takeSerial s).run = s.run := rfl
@[simp] theorem Prim.takeSerial_bytes (s : State) : (Prim.run .takeSerial s).bytes = s.bytes := rfl
@[simp] theorem Prim.takeSerial_mem (s : State) : (Prim.run .takeSerial s).mem = s.mem := rfl
@[simp] theorem Prim.takeSerial_eng (s : State) : (Prim.run .takeSerial s).eng = s.eng := rfl
@[simp] theorem Prim.takeSerial_ten (s : State) : (Prim.run .takeSerial s).ten = s.ten := rfl
@[simp] theorem Prim.takeSerial_svc (s : State) : (Prim.run .takeSerial s).svc = s.svc := rfl
@[simp] theorem Prim.takeSerial_agenda (s : State) : (Prim.run .takeSerial s).agenda = s.agenda := rfl
@[simp] theorem Prim.takeSerial_free (s : State) : (Prim.run .takeSerial s).free = s.free := rfl
@[simp] theorem Prim.takeSerial_serial (s : State) : (Prim.run .takeSerial s).serial = s.serial + 1 := rfl
@[simp] theorem Prim.takeSerial_cur (s : State) : (Prim.run .takeSerial s).cur = s.cur := rfl
@[simp] theorem Prim.takeSerial_now (s : State) : (Prim.run .takeSerial s).now = s.now := rfl

/-! The change `takeFree`. -/

@[simp] theorem Prim.takeFree_power (s : State) : (Prim.run .takeFree s).power = s.power := rfl
@[simp] theorem Prim.takeFree_fab (s : State) : (Prim.run .takeFree s).fab = s.fab := rfl
@[simp] theorem Prim.takeFree_run (s : State) : (Prim.run .takeFree s).run = s.run := rfl
@[simp] theorem Prim.takeFree_bytes (s : State) : (Prim.run .takeFree s).bytes = s.bytes := rfl
@[simp] theorem Prim.takeFree_mem (s : State) : (Prim.run .takeFree s).mem = s.mem := rfl
@[simp] theorem Prim.takeFree_eng (s : State) : (Prim.run .takeFree s).eng = s.eng := rfl
@[simp] theorem Prim.takeFree_ten (s : State) : (Prim.run .takeFree s).ten = s.ten := rfl
@[simp] theorem Prim.takeFree_svc (s : State) : (Prim.run .takeFree s).svc = s.svc := rfl
@[simp] theorem Prim.takeFree_agenda (s : State) : (Prim.run .takeFree s).agenda = s.agenda := rfl
@[simp] theorem Prim.takeFree_free (s : State) : (Prim.run .takeFree s).free = s.free + 1 := rfl
@[simp] theorem Prim.takeFree_serial (s : State) : (Prim.run .takeFree s).serial = s.serial := rfl
@[simp] theorem Prim.takeFree_cur (s : State) : (Prim.run .takeFree s).cur = s.cur := rfl
@[simp] theorem Prim.takeFree_now (s : State) : (Prim.run .takeFree s).now = s.now := rfl

/-! The change `setCur`. -/

@[simp] theorem Prim.setCur_power (f : Firing) (s : State) : (Prim.run (.setCur f) s).power = s.power := rfl
@[simp] theorem Prim.setCur_fab (f : Firing) (s : State) : (Prim.run (.setCur f) s).fab = s.fab := rfl
@[simp] theorem Prim.setCur_run (f : Firing) (s : State) : (Prim.run (.setCur f) s).run = s.run := rfl
@[simp] theorem Prim.setCur_bytes (f : Firing) (s : State) : (Prim.run (.setCur f) s).bytes = s.bytes := rfl
@[simp] theorem Prim.setCur_mem (f : Firing) (s : State) : (Prim.run (.setCur f) s).mem = s.mem := rfl
@[simp] theorem Prim.setCur_eng (f : Firing) (s : State) : (Prim.run (.setCur f) s).eng = s.eng := rfl
@[simp] theorem Prim.setCur_ten (f : Firing) (s : State) : (Prim.run (.setCur f) s).ten = s.ten := rfl
@[simp] theorem Prim.setCur_svc (f : Firing) (s : State) : (Prim.run (.setCur f) s).svc = s.svc := rfl
@[simp] theorem Prim.setCur_agenda (f : Firing) (s : State) : (Prim.run (.setCur f) s).agenda = s.agenda := rfl
@[simp] theorem Prim.setCur_free (f : Firing) (s : State) : (Prim.run (.setCur f) s).free = s.free := rfl
@[simp] theorem Prim.setCur_serial (f : Firing) (s : State) : (Prim.run (.setCur f) s).serial = s.serial := rfl
@[simp] theorem Prim.setCur_cur (f : Firing) (s : State) : (Prim.run (.setCur f) s).cur = f := rfl
@[simp] theorem Prim.setCur_now (f : Firing) (s : State) : (Prim.run (.setCur f) s).now = s.now := rfl

/-! The change `setPower`. -/

@[simp] theorem Prim.setPower_power (b : Bool) (s : State) : (Prim.run (.setPower b) s).power = b := rfl
@[simp] theorem Prim.setPower_fab (b : Bool) (s : State) : (Prim.run (.setPower b) s).fab = s.fab := rfl
@[simp] theorem Prim.setPower_run (b : Bool) (s : State) : (Prim.run (.setPower b) s).run = s.run := rfl
@[simp] theorem Prim.setPower_bytes (b : Bool) (s : State) : (Prim.run (.setPower b) s).bytes = s.bytes := rfl
@[simp] theorem Prim.setPower_mem (b : Bool) (s : State) : (Prim.run (.setPower b) s).mem = s.mem := rfl
@[simp] theorem Prim.setPower_eng (b : Bool) (s : State) : (Prim.run (.setPower b) s).eng = s.eng := rfl
@[simp] theorem Prim.setPower_ten (b : Bool) (s : State) : (Prim.run (.setPower b) s).ten = s.ten := rfl
@[simp] theorem Prim.setPower_svc (b : Bool) (s : State) : (Prim.run (.setPower b) s).svc = s.svc := rfl
@[simp] theorem Prim.setPower_agenda (b : Bool) (s : State) : (Prim.run (.setPower b) s).agenda = s.agenda := rfl
@[simp] theorem Prim.setPower_free (b : Bool) (s : State) : (Prim.run (.setPower b) s).free = s.free := rfl
@[simp] theorem Prim.setPower_serial (b : Bool) (s : State) : (Prim.run (.setPower b) s).serial = s.serial := rfl
@[simp] theorem Prim.setPower_cur (b : Bool) (s : State) : (Prim.run (.setPower b) s).cur = s.cur := rfl
@[simp] theorem Prim.setPower_now (b : Bool) (s : State) : (Prim.run (.setPower b) s).now = s.now := rfl

/-! The change `rewind`. -/

@[simp] theorem Prim.rewind_power (s : State) : (Prim.run .rewind s).power = s.power := rfl
@[simp] theorem Prim.rewind_fab (s : State) : (Prim.run .rewind s).fab = s.fab := rfl
@[simp] theorem Prim.rewind_run (s : State) : (Prim.run .rewind s).run = s.run := rfl
@[simp] theorem Prim.rewind_bytes (s : State) : (Prim.run .rewind s).bytes = s.bytes := rfl
@[simp] theorem Prim.rewind_mem (s : State) : (Prim.run .rewind s).mem = s.mem := rfl
@[simp] theorem Prim.rewind_eng (s : State) : (Prim.run .rewind s).eng = s.eng := rfl
@[simp] theorem Prim.rewind_ten (s : State) : (Prim.run .rewind s).ten = s.ten := rfl
@[simp] theorem Prim.rewind_svc (s : State) : (Prim.run .rewind s).svc = s.svc := rfl
@[simp] theorem Prim.rewind_agenda (s : State) : (Prim.run .rewind s).agenda = s.agenda := rfl
@[simp] theorem Prim.rewind_free (s : State) : (Prim.run .rewind s).free = s.free := rfl
@[simp] theorem Prim.rewind_serial (s : State) : (Prim.run .rewind s).serial = s.serial := rfl
@[simp] theorem Prim.rewind_cur (s : State) : (Prim.run .rewind s).cur = s.cur := rfl
@[simp] theorem Prim.rewind_now (s : State) : (Prim.run .rewind s).now = 0 := rfl

/-! Commands. -/

@[simp] theorem Cmd.exec_skip (s : State) : Cmd.skip.exec s = s := rfl
@[simp] theorem Cmd.exec_prim (p : Prim) (s : State) : (Cmd.prim p).exec s = p.run s := rfl
@[simp] theorem Cmd.exec_seq (a b : Cmd) (s : State) : (Cmd.seq a b).exec s = b.exec (a.exec s) := rfl
@[simp] theorem Cmd.exec_get (k : State → Cmd) (s : State) : (Cmd.get k).exec s = (k s).exec s := rfl
@[simp] theorem Cmd.exec_all_nil (s : State) : (Cmd.all []).exec s = s := rfl
@[simp] theorem Cmd.exec_all_one (c : Cmd) (s : State) : (Cmd.all [c]).exec s = c.exec s := rfl
@[simp] theorem Cmd.exec_all_cons (c d : Cmd) (cs : List Cmd) (s : State) :
    (Cmd.all (c :: d :: cs)).exec s = (Cmd.all (d :: cs)).exec (c.exec s) := rfl
@[simp] theorem Cmd.exec_each_nil {α : Type} (f : α → Cmd) (s : State) : (Cmd.each [] f).exec s = s := rfl
@[simp] theorem Cmd.exec_each_cons {α : Type} (x : α) (xs : List α) (f : α → Cmd) (s : State) :
    (Cmd.each (x :: xs) f).exec s = (Cmd.each xs f).exec ((f x).exec s) := rfl
@[simp] theorem Cmd.exec_when_true (c : Cmd) (s : State) : (Cmd.when true c).exec s = c.exec s := rfl
@[simp] theorem Cmd.exec_when_false (c : Cmd) (s : State) : (Cmd.when false c).exec s = s := rfl
@[simp] theorem Cmd.exec_opt_some {α : Type} (x : α) (f : α → Cmd) (s : State) : (Cmd.opt (some x) f).exec s = (f x).exec s := rfl
@[simp] theorem Cmd.exec_opt_none {α : Type} (f : α → Cmd) (s : State) : (Cmd.opt none f).exec s = s := rfl
@[simp] theorem Cmd.next_eq (c : Cmd) (s : State) : c.next s = .next (c.exec s) := rfl
@[simp] theorem Cmd.exec_after (n : Nat) (i : Instr) (s : State) :
    (after n i).exec s = (Prim.schedule n (.ev i)).run s := rfl
@[simp] theorem Cmd.exec_afterTask (n : Nat) (t : Task) (s : State) :
    (afterTask n t).exec s = (Prim.schedule n t).run s := rfl
@[simp] theorem Cmd.exec_withSerial (k : Nat → Cmd) (s : State) :
    (withSerial k).exec s = (k s.serial).exec (Prim.takeSerial.run s) := rfl
@[simp] theorem Cmd.exec_withFree (k : W64 → Cmd) (s : State) :
    (withFree k).exec s = (k (Config.freeValue s.free)).exec (Prim.takeFree.run s) := rfl

end Sys2Proof.Machine
end

