-- ==== Sys2Proof/Laws/Tables.lean ====
section
/-! SUPPORT. Laws of tables and of byte memories: what a read gives after a write, and that every write keeps the canonical
form. -/

namespace Sys2Proof.Machine

/-! ### Tables -/

@[simp] theorem Tbl.get?_set_self {α : Type} (t : Tbl α) (k : Nat) (v : α) : (t.set k v).get? k = some v := by
  induction t with
  | nil => simp [Tbl.set, Tbl.get?]
  | cons x t ih =>
    obtain ⟨a, b⟩ := x
    unfold Tbl.set
    split
    · simp [Tbl.get?]
    · split
      · simp [Tbl.get?]
      · simp only [Tbl.get?]; split
        · omega
        · simpa [*] using ih

theorem Tbl.get?_set_ne {α : Type} (t : Tbl α) {k j : Nat} (v : α) (h : j ≠ k) : (t.set k v).get? j = t.get? j := by
  induction t with
  | nil => simp [Tbl.set, Tbl.get?, h.symm]
  | cons x t ih =>
    obtain ⟨a, b⟩ := x
    unfold Tbl.set
    split
    · simp only [Tbl.get?, h.symm, if_false]
      split
      · split
        · omega
        · split
          · rfl
          · omega
      · rfl
    · split
      · subst_vars; simp only [Tbl.get?, h.symm, if_false]
      · simp only [Tbl.get?]; rw [ih]

theorem Tbl.get?_set {α : Type} (t : Tbl α) (k j : Nat) (v : α) : (t.set k v).get? j = if j = k then some v else t.get? j := by
  split
  · subst_vars; simp
  · exact Tbl.get?_set_ne t v ‹_›

@[simp] theorem Tbl.getD_set_self {α : Type} (t : Tbl α) (k : Nat) (v d : α) : (t.set k v).getD k d = v := by simp [Tbl.getD]

theorem Tbl.getD_set_ne {α : Type} (t : Tbl α) {k j : Nat} (v d : α) (h : j ≠ k) : (t.set k v).getD j d = t.getD j d := by
  simp [Tbl.getD, Tbl.get?_set_ne t v h]

@[simp] theorem Tbl.get?_mod_self {α : Type} (t : Tbl α) (k : Nat) (f : α → α) : (t.mod k f).get? k = (t.get? k).map f := by
  unfold Tbl.mod; split <;> simp [*]

theorem Tbl.get?_mod_ne {α : Type} (t : Tbl α) {k j : Nat} (f : α → α) (h : j ≠ k) : (t.mod k f).get? j = t.get? j := by
  unfold Tbl.mod; split
  · exact Tbl.get?_set_ne t _ h
  · rfl

theorem Tbl.get?_mod {α : Type} (t : Tbl α) (k j : Nat) (f : α → α) :
    (t.mod k f).get? j = if j = k then (t.get? k).map f else t.get? j := by
  split
  · subst_vars; simp
  · exact Tbl.get?_mod_ne t f ‹_›

@[simp] theorem Tbl.get?_nil {α : Type} (k : Nat) : Tbl.get? ([] : Tbl α) k = none := rfl

/-! ### Byte memories -/

theorem Mem.byte_below {m : Mem} {lo a : Nat} (h : Mem.wfFrom lo m) (ha : a < lo) : m.byte a = 0 := by
  cases m with
  | nil => rfl
  | cons x t =>
    obtain ⟨k, v⟩ := x
    simp only [Mem.wfFrom, Bool.and_eq_true, decide_eq_true_eq] at h
    have : k ≠ a ∧ a < k := by omega
    simp [Mem.byte, this]

theorem Mem.wfFrom_mono {m : Mem} {lo lo' : Nat} (h : Mem.wfFrom lo m) (hl : lo' ≤ lo) : Mem.wfFrom lo' m := by
  cases m with
  | nil => rfl
  | cons x t =>
    obtain ⟨k, v⟩ := x
    simp only [Mem.wfFrom, Bool.and_eq_true, decide_eq_true_eq] at h ⊢
    exact ⟨⟨by omega, h.1.2⟩, h.2⟩

theorem Mem.wfFrom_put {m : Mem} {lo a : Nat} (b : Byte) (h : Mem.wfFrom lo m) (ha : lo ≤ a) : Mem.wfFrom lo (m.put a b) := by
  induction m generalizing lo with
  | nil =>
    unfold Mem.put
    split
    · rfl
    · simp only [Mem.wfFrom, Bool.and_eq_true, decide_eq_true_eq, Bool.not_eq_true', decide_eq_false_iff_not]
      exact ⟨⟨ha, ‹_›⟩, trivial⟩
  | cons x t ih =>
    obtain ⟨k, v⟩ := x
    simp only [Mem.wfFrom, Bool.and_eq_true, decide_eq_true_eq, Bool.not_eq_true', decide_eq_false_iff_not] at h
    obtain ⟨⟨h1, h2⟩, h3⟩ := h
    unfold Mem.put
    split
    · split
      · simp only [Mem.wfFrom, Bool.and_eq_true, decide_eq_true_eq, Bool.not_eq_true', decide_eq_false_iff_not]
        exact ⟨⟨h1, h2⟩, h3⟩
      · simp only [Mem.wfFrom, Bool.and_eq_true, decide_eq_true_eq, Bool.not_eq_true', decide_eq_false_iff_not]
        exact ⟨⟨ha, ‹_›⟩, ⟨⟨by omega, h2⟩, h3⟩⟩
    · split
      · subst_vars
        split
        · exact Mem.wfFrom_mono h3 (by omega)
        · simp only [Mem.wfFrom, Bool.and_eq_true, decide_eq_true_eq, Bool.not_eq_true', decide_eq_false_iff_not]
          exact ⟨⟨h1, ‹_›⟩, h3⟩
      · simp only [Mem.wfFrom, Bool.and_eq_true, decide_eq_true_eq, Bool.not_eq_true', decide_eq_false_iff_not]
        exact ⟨⟨h1, h2⟩, ih h3 (by omega)⟩

/-- Storing a byte keeps the canonical form. -/
theorem Mem.wf_put {m : Mem} (a : Nat) (b : Byte) (h : m.wf) : (m.put a b).wf := Mem.wfFrom_put b h (Nat.zero_le _)

/-- Storing bytes keeps the canonical form. -/
theorem Mem.wf_write {m : Mem} (a : Nat) (bs : List Byte) (h : m.wf) : (m.write a bs).wf := by
  induction bs generalizing m a with
  | nil => exact h
  | cons b bs ih => exact ih (a + 1) (Mem.wf_put a b h)

theorem Mem.byte_put_from {m : Mem} {lo : Nat} (a c : Nat) (b : Byte) (h : Mem.wfFrom lo m) :
    (m.put a b).byte c = if c = a then b else m.byte c := by
  have put_cons : ∀ (k : Nat) (v : Byte) (t : Mem), Mem.put ((k, v) :: t) a b =
      if a < k then (if b = 0 then (k, v) :: t else (a, b) :: (k, v) :: t)
      else if k = a then (if b = 0 then t else (a, b) :: t) else (k, v) :: Mem.put t a b := fun _ _ _ => rfl
  have byte_cons : ∀ (k : Nat) (v : Byte) (t : Mem), Mem.byte ((k, v) :: t) c =
      if k = c then v else if c < k then 0 else Mem.byte t c := fun _ _ _ => rfl
  induction m generalizing lo with
  | nil =>
    have : Mem.put [] a b = if b = 0 then [] else [(a, b)] := rfl
    rw [this]
    by_cases hb : b = 0
    · rw [if_pos hb]; split
      · exact hb.symm
      · rfl
    · rw [if_neg hb, byte_cons]
      by_cases hc : c = a
      · rw [if_pos hc.symm, if_pos hc]
      · rw [if_neg (Ne.symm hc), if_neg hc]; split <;> rfl
  | cons x t ih =>
    obtain ⟨k, v⟩ := x
    simp only [Mem.wfFrom, Bool.and_eq_true, decide_eq_true_eq, Bool.not_eq_true', decide_eq_false_iff_not] at h
    obtain ⟨⟨_, _⟩, h3⟩ := h
    rw [put_cons]
    by_cases hk : a < k
    · rw [if_pos hk]
      by_cases hb : b = 0
      · rw [if_pos hb, byte_cons]
        by_cases hc : c = a
        · rw [if_pos hc, if_neg (by omega), if_pos (by omega)]; exact hb.symm
        · rw [if_neg hc]
      · rw [if_neg hb, byte_cons]
        by_cases hc : c = a
        · rw [if_pos hc.symm, if_pos hc]
        · rw [if_neg (Ne.symm hc), if_neg hc, byte_cons]
          by_cases hca : c < a
          · rw [if_pos hca, if_neg (by omega), if_pos (by omega)]
          · rw [if_neg hca]
    · rw [if_neg hk]
      by_cases hka : k = a
      · subst hka
        rw [if_pos rfl]
        by_cases hb : b = 0
        · rw [if_pos hb, byte_cons]
          by_cases hc : c = k
          · rw [if_pos hc, hb]; exact Mem.byte_below h3 (by omega)
          · rw [if_neg hc, if_neg (Ne.symm hc)]
            split
            · exact Mem.byte_below h3 (by omega)
            · rfl
        · rw [if_neg hb, byte_cons, byte_cons]
          by_cases hc : c = k
          · rw [if_pos hc.symm, if_pos hc]
          · rw [if_neg (Ne.symm hc), if_neg hc, if_neg (Ne.symm hc)]
      · rw [if_neg hka, byte_cons, ih h3, byte_cons]
        by_cases hc : c = a
        · rw [if_neg (by omega), if_neg (by omega), if_pos hc, if_pos hc]
        · rw [if_neg hc, if_neg hc]

/-- What a byte reads as after a store of one byte. -/
theorem Mem.byte_put {m : Mem} (a c : Nat) (b : Byte) (h : m.wf) : (m.put a b).byte c = if c = a then b else m.byte c :=
  Mem.byte_put_from a c b h

/-- A store of bytes leaves every byte outside them. -/
theorem Mem.byte_write_ne {m : Mem} {a c : Nat} (bs : List Byte) (h : m.wf) (hc : c < a ∨ a + bs.length ≤ c) :
    (m.write a bs).byte c = m.byte c := by
  induction bs generalizing m a with
  | nil => rfl
  | cons b bs ih =>
    simp only [List.length_cons] at hc
    rw [Mem.write, ih (Mem.wf_put a b h) (by omega), Mem.byte_put a c b h]
    have : c ≠ a := by omega
    simp [this]

/-- A stored byte reads as what was stored. -/
theorem Mem.byte_write {m : Mem} (a : Nat) (bs : List Byte) (h : m.wf) (j : Nat) (hj : j < bs.length) :
    (m.write a bs).byte (a + j) = bs[j] := by
  induction bs generalizing m a j with
  | nil => simp at hj
  | cons b bs ih =>
    rw [Mem.write]
    cases j with
    | zero =>
      rw [Mem.byte_write_ne bs (Mem.wf_put a b h) (by omega), Nat.add_zero, Mem.byte_put a a b h]; simp
    | succ j =>
      simp only [List.length_cons] at hj
      have hj' : j < bs.length := by omega
      have h1 : a + (j + 1) = a + 1 + j := by omega
      rw [h1, ih (a + 1) (Mem.wf_put a b h) j hj']; rfl

@[simp] theorem Mem.wf_nil : Mem.wf [] = true := rfl

end Sys2Proof.Machine
end

