-- ==== Sys2Proof/Laws/Commands.lean ====
section
/-! SUPPORT. What a command can do: it keeps the form of the byte memories and the order of the agenda; and how a command
that keeps some part of the state is built from commands that keep it. -/

namespace Sys2Proof.Machine

/-! ### Byte memories -/

/-- Every change keeps the canonical form of the byte memories. -/
theorem Prim.run_wf (p : Prim) (s : State) (h : s.bytes.wf) : (p.run s).bytes.wf := by
  have h' := h
  simp only [Memory.wf, Bool.and_eq_true] at h'
  cases p
  case dram a bs => simp [Memory.wf, Mem.wf_write, h']
  case host a bs => simp [Memory.wf, Mem.wf_write, h']
  case vault a bs => simp [Memory.wf, Mem.wf_write, h']
  case loseBytes => simp [Memory.wf]
  all_goals exact h

/-- Every command keeps the canonical form of the byte memories. -/
theorem Cmd.exec_wf (c : Cmd) (s : State) (h : s.bytes.wf) : (c.exec s).bytes.wf := by
  induction c generalizing s with
  | skip => exact h
  | prim p => exact Prim.run_wf p s h
  | seq a b iha ihb => exact ihb _ (iha _ h)
  | get k ih => exact ih s s h

/-! ### The agenda -/

/-- What an agenda holds after a task is scheduled. -/
theorem mem_agendaInsert {l : List (Nat × Task)} {d : Nat} {t : Task} {x : Nat × Task} :
    x ∈ agendaInsert l d t ↔ x = (d, t) ∨ x ∈ l := by
  induction l with
  | nil => simp [agendaInsert]
  | cons y l ih =>
    obtain ⟨d', t'⟩ := y
    unfold agendaInsert
    split
    · simp
    · simp [ih]; tauto

/-- Scheduling keeps the agenda in order. -/
theorem agendaInsert_sorted {l : List (Nat × Task)} {d : Nat} {t : Task} (h : l.Pairwise fun x y => x.1 ≤ y.1) :
    (agendaInsert l d t).Pairwise fun x y => x.1 ≤ y.1 := by
  induction l with
  | nil => simp [agendaInsert]
  | cons y l ih =>
    obtain ⟨d', t'⟩ := y
    rw [List.pairwise_cons] at h
    unfold agendaInsert
    split
    · rename_i hd
      simp only [Bool.or_eq_true, decide_eq_true_eq, Bool.and_eq_true, beq_iff_eq] at hd
      refine List.pairwise_cons.2 ⟨?_, List.pairwise_cons.2 h⟩
      intro z hz
      rcases List.mem_cons.1 hz with rfl | hz
      · simp; omega
      · have := h.1 z hz; simp at this ⊢; omega
    · rename_i hd
      simp only [Bool.or_eq_true, decide_eq_true_eq, Bool.and_eq_true, beq_iff_eq, not_or] at hd
      refine List.pairwise_cons.2 ⟨?_, ih h.2⟩
      intro z hz
      rcases mem_agendaInsert.1 hz with rfl | hz
      · exact Nat.le_of_not_lt hd.1
      · exact h.1 z hz

/-- Every change keeps the agenda in order. -/
theorem Prim.run_sorted (p : Prim) (s : State) (h : s.agenda.Pairwise fun x y => x.1 ≤ y.1) :
    (p.run s).agenda.Pairwise fun x y => x.1 ≤ y.1 := by
  cases p
  case schedule d t => exact agendaInsert_sorted h
  case drop p => exact h.filter _
  all_goals exact h

/-- Every command keeps the agenda in order. -/
theorem Cmd.exec_sorted (c : Cmd) (s : State) (h : s.agenda.Pairwise fun x y => x.1 ≤ y.1) :
    (c.exec s).agenda.Pairwise fun x y => x.1 ≤ y.1 := by
  induction c generalizing s with
  | skip => exact h
  | prim p => exact Prim.run_sorted p s h
  | seq a b iha ihb => exact ihb _ (iha _ h)
  | get k ih => exact ih s s h

/-- Every change leaves no task overdue. -/
theorem Prim.run_timely (p : Prim) (s : State) (h : ∀ x ∈ s.agenda, s.now ≤ x.1) : ∀ x ∈ (p.run s).agenda, (p.run s).now ≤ x.1 := by
  cases p
  case schedule n t =>
    intro x hx
    rcases mem_agendaInsert.1 hx with rfl | hx
    · exact Nat.le_add_right _ _
    · exact h x hx
  case drop q => exact fun x hx => h x (List.mem_of_mem_filter hx)
  case rewind => exact fun x _ => Nat.zero_le _
  all_goals exact h

/-- Every command leaves no task overdue. -/
theorem Cmd.exec_timely (c : Cmd) (s : State) (h : ∀ x ∈ s.agenda, s.now ≤ x.1) : ∀ x ∈ (c.exec s).agenda, (c.exec s).now ≤ x.1 := by
  induction c generalizing s with
  | skip => exact h
  | prim p => exact Prim.run_timely p s h
  | seq a b iha ihb => exact ihb _ (iha _ h)
  | get k ih => exact ih s s h

/-! ### Commands that keep a part of the state -/

variable {α : Type} {g : State → α}

theorem Cmd.keep_all {cs : List Cmd} (h : ∀ c ∈ cs, ∀ s, g (c.exec s) = g s) (s : State) : g ((Cmd.all cs).exec s) = g s := by
  induction cs generalizing s with
  | nil => rfl
  | cons c cs ih =>
    cases cs with
    | nil => exact h c (by simp) s
    | cons d cs =>
      rw [Cmd.exec_all_cons, ih (fun x hx => h x (by simp [List.mem_cons.1 hx])), h c (by simp)]

theorem Cmd.keep_each {β : Type} {xs : List β} {f : β → Cmd} (h : ∀ x s, g ((f x).exec s) = g s) (s : State) :
    g ((Cmd.each xs f).exec s) = g s := by
  induction xs generalizing s with
  | nil => rfl
  | cons x xs ih => rw [Cmd.exec_each_cons, ih, h]

theorem Cmd.keep_when {b : Bool} {c : Cmd} (h : ∀ s, g (c.exec s) = g s) (s : State) : g ((Cmd.when b c).exec s) = g s := by
  cases b
  · rfl
  · exact h s

end Sys2Proof.Machine
end

