-- ==== Sys2Proof/Laws/Access.lean ====
section
/-! SUPPORT. What the named changes of one entry leave, read through every accessor. -/

namespace Sys2Proof.Machine

/-! `fab`, read through the accessors. -/

@[simp] theorem Prim.fab_at_region_get (f : Fabric → Fabric) (s : State) (c r : Nat) : (Prim.run (.fab f) s).region? c r = s.region? c r := rfl
@[simp] theorem Prim.fab_at_regionAt (f : Fabric → Fabric) (s : State) (k : Nat) : (Prim.run (.fab f) s).regionAt k = s.regionAt k := rfl
@[simp] theorem Prim.fab_at_inst_get (f : Fabric → Fabric) (s : State) (c r m d : Nat) : (Prim.run (.fab f) s).inst? c r m d = s.inst? c r m d := rfl
@[simp] theorem Prim.fab_at_ctx_get (f : Fabric → Fabric) (s : State) (c : Nat) : (Prim.run (.fab f) s).ctx? c = s.ctx? c := rfl
@[simp] theorem Prim.fab_at_vd (f : Fabric → Fabric) (s : State) (n : Nat) : (Prim.run (.fab f) s).vd n = s.vd n := rfl
@[simp] theorem Prim.fab_at_vdOfCtx (f : Fabric → Fabric) (s : State) (c : Nat) : (Prim.run (.fab f) s).vdOfCtx c = s.vdOfCtx c := rfl
@[simp] theorem Prim.fab_at_ticks (f : Fabric → Fabric) (s : State)  : (Prim.run (.fab f) s).ticks  = s.ticks  := rfl

/-! `blocks`, read through the accessors. -/

@[simp] theorem Prim.blocks_at_elem (f : RunState → RunState) (s : State) (k : Nat) : (Prim.run (.blocks f) s).elem k = s.elem k := rfl
@[simp] theorem Prim.blocks_at_set_get (f : RunState → RunState) (s : State) (k : Nat) : (Prim.run (.blocks f) s).set? k = s.set? k := rfl
@[simp] theorem Prim.blocks_at_box (f : RunState → RunState) (s : State) (k : Nat) : (Prim.run (.blocks f) s).box k = s.box k := rfl
@[simp] theorem Prim.blocks_at_ctx_get (f : RunState → RunState) (s : State) (c : Nat) : (Prim.run (.blocks f) s).ctx? c = s.ctx? c := rfl
@[simp] theorem Prim.blocks_at_vd (f : RunState → RunState) (s : State) (n : Nat) : (Prim.run (.blocks f) s).vd n = s.vd n := rfl
@[simp] theorem Prim.blocks_at_vdOfCtx (f : RunState → RunState) (s : State) (c : Nat) : (Prim.run (.blocks f) s).vdOfCtx c = s.vdOfCtx c := rfl
@[simp] theorem Prim.blocks_at_ticks (f : RunState → RunState) (s : State)  : (Prim.run (.blocks f) s).ticks  = s.ticks  := rfl

/-! `mem`, read through the accessors. -/

@[simp] theorem Prim.mem_at_elem (f : MemSys → MemSys) (s : State) (k : Nat) : (Prim.run (.mem f) s).elem k = s.elem k := rfl
@[simp] theorem Prim.mem_at_set_get (f : MemSys → MemSys) (s : State) (k : Nat) : (Prim.run (.mem f) s).set? k = s.set? k := rfl
@[simp] theorem Prim.mem_at_box (f : MemSys → MemSys) (s : State) (k : Nat) : (Prim.run (.mem f) s).box k = s.box k := rfl
@[simp] theorem Prim.mem_at_region_get (f : MemSys → MemSys) (s : State) (c r : Nat) : (Prim.run (.mem f) s).region? c r = s.region? c r := rfl
@[simp] theorem Prim.mem_at_regionAt (f : MemSys → MemSys) (s : State) (k : Nat) : (Prim.run (.mem f) s).regionAt k = s.regionAt k := rfl
@[simp] theorem Prim.mem_at_inst_get (f : MemSys → MemSys) (s : State) (c r m d : Nat) : (Prim.run (.mem f) s).inst? c r m d = s.inst? c r m d := rfl
@[simp] theorem Prim.mem_at_ctx_get (f : MemSys → MemSys) (s : State) (c : Nat) : (Prim.run (.mem f) s).ctx? c = s.ctx? c := rfl
@[simp] theorem Prim.mem_at_vd (f : MemSys → MemSys) (s : State) (n : Nat) : (Prim.run (.mem f) s).vd n = s.vd n := rfl
@[simp] theorem Prim.mem_at_vdOfCtx (f : MemSys → MemSys) (s : State) (c : Nat) : (Prim.run (.mem f) s).vdOfCtx c = s.vdOfCtx c := rfl
@[simp] theorem Prim.mem_at_ticks (f : MemSys → MemSys) (s : State)  : (Prim.run (.mem f) s).ticks  = s.ticks  := rfl

/-! `eng`, read through the accessors. -/

@[simp] theorem Prim.eng_at_elem (f : EngState → EngState) (s : State) (k : Nat) : (Prim.run (.eng f) s).elem k = s.elem k := rfl
@[simp] theorem Prim.eng_at_set_get (f : EngState → EngState) (s : State) (k : Nat) : (Prim.run (.eng f) s).set? k = s.set? k := rfl
@[simp] theorem Prim.eng_at_box (f : EngState → EngState) (s : State) (k : Nat) : (Prim.run (.eng f) s).box k = s.box k := rfl
@[simp] theorem Prim.eng_at_region_get (f : EngState → EngState) (s : State) (c r : Nat) : (Prim.run (.eng f) s).region? c r = s.region? c r := rfl
@[simp] theorem Prim.eng_at_regionAt (f : EngState → EngState) (s : State) (k : Nat) : (Prim.run (.eng f) s).regionAt k = s.regionAt k := rfl
@[simp] theorem Prim.eng_at_inst_get (f : EngState → EngState) (s : State) (c r m d : Nat) : (Prim.run (.eng f) s).inst? c r m d = s.inst? c r m d := rfl
@[simp] theorem Prim.eng_at_ctx_get (f : EngState → EngState) (s : State) (c : Nat) : (Prim.run (.eng f) s).ctx? c = s.ctx? c := rfl
@[simp] theorem Prim.eng_at_vd (f : EngState → EngState) (s : State) (n : Nat) : (Prim.run (.eng f) s).vd n = s.vd n := rfl
@[simp] theorem Prim.eng_at_vdOfCtx (f : EngState → EngState) (s : State) (c : Nat) : (Prim.run (.eng f) s).vdOfCtx c = s.vdOfCtx c := rfl
@[simp] theorem Prim.eng_at_ticks (f : EngState → EngState) (s : State)  : (Prim.run (.eng f) s).ticks  = s.ticks  := rfl

/-! `ten`, read through the accessors. -/

@[simp] theorem Prim.ten_at_elem (f : TenState → TenState) (s : State) (k : Nat) : (Prim.run (.ten f) s).elem k = s.elem k := rfl
@[simp] theorem Prim.ten_at_set_get (f : TenState → TenState) (s : State) (k : Nat) : (Prim.run (.ten f) s).set? k = s.set? k := rfl
@[simp] theorem Prim.ten_at_box (f : TenState → TenState) (s : State) (k : Nat) : (Prim.run (.ten f) s).box k = s.box k := rfl
@[simp] theorem Prim.ten_at_region_get (f : TenState → TenState) (s : State) (c r : Nat) : (Prim.run (.ten f) s).region? c r = s.region? c r := rfl
@[simp] theorem Prim.ten_at_regionAt (f : TenState → TenState) (s : State) (k : Nat) : (Prim.run (.ten f) s).regionAt k = s.regionAt k := rfl
@[simp] theorem Prim.ten_at_inst_get (f : TenState → TenState) (s : State) (c r m d : Nat) : (Prim.run (.ten f) s).inst? c r m d = s.inst? c r m d := rfl
@[simp] theorem Prim.ten_at_ticks (f : TenState → TenState) (s : State)  : (Prim.run (.ten f) s).ticks  = s.ticks  := rfl

/-! `svc`, read through the accessors. -/

@[simp] theorem Prim.svc_at_elem (f : SvcState → SvcState) (s : State) (k : Nat) : (Prim.run (.svc f) s).elem k = s.elem k := rfl
@[simp] theorem Prim.svc_at_set_get (f : SvcState → SvcState) (s : State) (k : Nat) : (Prim.run (.svc f) s).set? k = s.set? k := rfl
@[simp] theorem Prim.svc_at_box (f : SvcState → SvcState) (s : State) (k : Nat) : (Prim.run (.svc f) s).box k = s.box k := rfl
@[simp] theorem Prim.svc_at_region_get (f : SvcState → SvcState) (s : State) (c r : Nat) : (Prim.run (.svc f) s).region? c r = s.region? c r := rfl
@[simp] theorem Prim.svc_at_regionAt (f : SvcState → SvcState) (s : State) (k : Nat) : (Prim.run (.svc f) s).regionAt k = s.regionAt k := rfl
@[simp] theorem Prim.svc_at_inst_get (f : SvcState → SvcState) (s : State) (c r m d : Nat) : (Prim.run (.svc f) s).inst? c r m d = s.inst? c r m d := rfl
@[simp] theorem Prim.svc_at_ctx_get (f : SvcState → SvcState) (s : State) (c : Nat) : (Prim.run (.svc f) s).ctx? c = s.ctx? c := rfl
@[simp] theorem Prim.svc_at_vd (f : SvcState → SvcState) (s : State) (n : Nat) : (Prim.run (.svc f) s).vd n = s.vd n := rfl
@[simp] theorem Prim.svc_at_vdOfCtx (f : SvcState → SvcState) (s : State) (c : Nat) : (Prim.run (.svc f) s).vdOfCtx c = s.vdOfCtx c := rfl
@[simp] theorem Prim.svc_at_ticks (f : SvcState → SvcState) (s : State)  : (Prim.run (.svc f) s).ticks  = s.ticks  := rfl

/-! `dram`, read through the accessors. -/

@[simp] theorem Prim.dram_at_elem (a : Nat) (bs : List Byte) (s : State) (k : Nat) : (Prim.run (.dram a bs) s).elem k = s.elem k := rfl
@[simp] theorem Prim.dram_at_set_get (a : Nat) (bs : List Byte) (s : State) (k : Nat) : (Prim.run (.dram a bs) s).set? k = s.set? k := rfl
@[simp] theorem Prim.dram_at_box (a : Nat) (bs : List Byte) (s : State) (k : Nat) : (Prim.run (.dram a bs) s).box k = s.box k := rfl
@[simp] theorem Prim.dram_at_region_get (a : Nat) (bs : List Byte) (s : State) (c r : Nat) : (Prim.run (.dram a bs) s).region? c r = s.region? c r := rfl
@[simp] theorem Prim.dram_at_regionAt (a : Nat) (bs : List Byte) (s : State) (k : Nat) : (Prim.run (.dram a bs) s).regionAt k = s.regionAt k := rfl
@[simp] theorem Prim.dram_at_inst_get (a : Nat) (bs : List Byte) (s : State) (c r m d : Nat) : (Prim.run (.dram a bs) s).inst? c r m d = s.inst? c r m d := rfl
@[simp] theorem Prim.dram_at_ctx_get (a : Nat) (bs : List Byte) (s : State) (c : Nat) : (Prim.run (.dram a bs) s).ctx? c = s.ctx? c := rfl
@[simp] theorem Prim.dram_at_vd (a : Nat) (bs : List Byte) (s : State) (n : Nat) : (Prim.run (.dram a bs) s).vd n = s.vd n := rfl
@[simp] theorem Prim.dram_at_vdOfCtx (a : Nat) (bs : List Byte) (s : State) (c : Nat) : (Prim.run (.dram a bs) s).vdOfCtx c = s.vdOfCtx c := rfl
@[simp] theorem Prim.dram_at_ticks (a : Nat) (bs : List Byte) (s : State)  : (Prim.run (.dram a bs) s).ticks  = s.ticks  := rfl

/-! `host`, read through the accessors. -/

@[simp] theorem Prim.host_at_elem (a : Nat) (bs : List Byte) (s : State) (k : Nat) : (Prim.run (.host a bs) s).elem k = s.elem k := rfl
@[simp] theorem Prim.host_at_set_get (a : Nat) (bs : List Byte) (s : State) (k : Nat) : (Prim.run (.host a bs) s).set? k = s.set? k := rfl
@[simp] theorem Prim.host_at_box (a : Nat) (bs : List Byte) (s : State) (k : Nat) : (Prim.run (.host a bs) s).box k = s.box k := rfl
@[simp] theorem Prim.host_at_region_get (a : Nat) (bs : List Byte) (s : State) (c r : Nat) : (Prim.run (.host a bs) s).region? c r = s.region? c r := rfl
@[simp] theorem Prim.host_at_regionAt (a : Nat) (bs : List Byte) (s : State) (k : Nat) : (Prim.run (.host a bs) s).regionAt k = s.regionAt k := rfl
@[simp] theorem Prim.host_at_inst_get (a : Nat) (bs : List Byte) (s : State) (c r m d : Nat) : (Prim.run (.host a bs) s).inst? c r m d = s.inst? c r m d := rfl
@[simp] theorem Prim.host_at_ctx_get (a : Nat) (bs : List Byte) (s : State) (c : Nat) : (Prim.run (.host a bs) s).ctx? c = s.ctx? c := rfl
@[simp] theorem Prim.host_at_vd (a : Nat) (bs : List Byte) (s : State) (n : Nat) : (Prim.run (.host a bs) s).vd n = s.vd n := rfl
@[simp] theorem Prim.host_at_vdOfCtx (a : Nat) (bs : List Byte) (s : State) (c : Nat) : (Prim.run (.host a bs) s).vdOfCtx c = s.vdOfCtx c := rfl
@[simp] theorem Prim.host_at_ticks (a : Nat) (bs : List Byte) (s : State)  : (Prim.run (.host a bs) s).ticks  = s.ticks  := rfl

/-! `vault`, read through the accessors. -/

@[simp] theorem Prim.vault_at_elem (a : Nat) (bs : List Byte) (s : State) (k : Nat) : (Prim.run (.vault a bs) s).elem k = s.elem k := rfl
@[simp] theorem Prim.vault_at_set_get (a : Nat) (bs : List Byte) (s : State) (k : Nat) : (Prim.run (.vault a bs) s).set? k = s.set? k := rfl
@[simp] theorem Prim.vault_at_box (a : Nat) (bs : List Byte) (s : State) (k : Nat) : (Prim.run (.vault a bs) s).box k = s.box k := rfl
@[simp] theorem Prim.vault_at_region_get (a : Nat) (bs : List Byte) (s : State) (c r : Nat) : (Prim.run (.vault a bs) s).region? c r = s.region? c r := rfl
@[simp] theorem Prim.vault_at_regionAt (a : Nat) (bs : List Byte) (s : State) (k : Nat) : (Prim.run (.vault a bs) s).regionAt k = s.regionAt k := rfl
@[simp] theorem Prim.vault_at_inst_get (a : Nat) (bs : List Byte) (s : State) (c r m d : Nat) : (Prim.run (.vault a bs) s).inst? c r m d = s.inst? c r m d := rfl
@[simp] theorem Prim.vault_at_ctx_get (a : Nat) (bs : List Byte) (s : State) (c : Nat) : (Prim.run (.vault a bs) s).ctx? c = s.ctx? c := rfl
@[simp] theorem Prim.vault_at_vd (a : Nat) (bs : List Byte) (s : State) (n : Nat) : (Prim.run (.vault a bs) s).vd n = s.vd n := rfl
@[simp] theorem Prim.vault_at_vdOfCtx (a : Nat) (bs : List Byte) (s : State) (c : Nat) : (Prim.run (.vault a bs) s).vdOfCtx c = s.vdOfCtx c := rfl
@[simp] theorem Prim.vault_at_ticks (a : Nat) (bs : List Byte) (s : State)  : (Prim.run (.vault a bs) s).ticks  = s.ticks  := rfl

/-! `loseBytes`, read through the accessors. -/

@[simp] theorem Prim.loseBytes_at_elem  (s : State) (k : Nat) : (Prim.run .loseBytes s).elem k = s.elem k := rfl
@[simp] theorem Prim.loseBytes_at_set_get  (s : State) (k : Nat) : (Prim.run .loseBytes s).set? k = s.set? k := rfl
@[simp] theorem Prim.loseBytes_at_box  (s : State) (k : Nat) : (Prim.run .loseBytes s).box k = s.box k := rfl
@[simp] theorem Prim.loseBytes_at_region_get  (s : State) (c r : Nat) : (Prim.run .loseBytes s).region? c r = s.region? c r := rfl
@[simp] theorem Prim.loseBytes_at_regionAt  (s : State) (k : Nat) : (Prim.run .loseBytes s).regionAt k = s.regionAt k := rfl
@[simp] theorem Prim.loseBytes_at_inst_get  (s : State) (c r m d : Nat) : (Prim.run .loseBytes s).inst? c r m d = s.inst? c r m d := rfl
@[simp] theorem Prim.loseBytes_at_ctx_get  (s : State) (c : Nat) : (Prim.run .loseBytes s).ctx? c = s.ctx? c := rfl
@[simp] theorem Prim.loseBytes_at_vd  (s : State) (n : Nat) : (Prim.run .loseBytes s).vd n = s.vd n := rfl
@[simp] theorem Prim.loseBytes_at_vdOfCtx  (s : State) (c : Nat) : (Prim.run .loseBytes s).vdOfCtx c = s.vdOfCtx c := rfl
@[simp] theorem Prim.loseBytes_at_ticks  (s : State)  : (Prim.run .loseBytes s).ticks  = s.ticks  := rfl

/-! `schedule`, read through the accessors. -/

@[simp] theorem Prim.schedule_at_elem (d : Nat) (t : Task) (s : State) (k : Nat) : (Prim.run (.schedule d t) s).elem k = s.elem k := rfl
@[simp] theorem Prim.schedule_at_set_get (d : Nat) (t : Task) (s : State) (k : Nat) : (Prim.run (.schedule d t) s).set? k = s.set? k := rfl
@[simp] theorem Prim.schedule_at_box (d : Nat) (t : Task) (s : State) (k : Nat) : (Prim.run (.schedule d t) s).box k = s.box k := rfl
@[simp] theorem Prim.schedule_at_region_get (d : Nat) (t : Task) (s : State) (c r : Nat) : (Prim.run (.schedule d t) s).region? c r = s.region? c r := rfl
@[simp] theorem Prim.schedule_at_regionAt (d : Nat) (t : Task) (s : State) (k : Nat) : (Prim.run (.schedule d t) s).regionAt k = s.regionAt k := rfl
@[simp] theorem Prim.schedule_at_inst_get (d : Nat) (t : Task) (s : State) (c r m d : Nat) : (Prim.run (.schedule d t) s).inst? c r m d = s.inst? c r m d := rfl
@[simp] theorem Prim.schedule_at_ctx_get (d : Nat) (t : Task) (s : State) (c : Nat) : (Prim.run (.schedule d t) s).ctx? c = s.ctx? c := rfl
@[simp] theorem Prim.schedule_at_vd (d : Nat) (t : Task) (s : State) (n : Nat) : (Prim.run (.schedule d t) s).vd n = s.vd n := rfl
@[simp] theorem Prim.schedule_at_vdOfCtx (d : Nat) (t : Task) (s : State) (c : Nat) : (Prim.run (.schedule d t) s).vdOfCtx c = s.vdOfCtx c := rfl
@[simp] theorem Prim.schedule_at_ticks (d : Nat) (t : Task) (s : State)  : (Prim.run (.schedule d t) s).ticks  = s.ticks  := rfl

/-! `drop`, read through the accessors. -/

@[simp] theorem Prim.drop_at_elem (p : Task → Bool) (s : State) (k : Nat) : (Prim.run (.drop p) s).elem k = s.elem k := rfl
@[simp] theorem Prim.drop_at_set_get (p : Task → Bool) (s : State) (k : Nat) : (Prim.run (.drop p) s).set? k = s.set? k := rfl
@[simp] theorem Prim.drop_at_box (p : Task → Bool) (s : State) (k : Nat) : (Prim.run (.drop p) s).box k = s.box k := rfl
@[simp] theorem Prim.drop_at_region_get (p : Task → Bool) (s : State) (c r : Nat) : (Prim.run (.drop p) s).region? c r = s.region? c r := rfl
@[simp] theorem Prim.drop_at_regionAt (p : Task → Bool) (s : State) (k : Nat) : (Prim.run (.drop p) s).regionAt k = s.regionAt k := rfl
@[simp] theorem Prim.drop_at_inst_get (p : Task → Bool) (s : State) (c r m d : Nat) : (Prim.run (.drop p) s).inst? c r m d = s.inst? c r m d := rfl
@[simp] theorem Prim.drop_at_ctx_get (p : Task → Bool) (s : State) (c : Nat) : (Prim.run (.drop p) s).ctx? c = s.ctx? c := rfl
@[simp] theorem Prim.drop_at_vd (p : Task → Bool) (s : State) (n : Nat) : (Prim.run (.drop p) s).vd n = s.vd n := rfl
@[simp] theorem Prim.drop_at_vdOfCtx (p : Task → Bool) (s : State) (c : Nat) : (Prim.run (.drop p) s).vdOfCtx c = s.vdOfCtx c := rfl
@[simp] theorem Prim.drop_at_ticks (p : Task → Bool) (s : State)  : (Prim.run (.drop p) s).ticks  = s.ticks  := rfl

/-! `takeSerial`, read through the accessors. -/

@[simp] theorem Prim.takeSerial_at_elem  (s : State) (k : Nat) : (Prim.run .takeSerial s).elem k = s.elem k := rfl
@[simp] theorem Prim.takeSerial_at_set_get  (s : State) (k : Nat) : (Prim.run .takeSerial s).set? k = s.set? k := rfl
@[simp] theorem Prim.takeSerial_at_box  (s : State) (k : Nat) : (Prim.run .takeSerial s).box k = s.box k := rfl
@[simp] theorem Prim.takeSerial_at_region_get  (s : State) (c r : Nat) : (Prim.run .takeSerial s).region? c r = s.region? c r := rfl
@[simp] theorem Prim.takeSerial_at_regionAt  (s : State) (k : Nat) : (Prim.run .takeSerial s).regionAt k = s.regionAt k := rfl
@[simp] theorem Prim.takeSerial_at_inst_get  (s : State) (c r m d : Nat) : (Prim.run .takeSerial s).inst? c r m d = s.inst? c r m d := rfl
@[simp] theorem Prim.takeSerial_at_ctx_get  (s : State) (c : Nat) : (Prim.run .takeSerial s).ctx? c = s.ctx? c := rfl
@[simp] theorem Prim.takeSerial_at_vd  (s : State) (n : Nat) : (Prim.run .takeSerial s).vd n = s.vd n := rfl
@[simp] theorem Prim.takeSerial_at_vdOfCtx  (s : State) (c : Nat) : (Prim.run .takeSerial s).vdOfCtx c = s.vdOfCtx c := rfl
@[simp] theorem Prim.takeSerial_at_ticks  (s : State)  : (Prim.run .takeSerial s).ticks  = s.ticks  := rfl

/-! `takeFree`, read through the accessors. -/

@[simp] theorem Prim.takeFree_at_elem  (s : State) (k : Nat) : (Prim.run .takeFree s).elem k = s.elem k := rfl
@[simp] theorem Prim.takeFree_at_set_get  (s : State) (k : Nat) : (Prim.run .takeFree s).set? k = s.set? k := rfl
@[simp] theorem Prim.takeFree_at_box  (s : State) (k : Nat) : (Prim.run .takeFree s).box k = s.box k := rfl
@[simp] theorem Prim.takeFree_at_region_get  (s : State) (c r : Nat) : (Prim.run .takeFree s).region? c r = s.region? c r := rfl
@[simp] theorem Prim.takeFree_at_regionAt  (s : State) (k : Nat) : (Prim.run .takeFree s).regionAt k = s.regionAt k := rfl
@[simp] theorem Prim.takeFree_at_inst_get  (s : State) (c r m d : Nat) : (Prim.run .takeFree s).inst? c r m d = s.inst? c r m d := rfl
@[simp] theorem Prim.takeFree_at_ctx_get  (s : State) (c : Nat) : (Prim.run .takeFree s).ctx? c = s.ctx? c := rfl
@[simp] theorem Prim.takeFree_at_vd  (s : State) (n : Nat) : (Prim.run .takeFree s).vd n = s.vd n := rfl
@[simp] theorem Prim.takeFree_at_vdOfCtx  (s : State) (c : Nat) : (Prim.run .takeFree s).vdOfCtx c = s.vdOfCtx c := rfl
@[simp] theorem Prim.takeFree_at_ticks  (s : State)  : (Prim.run .takeFree s).ticks  = s.ticks  := rfl

/-! `setCur`, read through the accessors. -/

@[simp] theorem Prim.setCur_at_elem (f : Firing) (s : State) (k : Nat) : (Prim.run (.setCur f) s).elem k = s.elem k := rfl
@[simp] theorem Prim.setCur_at_set_get (f : Firing) (s : State) (k : Nat) : (Prim.run (.setCur f) s).set? k = s.set? k := rfl
@[simp] theorem Prim.setCur_at_box (f : Firing) (s : State) (k : Nat) : (Prim.run (.setCur f) s).box k = s.box k := rfl
@[simp] theorem Prim.setCur_at_region_get (f : Firing) (s : State) (c r : Nat) : (Prim.run (.setCur f) s).region? c r = s.region? c r := rfl
@[simp] theorem Prim.setCur_at_regionAt (f : Firing) (s : State) (k : Nat) : (Prim.run (.setCur f) s).regionAt k = s.regionAt k := rfl
@[simp] theorem Prim.setCur_at_inst_get (f : Firing) (s : State) (c r m d : Nat) : (Prim.run (.setCur f) s).inst? c r m d = s.inst? c r m d := rfl
@[simp] theorem Prim.setCur_at_ctx_get (f : Firing) (s : State) (c : Nat) : (Prim.run (.setCur f) s).ctx? c = s.ctx? c := rfl
@[simp] theorem Prim.setCur_at_vd (f : Firing) (s : State) (n : Nat) : (Prim.run (.setCur f) s).vd n = s.vd n := rfl
@[simp] theorem Prim.setCur_at_vdOfCtx (f : Firing) (s : State) (c : Nat) : (Prim.run (.setCur f) s).vdOfCtx c = s.vdOfCtx c := rfl
@[simp] theorem Prim.setCur_at_ticks (f : Firing) (s : State)  : (Prim.run (.setCur f) s).ticks  = s.ticks  := rfl

/-! `setPower`, read through the accessors. -/

@[simp] theorem Prim.setPower_at_elem (b : Bool) (s : State) (k : Nat) : (Prim.run (.setPower b) s).elem k = s.elem k := rfl
@[simp] theorem Prim.setPower_at_set_get (b : Bool) (s : State) (k : Nat) : (Prim.run (.setPower b) s).set? k = s.set? k := rfl
@[simp] theorem Prim.setPower_at_box (b : Bool) (s : State) (k : Nat) : (Prim.run (.setPower b) s).box k = s.box k := rfl
@[simp] theorem Prim.setPower_at_region_get (b : Bool) (s : State) (c r : Nat) : (Prim.run (.setPower b) s).region? c r = s.region? c r := rfl
@[simp] theorem Prim.setPower_at_regionAt (b : Bool) (s : State) (k : Nat) : (Prim.run (.setPower b) s).regionAt k = s.regionAt k := rfl
@[simp] theorem Prim.setPower_at_inst_get (b : Bool) (s : State) (c r m d : Nat) : (Prim.run (.setPower b) s).inst? c r m d = s.inst? c r m d := rfl
@[simp] theorem Prim.setPower_at_ctx_get (b : Bool) (s : State) (c : Nat) : (Prim.run (.setPower b) s).ctx? c = s.ctx? c := rfl
@[simp] theorem Prim.setPower_at_vd (b : Bool) (s : State) (n : Nat) : (Prim.run (.setPower b) s).vd n = s.vd n := rfl
@[simp] theorem Prim.setPower_at_vdOfCtx (b : Bool) (s : State) (c : Nat) : (Prim.run (.setPower b) s).vdOfCtx c = s.vdOfCtx c := rfl
@[simp] theorem Prim.setPower_at_ticks (b : Bool) (s : State)  : (Prim.run (.setPower b) s).ticks  = s.ticks  := rfl

/-! `rewind`, read through the accessors. -/

@[simp] theorem Prim.rewind_at_elem  (s : State) (k : Nat) : (Prim.run .rewind s).elem k = s.elem k := rfl
@[simp] theorem Prim.rewind_at_set_get  (s : State) (k : Nat) : (Prim.run .rewind s).set? k = s.set? k := rfl
@[simp] theorem Prim.rewind_at_box  (s : State) (k : Nat) : (Prim.run .rewind s).box k = s.box k := rfl
@[simp] theorem Prim.rewind_at_region_get  (s : State) (c r : Nat) : (Prim.run .rewind s).region? c r = s.region? c r := rfl
@[simp] theorem Prim.rewind_at_regionAt  (s : State) (k : Nat) : (Prim.run .rewind s).regionAt k = s.regionAt k := rfl
@[simp] theorem Prim.rewind_at_inst_get  (s : State) (c r m d : Nat) : (Prim.run .rewind s).inst? c r m d = s.inst? c r m d := rfl
@[simp] theorem Prim.rewind_at_ctx_get  (s : State) (c : Nat) : (Prim.run .rewind s).ctx? c = s.ctx? c := rfl
@[simp] theorem Prim.rewind_at_vd  (s : State) (n : Nat) : (Prim.run .rewind s).vd n = s.vd n := rfl
@[simp] theorem Prim.rewind_at_vdOfCtx  (s : State) (c : Nat) : (Prim.run .rewind s).vdOfCtx c = s.vdOfCtx c := rfl

/-! `modElem` -/

@[simp] theorem modElem_power (i : Nat) (f : Element → Element) (s : State) : ((modElem i f).exec s).power = s.power := rfl
@[simp] theorem modElem_run (i : Nat) (f : Element → Element) (s : State) : ((modElem i f).exec s).run = s.run := rfl
@[simp] theorem modElem_bytes (i : Nat) (f : Element → Element) (s : State) : ((modElem i f).exec s).bytes = s.bytes := rfl
@[simp] theorem modElem_mem (i : Nat) (f : Element → Element) (s : State) : ((modElem i f).exec s).mem = s.mem := rfl
@[simp] theorem modElem_eng (i : Nat) (f : Element → Element) (s : State) : ((modElem i f).exec s).eng = s.eng := rfl
@[simp] theorem modElem_ten (i : Nat) (f : Element → Element) (s : State) : ((modElem i f).exec s).ten = s.ten := rfl
@[simp] theorem modElem_svc (i : Nat) (f : Element → Element) (s : State) : ((modElem i f).exec s).svc = s.svc := rfl
@[simp] theorem modElem_agenda (i : Nat) (f : Element → Element) (s : State) : ((modElem i f).exec s).agenda = s.agenda := rfl
@[simp] theorem modElem_free (i : Nat) (f : Element → Element) (s : State) : ((modElem i f).exec s).free = s.free := rfl
@[simp] theorem modElem_serial (i : Nat) (f : Element → Element) (s : State) : ((modElem i f).exec s).serial = s.serial := rfl
@[simp] theorem modElem_cur (i : Nat) (f : Element → Element) (s : State) : ((modElem i f).exec s).cur = s.cur := rfl
@[simp] theorem modElem_now (i : Nat) (f : Element → Element) (s : State) : ((modElem i f).exec s).now = s.now := rfl
@[simp] theorem modElem_at_set_get (i : Nat) (f : Element → Element) (s : State) (k : Nat) : ((modElem i f).exec s).set? k = s.set? k := rfl
@[simp] theorem modElem_at_box (i : Nat) (f : Element → Element) (s : State) (k : Nat) : ((modElem i f).exec s).box k = s.box k := rfl
@[simp] theorem modElem_at_region_get (i : Nat) (f : Element → Element) (s : State) (c r : Nat) : ((modElem i f).exec s).region? c r = s.region? c r := rfl
@[simp] theorem modElem_at_regionAt (i : Nat) (f : Element → Element) (s : State) (k : Nat) : ((modElem i f).exec s).regionAt k = s.regionAt k := rfl
@[simp] theorem modElem_at_inst_get (i : Nat) (f : Element → Element) (s : State) (c r m d : Nat) : ((modElem i f).exec s).inst? c r m d = s.inst? c r m d := rfl
@[simp] theorem modElem_at_ctx_get (i : Nat) (f : Element → Element) (s : State) (c : Nat) : ((modElem i f).exec s).ctx? c = s.ctx? c := rfl
@[simp] theorem modElem_at_vd (i : Nat) (f : Element → Element) (s : State) (n : Nat) : ((modElem i f).exec s).vd n = s.vd n := rfl
@[simp] theorem modElem_at_vdOfCtx (i : Nat) (f : Element → Element) (s : State) (c : Nat) : ((modElem i f).exec s).vdOfCtx c = s.vdOfCtx c := rfl
@[simp] theorem modElem_at_ticks (i : Nat) (f : Element → Element) (s : State)  : ((modElem i f).exec s).ticks  = s.ticks  := rfl

/-! `modSet` -/

@[simp] theorem modSet_power (i : Nat) (f : MatchSet → MatchSet) (s : State) : ((modSet i f).exec s).power = s.power := rfl
@[simp] theorem modSet_run (i : Nat) (f : MatchSet → MatchSet) (s : State) : ((modSet i f).exec s).run = s.run := rfl
@[simp] theorem modSet_bytes (i : Nat) (f : MatchSet → MatchSet) (s : State) : ((modSet i f).exec s).bytes = s.bytes := rfl
@[simp] theorem modSet_mem (i : Nat) (f : MatchSet → MatchSet) (s : State) : ((modSet i f).exec s).mem = s.mem := rfl
@[simp] theorem modSet_eng (i : Nat) (f : MatchSet → MatchSet) (s : State) : ((modSet i f).exec s).eng = s.eng := rfl
@[simp] theorem modSet_ten (i : Nat) (f : MatchSet → MatchSet) (s : State) : ((modSet i f).exec s).ten = s.ten := rfl
@[simp] theorem modSet_svc (i : Nat) (f : MatchSet → MatchSet) (s : State) : ((modSet i f).exec s).svc = s.svc := rfl
@[simp] theorem modSet_agenda (i : Nat) (f : MatchSet → MatchSet) (s : State) : ((modSet i f).exec s).agenda = s.agenda := rfl
@[simp] theorem modSet_free (i : Nat) (f : MatchSet → MatchSet) (s : State) : ((modSet i f).exec s).free = s.free := rfl
@[simp] theorem modSet_serial (i : Nat) (f : MatchSet → MatchSet) (s : State) : ((modSet i f).exec s).serial = s.serial := rfl
@[simp] theorem modSet_cur (i : Nat) (f : MatchSet → MatchSet) (s : State) : ((modSet i f).exec s).cur = s.cur := rfl
@[simp] theorem modSet_now (i : Nat) (f : MatchSet → MatchSet) (s : State) : ((modSet i f).exec s).now = s.now := rfl
@[simp] theorem modSet_at_elem (i : Nat) (f : MatchSet → MatchSet) (s : State) (k : Nat) : ((modSet i f).exec s).elem k = s.elem k := rfl
@[simp] theorem modSet_at_box (i : Nat) (f : MatchSet → MatchSet) (s : State) (k : Nat) : ((modSet i f).exec s).box k = s.box k := rfl
@[simp] theorem modSet_at_region_get (i : Nat) (f : MatchSet → MatchSet) (s : State) (c r : Nat) : ((modSet i f).exec s).region? c r = s.region? c r := rfl
@[simp] theorem modSet_at_regionAt (i : Nat) (f : MatchSet → MatchSet) (s : State) (k : Nat) : ((modSet i f).exec s).regionAt k = s.regionAt k := rfl
@[simp] theorem modSet_at_inst_get (i : Nat) (f : MatchSet → MatchSet) (s : State) (c r m d : Nat) : ((modSet i f).exec s).inst? c r m d = s.inst? c r m d := rfl
@[simp] theorem modSet_at_ctx_get (i : Nat) (f : MatchSet → MatchSet) (s : State) (c : Nat) : ((modSet i f).exec s).ctx? c = s.ctx? c := rfl
@[simp] theorem modSet_at_vd (i : Nat) (f : MatchSet → MatchSet) (s : State) (n : Nat) : ((modSet i f).exec s).vd n = s.vd n := rfl
@[simp] theorem modSet_at_vdOfCtx (i : Nat) (f : MatchSet → MatchSet) (s : State) (c : Nat) : ((modSet i f).exec s).vdOfCtx c = s.vdOfCtx c := rfl
@[simp] theorem modSet_at_ticks (i : Nat) (f : MatchSet → MatchSet) (s : State)  : ((modSet i f).exec s).ticks  = s.ticks  := rfl

/-! `modBox` -/

@[simp] theorem modBox_power (i : Nat) (f : SwitchBox → SwitchBox) (s : State) : ((modBox i f).exec s).power = s.power := rfl
@[simp] theorem modBox_run (i : Nat) (f : SwitchBox → SwitchBox) (s : State) : ((modBox i f).exec s).run = s.run := rfl
@[simp] theorem modBox_bytes (i : Nat) (f : SwitchBox → SwitchBox) (s : State) : ((modBox i f).exec s).bytes = s.bytes := rfl
@[simp] theorem modBox_mem (i : Nat) (f : SwitchBox → SwitchBox) (s : State) : ((modBox i f).exec s).mem = s.mem := rfl
@[simp] theorem modBox_eng (i : Nat) (f : SwitchBox → SwitchBox) (s : State) : ((modBox i f).exec s).eng = s.eng := rfl
@[simp] theorem modBox_ten (i : Nat) (f : SwitchBox → SwitchBox) (s : State) : ((modBox i f).exec s).ten = s.ten := rfl
@[simp] theorem modBox_svc (i : Nat) (f : SwitchBox → SwitchBox) (s : State) : ((modBox i f).exec s).svc = s.svc := rfl
@[simp] theorem modBox_agenda (i : Nat) (f : SwitchBox → SwitchBox) (s : State) : ((modBox i f).exec s).agenda = s.agenda := rfl
@[simp] theorem modBox_free (i : Nat) (f : SwitchBox → SwitchBox) (s : State) : ((modBox i f).exec s).free = s.free := rfl
@[simp] theorem modBox_serial (i : Nat) (f : SwitchBox → SwitchBox) (s : State) : ((modBox i f).exec s).serial = s.serial := rfl
@[simp] theorem modBox_cur (i : Nat) (f : SwitchBox → SwitchBox) (s : State) : ((modBox i f).exec s).cur = s.cur := rfl
@[simp] theorem modBox_now (i : Nat) (f : SwitchBox → SwitchBox) (s : State) : ((modBox i f).exec s).now = s.now := rfl
@[simp] theorem modBox_at_elem (i : Nat) (f : SwitchBox → SwitchBox) (s : State) (k : Nat) : ((modBox i f).exec s).elem k = s.elem k := rfl
@[simp] theorem modBox_at_set_get (i : Nat) (f : SwitchBox → SwitchBox) (s : State) (k : Nat) : ((modBox i f).exec s).set? k = s.set? k := rfl
@[simp] theorem modBox_at_region_get (i : Nat) (f : SwitchBox → SwitchBox) (s : State) (c r : Nat) : ((modBox i f).exec s).region? c r = s.region? c r := rfl
@[simp] theorem modBox_at_regionAt (i : Nat) (f : SwitchBox → SwitchBox) (s : State) (k : Nat) : ((modBox i f).exec s).regionAt k = s.regionAt k := rfl
@[simp] theorem modBox_at_inst_get (i : Nat) (f : SwitchBox → SwitchBox) (s : State) (c r m d : Nat) : ((modBox i f).exec s).inst? c r m d = s.inst? c r m d := rfl
@[simp] theorem modBox_at_ctx_get (i : Nat) (f : SwitchBox → SwitchBox) (s : State) (c : Nat) : ((modBox i f).exec s).ctx? c = s.ctx? c := rfl
@[simp] theorem modBox_at_vd (i : Nat) (f : SwitchBox → SwitchBox) (s : State) (n : Nat) : ((modBox i f).exec s).vd n = s.vd n := rfl
@[simp] theorem modBox_at_vdOfCtx (i : Nat) (f : SwitchBox → SwitchBox) (s : State) (c : Nat) : ((modBox i f).exec s).vdOfCtx c = s.vdOfCtx c := rfl
@[simp] theorem modBox_at_ticks (i : Nat) (f : SwitchBox → SwitchBox) (s : State)  : ((modBox i f).exec s).ticks  = s.ticks  := rfl

/-! `modRegion` -/

@[simp] theorem modRegion_power (i j : Nat) (f : Region → Region) (s : State) : ((modRegion i j f).exec s).power = s.power := rfl
@[simp] theorem modRegion_fab (i j : Nat) (f : Region → Region) (s : State) : ((modRegion i j f).exec s).fab = s.fab := rfl
@[simp] theorem modRegion_bytes (i j : Nat) (f : Region → Region) (s : State) : ((modRegion i j f).exec s).bytes = s.bytes := rfl
@[simp] theorem modRegion_mem (i j : Nat) (f : Region → Region) (s : State) : ((modRegion i j f).exec s).mem = s.mem := rfl
@[simp] theorem modRegion_eng (i j : Nat) (f : Region → Region) (s : State) : ((modRegion i j f).exec s).eng = s.eng := rfl
@[simp] theorem modRegion_ten (i j : Nat) (f : Region → Region) (s : State) : ((modRegion i j f).exec s).ten = s.ten := rfl
@[simp] theorem modRegion_svc (i j : Nat) (f : Region → Region) (s : State) : ((modRegion i j f).exec s).svc = s.svc := rfl
@[simp] theorem modRegion_agenda (i j : Nat) (f : Region → Region) (s : State) : ((modRegion i j f).exec s).agenda = s.agenda := rfl
@[simp] theorem modRegion_free (i j : Nat) (f : Region → Region) (s : State) : ((modRegion i j f).exec s).free = s.free := rfl
@[simp] theorem modRegion_serial (i j : Nat) (f : Region → Region) (s : State) : ((modRegion i j f).exec s).serial = s.serial := rfl
@[simp] theorem modRegion_cur (i j : Nat) (f : Region → Region) (s : State) : ((modRegion i j f).exec s).cur = s.cur := rfl
@[simp] theorem modRegion_now (i j : Nat) (f : Region → Region) (s : State) : ((modRegion i j f).exec s).now = s.now := rfl
@[simp] theorem modRegion_at_elem (i j : Nat) (f : Region → Region) (s : State) (k : Nat) : ((modRegion i j f).exec s).elem k = s.elem k := rfl
@[simp] theorem modRegion_at_set_get (i j : Nat) (f : Region → Region) (s : State) (k : Nat) : ((modRegion i j f).exec s).set? k = s.set? k := rfl
@[simp] theorem modRegion_at_box (i j : Nat) (f : Region → Region) (s : State) (k : Nat) : ((modRegion i j f).exec s).box k = s.box k := rfl
@[simp] theorem modRegion_at_ctx_get (i j : Nat) (f : Region → Region) (s : State) (c : Nat) : ((modRegion i j f).exec s).ctx? c = s.ctx? c := rfl
@[simp] theorem modRegion_at_vd (i j : Nat) (f : Region → Region) (s : State) (n : Nat) : ((modRegion i j f).exec s).vd n = s.vd n := rfl
@[simp] theorem modRegion_at_vdOfCtx (i j : Nat) (f : Region → Region) (s : State) (c : Nat) : ((modRegion i j f).exec s).vdOfCtx c = s.vdOfCtx c := rfl
@[simp] theorem modRegion_at_ticks (i j : Nat) (f : Region → Region) (s : State)  : ((modRegion i j f).exec s).ticks  = s.ticks  := rfl

/-! `modCtx` -/

@[simp] theorem modCtx_power (i : Nat) (f : Ctx → Ctx) (s : State) : ((modCtx i f).exec s).power = s.power := rfl
@[simp] theorem modCtx_fab (i : Nat) (f : Ctx → Ctx) (s : State) : ((modCtx i f).exec s).fab = s.fab := rfl
@[simp] theorem modCtx_run (i : Nat) (f : Ctx → Ctx) (s : State) : ((modCtx i f).exec s).run = s.run := rfl
@[simp] theorem modCtx_bytes (i : Nat) (f : Ctx → Ctx) (s : State) : ((modCtx i f).exec s).bytes = s.bytes := rfl
@[simp] theorem modCtx_mem (i : Nat) (f : Ctx → Ctx) (s : State) : ((modCtx i f).exec s).mem = s.mem := rfl
@[simp] theorem modCtx_eng (i : Nat) (f : Ctx → Ctx) (s : State) : ((modCtx i f).exec s).eng = s.eng := rfl
@[simp] theorem modCtx_svc (i : Nat) (f : Ctx → Ctx) (s : State) : ((modCtx i f).exec s).svc = s.svc := rfl
@[simp] theorem modCtx_agenda (i : Nat) (f : Ctx → Ctx) (s : State) : ((modCtx i f).exec s).agenda = s.agenda := rfl
@[simp] theorem modCtx_free (i : Nat) (f : Ctx → Ctx) (s : State) : ((modCtx i f).exec s).free = s.free := rfl
@[simp] theorem modCtx_serial (i : Nat) (f : Ctx → Ctx) (s : State) : ((modCtx i f).exec s).serial = s.serial := rfl
@[simp] theorem modCtx_cur (i : Nat) (f : Ctx → Ctx) (s : State) : ((modCtx i f).exec s).cur = s.cur := rfl
@[simp] theorem modCtx_now (i : Nat) (f : Ctx → Ctx) (s : State) : ((modCtx i f).exec s).now = s.now := rfl
@[simp] theorem modCtx_at_elem (i : Nat) (f : Ctx → Ctx) (s : State) (k : Nat) : ((modCtx i f).exec s).elem k = s.elem k := rfl
@[simp] theorem modCtx_at_set_get (i : Nat) (f : Ctx → Ctx) (s : State) (k : Nat) : ((modCtx i f).exec s).set? k = s.set? k := rfl
@[simp] theorem modCtx_at_box (i : Nat) (f : Ctx → Ctx) (s : State) (k : Nat) : ((modCtx i f).exec s).box k = s.box k := rfl
@[simp] theorem modCtx_at_region_get (i : Nat) (f : Ctx → Ctx) (s : State) (c r : Nat) : ((modCtx i f).exec s).region? c r = s.region? c r := rfl
@[simp] theorem modCtx_at_regionAt (i : Nat) (f : Ctx → Ctx) (s : State) (k : Nat) : ((modCtx i f).exec s).regionAt k = s.regionAt k := rfl
@[simp] theorem modCtx_at_inst_get (i : Nat) (f : Ctx → Ctx) (s : State) (c r m d : Nat) : ((modCtx i f).exec s).inst? c r m d = s.inst? c r m d := rfl
@[simp] theorem modCtx_at_vd (i : Nat) (f : Ctx → Ctx) (s : State) (n : Nat) : ((modCtx i f).exec s).vd n = s.vd n := rfl
@[simp] theorem modCtx_at_ticks (i : Nat) (f : Ctx → Ctx) (s : State)  : ((modCtx i f).exec s).ticks  = s.ticks  := rfl

/-! `modVd` -/

@[simp] theorem modVd_power (i : Nat) (f : Vd → Vd) (s : State) : ((modVd i f).exec s).power = s.power := rfl
@[simp] theorem modVd_fab (i : Nat) (f : Vd → Vd) (s : State) : ((modVd i f).exec s).fab = s.fab := rfl
@[simp] theorem modVd_run (i : Nat) (f : Vd → Vd) (s : State) : ((modVd i f).exec s).run = s.run := rfl
@[simp] theorem modVd_bytes (i : Nat) (f : Vd → Vd) (s : State) : ((modVd i f).exec s).bytes = s.bytes := rfl
@[simp] theorem modVd_mem (i : Nat) (f : Vd → Vd) (s : State) : ((modVd i f).exec s).mem = s.mem := rfl
@[simp] theorem modVd_eng (i : Nat) (f : Vd → Vd) (s : State) : ((modVd i f).exec s).eng = s.eng := rfl
@[simp] theorem modVd_svc (i : Nat) (f : Vd → Vd) (s : State) : ((modVd i f).exec s).svc = s.svc := rfl
@[simp] theorem modVd_agenda (i : Nat) (f : Vd → Vd) (s : State) : ((modVd i f).exec s).agenda = s.agenda := rfl
@[simp] theorem modVd_free (i : Nat) (f : Vd → Vd) (s : State) : ((modVd i f).exec s).free = s.free := rfl
@[simp] theorem modVd_serial (i : Nat) (f : Vd → Vd) (s : State) : ((modVd i f).exec s).serial = s.serial := rfl
@[simp] theorem modVd_cur (i : Nat) (f : Vd → Vd) (s : State) : ((modVd i f).exec s).cur = s.cur := rfl
@[simp] theorem modVd_now (i : Nat) (f : Vd → Vd) (s : State) : ((modVd i f).exec s).now = s.now := rfl
@[simp] theorem modVd_at_elem (i : Nat) (f : Vd → Vd) (s : State) (k : Nat) : ((modVd i f).exec s).elem k = s.elem k := rfl
@[simp] theorem modVd_at_set_get (i : Nat) (f : Vd → Vd) (s : State) (k : Nat) : ((modVd i f).exec s).set? k = s.set? k := rfl
@[simp] theorem modVd_at_box (i : Nat) (f : Vd → Vd) (s : State) (k : Nat) : ((modVd i f).exec s).box k = s.box k := rfl
@[simp] theorem modVd_at_region_get (i : Nat) (f : Vd → Vd) (s : State) (c r : Nat) : ((modVd i f).exec s).region? c r = s.region? c r := rfl
@[simp] theorem modVd_at_regionAt (i : Nat) (f : Vd → Vd) (s : State) (k : Nat) : ((modVd i f).exec s).regionAt k = s.regionAt k := rfl
@[simp] theorem modVd_at_inst_get (i : Nat) (f : Vd → Vd) (s : State) (c r m d : Nat) : ((modVd i f).exec s).inst? c r m d = s.inst? c r m d := rfl
@[simp] theorem modVd_at_ctx_get (i : Nat) (f : Vd → Vd) (s : State) (c : Nat) : ((modVd i f).exec s).ctx? c = s.ctx? c := rfl
@[simp] theorem modVd_at_vdOfCtx (i : Nat) (f : Vd → Vd) (s : State) (c : Nat) : ((modVd i f).exec s).vdOfCtx c = s.vdOfCtx c := rfl
@[simp] theorem modVd_at_ticks (i : Nat) (f : Vd → Vd) (s : State)  : ((modVd i f).exec s).ticks  = s.ticks  := rfl

/-! `modOp` -/

@[simp] theorem modOp_power (i : Nat) (f : MemOp → MemOp) (s : State) : ((modOp i f).exec s).power = s.power := rfl
@[simp] theorem modOp_fab (i : Nat) (f : MemOp → MemOp) (s : State) : ((modOp i f).exec s).fab = s.fab := rfl
@[simp] theorem modOp_run (i : Nat) (f : MemOp → MemOp) (s : State) : ((modOp i f).exec s).run = s.run := rfl
@[simp] theorem modOp_bytes (i : Nat) (f : MemOp → MemOp) (s : State) : ((modOp i f).exec s).bytes = s.bytes := rfl
@[simp] theorem modOp_eng (i : Nat) (f : MemOp → MemOp) (s : State) : ((modOp i f).exec s).eng = s.eng := rfl
@[simp] theorem modOp_ten (i : Nat) (f : MemOp → MemOp) (s : State) : ((modOp i f).exec s).ten = s.ten := rfl
@[simp] theorem modOp_svc (i : Nat) (f : MemOp → MemOp) (s : State) : ((modOp i f).exec s).svc = s.svc := rfl
@[simp] theorem modOp_agenda (i : Nat) (f : MemOp → MemOp) (s : State) : ((modOp i f).exec s).agenda = s.agenda := rfl
@[simp] theorem modOp_free (i : Nat) (f : MemOp → MemOp) (s : State) : ((modOp i f).exec s).free = s.free := rfl
@[simp] theorem modOp_serial (i : Nat) (f : MemOp → MemOp) (s : State) : ((modOp i f).exec s).serial = s.serial := rfl
@[simp] theorem modOp_cur (i : Nat) (f : MemOp → MemOp) (s : State) : ((modOp i f).exec s).cur = s.cur := rfl
@[simp] theorem modOp_now (i : Nat) (f : MemOp → MemOp) (s : State) : ((modOp i f).exec s).now = s.now := rfl
@[simp] theorem modOp_at_elem (i : Nat) (f : MemOp → MemOp) (s : State) (k : Nat) : ((modOp i f).exec s).elem k = s.elem k := rfl
@[simp] theorem modOp_at_set_get (i : Nat) (f : MemOp → MemOp) (s : State) (k : Nat) : ((modOp i f).exec s).set? k = s.set? k := rfl
@[simp] theorem modOp_at_box (i : Nat) (f : MemOp → MemOp) (s : State) (k : Nat) : ((modOp i f).exec s).box k = s.box k := rfl
@[simp] theorem modOp_at_region_get (i : Nat) (f : MemOp → MemOp) (s : State) (c r : Nat) : ((modOp i f).exec s).region? c r = s.region? c r := rfl
@[simp] theorem modOp_at_regionAt (i : Nat) (f : MemOp → MemOp) (s : State) (k : Nat) : ((modOp i f).exec s).regionAt k = s.regionAt k := rfl
@[simp] theorem modOp_at_inst_get (i : Nat) (f : MemOp → MemOp) (s : State) (c r m d : Nat) : ((modOp i f).exec s).inst? c r m d = s.inst? c r m d := rfl
@[simp] theorem modOp_at_ctx_get (i : Nat) (f : MemOp → MemOp) (s : State) (c : Nat) : ((modOp i f).exec s).ctx? c = s.ctx? c := rfl
@[simp] theorem modOp_at_vd (i : Nat) (f : MemOp → MemOp) (s : State) (n : Nat) : ((modOp i f).exec s).vd n = s.vd n := rfl
@[simp] theorem modOp_at_vdOfCtx (i : Nat) (f : MemOp → MemOp) (s : State) (c : Nat) : ((modOp i f).exec s).vdOfCtx c = s.vdOfCtx c := rfl
@[simp] theorem modOp_at_ticks (i : Nat) (f : MemOp → MemOp) (s : State)  : ((modOp i f).exec s).ticks  = s.ticks  := rfl

/-! `modJob` -/

@[simp] theorem modJob_power (i : Nat) (f : Job → Job) (s : State) : ((modJob i f).exec s).power = s.power := rfl
@[simp] theorem modJob_fab (i : Nat) (f : Job → Job) (s : State) : ((modJob i f).exec s).fab = s.fab := rfl
@[simp] theorem modJob_run (i : Nat) (f : Job → Job) (s : State) : ((modJob i f).exec s).run = s.run := rfl
@[simp] theorem modJob_bytes (i : Nat) (f : Job → Job) (s : State) : ((modJob i f).exec s).bytes = s.bytes := rfl
@[simp] theorem modJob_mem (i : Nat) (f : Job → Job) (s : State) : ((modJob i f).exec s).mem = s.mem := rfl
@[simp] theorem modJob_ten (i : Nat) (f : Job → Job) (s : State) : ((modJob i f).exec s).ten = s.ten := rfl
@[simp] theorem modJob_svc (i : Nat) (f : Job → Job) (s : State) : ((modJob i f).exec s).svc = s.svc := rfl
@[simp] theorem modJob_agenda (i : Nat) (f : Job → Job) (s : State) : ((modJob i f).exec s).agenda = s.agenda := rfl
@[simp] theorem modJob_free (i : Nat) (f : Job → Job) (s : State) : ((modJob i f).exec s).free = s.free := rfl
@[simp] theorem modJob_serial (i : Nat) (f : Job → Job) (s : State) : ((modJob i f).exec s).serial = s.serial := rfl
@[simp] theorem modJob_cur (i : Nat) (f : Job → Job) (s : State) : ((modJob i f).exec s).cur = s.cur := rfl
@[simp] theorem modJob_now (i : Nat) (f : Job → Job) (s : State) : ((modJob i f).exec s).now = s.now := rfl
@[simp] theorem modJob_at_elem (i : Nat) (f : Job → Job) (s : State) (k : Nat) : ((modJob i f).exec s).elem k = s.elem k := rfl
@[simp] theorem modJob_at_set_get (i : Nat) (f : Job → Job) (s : State) (k : Nat) : ((modJob i f).exec s).set? k = s.set? k := rfl
@[simp] theorem modJob_at_box (i : Nat) (f : Job → Job) (s : State) (k : Nat) : ((modJob i f).exec s).box k = s.box k := rfl
@[simp] theorem modJob_at_region_get (i : Nat) (f : Job → Job) (s : State) (c r : Nat) : ((modJob i f).exec s).region? c r = s.region? c r := rfl
@[simp] theorem modJob_at_regionAt (i : Nat) (f : Job → Job) (s : State) (k : Nat) : ((modJob i f).exec s).regionAt k = s.regionAt k := rfl
@[simp] theorem modJob_at_inst_get (i : Nat) (f : Job → Job) (s : State) (c r m d : Nat) : ((modJob i f).exec s).inst? c r m d = s.inst? c r m d := rfl
@[simp] theorem modJob_at_ctx_get (i : Nat) (f : Job → Job) (s : State) (c : Nat) : ((modJob i f).exec s).ctx? c = s.ctx? c := rfl
@[simp] theorem modJob_at_vd (i : Nat) (f : Job → Job) (s : State) (n : Nat) : ((modJob i f).exec s).vd n = s.vd n := rfl
@[simp] theorem modJob_at_vdOfCtx (i : Nat) (f : Job → Job) (s : State) (c : Nat) : ((modJob i f).exec s).vdOfCtx c = s.vdOfCtx c := rfl
@[simp] theorem modJob_at_ticks (i : Nat) (f : Job → Job) (s : State)  : ((modJob i f).exec s).ticks  = s.ticks  := rfl

/-! `modLaunch` -/

@[simp] theorem modLaunch_power (i : Nat) (f : Launch → Launch) (s : State) : ((modLaunch i f).exec s).power = s.power := rfl
@[simp] theorem modLaunch_fab (i : Nat) (f : Launch → Launch) (s : State) : ((modLaunch i f).exec s).fab = s.fab := rfl
@[simp] theorem modLaunch_run (i : Nat) (f : Launch → Launch) (s : State) : ((modLaunch i f).exec s).run = s.run := rfl
@[simp] theorem modLaunch_bytes (i : Nat) (f : Launch → Launch) (s : State) : ((modLaunch i f).exec s).bytes = s.bytes := rfl
@[simp] theorem modLaunch_mem (i : Nat) (f : Launch → Launch) (s : State) : ((modLaunch i f).exec s).mem = s.mem := rfl
@[simp] theorem modLaunch_eng (i : Nat) (f : Launch → Launch) (s : State) : ((modLaunch i f).exec s).eng = s.eng := rfl
@[simp] theorem modLaunch_svc (i : Nat) (f : Launch → Launch) (s : State) : ((modLaunch i f).exec s).svc = s.svc := rfl
@[simp] theorem modLaunch_agenda (i : Nat) (f : Launch → Launch) (s : State) : ((modLaunch i f).exec s).agenda = s.agenda := rfl
@[simp] theorem modLaunch_free (i : Nat) (f : Launch → Launch) (s : State) : ((modLaunch i f).exec s).free = s.free := rfl
@[simp] theorem modLaunch_serial (i : Nat) (f : Launch → Launch) (s : State) : ((modLaunch i f).exec s).serial = s.serial := rfl
@[simp] theorem modLaunch_cur (i : Nat) (f : Launch → Launch) (s : State) : ((modLaunch i f).exec s).cur = s.cur := rfl
@[simp] theorem modLaunch_now (i : Nat) (f : Launch → Launch) (s : State) : ((modLaunch i f).exec s).now = s.now := rfl
@[simp] theorem modLaunch_at_elem (i : Nat) (f : Launch → Launch) (s : State) (k : Nat) : ((modLaunch i f).exec s).elem k = s.elem k := rfl
@[simp] theorem modLaunch_at_set_get (i : Nat) (f : Launch → Launch) (s : State) (k : Nat) : ((modLaunch i f).exec s).set? k = s.set? k := rfl
@[simp] theorem modLaunch_at_box (i : Nat) (f : Launch → Launch) (s : State) (k : Nat) : ((modLaunch i f).exec s).box k = s.box k := rfl
@[simp] theorem modLaunch_at_region_get (i : Nat) (f : Launch → Launch) (s : State) (c r : Nat) : ((modLaunch i f).exec s).region? c r = s.region? c r := rfl
@[simp] theorem modLaunch_at_regionAt (i : Nat) (f : Launch → Launch) (s : State) (k : Nat) : ((modLaunch i f).exec s).regionAt k = s.regionAt k := rfl
@[simp] theorem modLaunch_at_inst_get (i : Nat) (f : Launch → Launch) (s : State) (c r m d : Nat) : ((modLaunch i f).exec s).inst? c r m d = s.inst? c r m d := rfl
@[simp] theorem modLaunch_at_ctx_get (i : Nat) (f : Launch → Launch) (s : State) (c : Nat) : ((modLaunch i f).exec s).ctx? c = s.ctx? c := rfl
@[simp] theorem modLaunch_at_vd (i : Nat) (f : Launch → Launch) (s : State) (n : Nat) : ((modLaunch i f).exec s).vd n = s.vd n := rfl
@[simp] theorem modLaunch_at_vdOfCtx (i : Nat) (f : Launch → Launch) (s : State) (c : Nat) : ((modLaunch i f).exec s).vdOfCtx c = s.vdOfCtx c := rfl
@[simp] theorem modLaunch_at_ticks (i : Nat) (f : Launch → Launch) (s : State)  : ((modLaunch i f).exec s).ticks  = s.ticks  := rfl

/-! ### The changed entry itself -/

@[simp] theorem modElem_elem_self (i : Nat) (f : Element → Element) (s : State) :
    ((modElem i f).exec s).elem i = f (s.elem i) := by simp [modElem, State.elem]
theorem modElem_elem_ne {i j : Nat} (f : Element → Element) (s : State) (h : j ≠ i) :
    ((modElem i f).exec s).elem j = s.elem j := by simp [modElem, State.elem, Tbl.getD_set_ne, h]
@[simp] theorem modSet_set_self (i : Nat) (f : MatchSet → MatchSet) (s : State) :
    ((modSet i f).exec s).set? i = f (s.set? i) := by simp [modSet, State.set?]
theorem modSet_set_ne {i j : Nat} (f : MatchSet → MatchSet) (s : State) (h : j ≠ i) :
    ((modSet i f).exec s).set? j = s.set? j := by simp [modSet, State.set?, Tbl.getD_set_ne, h]
@[simp] theorem modBox_box_self (i : Nat) (f : SwitchBox → SwitchBox) (s : State) :
    ((modBox i f).exec s).box i = f (s.box i) := by simp [modBox, State.box]
theorem modBox_box_ne {i j : Nat} (f : SwitchBox → SwitchBox) (s : State) (h : j ≠ i) :
    ((modBox i f).exec s).box j = s.box j := by simp [modBox, State.box, Tbl.getD_set_ne, h]
@[simp] theorem modRegion_region_self (i j : Nat) (f : Region → Region) (s : State) :
    ((modRegion i j f).exec s).region? i j = (s.region? i j).map f := by simp [modRegion, State.region?]
@[simp] theorem modCtx_ctx_self (i : Nat) (f : Ctx → Ctx) (s : State) :
    ((modCtx i f).exec s).ctx? i = (s.ctx? i).map f := by simp [modCtx, State.ctx?]
theorem modCtx_ctx_ne {i j : Nat} (f : Ctx → Ctx) (s : State) (h : j ≠ i) :
    ((modCtx i f).exec s).ctx? j = s.ctx? j := by simp [modCtx, State.ctx?, Tbl.get?_mod_ne, h]
@[simp] theorem modVd_vd_self (i : Nat) (f : Vd → Vd) (s : State) :
    ((modVd i f).exec s).vd i = f (s.vd i) := by simp [modVd, State.vd]
theorem modVd_vd_ne {i j : Nat} (f : Vd → Vd) (s : State) (h : j ≠ i) :
    ((modVd i f).exec s).vd j = s.vd j := by simp [modVd, State.vd, Tbl.getD_set_ne, h]
@[simp] theorem modOp_op_self (i : Nat) (f : MemOp → MemOp) (s : State) :
    ((modOp i f).exec s).mem.ops.get? i = (s.mem.ops.get? i).map f := by simp [modOp]
@[simp] theorem modJob_job_self (i : Nat) (f : Job → Job) (s : State) :
    ((modJob i f).exec s).eng.jobs.get? i = (s.eng.jobs.get? i).map f := by simp [modJob]
@[simp] theorem modLaunch_launch_self (i : Nat) (f : Launch → Launch) (s : State) :
    ((modLaunch i f).exec s).ten.launches.get? i = (s.ten.launches.get? i).map f := by simp [modLaunch]

/-- A change of a context that keeps its VD keeps the VD of every context. -/
theorem modCtx_vdOfCtx (i c : Nat) (f : Ctx → Ctx) (s : State) (h : ∀ x, (f x).vd = x.vd) :
    ((modCtx i f).exec s).vdOfCtx c = s.vdOfCtx c := by
  by_cases hc : c = i
  · subst hc; simp only [State.vdOfCtx, modCtx_ctx_self]; cases s.ctx? c <;> simp [h]
  · simp [State.vdOfCtx, modCtx_ctx_ne f s hc]

end Sys2Proof.Machine
end

