-- ==== Sys2Proof/Laws/Nodes.lean ====
section
/-! SUPPORT. What the shared operations of node rows do: the record of a firing, flags, and result tokens. -/

namespace Sys2Proof.Machine

/-! ### The record of a firing -/

theorem modInst_of (g : State → α) (ctx rgn frm dom : Nat) (k : Inst → Inst) (s : State)
    (h : ∀ f s, g ((modRegion ctx rgn f).exec s) = g s) : g ((modInst ctx rgn frm dom k).exec s) = g s := h _ s

@[simp] theorem markFired_fab (f : Firing) (s : State) : ((markFired f).exec s).fab = s.fab := rfl
@[simp] theorem markFired_bytes (f : Firing) (s : State) : ((markFired f).exec s).bytes = s.bytes := rfl
@[simp] theorem markFired_mem (f : Firing) (s : State) : ((markFired f).exec s).mem = s.mem := rfl
@[simp] theorem markFired_eng (f : Firing) (s : State) : ((markFired f).exec s).eng = s.eng := rfl
@[simp] theorem markFired_svc (f : Firing) (s : State) : ((markFired f).exec s).svc = s.svc := rfl
@[simp] theorem markFired_power (f : Firing) (s : State) : ((markFired f).exec s).power = s.power := rfl
@[simp] theorem markFired_now (f : Firing) (s : State) : ((markFired f).exec s).now = s.now := rfl
@[simp] theorem markFired_free (f : Firing) (s : State) : ((markFired f).exec s).free = s.free := rfl
@[simp] theorem markFired_serial (f : Firing) (s : State) : ((markFired f).exec s).serial = s.serial := rfl
@[simp] theorem markFired_cur (f : Firing) (s : State) : ((markFired f).exec s).cur = s.cur := rfl
@[simp] theorem markFired_elem (f : Firing) (s : State) (k : Nat) : ((markFired f).exec s).elem k = s.elem k := rfl
@[simp] theorem markFired_set (f : Firing) (s : State) (k : Nat) : ((markFired f).exec s).set? k = s.set? k := rfl
@[simp] theorem markFired_box (f : Firing) (s : State) (k : Nat) : ((markFired f).exec s).box k = s.box k := rfl
@[simp] theorem markFired_vd (f : Firing) (s : State) (n : Nat) : ((markFired f).exec s).vd n = s.vd n := rfl

/-- The context of a firing keeps everything but its progress cycle. -/
theorem markFired_ctx (f : Firing) (s : State) :
    ((markFired f).exec s).ctx? f.ctx = (s.ctx? f.ctx).map fun c => { c with lastProgress := s.now } := by
  simp only [markFired, Cmd.exec_get, Cmd.exec_all_cons, Cmd.exec_all_one, tryCommit, Cmd.exec_after, Prim.schedule_at_ctx_get]
  simp only [count, Cmd.exec_prim, Prim.run, progress, Cmd.exec_get]
  rw [show ∀ (t : TenState) (x : Tbl Nat) (u : State), State.ctx? { u with ten := { t with counters := x } } f.ctx
    = State.ctx? { u with ten := t } f.ctx from fun _ _ _ => rfl]
  exact modCtx_ctx_self f.ctx _ _

theorem markFired_ctx_ne (f : Firing) (s : State) {c : Nat} (h : c ≠ f.ctx) :
    ((markFired f).exec s).ctx? c = s.ctx? c := by
  have : ((markFired f).exec s).ctx? c = ((progress f.ctx).exec s).ctx? c := rfl
  rw [this]; exact modCtx_ctx_ne _ s h

/-- A firing keeps the VD of every context. -/
@[simp] theorem markFired_vdOfCtx (f : Firing) (s : State) (c : Nat) : ((markFired f).exec s).vdOfCtx c = s.vdOfCtx c := by
  have : ((markFired f).exec s).vdOfCtx c = ((progress f.ctx).exec s).vdOfCtx c := rfl
  rw [this]; exact modCtx_vdOfCtx _ _ _ s fun _ => rfl

theorem markFired_agenda (f : Firing) (s : State) {x : Nat × Task} (h : x ∈ s.agenda) : x ∈ ((markFired f).exec s).agenda :=
  mem_agendaInsert.2 (.inr h)

/-- The instance of a firing is looked at again. -/
theorem markFired_commit (f : Firing) (s : State) :
    ((markFired f).exec s).due s.now (.instanceCommit f.ctx f.rgn f.frm (tagDomain f.tag)) :=
  mem_agendaInsert.2 (.inl rfl)

/-! ### Flags -/

@[simp] theorem orFlags_fab (c fl : Nat) (s : State) : ((orFlags c fl).exec s).fab = s.fab := Cmd.keep_when (fun _ => rfl) s
@[simp] theorem orFlags_now (c fl : Nat) (s : State) : ((orFlags c fl).exec s).now = s.now := Cmd.keep_when (fun _ => rfl) s
@[simp] theorem orFlags_agenda (c fl : Nat) (s : State) : ((orFlags c fl).exec s).agenda = s.agenda :=
  Cmd.keep_when (fun _ => rfl) s

/-- Flags are ORed into FPSTAT. -/
theorem orFlags_fpstat (c fl : Nat) (s : State) : FlagsOr s ((orFlags c fl).exec s) c fl := by
  unfold FlagsOr orFlags
  by_cases h : fl = 0
  · subst h; simp [Cmd.when]
  · have : (fl != 0) = true := by simpa using h
    rw [this, Cmd.exec_when_true, modCtx_ctx_self]; cases s.ctx? c <;> rfl

/-! ### Result tokens -/

theorem putOut_outs (sid fid which lat : Nat) (tok : Token) (s : State) :
    (((putOut sid fid which lat tok).exec s).elem sid).outs = (s.elem sid).outs ++ [⟨which, tok, s.now + lat, fid⟩] := by
  simp [putOut]

theorem putOut_now (sid fid which lat : Nat) (tok : Token) (s : State) : ((putOut sid fid which lat tok).exec s).now = s.now := rfl

theorem putOut_agenda (sid fid which lat : Nat) (tok : Token) (s : State) (x : Nat × Task) :
    x ∈ ((putOut sid fid which lat tok).exec s).agenda ↔
      x = (s.now + (lat + 1), .ev (.tokenHop sid tok.val.net (routeDir (xOf sid) (yOf sid) tok.dx tok.dy))) ∨ x ∈ s.agenda := by
  simp [putOut, mem_agendaInsert]

/-- What `emit2` sends. -/
theorem emit2_sends (f : Firing) (h : Hdr) (lat : Nat) (tag : W64) (v0 v1 : Val) (s : State) :
    Sends s ((emit2 f h lat tag v0 v1).exec s) f h lat tag v0 v1 := by
  obtain ⟨sub, pred, ty, ⟨x0, n0, p0⟩, ⟨x1, n1, p1⟩, lit⟩ := h
  constructor <;> cases x0 <;> cases x1 <;>
    simp [emit2, emitOn, Firing.results, Firing.token, putOut_outs, putOut_now, State.due, putOut_agenda, Firing.destX,
      Firing.destY]

/-- What `emit` sends. -/
theorem emit_sends (f : Firing) (h : Hdr) (lat : Nat) (tag : W64) (v : Val) (s : State) :
    Sends s ((emit f h lat tag v).exec s) f h lat tag v v := emit2_sends f h lat tag v v s

/-- Sending after a command that keeps the fabric and the cycle. -/
theorem Sends.after {s t u : State} {f : Firing} {h : Hdr} {lat : Nat} {tag : W64} {v0 v1 : Val}
    (hs : Sends t u f h lat tag v0 v1) (hf : t.fab = s.fab) (hn : t.now = s.now) : Sends s u f h lat tag v0 v1 := by
  obtain ⟨a, b, c⟩ := hs
  have he : (t.elem f.sid).outs = (s.elem f.sid).outs := by simp [State.elem, hf]
  constructor
  · rw [a, he, hn]
  · rw [← hn]; exact b
  · rw [← hn]; exact c

/-- A node on ordinary operands runs its computation after the firing is recorded. -/
theorem node_ordinary {f : Firing} {h : Hdr} {g : Sig} {lat : Nat} {tag : W64} {k : Cmd} {s : State}
    (ho : f.ordinary h.pred) : (node f h g lat tag k).exec s = k.exec ((markFired f).exec s) := by
  simp [node, ho.1, ho.2]

/-- A node on a poisoned operand. -/
theorem node_poison {f : Firing} {h : Hdr} {g : Sig} {lat : Nat} {tag : W64} {k : Cmd} {s : State} {o : W64}
    (ho : f.poison? = some o) : (node f h g lat tag k).exec s = (emitPoison f h lat tag o).exec ((markFired f).exec s) := by
  simp [node, ho]

/-- A null firing of a node. -/
theorem node_null {f : Firing} {h : Hdr} {g : Sig} {lat : Nat} {tag : W64} {k : Cmd} {s : State}
    (hp : f.poison? = none) (ho : f.off h.pred = true) :
    (node f h g lat tag k).exec s = (emitNull f h g lat tag).exec ((markFired f).exec s) := by
  simp [node, hp, ho]

/-- A standard node with flags on ordinary operands. -/
theorem computeFlags_ordinary {f : Firing} {h : Hdr} {g : Sig} {lat : Nat} {r : Val × Nat} {s : State}
    (ho : f.ordinary h.pred) : Sends s ((computeFlags f h g lat r).exec s) f h lat f.tag r.1 r.1 ∧
      FlagsOr s ((computeFlags f h g lat r).exec s) f.ctx r.2 := by
  unfold computeFlags
  rw [node_ordinary ho, Cmd.exec_seq]
  refine ⟨(emit_sends _ _ _ _ _ _).after (by simp) (by simp), ?_⟩
  have h1 : ∀ u : State, ((emit f h lat f.tag r.1).exec u).ctx? f.ctx = u.ctx? f.ctx := by
    intro u; simp only [emit, emitOn, Cmd.exec_seq]
    rw [Cmd.keep_when (g := fun s => s.ctx? f.ctx) (fun s => rfl), Cmd.keep_when (g := fun s => s.ctx? f.ctx) (fun s => rfl)]
  unfold FlagsOr
  rw [h1]
  have h2 := orFlags_fpstat f.ctx r.2 ((markFired f).exec s)
  unfold FlagsOr at h2
  rw [h2, markFired_ctx]; cases s.ctx? f.ctx <;> rfl

/-- A standard node without flags on ordinary operands. -/
theorem compute_ordinary {f : Firing} {h : Hdr} {g : Sig} {lat : Nat} {v : Val} {s : State} (ho : f.ordinary h.pred) :
    Sends s ((compute f h g lat v).exec s) f h lat f.tag v v := by
  unfold compute
  rw [node_ordinary ho]
  exact (emit_sends _ _ _ _ _ _).after (by simp) (by simp)

end Sys2Proof.Machine
end

