-- ==== Sys2Proof/Tests/Slice0.lean ====
section
/-! SUPPORT. Tests of the model: words of every node instruction, refused terms, worked examples of the spec, and for every
statement a state and operands that meet its hypotheses. -/

namespace Sys2Proof.Tests

open Sys2Proof Sys2Proof.Machine

/-! ### Records (R72 to R91): one word of every node instruction, its fields put together from R73, the overlay tables (R77 to
R84) and the class tables. Every record has PRED 01, D0 to node 9 port a where the row has destinations, and in the memory,
engine and system M overlays LSID 5, PRV 4, NXT 6. -/
/-- Destination node 9 port a, or none. -/
def d0Of (dest : Bool) : Dest := if dest then ⟨true, 9, .a⟩ else ⟨false, 0, .a⟩
def pl (sub : BitVec 6) (ty : Ty) (lit : BitVec 32) (dest l v : Bool) (greg : BitVec 7) : PlumbNode :=
  ⟨⟨sub, .ifTrue, ty, d0Of dest, d0Of false, lit⟩, l, v, greg⟩
def tg (sub : BitVec 6) (ty : Ty) (lit : BitVec 32) (dest l v : Bool) (lvl : BitVec 3) (kb : BitVec 6) : TagNode :=
  ⟨⟨sub, .ifTrue, ty, d0Of dest, d0Of false, lit⟩, l, v, lvl, kb⟩
def cm (sub : BitVec 6) (ty : Ty) (lit : BitVec 32) (dest l v : Bool) (rm : BitVec 4) (sat : Bool) (mask : BitVec 16) : CommonNode :=
  ⟨⟨sub, .ifTrue, ty, d0Of dest, d0Of false, lit⟩, l, v, rm, sat, mask⟩
def mm (sub : BitVec 6) (ty : Ty) (lit : BitVec 32) (dest l v g : Bool) (ord : BitVec 2) (scope : BitVec 3) : MemNode :=
  ⟨⟨sub, .ifTrue, ty, d0Of dest, d0Of false, lit⟩, l, v, 5, g, ord, scope, 4, 6, false⟩
def en (sub : BitVec 6) (ty : Ty) (bank half : Bool) (unit : BitVec 6) : EngNode :=
  ⟨⟨sub, .ifTrue, ty, d0Of true, d0Of false, 0⟩, bank, half, 5, unit, 4, 6, false⟩
def gf (ty : Ty) (lit : BitVec 32) (l v : Bool) (rm gmode : BitVec 4) : GfxNode :=
  ⟨⟨0, .ifTrue, ty, d0Of true, d0Of false, lit⟩, l, v, rm, gmode⟩
def ss (sub : BitVec 6) (ty : Ty) (lit : BitVec 32) (dest l : Bool) (sreg : BitVec 12) : SysSNode :=
  ⟨⟨sub, .ifTrue, ty, d0Of dest, d0Of false, lit⟩, l, sreg⟩
def sm (sub : BitVec 6) : SysMNode := ⟨⟨sub, .ifTrue, .n64, d0Of true, d0Of false, 0⟩, 5, 4, 6, true⟩

theorem test_decode_plumbing : ∀ p ∈ ([
    (0x010168900000000000000000, .mov (pl 0 .n32 0 true false false 0)),
    (0x020568900000000000000000, .steer (pl 1 .n32 0 true false false 0)),
    (0x030168900040000000000000, .merge (pl 0 .n32 0 true false true 0)),
    (0x0401B8900000000000000000, .gate (pl 0 .f64 0 true false false 0)),
    (0x050168900000000000000000, .nullg (pl 0 .n32 0 true false false 0)),
    (0x060160000000000000000000, .sink (pl 0 .n32 0 false false false 0)),
    (0x07016890008000000000004D, .const (pl 0 .n32 77 true true false 0)),
    (0x080068900008800000000000, .read { pl 0 .n32 0 true false false 17 with pred := .always }),
    (0x09016000004F800000000000, .write (pl 0 .n32 0 false false true 31)),
    (0x0A016000008000000000012C, .br (pl 0 .n32 300 false true false 0)),
    (0x0B0120000080000000001000, .bri (pl 0 .i32 4096 false true false 0)),
    (0x0C0160000080000000000009, .callb (pl 0 .n32 9 false true false 0)),
    (0x0D0160000000000000000000, .retb (pl 0 .n32 0 false false false 0))] : List (Rec × Instr)), decode p.1 = .ok p.2 := by
  decide

theorem test_decode_tag : ∀ p ∈ ([
    (0x100168900019000000000000, .enter (tg 0 .n32 0 true false false 3 8)),
    (0x11016890009800000000000C, .next (tg 0 .n32 12 true true false 3 0)),
    (0x120168900018000000000000, .exit (tg 0 .n32 0 true false false 3 0)),
    (0x13016890001FE00000000000, .bound (tg 0 .n32 0 true false false 3 63)),
    (0x141158900018000000000000, .tagget (tg 4 .n16 0 true false false 3 0)),
    (0x150168900098000000000005, .tagset (tg 0 .n32 5 true true false 3 0)),
    (0x160168900058000000000000, .spawn (tg 0 .n32 0 true false true 3 0)),
    (0x170168900018000000000000, .retire (tg 0 .n32 0 true false false 3 0)),
    (0x180568900018000000000000, .retag (tg 1 .n32 0 true false false 3 0)),
    (0x1909E8900018000000000000, .tagcmp (tg 2 .pr 0 true false false 3 0))] : List (Rec × Instr)), decode p.1 = .ok p.2 := by
  decide

theorem test_decode_integer : ∀ p ∈ ([
    (0x200118900080000000000007, .add (cm 0 .i16 7 true true false 0 false 0x0)),
    (0x210118900080000000000007, .sub (cm 0 .i16 7 true true false 0 false 0x0)),
    (0x220118900080000000000007, .addc (cm 0 .i16 7 true true false 0 false 0x0)),
    (0x230118900080000000000007, .subb (cm 0 .i16 7 true true false 0 false 0x0)),
    (0x240118900080000000000007, .mul (cm 0 .i16 7 true true false 0 false 0x0)),
    (0x250118900080000000000007, .mulh (cm 0 .i16 7 true true false 0 false 0x0)),
    (0x260118900080000000000007, .mad (cm 0 .i16 7 true true false 0 false 0x0)),
    (0x270118900080000000000007, .div (cm 0 .i16 7 true true false 0 false 0x0)),
    (0x280118900080000000000007, .rem (cm 0 .i16 7 true true false 0 false 0x0)),
    (0x290118900080000000000007, .and (cm 0 .i16 7 true true false 0 false 0x0)),
    (0x2A0118900080000000000007, .or (cm 0 .i16 7 true true false 0 false 0x0)),
    (0x2B0118900080000000000007, .xor (cm 0 .i16 7 true true false 0 false 0x0)),
    (0x2C0118900080000000000007, .andn (cm 0 .i16 7 true true false 0 false 0x0)),
    (0x2D0118900080000000000007, .shl (cm 0 .i16 7 true true false 0 false 0x0)),
    (0x2E0118900080000000000007, .shr (cm 0 .i16 7 true true false 0 false 0x0)),
    (0x2F0118900080000000000007, .sar (cm 0 .i16 7 true true false 0 false 0x0)),
    (0x300118900080000000000007, .rot (cm 0 .i16 7 true true false 0 false 0x0)),
    (0x3101F8900000000000000000, .clz (cm 0 .x64 0 true false false 0 false 0x0)),
    (0x3201F8900000000000000000, .ctz (cm 0 .x64 0 true false false 0 false 0x0)),
    (0x3301F8900000000000000000, .popc (cm 0 .x64 0 true false false 0 false 0x0)),
    (0x3401F8900000000000000000, .brev (cm 0 .x64 0 true false false 0 false 0x0)),
    (0x35016890004000FF00000000, .bfe (cm 0 .n32 0 true false true 0 false 0xff)),
    (0x36016890004000FF00000000, .bfi (cm 0 .n32 0 true false true 0 false 0xff)),
    (0x37016890004000FF00000000, .min (cm 0 .n32 0 true false true 0 false 0xff)),
    (0x38016890004000FF00000000, .max (cm 0 .n32 0 true false true 0 false 0xff)),
    (0x390138900002000000000000, .abs (cm 0 .i64 0 true false false 0 true 0x0)),
    (0x3A0148900014000000000000, .cmp (cm 0 .n8 0 true false false 5 false 0x0)),
    (0x3B01B8900040555500000000, .sel (cm 0 .f64 0 true false true 0 false 0x5555)),
    (0x3C1D78900000000000000000, .lea (cm 7 .n64 0 true false false 0 false 0x0))] : List (Rec × Instr)), decode p.1 = .ok p.2 := by
  decide

theorem test_decode_float : ∀ p ∈ ([
    (0x4001A8900050FFFF00000000, .fadd (cm 0 .f32 0 true false true 4 false 0xffff)),
    (0x4101A8900050FFFF00000000, .fsub (cm 0 .f32 0 true false true 4 false 0xffff)),
    (0x4201A8900050FFFF00000000, .fmul (cm 0 .f32 0 true false true 4 false 0xffff)),
    (0x4301A8900050FFFF00000000, .fma (cm 0 .f32 0 true false true 4 false 0xffff)),
    (0x4401A8900050FFFF00000000, .fnma (cm 0 .f32 0 true false true 4 false 0xffff)),
    (0x4501A8900040FFFF00000000, .fmin (cm 0 .f32 0 true false true 0 false 0xffff)),
    (0x4601A8900040FFFF00000000, .fmax (cm 0 .f32 0 true false true 0 false 0xffff)),
    (0x47018890001C000000000000, .fcmp (cm 0 .f16 0 true false false 7 false 0x0)),
    (0x4801B890000C000000000000, .fdiv (cm 0 .f64 0 true false false 3 false 0x0)),
    (0x4901B890000C000000000000, .fsqrt (cm 0 .f64 0 true false false 3 false 0x0)),
    (0x4A01B890000C000000000000, .frcp (cm 0 .f64 0 true false false 3 false 0x0)),
    (0x4B01B890000C000000000000, .frsq (cm 0 .f64 0 true false false 3 false 0x0)),
    (0x4C0198900004000000000000, .fexp2 (cm 0 .bf16 0 true false false 1 false 0x0)),
    (0x4D0198900004000000000000, .flog2 (cm 0 .bf16 0 true false false 1 false 0x0)),
    (0x4E0198900004000000000000, .fsin (cm 0 .bf16 0 true false false 1 false 0x0)),
    (0x4F0198900004000000000000, .fcos (cm 0 .bf16 0 true false false 1 false 0x0)),
    (0x500198900004000000000000, .ftanh (cm 0 .bf16 0 true false false 1 false 0x0)),
    (0x5101A8900000000000000000, .frnd (cm 0 .f32 0 true false false 0 false 0x0)),
    (0x5201A8900000000000000000, .fclass (cm 0 .f32 0 true false false 0 false 0x0)),
    (0x5301A8900080000000000003, .fscale (cm 0 .f32 3 true true false 0 false 0x0)),
    (0x5401B8900040555500000000, .fabs (cm 0 .f64 0 true false true 0 false 0x5555)),
    (0x5501B8900040555500000000, .fneg (cm 0 .f64 0 true false true 0 false 0x5555))] : List (Rec × Instr)), decode p.1 = .ok p.2 := by
  decide

theorem test_decode_conversion : ∀ p ∈ ([
    (0x6081A8900040FFFF00000000, .cvt (cm 32 .f32 0 true false true 0 false 0xffff)),
    (0x6129D89000D4FFFF0000003F, .qnt (cm 10 .eb4 63 true true true 5 false 0xffff)),
    (0x627188900040FFFF00000000, .dqnt (cm 28 .f16 0 true false true 0 false 0xffff)),
    (0x6301C8900040FFFF00000000, .bscl (cm 0 .eb8 0 true false true 0 false 0xffff)),
    (0x6401D8900040FFFF00000000, .pack (cm 0 .eb4 0 true false true 0 false 0xffff)),
    (0x6501C8900040FFFF00000000, .unpack (cm 0 .eb8 0 true false true 0 false 0xffff)),
    (0x6601B8900094000000000034, .srnd (cm 0 .f64 52 true true false 5 false 0x0))] : List (Rec × Instr)), decode p.1 = .ok p.2 := by
  decide

theorem test_decode_vector_and_reduction : ∀ p ∈ ([
    (0x680168900040FFFF00000000, .vbcast (cm 0 .n32 0 true false true 0 false 0xffff)),
    (0x6901689000C0FFFF0000000F, .vext (cm 0 .n32 15 true true true 0 false 0xffff)),
    (0x6A01089000C0FFFF00000000, .vins (cm 0 .i8 0 true true true 0 false 0xffff)),
    (0x6B0168900040000100000000, .vshuf (cm 0 .n32 0 true false true 0 false 0x1)),
    (0x6C09A8900040FFFF00000000, .vred (cm 2 .f32 0 true false true 0 false 0xffff)),
    (0x6D0128900042FFFF00000000, .vscan (cm 0 .i32 0 true false true 0 true 0xffff)),
    (0x6E0198900044FFFF00000000, .vdot (cm 0 .bf16 0 true false true 1 false 0xffff)),
    (0x6F0168900040FFFF00000000, .vcmpr (cm 0 .n32 0 true false true 0 false 0xffff)),
    (0x700168900040FFFF00000000, .vexpd (cm 0 .n32 0 true false true 0 false 0xffff)),
    (0x710568900040FFFF00000000, .vmask (cm 1 .n32 0 true false true 0 false 0xffff)),
    (0x7201B8900040555500000000, .vcnt (cm 0 .f64 0 true false true 0 false 0x5555)),
    (0x782D78900000000000000000, .reda (cm 11 .n64 0 true false false 0 false 0x0)),
    (0x7905A8900000000000000000, .redx (cm 1 .f32 0 true false false 0 false 0x0))] : List (Rec × Instr)), decode p.1 = .ok p.2 := by
  decide

theorem test_decode_memory : ∀ p ∈ ([
    (0x80016890000A590C00000000, .ld (mm 0 .n32 0 true false false false 1 3)),
    (0x81016000000B890C00000000, .st (mm 0 .n32 0 false false false true 2 1)),
    (0x82016890004A010C00000000, .ldv (mm 0 .n32 0 true false true false 0 0)),
    (0x8301600000CA010C00000040, .stv (mm 0 .n32 64 false true true false 0 0)),
    (0x84056890004A010C00000000, .ldg (mm 1 .n32 0 true false true false 0 0)),
    (0x85016000004A010C00000000, .sts (mm 0 .n32 0 false false true false 0 0)),
    (0x86016890004A010C00000000, .vld (mm 0 .n32 0 true false true false 0 0)),
    (0x8701B000000A010C00000000, .vst (mm 0 .f64 0 false false false false 0 0)),
    (0x881DA890000BD10C00000000, .atom (mm 7 .f32 0 true false false true 3 2)),
    (0x8901F890000BD10C00000000, .cas (mm 0 .x64 0 true false false true 3 2)),
    (0x8A016000000B990C00000000, .stmc (mm 0 .n32 0 false false false true 2 3)),
    (0x8B016890004AD90C00000000, .fence (mm 0 .n32 0 true false true false 3 3)),
    (0x8C015890000A010C00000000, .xfi (mm 0 .n16 0 true false false false 0 0)),
    (0x8D01E890000A010C00000000, .xfw (mm 0 .pr 0 true false false false 0 0)),
    (0x8E097890000A510C00000000, .mwait (mm 2 .n64 0 true false false false 1 2)),
    (0x8F056000008A010C00000080, .pref (mm 1 .n32 128 false true false false 0 0)),
    (0x90016890000A890C00000000, .bnd (mm 0 .n32 0 true false false false 2 1))] : List (Rec × Instr)), decode p.1 = .ok p.2 := by
  decide

theorem test_decode_engine : ∀ p ∈ ([
    (0xA001D89000CB290C00000000, .mxw (en 0 .eb4 true true 37)),
    (0xA1050890004B290C00000000, .mxa (en 1 .i8 false true 37)),
    (0xA2019890008B290C00000000, .mxd (en 0 .bf16 true false 37)),
    (0xA3017890000B290C00000000, .mxsStat (en 0 .n64 false false 37)),
    (0xA3057890000B290C00000000, .mxsClr (en 1 .n64 false false 37)),
    (0xA3097890000B290C00000000, .mxsSync (en 2 .n64 false false 37)),
    (0xA401F890000B290C00000000, .ceq (en 0 .x64 false false 37)),
    (0xA5017890000B290C00000000, .grp (en 0 .n64 false false 37)),
    (0xA611F890000B290C00000000, .coll (en 4 .x64 false false 37)),
    (0xA7017890000B290C00000000, .grpxLeave (en 0 .n64 false false 37)),
    (0xA7057890000B290C00000000, .grpxBreak (en 1 .n64 false false 37)),
    (0xA801F890000B290C00000000, .lnch (en 0 .x64 false false 37))] : List (Rec × Instr)), decode p.1 = .ok p.2 := by
  decide

theorem test_decode_graphics : ∀ p ∈ ([
    (0xB001A8900050000000000000, .edge (gf .f32 0 false true 4 0)),
    (0xB101A8900040000000000000, .box4 (gf .f32 0 false true 0 0)),
    (0xB201A8900040400000000000, .tri1 (gf .f32 0 false true 0 1)),
    (0xB301A8900048000000000000, .txq (gf .f32 0 false true 2 0)),
    (0xB401A8900042C00000000000, .blnd (gf .f32 0 false true 0 11)),
    (0xB50168900000400000000000, .seqt (gf .n32 0 false false 0 1)),
    (0xB601F8900080000000000028, .route (gf .x64 40 true false 0 0))] : List (Rec × Instr)), decode p.1 = .ok p.2 := by
  decide

theorem test_decode_system : ∀ p ∈ ([
    (0xC00170000080000000000063, .trap (ss 0 .n64 99 false true 0x0)),
    (0xC101F8900000000000000000, .frec (ss 0 .x64 0 true false 0x0)),
    (0xC201E8900000000000000000, .retryResume (ss 0 .pr 0 true false 0x0)),
    (0xC205E8900000000000000000, .retrySkip (ss 1 .pr 0 true false 0x0)),
    (0xC301A8900080000000000017, .poisMake (ss 0 .f32 23 true true 0x0)),
    (0xC30568900000000000000000, .poisTest (ss 1 .n32 0 true false 0x0)),
    (0xC40178900001040000000000, .rdsr (ss 0 .n64 0 true false 0x41)),
    (0xC50178900080080000000014, .wrsr (ss 0 .n64 20 true true 0x2)),
    (0xC60178900000000000000000, .timeNow (ss 0 .n64 0 true false 0x0)),
    (0xC60578900000000000000000, .timeUntil (ss 1 .n64 0 true false 0x0)),
    (0xC60978900080000000000064, .timeAfter (ss 2 .n64 100 true true 0x0)),
    (0xC70178900004080000000000, .cntr (ss 0 .n64 0 true false 0x102)),
    (0xC80108900080000000000005, .bkpt (ss 0 .i8 5 true true 0x0)),
    (0xC9017890000A010D00000000, .snap (sm 0)),
    (0xCA017890000A010D00000000, .ctxsv (sm 0)),
    (0xCB017890000A010D00000000, .ctxld (sm 0)),
    (0xCC017890000A010D00000000, .vdctlStop (sm 0)),
    (0xCC057890000A010D00000000, .vdctlResume (sm 1)),
    (0xCC097890000A010D00000000, .vdctlReset (sm 2)),
    (0xCC0D7890000A010D00000000, .vdctlTrackon (sm 3)),
    (0xCC117890000A010D00000000, .vdctlTrackoff (sm 4)),
    (0xCD017890000A010D00000000, .dirty (sm 0)),
    (0xCE0168900000000000000000, .done (ss 0 .n32 0 true false 0x0))] : List (Rec × Instr)), decode p.1 = .ok p.2 := by
  decide

/-! ### Small states -/

/-- An image of one actor that consumes and produces queue 0 (depth 4, slots of 8 bytes), with 64 domains. -/
def img : Image where
  va := 0x100000
  size := 4096
  blocksVA := 0x100040
  blocksBytes := 128
  fpcm := 0
  dcount := 64
  lease := 16
  siding := 256
  dataBytes := 0
  dataOfs := 0
  vaultBytes := 256
  entry := 0
  actors := [⟨0, 0, 1, 1⟩]
  queues := [⟨4, 8, 1, 1⟩]
  regions := [⟨0, 1, 1, 0xFF⟩]
  vaults := []
  groups := []
  digest := 0

def act0 : Act := ⟨0, 0, [], 0⟩

/-- A Running context of VD 0 with privilege 2: domains 0 to 63, activation 0 in replica 0. -/
def ctx1 : Ctx where
  vd := 0
  priv := 2
  state := .running
  launch := 1
  image := img
  cbase := 0
  homeDie := 0
  acts := [(0, act0)]
  pts := []
  fpcm := 0
  fpstat := 0
  lease := [16, 16, 16, 16]
  siding := ⟨0x200000, 256, 0, [], [], 0, none⟩
  pool := [7, 8]
  globals := []
  vglobals := []
  pmaps := [(0, [1, 1])]
  placing := []
  dataVA := 0
  ringVA := 0x400000
  slotsVA := 0x500000
  saveVA := 0x600000
  vaultBase := 0
  args := 0
  ways := 4
  lastProgress := 0
  ring := []
  fcount := 0
  exit := none
  lost := []
  holdGrowth := false
  paused := none
  waitingDom := []
  equeues := []
  told := []

/-- The word of a MOV.n32 to node 9 port a, and of an ADD.n32 of two tokens. -/
def movWord : Rec := 0x010068900000000000000000
def addWord : Rec := 0x200068900000000000000000

/-- A block of a MOV and an ADD, both placed at element (1, 1). -/
def block0 : Block := ⟨0x100040, 0, [movWord, addWord], [0, 0], [], [], [0], [(1, 1, 0), (1, 1, 1)]⟩
def inst0 : Inst := ⟨0, 0, 0, [], .none, [], [], [], []⟩
def frame0 : Frame := ⟨some block0, none, [inst0], 0⟩
def qinst0 : QInst := ⟨0, 4, 0, 0, [], []⟩
/-- Region 0 of context 1: 4 x 4 sites from (0, 0) of die 0. -/
def region0 : Region := ⟨1, 0, 0, 0, 0, 0, 0, 0, 0, .available, [frame0], [], [qinst0], [], List.replicate 8 Comparator.empty, false, 0,
  none, false, []⟩
/-- Element (1, 1) with the two slots of the block. -/
def elem0 : Element := { Element.empty with slots := [(0, ⟨movWord, 0, 0, 1, 0, 0, 0, 0, 0, false⟩), (1, ⟨addWord, 0, 1, 1, 0, 0, 0, 0, 0, false⟩)] }

/-- The reset state with context 1 running in region 0, and every function ready. -/
def base : State := { State.reset with
  fab := ⟨[(65, elem0)], [], [], [], []⟩
  run := ⟨[(65536, region0)], [], [], []⟩
  ten := { State.reset.ten with ctxs := [(1, ctx1)] }
  svc := { SvcState.reset with ready := BitVec.allOnes 64 } }

/-- A firing of node 5 of context 1 at element (1, 1) with the tag `t`; its predicate operand is true. -/
def fireT (t : W64) (a b c : Val) : Firing :=
  { Firing.zero with fid := 1, sid := 65, node := 5, ctx := 1, tag := t, a := some a, b := some b, c := some c, p := some (.bit true) }
def fire (a b c : Val) : Firing := fireT 0 a b c
/-- A state in which a firing happens. -/
def at_ (f : Firing) : State := { base with cur := f }
def x (n : Nat) : Val := .scalar (BitVec.ofNat 64 n)
/-- A context changed. -/
def withCtx (s : State) (f : Ctx → Ctx) : State := { s with ten := { s.ten with ctxs := [(1, f ctx1)] } }

/-- What a row sends, as destination and value, and FPSTAT after it. -/
def sends (i : Instr) (s : State) : Option (List (Nat × Val) × Nat) :=
  match exec i s with
  | .next t => some ((t.elem s.cur.sid).outs.map fun o => (o.which, o.tok.val), ((t.ctx? 1).map (·.fpstat)).getD 0)
  | _ => none

/-! ### Worked examples of the spec -/

/-- An integer node of a type, without L, V or SAT, with a literal, and with SAT. -/
def iN (t : Ty) : CommonNode := cm 0 t 0 true false false 0 false 0
def iL (t : Ty) (lit : BitVec 32) : CommonNode := cm 0 t lit true true false 0 false 0
def iS (t : Ty) : CommonNode := cm 0 t 0 true false false 0 true 0
/-- One result on D0, with FPSTAT. -/
def gives (i : Instr) (a b c r flags : Nat) : Prop := sends i (at_ (fire (x a) (x b) (x c))) = some ([(0, x r)], flags)

/-- "Borderline integer results" (after R140). -/
theorem test_borderline_sums :
    gives (.add (iN .i8)) 100 100 0 0xC8 0 ∧ gives (.add (iS .i8)) 100 100 0 0x7F 64 ∧ gives (.sub (iS .n16)) 3 5 0 0 64 ∧
    gives (.mul (iS .i32)) 0x40000000 4 0 0x7FFFFFFF 64 ∧ gives (.mulh (iN .n32)) 0xFFFFFFFF 2 0 1 0 ∧
    gives (.mulh (iN .i32)) 0xFFFFFFFF 1 0 0xFFFFFFFF 0 := by
  unfold gives; refine ⟨?_, ?_, ?_, ?_, ?_, ?_⟩ <;> decide

theorem test_borderline_quotients :
    gives (.div (iN .i32)) 0xFFFFFFF9 2 0 0xFFFFFFFD 0 ∧ gives (.rem (iN .i32)) 0xFFFFFFF9 2 0 0xFFFFFFFF 0 ∧
    gives (.div (iN .i32)) 0x80000000 0xFFFFFFFF 0 0x80000000 0 ∧ gives (.rem (iN .i32)) 0x80000000 0xFFFFFFFF 0 0 0 ∧
    gives (.div (iN .n16)) 5 0 0 0xFFFF 0 ∧ gives (.rem (iN .n16)) 5 0 0 0 0 := by
  unfold gives; refine ⟨?_, ?_, ?_, ?_, ?_, ?_⟩ <;> decide

theorem test_borderline_shifts :
    gives (.shl (iS .i8)) 0x30 2 0 0x7F 64 ∧ gives (.shr (iN .n32)) 0x80000000 40 0 0 0 ∧ gives (.sar (iN .i8)) 0x80 9 0 0xFF 0 ∧
    gives (.rot (iN .n8)) 0x81 9 0 0x03 0 ∧ gives (.clz (iN .n32)) 0 0 0 32 0 ∧ gives (.popc (iN .n16)) 0xF0F0 0 0 8 0 := by
  unfold gives; refine ⟨?_, ?_, ?_, ?_, ?_, ?_⟩ <;> decide

theorem test_borderline_fields :
    gives (.bfe (iL .i32 0x408)) 0xF00 0 0 0xFFFFFFFF 0 ∧ gives (.bfe (iL .n32 0x408)) 0xF00 0 0 0xF 0 ∧
    gives (.bfe (iL .n64 0x83C)) 0xF000000000000000 0 0 0x0F 0 ∧ gives (.abs (iS .i16)) 0x8000 0 0 0x7FFF 64 := by
  unfold gives; refine ⟨?_, ?_, ?_, ?_⟩ <;> decide

/-- The ADDC row of the same table: D0 0, D1 carry 1. -/
theorem test_addc_carry :
    sends (.addc { iN .n64 with d1 := ⟨true, 8, .b⟩ }) (at_ (fire (x 0xFFFFFFFFFFFFFFFF) (x 1) (.bit false))) =
      some ([(0, x 0), (1, .bit true)], 0) := by
  decide

/-- The DIVZ row: poison whose origin has cause DIVZERO (0x13) at bits 63:56. -/
theorem test_divzero_poisons :
    (sends (.div (iN .n16)) (withCtx (at_ (fire (x 5) (x 0) (x 0))) fun c => { c with fpcm := 0x100 })).map
      (fun r => r.1.map fun v => (v.1, match v.2 with | .poison o => o.toNat / 2 ^ 56 | _ => 0)) = some [(0, 0x13)] := by
  decide

/-- A float row of the table after R148, under an FPCM. -/
def fgives (fpcm : Nat) (i : Instr) (a b c : Nat) (r : Val) (flags : Nat) : Prop :=
  sends i (withCtx (at_ (fire (x a) (x b) (x c))) fun k => { k with fpcm := fpcm }) = some ([(0, r)], flags)

/-- "One input under several modes" (after R148): FADD and FMUL. Flags: IV 1, UF 8, IX 16, DN 32. -/
theorem test_modes_of_sums_and_products :
    fgives 0 (.fadd (iN .f32)) 0x00400000 0 0 (x 0x00400000) 0 ∧ fgives 1 (.fadd (iN .f32)) 0x00400000 0 0 (x 0) 32 ∧
    fgives 2 (.fadd (iN .f32)) 0x00400000 0 0 (x 0) 24 ∧ fgives 0 (.fmul (iN .f32)) 0x7F800000 0 0 (x 0x7FC00000) 1 ∧
    fgives 0x200 (.fmul (iN .f32)) 0x7F800000 0 0 (x 0) 0 := by
  unfold fgives; refine ⟨?_, ?_, ?_, ?_, ?_⟩ <;> decide

/-- The same table: FMIN and FMAX. -/
theorem test_modes_of_min_and_max :
    fgives 0 (.fmin (iN .f32)) 0x7FC00001 0x40000000 0 (x 0x7FC00000) 0 ∧
    fgives 4 (.fmin (iN .f32)) 0x7FC00001 0x40000000 0 (x 0x7FC00001) 0 ∧
    fgives 8 (.fmin (iN .f32)) 0x7FC00001 0x40000000 0 (x 0x40000000) 0 ∧
    fgives 0x80 (.fmin (iN .f32)) 0x80000000 0 0 (x 0x80000000) 0 ∧ fgives 0 (.fmax (iN .f32)) 0x80000000 0 0 (x 0x80000000) 0 ∧
    fgives 0x80 (.fmax (iN .f32)) 0x80000000 0 0 (x 0) 0 := by
  unfold fgives; refine ⟨?_, ?_, ?_, ?_, ?_, ?_⟩ <;> decide

/-- The same table: FMA fused and unfused, and FCMP lt with a quiet NaN. -/
theorem test_modes_of_fma_and_fcmp :
    fgives 0 (.fma (iN .f32)) 0x3F800800 0x3F800800 0xBF801000 (x 0x33800000) 0 ∧
    fgives 0x10 (.fma (iN .f32)) 0x3F800800 0x3F800800 0xBF801000 (x 0) 16 ∧
    fgives 0 (.fcmp { iN .f32 with rm := 2 }) 0x7FC00000 0x3F800000 0 (.bit false) 1 := by
  unfold fgives; refine ⟨?_, ?_, ?_⟩ <;> decide

/-- R88: CRC-32C of "123456789". -/
theorem test_crc32c : crc32c [0x31, 0x32, 0x33, 0x34, 0x35, 0x36, 0x37, 0x38, 0x39] = 0xE3069283 := by decide +kernel

/-- R89's examples of words: the ST of "encoding a store" and the predicated ST n5 of chapter 6, byte for byte. -/
theorem test_worked_words :
    decode (recOfBytes [0x00, 0x20, 0x00, 0x81, 0x7F, 0x88, 0x85, 0x00, 0x08, 0x00, 0x00, 0x00]) = .ok (.st
      ⟨⟨0, .always, .i32, d0Of false, d0Of false, 8⟩, true, false, 2, true, 2, 1, 1, 31, true⟩) ∧
    decode (recOfBytes [0x00, 0x20, 0x01, 0x81, 0xC4, 0x07, 0x80, 0x00, 0x08, 0x00, 0x00, 0x00]) = .ok (.st
      ⟨⟨0, .ifTrue, .i32, d0Of false, d0Of false, 8⟩, true, false, 0, false, 0, 0, 31, 2, false⟩) ∧
    decode (recOfBytes [0x50, 0xA8, 0x80, 0x60, 0xFF, 0xFF, 0x40, 0x00, 0, 0, 0, 0]) = .ok (.cvt
      ⟨⟨0x20, .always, .f32, ⟨true, 5, .a⟩, d0Of false, 0⟩, false, true, 0, false, 0xFFFF⟩) ∧
    decode (recOfBytes [0x40, 0x28, 0x00, 0x11, 0x00, 0x00, 0x80, 0x00, 0x0D, 0, 0, 0]) = .ok (.next
      ⟨⟨0, .always, .i32, ⟨true, 4, .a⟩, d0Of false, 13⟩, true, false, 0, 0⟩) ∧
    decode (recOfBytes [0x06, 0xA9, 0x00, 0xA2, 0xCA, 0x00, 0x08, 0x7C, 0, 0, 0, 0]) = .ok (.mxd
      ⟨⟨0, .always, .f32, ⟨true, 16, .b⟩, ⟨true, 31, .a⟩, 0⟩, false, false, 4, 0, 3, 5, false⟩) := by
  refine ⟨?_, ?_, ?_, ?_, ?_⟩ <;> decide

/-- A header's fields: the worked example of R87. -/
theorem test_header_words : hdrNodes 0xB11A0000000A085000000000 = 14 ∧ hdrSmask 0xB11A0000000A085000000000 = 5 ∧
    hdrWcnt 0xB11A0000000A085000000000 = 1 ∧ hdrRcnt 0xB11A0000000A085000000000 = 2 := by decide

/-- 32-bit lanes from lane 0 on. -/
def vec (xs : List Nat) : Val := .vector (BitVec.ofNat 512 ((xs.zipIdx.map fun (v, j) => v * 2 ^ (32 * j)).foldl (· + ·) 0))

/-- "One triangle, both facings" (R169): 1.0, 0.25, 0.25 and a hit with GMODE 0; +∞, 0, 0 and none with GMODE 1. -/
theorem test_tri1_facings :
    let ray := vec [0x3E800000, 0x3E800000, 0xBF800000, 0, 0, 0x3F800000, 0, 0x41200000]
    let tri := vec [0, 0, 0, 0x3F800000, 0, 0, 0, 0x3F800000, 0]
    let i := fun (g : BitVec 4) => Instr.tri1 { gf .f32 0 false true 0 g with d1 := ⟨true, 8, .p⟩ }
    sends (i 0) (at_ (fire ray tri (x 0))) = some ([(0, vec [0x3F800000, 0x3E800000, 0x3E800000]), (1, .bit true)], 0) ∧
    sends (i 1) (at_ (fire ray tri (x 0))) = some ([(0, vec [0x7F800000, 0, 0]), (1, .bit false)], 0) := by
  refine ⟨?_, ?_⟩ <;> decide +kernel

/-- R27, worked by hand: level fields 1 and 2, node 70, frame 1, element 2: 1 xor 2 xor 6 xor 32 xor 8 xor 32 = 13. -/
theorem test_set_index : setIndex 2 1 70 (mkTag 0 2 [1, 2]) = 13 := by decide

/-- "A cap of 191" (R410): cycles 1, 2, 4, 5 and 6 of the first eight are issue cycles. -/
theorem test_cap_of_191 :
    (List.range 8).filter (fun t => ({ Thermal.reset with allow := 191 }).issueCycle t) = [1, 2, 4, 5, 6] := by decide

/-- "Replay after a hang" (R421): RIDX becomes 11, LOST 1, REPLAYED 3. -/
theorem test_replay_after_a_hang : replayFrom 10 14 19 8 = (11, 1, 3) := by decide

/-- R84, R107 and the class tables: a term for each check, and the name it is refused under. -/
theorem test_ill_formed :
    (Instr.add { iN .i8 with sub := 1 }).check = some .badSub ∧ (Instr.add (iN .f32)).check = some .badTy ∧
    (Instr.clz (iL .n32 0)).check = some .badL ∧ (Instr.addc { iN .n8 with v := true, mask := 1 }).check = some .badV ∧
    (Instr.add { iN .n64 with v := true, mask := 2 }).check = some .badMask ∧
    (Instr.add { iN .n64 with mask := 1 }).check = some .badMask ∧
    (Instr.cmp { iN .n8 with rm := 6 }).check = some .badCond ∧ (Instr.add { iN .n8 with rm := 1 }).check = some .badCond ∧
    (Instr.fadd { iN .f32 with rm := 6 }).check = some .badRounding ∧ (Instr.fadd { iN .f32 with rm := 5 }).check = some .badStochastic ∧
    (Instr.and (iS .n8)).check = some .badSat ∧ (Instr.clz { iN .n8 with lit := 1 }).check = some .badLit ∧
    (Instr.srnd { iL .f32 24 with rm := 5 }).check = some .badLit ∧
    (Instr.sink (pl 0 .n32 0 true false false 0)).check = some .badDest ∧
    (Instr.read (pl 0 .n32 0 true false false 1)).check = some .badPred ∧
    (Instr.mov (pl 0 .n32 0 true false false 1)).check = some .badGreg ∧
    (Instr.next (tg 0 .n32 5 true true false 0 1)).check = some .badBound ∧
    (Instr.ld { mm 0 .n32 0 true false false false 0 0 with lsid := 31 }).check = some .badLsid ∧
    (Instr.ld (mm 0 .n32 0 true false false false 2 1)).check = some .badOrd ∧
    (Instr.ld (mm 0 .n32 0 true false false true 0 0)).check = some .badG ∧
    (Instr.ld (mm 0 .n32 0 true false false false 0 1)).check = some .badScope ∧
    (Instr.ceq (en 0 .x64 true false 0)).check = some .badBank ∧
    (Instr.rdsr (ss 0 .n64 0 true false 0x003)).check = some .badSreg ∧
    (Instr.edge (gf .f32 0 false true 0 1)).check = some .badGmode ∧
    Instr.bucketRefill.check = some .noRecord := by
  refine ⟨?_, ?_, ?_, ?_, ?_, ?_, ?_, ?_, ?_, ?_, ?_, ?_, ?_, ?_, ?_, ?_, ?_, ?_, ?_, ?_, ?_, ?_, ?_, ?_, ?_⟩ <;> decide

/-- R75, R76, R91: words that name no instruction. -/
theorem test_refused_words :
    decode 0 = .error .illegalOpcode ∧ decode (0xE0 <<< 88) = .error .reservedOpcode ∧ decode (0xFE <<< 88) = .error .reservedOpcode ∧
    decode (0xFF <<< 88) = .error .illegalOpcode ∧ decode (0x3D <<< 88) = .error .illegalOpcode ∧
    decode (0x200368900000000000000000) = .error .predIllegal ∧ decode (0x200068900001000000000000) = .error .reservedBits := by
  refine ⟨?_, ?_, ?_, ?_, ?_, ?_, ?_⟩ <;> decide

/-- "A refused launch" (R349): FPCM 0x0003 is feature 1 of LEGACY, and the status is 0x105; FPCM 0x0001 loads. -/
theorem test_legacy_status :
    (legacyFpcm 3).map (fun k => (Fail.mk reasonLegacy 0 0 k).status) = some 0x105 ∧ legacyFpcm 1 = none := by decide

/-! ### Witnesses: for every statement with hypotheses, a state and operands that meet them, clause by clause -/

/-- A firing with scalar operands. -/
def s1 : State := at_ (fire (x 6) (x 3) (x 1))
theorem s1_ordinary : s1.cur.ordinary .ifTrue := ⟨rfl, rfl⟩

/-- LanesAreIndependent (the last lane of 64 and of 8) and WrapAndSaturate (both kinds of type). -/
theorem test_meets_lanes : 8 ∈ [4, 8, 16, 32, 64] ∧ 63 < 512 / 8 ∧ 64 ∈ [4, 8, 16, 32, 64] ∧ 7 < 512 / 64 ∧
    Ty.i8.isInt = true ∧ Ty.n64.isInt = true := by decide

/-- IntegerRows, ProductRows, CarryRows; the last condition code that compares, in both forms. -/
theorem test_meets_integer_rows : s1.cur.ordinary (iN .i32).pred ∧ ({ iN .i32 with rm := 5 }).rm.toNat < 6 ∧
    (iN .i32).v = false ∧ (cm 0 .i32 0 true false true 5 false 0xFFFF).v = true := ⟨s1_ordinary, by decide⟩

/-- DivideRows: a divisor of 3, and of 0 under both settings of DIVZ. -/
theorem test_meets_divide_rows :
    let f := iN .i32
    let s0 := at_ (fire (x 6) (x 0) (x 1))
    let sz := withCtx s0 fun c => { c with fpcm := 0x100 }
    s1.cur.ordinary f.pred ∧ s0.cur.ordinary f.pred ∧ sz.cur.ordinary f.pred ∧ f.v = false ∧ f.ty.isInt = true ∧
    (f.d0.val || f.d1.val) = true ∧ readInt f.ty ((f.opB s1.cur.b).word.toNat % 2 ^ f.ty.width) ≠ 0 ∧
    readInt f.ty ((f.opB s0.cur.b).word.toNat % 2 ^ f.ty.width) = 0 ∧ (s0.fpcm s0.cur.ctx).divz = false ∧
    (sz.fpcm sz.cur.ctx).divz = true := ⟨s1_ordinary, ⟨rfl, rfl⟩, ⟨rfl, rfl⟩, by decide⟩

/-- ShiftAndFieldRows: an integer type with SAT, and x64. -/
theorem test_meets_shift_rows : s1.cur.ordinary (iS .i8).pred ∧ (iS .i8).ty.isInt = true ∧ (iN .x64).ty = .x64 ∧
    (iN .x64).sat = false ∧ (iN .x64).v = false := ⟨s1_ordinary, by decide⟩

/-- FloatingRows: both forms of FCMP; for the facts finite nonzero numbers, zeros of both signs, infinities and a negative
number of f16, in a mode that is not SR. -/
theorem test_meets_floating_rows : s1.cur.ordinary (iN .f32).pred ∧ (iN .f32).v = false ∧
    (cm 0 .f32 0 true false true 7 false 0xFFFF).v = true ∧ Fmt.f16 ∈ [Fmt.f16, .bf16, .f32, .f64] ∧ Fpcm.ieee.denorm = 0 ∧
    Fpcm.ieee.mulz = false ∧ (∀ a ∈ [0x3C00, 0xBC00, 0, 0x8000, 0x7C00, 0xFC00], a < 2 ^ Fmt.f16.width ∧ Fmt.f16.isNan a = false) ∧
    0x3C00 % 2 ^ (Fmt.f16.ebits + Fmt.f16.fbits) < Fmt.f16.infBits false ∧ ¬ 0x3C00 % 2 ^ (Fmt.f16.ebits + Fmt.f16.fbits) = 0 ∧
    0x8000 % 2 ^ (Fmt.f16.ebits + Fmt.f16.fbits) = 0 ∧ ¬ 0x7C00 % 2 ^ (Fmt.f16.ebits + Fmt.f16.fbits) < Fmt.f16.infBits false ∧
    Fmt.f16.neg 0xBC00 = true ∧ ∀ y, Rm.rne = .sr y → y < 2 ^ 32 :=
  ⟨s1_ordinary, by decide, by decide, by decide, by decide, by decide, by decide, by decide, by decide, by decide, by decide, by decide,
    fun _ h => by cases h⟩

/-- ConversionRows: SRND of f64 by 52 bits, QNT into the last block of eb4. -/
theorem test_meets_conversion_rows :
    let r := cm 0 .f64 52 true true false 5 false 0
    let q := cm 10 .eb4 63 true true true 0 false 0xFFFF
    s1.cur.ordinary r.pred ∧ s1.cur.ordinary q.pred ∧ r.v = false ∧ r.l = true ∧
    r.lit.toNat % 2 ^ 32 ≤ (if r.ty = .f32 then 23 else 52) ∧ q.lit.toNat % 2 ^ 32 < 64 ∧
    q.lit.toNat % 2 ^ 32 / 16 < packedBlocks q.ty := ⟨s1_ordinary, s1_ordinary, by decide⟩

/-- VectorAndReductionRows: VMASK in both directions, integer and float sums, and the first contribution of an accumulator with
LAST false and true, at depth 1. -/
theorem test_meets_vector_rows :
    let v := cm 0 .i32 0 true false true 0 false 0xFFFF
    let r := iN .i32
    let s := fun (last : Nat) => at_ (fireT (mkTag 0 1 [0]) (x 6) (x last) (x 0))
    s1.cur.ordinary v.pred ∧ v.sub = 0 ∧ ({ v with sub := 1 }).sub ≠ 0 ∧ v.ty.width ∈ [8, 16, 32, 64] ∧ v.ty.isInt = true ∧ v.sat = false ∧
    (iN .f64).ty = .f64 ∧
    ∀ n ∈ [0, 1], (s n).cur.poison? = none ∧ (s n).cur.off r.pred = false ∧ r.v = false ∧ r.ty.isInt = true ∧
      (s n).replaying (s n).cur.ctx = false ∧ r.sub.toNat < 8 ∧ 0 < tagDepth (s n).cur.tag ∧
      tagField (s n).cur.tag (tagDepth (s n).cur.tag - 1) = 0 ∧ ((s n).elem (s n).cur.sid).parked = [] ∧
      ((s n).elem (s n).cur.sid).accums = [] ∧ (orNull (s n).cur.b).word.getLsbD 0 = (n == 1) := ⟨s1_ordinary, by decide⟩

/-- PlumbingNodes: MERGE and STEER to either side, dropping and not; MERGE with a null a; WRITE in an instance. -/
theorem test_meets_plumbing_rows :
    let s := fun (a b : Val) => at_ { fire a b (x 0) with node := 1 }
    let f := pl 0 .n32 0 true false false 1
    let f2 : PlumbNode := { f with d1 := ⟨true, 8, .b⟩ }
    (s (x 6) (.bit true)).cur.ordinary f.pred ∧ (s (x 6) (.bit false)).cur.ordinary f.pred ∧
    (orNull (s (x 6) (.bit true)).cur.a).isNull = false ∧ (orNull (s (x 6) (.bit true)).cur.b).isNull = false ∧
    (orNull (s (x 6) (.bit true)).cur.b).word.getLsbD 0 = true ∧ (orNull (s (x 6) (.bit false)).cur.b).word.getLsbD 0 = false ∧
    ({ f with sub := 1 }).sub ≠ 0 ∧ f2.sub = 0 ∧ f2.d0.val = true ∧ f2.d1.val = true ∧
    (s (.null false) (x 3)).cur.poison? = none ∧ (s (.null false) (x 3)).cur.predOk f.pred = true ∧
    (f.pred ≠ .always → (orNull (s (.null false) (x 3)).cur.p).isNull = false) ∧
    (s (x 6) (x 3)).cur.tag = instTag (tagDomain (s (x 6) (x 3)).cur.tag) ∧
    (s (x 6) (x 3)).inst? 1 0 0 (tagDomain (s (x 6) (x 3)).cur.tag) = some inst0 :=
  ⟨⟨rfl, rfl⟩, ⟨rfl, rfl⟩, by decide, by decide, by decide, by decide, by decide, by decide, by decide, by decide, by decide, by decide,
    by decide, by decide, by decide⟩

/-- BranchNodes: an instance that has not branched, with an empty link stack, one of 7 and one to pop; a second branch, and a
token of an inner tag. -/
theorem test_meets_branch_rows :
    let s := fun (i : Inst) (a : Act) => { withCtx s1 (fun c => { c with acts := [(0, a)] }) with
      run := ⟨[(65536, { region0 with frames := [{ frame0 with insts := [i] }] })], [], [], []⟩ }
    let a7 : Act := { act0 with link := [64, 64, 64, 64, 64, 64, 64] }
    let b := pl 0 .i32 1 false true false 0
    s1.cur.ordinary b.pred ∧ b.sub ≠ 1 ∧ ({ b with sub := 1 }).sub = 1 ∧
    (∀ a ∈ [act0, a7], (s inst0 a).cur.tag = instTag 0 ∧ (s inst0 a).inst? 1 0 0 0 = some inst0 ∧ inst0.branch = .none ∧
      (s inst0 a).blockOf (s inst0 a).cur = some block0 ∧ ((s inst0 a).region? 1 0).isSome = true ∧ (s inst0 a).act? 1 0 = some a) ∧
    act0.link = [] ∧ a7.link.length < 8 ∧ a7.link = 64 :: [64, 64, 64, 64, 64, 64] ∧
    (s1.ctx? 1).map (·.ring.length) = some 0 ∧
    (s { inst0 with branch := .taken none } act0).inst? 1 0 0 0 = some { inst0 with branch := .taken none } ∧
    (at_ (fireT (mkTag 0 1 [5]) (x 6) (x 0) (x 0))).cur.tag ≠ instTag (tagDomain (mkTag 0 1 [5])) := ⟨s1_ordinary, by decide⟩

/-- SinksWriteRecords: poison of a TRAP at element (1, 1), with an empty ring, a full one, and told already. -/
theorem test_meets_sinks :
    let o := mkOrigin 0x12 0 0 1 1 0 5
    let s := at_ (fire (.poison o) (x 0) (x 0))
    let full := withCtx s fun c => { c with ring := List.replicate 64 (s.recordAt s.cur 0x12) }
    let told := withCtx s fun c => { c with told := [(o, 0)] }
    s.cur.poison? = some o ∧ (s.ctx? 1).map (fun c => (c.ring.length, c.told)) = some (0, []) ∧
    (full.ctx? 1).map (fun c => (c.ring.length, c.told)) = some (64, []) ∧ (told.ctx? 1).map (·.told) = some [(o, s.cur.tag)] ∧
    (s.elem (sidAt (natBits o.toNat 49 48) (natBits o.toNat 47 42) (natBits o.toNat 41 37))).capture = none := by decide

/-- TagNodes: ENTER at depth 7, EXIT and TAGSET at depth 8, RETAG to depth 8; the faults at depth 8 and at wrong levels. -/
theorem test_meets_tag_rows :
    let t8 := mkTag 0 8 [1, 2, 3, 4, 5, 6, 7, 8]
    let s7 := at_ (fireT (mkTag 0 7 [1, 2, 3, 4, 5, 6, 7]) (x 6) (x 3) (x 1))
    let s8 := at_ (fireT t8 (x 6) (.scalar t8) (x 1))
    let f := fun (l : BitVec 3) => tg 0 .n32 0 true false false l 0
    s7.cur.ordinary (f 7).pred ∧ s8.cur.ordinary (f 7).pred ∧ tagDepth s7.cur.tag < 8 ∧ (f 7).lvl.toNat = tagDepth s7.cur.tag ∧
    0 < tagDepth s8.cur.tag ∧ (f 7).lvl.toNat + 1 = tagDepth s8.cur.tag ∧ (f 7).lvl.toNat < tagDepth s8.cur.tag ∧
    tagDepth (orNull s8.cur.b).word ≤ 8 ∧ (f 7).sub = 0 ∧ (ctx1.cbase ≤ tagDomain s8.cur.tag ∧ tagDomain s8.cur.tag < 64) ∧
    ((f 7).d0.val || (f 7).d1.val) = true ∧ 8 ≤ tagDepth s8.cur.tag ∧ (f 6).lvl.toNat ≠ tagDepth s7.cur.tag ∧
    (f 6).lvl.toNat + 1 ≠ tagDepth s8.cur.tag ∧ tagDepth s7.cur.tag ≤ (f 7).lvl.toNat :=
  ⟨⟨rfl, rfl⟩, ⟨rfl, rfl⟩, by decide⟩

/-- LoopsAndPools: a window of 2 with head 0 and iteration 0 done lets a NEXT of iteration 0 on, parks one of iteration 1,
and takes a BOUND of iteration 1; SPAWN at depth 6, RETIRE at depth 2; the pool with a number to give and one to take back. -/
theorem test_meets_loops :
    let w : LoopWin := ⟨0, 13, 0, 0, 0, 2, 0, none⟩
    let s := fun (i node : Nat) => { at_ { fireT (mkTag 0 1 [i]) (x 6) (.bit true) (x 1) with node := node } with
      fab := ⟨[(65, { elem0 with windows := [w] })], [], [], [], []⟩ }
    let n := tg 0 .n32 13 true true false 0 0
    let e := (s 0 9).elem 65
    let q : PoolReq := ⟨.spawn n, fire (x 6) (x 3) (x 1), none, none, none⟩
    let p := fun (q : PoolReq) => { s1 with run := { s1.run with pools := [(9, q)] } }
    (s 0 9).cur.ordinary n.pred ∧ tagDepth (s 0 9).cur.tag = 1 ∧ n.lvl.toNat + 1 = 1 ∧ w.head < 64 ∧ n.lit.toNat % 128 = 13 ∧
    e.windows.find? (fun x => x.isKey 0 13 (cutTag (s 0 9).cur.tag 0)) = some w ∧ w.final = none ∧
    ((tagField (s 0 9).cur.tag 0 + 1) % 64 + 64 - w.head) % 64 < w.k ∧ w.k ≤ ((tagField (s 1 9).cur.tag 0 + 1) % 64 + 64 - w.head) % 64 ∧
    e.parked = [] ∧ (tagField (s 1 13).cur.tag 0 + 64 - w.head) % 64 < w.k ∧ w.done.getLsbD 1 = false ∧ w.done.getLsbD w.head = false ∧
    1 ≠ w.head ∧ (orNull (s 1 13).cur.b).word.getLsbD 0 = true ∧
    tagDepth (mkTag 0 6 []) < 7 ∧ tagDepth (mkTag 0 2 []) = 2 ∧
    ((p q).ctx? q.f.ctx).map (·.pool) = some (7 :: [8]) ∧ q.reply = none ∧ q.ret = none ∧ 9 ∉ ctx1.pool ∧ 7 ∈ ctx1.pool ∧
    (p { q with reply := some (some 7) }).run.pools.get? 9 = some { q with reply := some (some 7) } :=
  ⟨⟨rfl, rfl⟩, by decide⟩

/-- An operation of a row in a phase, with one lane of 4 bytes at VA and PA 0x1000 of die 0. -/
def lane0 : Lane := ⟨0, 0x1000, 0x1000, 0x1000, 0, 0, 4, [1, 2, 3, 4], 0, 0, false, true, false, [], false⟩
def mop (i : Instr) (isLoad isStore : Bool) (lanes : List Lane) (phase : MemPhase) : MemOp where
  i := i
  f := fire (x 0x1000) (x 3) (x 1)
  dom := 0
  act := 0
  inst := 0
  order := []
  lsid := 5
  isLoad := isLoad
  isStore := isStore
  isVault := false
  g := false
  ord := 0
  scope := 0
  null := false
  lanes := lanes
  phase := phase
  resolved := false
  performed := 0
  served := false
  covers := []
  attached := []
  pts := 0
  pw := 0
  pws := []
  ackW := 0
  line := 0
  req := 0
  flags := 0
  reply := []
  xack := false
  result := none
  second := none
  aux := 0
  since := 0
  tries := 0
/-- `base` with operation 9 and home lines. -/
def withOp (o : MemOp) (homes : Tbl HomeLine) : State := { base with mem := { base.mem with ops := [(9, o)], homes := homes } }
def ldN : MemNode := mm 0 .n32 0 true false false false 0 0
def home0 : HomeLine := ⟨0, 5, 9, none, 0, 0, 0⟩
def locked0 : HomeLine := { home0 with lock := some ⟨9, List.replicate 128 0, 0, 0⟩ }

/-- MemoryNodes: an aligned address for every width, a vault address at the last byte of its area and at the first, a null
firing, and a misaligned access. -/
theorem test_meets_memory_rows :
    let s := at_ (fire (x 0x1000) (x 3) (x 1))
    let v := at_ (fire (x 192) (x 3) (x 1))
    let f := ldN
    let n := { ldN with pred := Pred.ifFalse }
    s.cur.ordinary f.pred ∧ v.cur.ordinary f.pred ∧ (s.elem 65).tlb = [] ∧ s.mem.misses = [] ∧ s.vdOfCtx s.cur.ctx < 64 ∧ 0x1000 % (f.ty.width / 8) = 0 ∧ 0x1000 % 64 = 0 ∧
    (orNull v.cur.a).word.toNat < 2 ^ 32 ∧ 192 % 64 = 0 ∧ v.vaultAllowed 1 192 64 = true ∧ v.vaultAllowed 1 252 4 = true ∧
    v.vaultAllowed 1 0 64 = true ∧ s.cur.poison? = none ∧ s.cur.off n.pred = true ∧ s1.cur.off f.pred = false ∧
    (s1.ctx? 1).map (·.ring.length) = some 0 ∧ (orNull s1.cur.a).word.toNat % (f.ty.width / 8) ≠ 0 := ⟨⟨rfl, rfl⟩, ⟨rfl, rfl⟩, by decide⟩

/-- OrderAndHome: a FENCE and a ST that are next in order; a ST at a home line that is free. -/
theorem test_meets_order :
    let fence := mop (.fence ldN) false false [] .resolving
    let st := mop (.st ldN) false true [lane0] .resolving
    let h := withOp { st with phase := .sent } [(32, home0)]
    (∀ o ∈ [fence, st], (withOp o []).mem.ops = [(9, o)] ∧ o.phase = .resolving ∧ o.resolved = false ∧ o.null = false ∧ o.attached = [] ∧
      (withOp o []).chainReady o = true ∧ (withOp o []).pastLast o = false) ∧
    paWindow lane0.pa = 0 ∧ lane0.home = dieOf st.f.sid ∧ (withOp st []).l2Ready 0 = true ∧ (withOp st []).mem.unreachable = [] ∧
    h.bytes.wf = true ∧ h.op? 9 = some { st with phase := .sent } ∧ lane0.pa % 128 + lane0.data.length ≤ 128 ∧
    h.mem.homes.get? (lane0.pa / 128) = some home0 ∧ h.beyondCap 0 (Stamp.max 0 (9 + 1)) = false ∧
    ∀ a ∈ h.arbiters 0 0 lane0.pa 1, h.hasCredit a.1 0 = true := by
  refine ⟨?_, ?_, ?_, ?_, ?_, ?_, ?_, ?_, ?_, ?_, ?_⟩ <;> decide

/-- AcksAndLeases: an ATOM with its old value, a line that it locked and one that another locked; a repeat that home has applied and
two that it has not, one to replicas; a load whose line is free, and whose reply is not in error. -/
theorem test_meets_acks :
    let atom : MemOp := { mop (.atom ldN) true true [{ lane0 with bound := true }] .sent with result := some (x 7) }
    let new : MemOp := { mop (.st ldN) false true [lane0] .sent with line := 32 }
    let both : MemOp := { mop (.stmc ldN) false true [{ lane0 with rep := true }] .sent with line := 32 }
    let s := withOp atom [(32, locked0), (33, { locked0 with lock := some ⟨8, [], 0, 0⟩ })]
    let ld := mop (.ld ldN) true false [lane0] .sent
    let l := withOp ld [(32, home0)]
    s.op? 9 = some atom ∧ atom.group = [] ∧ s.mem.homes.get? 32 = some locked0 ∧ (s.mem.homes.get? 33).isSome = true ∧ atom.phase ≠ .done ∧
    (∀ o ∈ [new, both], o.phase ≠ .done ∧ o.xack = false ∧ o.line = lane0.pa / 128) ∧ lane0.bound = false ∧ new.multi = false ∧ both.multi = true ∧
    (withOp new []).mem.seqs.get? (seqKey 0 new.f.sid) ≠ some new.req ∧
    Tbl.get? [(seqKey 0 65, 0)] (seqKey 0 new.f.sid) = some new.req ∧
    l.op? 9 = some ld ∧ l.mem.homes.get? (lane0.pa / 128) = some home0 ∧ l.beyondCap 0 (Stamp.max 9 (0 + 0)) = false ∧
    (∀ a ∈ l.arbiters 0 0 lane0.pa 2, l.hasCredit a.1 0 = true) ∧ l.laneError lane0 = none ∧ lane0.home = dieOf ld.f.sid := by
  refine ⟨?_, ?_, ?_, ?_, ?_, ?_, ?_, ?_, ?_, ?_, ?_, ?_, ?_, ?_, ?_, ?_, ?_⟩ <;> decide

/-- LinesAndReplicas: a line and a copy to evict, an MWAIT whose test holds and one whose test does not, clocks that are due
once, a ring with room, and a page with replicas on dies 0 and 1. -/
theorem test_meets_lines :
    let eq8 : MemNode := { ldN with ty := .n64, sub := 2 }
    let w : MemOp := { mop (.mwait eq8) true false [{ lane0 with size := 8 }] .sent with aux := 1 }
    let s := withOp w [(32, home0)]
    let copy : Copy := ⟨0, 0, [], [], [[], []], false, 0, 0⟩
    let c := { s with mem := { s.mem with l2 := [(l2Key 0 32, copy)] }, agenda := [] }
    let page : TlbEntry := ⟨0, 0, 65536, 0x4004B, 0x50000, 0x50000, 0, 0, 0⟩
    let reps := [(0, 0x51000), (1, 0x61000)]
    let st := mop (.stmc ldN) false true [{ lane0 with rep := true, reps := reps, primHome := 1 }] .sent
    let r := { withOp st [] with
      bytes := ⟨[(0x40000, 1), (0x40002, 5), (0x40008, 1), (0x4000A, 6)], [], []⟩ }
    s.mem.homes.get? 32 = some home0 ∧ home0.lock = none ∧ home0.die = 0 ∧ c.mem.l2.get? (l2Key 0 32) = some copy ∧
    (∀ p ∈ copy.pend, p = []) ∧ (9, w) ∈ s.mem.ops ∧ s.homeBusy 0 32 0 = false ∧ s.laneError { lane0 with size := 8 } = none ∧
    mwaitHolds eq8 3 3 = true ∧ mwaitHolds eq8 0 3 = false ∧ 3 < c.mem.horizons.length ∧
    c.isDue (.ptsDrift 3) = false ∧ c.isDue (.timestampSweep 3) = false ∧ (s.ctx? 1).map (·.ring.length) = some 0 ∧
    (r.replicas page lane0.va) = reps ∧ st.multi = true ∧ dieOf st.f.sid = 0 ∧ st.xack = false ∧
    (∀ y ∈ reps, r.homeBusy y.1 (y.2 / 128) 0 = false ∧ r.beyondCap y.1 (Stamp.max 0 1) = false) := by
  refine ⟨?_, ?_, ?_, ?_, ?_, ?_, ?_, ?_, ?_, ?_, ?_, ?_, ?_, ?_, ?_, ?_, ?_, ?_, ?_⟩ <;> decide

/-- A page table of VD 0: entries at levels 3 and 2, and at level 1 a leaf with R, W and X of 256 MB at 0x10000000. -/
def tables : State := { withOp (mop (.st ldN) false true [lane0] .translating) [] with
  bytes := ⟨[(0x10000, 0x01), (0x10002, 0x02), (0x20000, 0x01), (0x20002, 0x03), (0x30000, 0x1F), (0x30003, 0x10)], [], []⟩
  ten := { base.ten with vds := [(0, { Vd.reset 0 with ptroot := 0x10000 })] } }
def leaf0 : TlbEntry := ⟨0, 0, 2 ^ 28, 0x1000001F, 0x10000000, 0x10000000, 0, 0, 0⟩

/-- VaultsAndWalks: a vault store and load at the head of their bank in an E slot; a walk that ends in a leaf, one that fails,
and a page whose D is clear. -/
theorem test_meets_vault_and_walk :
    let vst : MemOp := { mop (.vst ldN) false true [lane0] .sent with isVault := true }
    let vld : MemOp := { mop (.vld ldN) true false [lane0] .sent with isVault := true }
    let s := fun (o : MemOp) => { withOp o [] with mem := { (withOp o []).mem with banks := [(bankKey 0 (bankOf 0x1000), ⟨[9], 0, 0⟩)] } }
    let d := { tables with fab := ⟨[(65, { elem0 with tlb := [leaf0] })], [], [], [], []⟩ }
    let w := fun (va : Nat) => { tables with mem := { tables.mem with misses := [⟨0, 0, va / 65536, [9], true⟩] } }
    (∀ o ∈ [vst, vld], (s o).bytes.wf = true ∧ (s o).op? 9 = some o ∧ (s o).mem.banks.get? (bankKey 0 (bankOf 0x1000)) = some ⟨[9], 0, 0⟩ ∧
      (s o).nextAtBank ⟨[9], 0, 0⟩ = some (9, o) ∧ toESlot (s o).now 0 = 0 ∧ (s o).vaultBad 0 0x1000 4 = false) ∧
    (∀ va ∈ [0x1000, 2 ^ 52], (w va).mem.misses = [⟨0, (w va).vdOfCtx 1, va / 65536, [9], true⟩] ∧ (w va).tlbFind 65 0 (BitVec.ofNat 64 va) = none ∧
      (w va).walkLocked ((w va).walk 0 0 (BitVec.ofNat 64 (65536 * (va / 65536)))) = false) ∧
    ((w 0x1000).walk 0 0 0).finish = .leaf leaf0 0x30000 ∧ leaf0.covers 0 0x1000 = true ∧ ((w 0x1000).elem 65).tlb = [] ∧
    ((w (2 ^ 52)).elem 65).portHold = none ∧ ((w (2 ^ 52)).walk 0 0 (2 ^ 52)).finish = .fails causeXlate 3 ∧
    (mop (.st ldN) false true [lane0] .translating).isPref = false ∧ d.tlbFind 65 0 0x1000 = some leaf0 ∧ pteD leaf0.pte = false ∧ d.lockedLine (0x30000 / 128) = false ∧
    (d.walk 0 0 0x1000).finish = .leaf leaf0 0x30000 ∧ paWindow 0x30000 = 0 := by
  refine ⟨?_, ?_, ?_, ?_, ?_, ?_, ?_, ?_, ?_, ?_, ?_, ?_, ?_⟩ <;> decide

/-- Packets of 64 bytes as the operand of a node. -/
def packet (fields : List (Nat × Nat)) : Val := .vector (BitVec.ofNat 512 ((fields.map fun (o, v) => v * 2 ^ (8 * o)).foldl (· + ·) 0))

/-- EngineNodes: a unit half granted to VD 0, one without a grant, and the second half of a split unit; a copy packet (FILL) and
a launch packet that are right, and ones that are not. -/
theorem test_meets_engine_rows :
    let good := at_ (fire (packet [(0, 4)]) (x 0) (x 0))
    let bad := at_ (fire (packet [(0, 6), (32, 5)]) (x 0) (x 0))
    let m := { good with svc := { good.svc with mxown := [(37, ⟨0, 0, false, true, false, none⟩), (63, ⟨5, 0, true, false, true, none⟩)] } }
    let f := en 0 .n64 false false 37
    good.cur.ordinary f.pred ∧ bad.cur.ordinary f.pred ∧ m.cur.ordinary f.pred ∧ m.mxTarget 0 37 0 = (74, m.vdOfCtx 1, true) ∧
    m.mxTarget 0 63 1 = (127, m.vdOfCtx 1, true) ∧ m.mxTarget 0 63 0 = (126, 5, false) ∧ m.mxTarget 0 0 0 = (0, 0, false) ∧
    copyPacketOk good.cur.packet = true ∧ launchPacketOk good.cur.packet = true ∧ copyPacketOk bad.cur.packet = false ∧
    launchPacketOk bad.cur.packet = false ∧ (bad.ctx? 1).map (·.ring.length) = some 0 := by
  refine ⟨⟨rfl, rfl⟩, ⟨rfl, rfl⟩, ⟨rfl, rfl⟩, ?_, ?_, ?_, ?_, ?_, ?_, ?_, ?_, ?_⟩ <;> decide +kernel

/-- An entry of an MX packet, with a data plane at vault address 0 and a scale plane at 0x8000, two rows from 0. -/
def mxe (op : Nat) (ty : Ty) (serial : Nat) : MxEntry :=
  ⟨op, ty, false, false, 0, 0, 0x8000, 2, 0, 0, 0, 1, 0, 0, 9, serial, false, false, 0, 0, 0, 0, 0, 0, [], []⟩
def tile0 : Tile := ⟨.eb8, 0, [], []⟩
def half0 : MxHalf := MxHalf.fresh 0
/-- Context 1 with 64 KiB of vault area, and half 0 of die 0. -/
def withHalf (h : MxHalf) : State := { withCtx base (fun c => { c with image := { img with vaultBytes := 0x10000 } }) with
  eng := ⟨[(0, h)], [], [], [], []⟩, now := 4000 }

/-- MatrixUnits, MatrixLoads: a packet of an MXW at the lowest edge port of die 0; entries that can start on each path; a latch
whose bytes have arrived. -/
theorem test_meets_matrix_loads :
    let t : Token := ⟨0, 25, 0, 5, .a, 1, 1, 0, packet [(0, 1), (1, 12)]⟩
    let o := mop (.mxw (en 0 .eb8 false false 0)) false false [] .sent
    let s := { withOp o [] with fab := ⟨[(65, elem0)], [], [], [(0, [t])], []⟩ }
    let wait := { half0 with load := some 90, stream := some 91, drain := some 92 }
    let can := fun (e : MxEntry) (h : MxHalf) => (withHalf { h with inbox := [e] })
    let tiled := { wait with banks := [⟨false, some tile0, 0, 1⟩, ⟨false, none, 0, 0⟩] }
    let l := { mxe 1 .eb8 7 with started := true }
    (s.half 0).banks.length = 2 ∧ (s.mxOwn 0).split = false ∧ s.edge (edgeKey 0 (2 * (0 % 32)) false) = [t] ∧ (s.half 0).waiting.length < 32 ∧
    s.mem.ops = [(9, o)] ∧ o.phase = .sent ∧ xOf o.f.sid = t.sx ∧ yOf o.f.sid = t.sy ∧ dieOf o.f.sid = 0 ∧ o.f.frm = t.frm ∧
    o.f.node = t.node ∧ o.f.tag = t.tag ∧ field (leBytes t.val.wide.toNat 64) 0 1 ≠ 4 ∧
    (let h := { wait with load := none };
      (can (mxe 1 .eb8 7) h).mxCheck 0 (mxe 1 .eb8 7) = 0 ∧ ((can (mxe 1 .eb8 7) h).half 0).next .load = some (mxe 1 .eb8 7)) ∧
    (let h := { tiled with stream := none };
      (can (mxe 2 .eb8 7) h).mxCheck 0 (mxe 2 .eb8 7) = 0 ∧ ((can (mxe 2 .eb8 7) h).half 0).next .stream = some (mxe 2 .eb8 7)) ∧
    (let e := { mxe 3 .f32 7 with argb := 0x80000000 };
      let h := { wait with drain := none };
      (can e h).mxCheck 0 e = 0 ∧ ((can e h).half 0).next .drain = some e) ∧
    ((withHalf { half0 with inbox := [l], load := some 7 }).half 0).load.bind ((withHalf { half0 with inbox := [l], load := some 7 }).half 0).entry? = some l ∧
    l.startAt + loadCycles l 192 ≤ 4000 ∧ (withHalf half0).vaultBad 0 0 (128 * mxBytes .eb8 192) = false ∧
    (withHalf half0).vaultBad 0 0x8000 (128 * mxScaleBytes .eb8 192) = false := by
  refine ⟨?_, ?_, ?_, ?_, ?_, ?_, ?_, ?_, ?_, ?_, ?_, ?_, ?_, ?_, ?_, ?_, ?_, ?_, ?_, ?_⟩ <;> decide +kernel

/-- MatrixStreams and MatrixDrainsAndEnds: rows that are due on a loaded bank; a wavefront past its last row and one whose sums
are added; the last row of a drain and of a clear; replies of every kind; an ownership value that an idle unit takes. -/
theorem test_meets_matrix_streams :
    let e := { mxe 2 .eb8 7 with started := true }
    let w : Wavefront := ⟨7, 0, false, 3000, List.replicate 128 [0], 0, false⟩
    let h := { half0 with
      inbox := [e]
      stream := some 7
      banks := [⟨false, some tile0, 2, 1⟩, ⟨false, none, 0, 0⟩]
      waves := [w, { w with row := 1, passed := true }] }
    let s := withHalf h
    let d := { mxe 3 .f32 7 with argb := 0x80000000, rows := 1 }
    let clr := { mxe 4 .n64 7 with sub := 1, rows := 511 }
    let own := { withHalf half0 with svc := { base.svc with mxown := [(0, ⟨0, 0, false, false, false, some 0x1000⟩)] } }
    s.half 0 = h ∧ h.stream.bind h.entry? = some e ∧ (h.bank false).tile = some tile0 ∧ s.issueCycle 0 = true ∧
    rowDue e 192 .eb8 0 ≤ s.now ∧ (∀ j ∈ [0, 1], s.vaultBad 0 (j * 192) 192 = false ∧ s.vaultBad 0 (0x8000 + j * 16) 16 = false) ∧
    h.poisoned = [] ∧ h.waves.find? (fun w => !w.passed && decide (w.issued + 16 ≤ s.now)) = some w ∧
    h.waves.find? (fun w => w.passed && decide (w.issued + 20 ≤ s.now)) = some { w with row := 1, passed := true } ∧ h.entry? 7 = some e ∧
    (∀ e ∈ [d, clr], ({ half0 with inbox := [e], drain := some 7 }).drain.bind ({ half0 with inbox := [e], drain := some 7 }).entry? = some e ∧
      e.startAt + 4 + e.rows ≤ s.now) ∧ half0.outbox = [] ∧ half0.drain = none ∧ xSlotWait 4002 = 0 ∧ natBits d.ctrl.toNat 21 20 = 0 ∧ d.ctrl.getLsbD 26 = false ∧ d.ty.isBlock = false ∧
    d.rows + 1 = d.m ∧ clr.rows + 1 = 512 ∧ (s.ctx? e.ctx).isSome = true ∧ e.status = 0 ∧ ({ e with status := 2 }).status ≠ 0 ∧
    s.mxCheck 0 (mxe 4 .n64 7) = 0 ∧ s.mxCheck 0 { mxe 4 .n64 7 with sub := 2 } = 0 ∧ (s.ctx? 1).map (·.ring.length) = some 0 ∧
    (own.mxOwn 0).held = some 0x1000 ∧ own.svc.ready.getLsbD 12 = true ∧
    (∀ k ∈ [0, 1], (own.half k).waiting = [] ∧ ∀ b ∈ (own.half k).banks, b.ref = 0) := by
  refine ⟨?_, ?_, ?_, ?_, ?_, ?_, ?_, ?_, ?_, ?_, ?_, ?_, ?_, ?_, ?_, ?_, ?_, ?_, ?_, ?_, ?_, ?_, ?_, ?_, ?_⟩ <;> decide +kernel

/-- EdgeCoverage and GraphicsNodes but for BLND and ROUTE: a descriptor that is right and one with a reserved wrap mode; the last
tile number and the one after it. -/
theorem test_meets_graphics_rows :
    let f := gf .f32 0 false true 0 0
    let s := at_ (fire (vec [0x3F000000, 0x3F000000]) (x 0x4_000F_000F) (x 0))
    let n := fun (k : Nat) => at_ (fire (x k) (x (3 * 2 ^ 32)) (x 0))
    s.cur.ordinary f.pred ∧ (n 255).cur.ordinary f.pred ∧ texOk 0x4_000F_000F = true ∧
    (texels .rne 0x4_000F_000F 0x3F000000 0x3F000000).isSome = true ∧ (orNull (n 255).cur.a).word.toNat % 2 ^ 32 ≤ 255 ∧
    255 < (orNull (n 256).cur.a).word.toNat % 2 ^ 32 ∧ (f.d0.val || f.d1.val) = true ∧
    texOk (orNull (n 0).cur.b).word.toNat = false := by
  refine ⟨⟨rfl, rfl⟩, ⟨rfl, rfl⟩, ?_, ?_, ?_, ?_, ?_, ?_⟩ <;> decide +kernel

/-- BlendRow: a window at sequence 5 with nothing held; the fragment whose turn it is, and those 1, 15, 16 and 2^31 - 1 ahead. -/
theorem test_meets_blend :
    let w : BlndWin := ⟨0, 5, 0, 5, []⟩
    let f := gf .f32 0 false true 0 0
    let s := fun (seq : Nat) => { withCtx (at_ (fire (vec [0x3F800000]) (x 0) (x seq))) (fun c => { c with image := { img with vaultBytes := 0x10000 } }) with
      fab := ⟨[(65, { elem0 with blnds := [w] })], [], [], [], []⟩ }
    (s 5).cur.ordinary f.pred ∧ (orNull (s 5).cur.b).word.toNat % 2 ^ 32 % 64 = 0 ∧ (s 5).vaultAllowed 1 0 tileBytes = true ∧
    (((s 5).elem 65).blnds.filter (fun x => x.frm == 0 && x.node == 5)).find? (fun x => x.addr == 0) = some w ∧
    (orNull (s 5).cur.c).word.toNat % 2 ^ 32 = w.next % 2 ^ 32 ∧ w.frags = [] ∧
    (applyFragment f (s 5) 0 0 (orNull (s 5).cur.a).wide).2.2 = none ∧
    (∀ k ∈ [6, 20], 1 ≤ (k + 2 ^ 32 - w.next) % 2 ^ 32 ∧ (k + 2 ^ 32 - w.next) % 2 ^ 32 ≤ 15) ∧
    ∀ k ∈ [21, 2 ^ 31 + 4], 16 ≤ (k + 2 ^ 32 - w.next) % 2 ^ 32 ∧ (k + 2 ^ 32 - w.next) % 2 ^ 32 < 2 ^ 31 := by
  refine ⟨⟨rfl, rfl⟩, ?_, ?_, ?_, ?_, ?_, ?_, ?_, ?_⟩ <;> decide +kernel

/-- RouteRow: a ROUTE to queue 0 that holds its grant, one that finds an owner, one whose key has none, and one to a queue that
its actor may not use. -/
theorem test_meets_route :
    let f := gf .n64 0 false false 0 0
    let r : Reservation := ⟨some (fire (x 6) (x 0) (x 1)), 1, 0, 1, x 6, some 0, some 2, 0⟩
    let s := fun (q : Nat) => at_ (fire (x 6) (x q) (x 1))
    let g := { s 0 with run := { base.run with reservations := [(9, r)] } }
    let none_ := withCtx (s 0) fun c => { c with image := { img with regions := [⟨0, 1, 2, 0xFF⟩] }, pmaps := [(0, [0, 0])] }
    g.grantOf g.cur = some (9, r) ∧ r.slot = some 2 ∧ g.qinst 1 0 (some 0) = some qinst0 ∧ (s 0).grantOf (s 0).cur = none ∧
    (s 0).cur.ordinary f.pred ∧ none_.cur.ordinary f.pred ∧ (s 1).cur.ordinary f.pred ∧ (s 0).routeOk (s 0).cur false 0 = true ∧
    (s 0).ownerOf 1 0 1 = some (some 0) ∧ none_.routeOk none_.cur false 0 = true ∧ none_.ownerOf 1 0 1 = none ∧
    (s 1).routeOk (s 1).cur false 1 = false := by
  refine ⟨?_, ?_, ?_, ?_, ⟨rfl, rfl⟩, ⟨rfl, rfl⟩, ⟨rfl, rfl⟩, ?_, ?_, ?_, ?_, ?_⟩ <;> decide

/-- SystemNodes: a ring with room, empty, and with a record; a context that may be handled (privilege 2) and one that may not
(privilege 0, another context); a RETRY without and with a held request, of an engine and of another element; poison on a;
a BKPT with and without debug. -/
theorem test_meets_system_rows :
    let f := ss 0 .n64 0 true false 0
    let rec_ := s1.recordAt s1.cur 0x12
    let ring := withCtx s1 fun c => { c with ring := [rec_] }
    let user := withCtx s1 fun c => { c with priv := 0 }
    let held : MemOp := { mop (.ceq (en 0 .x64 false false 0)) false false [] .held with f := { fire (x 0) (x 0) (x 0) with sid := 67 } }
    let w0 : W64 := 0x10000
    let w8 : W64 := 0x10C
    let s := fun (o : MemOp) => { withOp o [] with
      cur := fire (.scalar w0) (.scalar w8) (x 0)
      fab := ⟨[(67, { elem0 with portHold := some 9 })], [], [], [], []⟩ }
    let dbg := { s1 with svc := { s1.svc with dbgsel := 0x1_0001_0000 } }
    s1.cur.ordinary f.pred ∧ (s1.ctx? 1).map (·.ring) = some [] ∧ (ring.ctx? 1).map (·.ring) = some (rec_ :: []) ∧
    s1.mayHandle s1.cur 1 = true ∧ user.mayHandle user.cur 6 = false ∧ (s held).cur.ordinary f.pred ∧
    (s held).mayHandle (s held).cur (natBits w0.toNat 31 16) = true ∧ s1.heldPort w0 w8 = none ∧ (s held).heldPort w0 w8 = some (9, held) ∧
    held.isMemory = false ∧ held.f.sid ≠ (s held).cur.sid ∧ ({ s1.cur with a := some (.poison 7) }).a = some (.poison 7) ∧
    (∀ q, ({ s1.cur with a := some (.poison 7) }).p ≠ some (.poison q)) ∧ s1.replaying 1 = false ∧
    s1.debugOn 1 = false ∧ dbg.debugOn 1 = true ∧ (dbg.ctx? 1).map (·.ring.length) = some 0 ∧ ((s held).elem 67).portQueue = [] ∧
    ({ elem0 with portHold := some 9, portQueue := [8] } : Element).portQueue = [8] := by
  refine ⟨⟨rfl, rfl⟩, ?_, ?_, ?_, ?_, ⟨rfl, rfl⟩, ?_, ?_, ?_, ?_, ?_, ?_, fun q h => ?_, ?_, ?_, ?_, ?_, ?_, ?_⟩
  case refine_11 => cases h
  all_goals decide

/-- TimeDoneAndJobs: a TIME.until that is due and one that is not; a TIME.after that has waited; DONE, first and second; the
privileges and stamp addresses of the system M rows. -/
theorem test_meets_time_and_jobs :
    let f := ss 0 .n64 0 true false 0
    let s := { s1 with now := 3 }
    let p : Parked := ⟨.timeAfter f, s1.cur, .time, 0, false, false⟩
    let w := { s with fab := ⟨[(65, { elem0 with parked := [p] })], [], [], [], []⟩ }
    let q := { p with placed := true }
    let m : MatchEntry := ⟨elemIndex 65, 0, 5, 0, none, none, none, none, false, [], true, 0⟩
    let spilt := { withCtx s (fun c => { c with siding := { c.siding with use := 1, entries :=
        [(4, ⟨m, 0, 1, 1, noSlot, noSlot, false, false, 0, 0, 0⟩)] } }) with
      fab := ⟨[(65, { elem0 with parked := [q] })], [], [], [], []⟩ }
    let done := withCtx s fun c => { c with exit := some 5 }
    let user := withCtx s fun c => { c with priv := 0 }
    let j := at_ (fire (x 0) (x 8) (x 16))
    s.cur.ordinary f.pred ∧ (litOr f.l f.lit s.cur.b).toNat ≤ s.now ∧ s1.now < (litOr f.l f.lit s1.cur.b).toNat ∧ s.parkedSelf s.cur = none ∧
    w.parkedSelf w.cur = some p ∧ w.parkPlace p = .nowhere ∧ spilt.parkedSelf spilt.cur = some q ∧ spilt.parkPlace q = .slot 4 ∧ p.since + max (litOr f.l f.lit w.cur.b).toNat 1 ≤ w.now ∧ s.drained s.cur = true ∧
    (s.ctx? 1).map (·.exit) = some none ∧ (done.ctx? 1).map (·.exit) = some (some 5) ∧ s.replaying 1 = false ∧ j.cur.ordinary (sm 0).pred ∧
    j.cur.argC % 8 = 0 ∧ j.cur.argB % 8 = 0 ∧ s.cur.argC % 8 ≠ 0 ∧ s.cur.argB % 8 ≠ 0 ∧ (j.ctx? 1).map (·.priv) = some 2 ∧
    (user.ctx? 1).map (fun c => (c.priv, c.ring.length)) = some (0, 0) := by
  refine ⟨⟨rfl, rfl⟩, ?_, ?_, ?_, ?_, ?_, ?_, ?_, ?_, ?_, ?_, ?_, ?_, ⟨rfl, rfl⟩, ?_, ?_, ?_, ?_, ?_, ?_⟩ <;> decide

/-- Tokens of context 1 for a port of a node of the block at element (1, 1), and a state that holds one at its scalar input. -/
def tok (node : Nat) (port : Port) (v : Val) : Token := ⟨1, 1, 0, node, port, 0, 0, 0, v⟩
def arrives (t : Token) (ways : List Way) : State := { base with
  fab := ⟨[(65, { elem0 with inS := some t })], [(setKeyAt 65 0 1 0, ⟨ways, 0, noSlot, noSlot, 0, 0⟩)], [], [], []⟩ }
def half1 : MatchEntry := ⟨elemIndex 65, 0, 1, 0, some ⟨x 6, some 0⟩, none, none, none, false, [], false, 0⟩
def movSlot : NodeSlot := ⟨movWord, 0, 0, 1, 0, 0, 0, 0, 0, false⟩
def addSlot : NodeSlot := ⟨addWord, 0, 1, 1, 0, 0, 0, 0, 0, false⟩
/-- An ADD without a destination. -/
def sinkSlot : NodeSlot := ⟨0x200060000000000000000000, 0, 1, 1, 0, 0, 0, 0, 0, false⟩

/-- TokenHops: a token that turns into the element, and one that goes on to the east. -/
theorem test_meets_hops :
    let s := fun (t : Token) => { base with fab := ⟨[], [], [(boxKey 65 .scalar, ⟨[(.west, t)], [], [], []⟩)], [], []⟩, now := 3 }
    let t1 := tok 0 .a (x 6)
    let t2 := { t1 with dx := 40 }
    (∀ p ∈ [(t1, Dir.loc), (t2, Dir.east)],
      (((s p.1).rrInputs 65 .scalar p.2).filterMap fun j => ((s p.1).offer 65 .scalar p.2 j).map fun u => (j, u)).find?
        (fun y => (s p.1).hasCredit (portArbiter (boxKey 65 .scalar) p.2) ((s p.1).vdOfDomain (tagDomain y.2.tag))) = some (Dir.west, p.1) ∧
      ((s p.1).elem 65).stopped = false ∧ ((s p.1).box (boxKey 65 .scalar)).passed = [] ∧
      (s p.1).receiverReady 65 .scalar p.2 = true) ∧ neighbour 65 .east = some 66 := by
  refine ⟨?_, ?_⟩ <;> decide

theorem test_admits_mov : Admits (arrives (tok 0 .a (x 6)) []) 65 (tok 0 .a (x 6)) 1 0 0 movSlot :=
  ⟨by decide, ⟨ctx1, by decide⟩, by decide, by decide, .sc, by decide, .inr (by decide)⟩

theorem test_admits_add :
    let ways := [Way.held half1, .free, .free, .free]
    Admits (arrives (tok 1 .a (x 3)) ways) 65 (tok 1 .a (x 3)) 1 0 1 addSlot ∧
      Admits (arrives (tok 1 .b (x 3)) ways) 65 (tok 1 .b (x 3)) 1 0 1 addSlot :=
  ⟨⟨by decide, ⟨ctx1, by decide⟩, by decide, by decide, .sc, by decide, .inr (by decide)⟩,
    ⟨by decide, ⟨ctx1, by decide⟩, by decide, by decide, .sc, by decide, .inr (by decide)⟩⟩

/-- TokensMatch: a token at the input, and one held for room; a node of one operand; the second of two operands, a second token
of the same port, and the first of a group with a free way. -/
theorem test_meets_matching :
    let noDest := fun (w : Rec) => !(((RawNode.unpack w).hdr .always).d0.val || ((RawNode.unpack w).hdr .always).d1.val)
    let t := tok 1 .b (x 3)
    let d := tok 1 .a (x 3)
    let s := arrives t [.held half1, .free, .free, .free]
    let u := arrives t [.free, .free, .free, .free]
    let retry := { base with fab := ⟨[(65, { elem0 with held := some (t, .noRoom) })], [], [], [], []⟩ }
    let key := setKeyAt 65 0 1 0
    Presents s 65 t (.tokenArrive 65) ∧ Presents retry 65 t (.matchRetry 65) ∧ movSlot.needs.length ≤ 1 ∧ 2 ≤ addSlot.needs.length ∧
    (s.elem 65).ready.length < Config.readyDepth ∧ (s.set? key).find (elemIndex 65) 0 1 0 = some (0, half1) ∧ half1.poisoned = false ∧
    half1.port t.port = none ∧ (∀ q ∈ addSlot.needs, q = t.port ∨ q ∈ half1.present) ∧ half1.port d.port = some ⟨x 6, some 0⟩ ∧
    (s.elem 65).capture = none ∧ 0 < (s.set? key).ways.length ∧ (s.set? key).spills = 0 ∧ (∃ q ∈ addSlot.needs, q ∉ half1.present) ∧
    (u.set? key).find (elemIndex 65) 0 1 0 = none ∧ (u.fits 65 t.port t.val).isSome = true ∧ (u.set? key).looked ≠ u.now + 1 ∧
    ({ u.set? key with looked := 1 } : MatchSet).looked = u.now + 1 ∧ sinkSlot.needs.length = 2 ∧ noDest sinkSlot.word = true ∧ noDest addSlot.word = false ∧ (u.set? key).freeWay (u.quota 1) = some 0 := by
  refine ⟨⟨by decide, by decide, .inl ⟨rfl, by decide, .scalar, by decide⟩⟩, ⟨by decide, by decide, .inr ⟨rfl, .inl (by decide)⟩⟩, ?_, ?_, ?_, ?_, ?_, ?_, ?_, ?_, ?_, ?_,
    ?_, ?_, ?_, ?_, ?_, ?_, ?_, ?_, ?_, ?_⟩ <;> decide

/-- A Siding entry of `half1`, in a Siding that holds it. -/
def sid0 (refill : Bool) : SidEntry := ⟨half1, 0, 1, 1, noSlot, noSlot, refill, false, 0, 0, setKeyAt 65 0 1 0 % 64⟩
def sidingOf (n : SidEntry) : Siding := ⟨0x200000, 256, 1, [(4, n)], [], 0, none⟩
def spilled (refill : Bool) (held : Option (Token × HoldWhy)) (ways : List Way) : State :=
  { withCtx base (fun c => { c with siding := sidingOf (sid0 refill) }) with
    fab := ⟨[(65, { elem0 with held := held })], [(setKeyAt 65 0 1 0, ⟨ways, 1, 4, 4, 0, 0⟩)], [], [], [(9, ⟨1, setKeyAt 65 0 1 0, half1⟩)]⟩ }

/-- SidingAccesses: a spill that finds a place; a lookup of a spilled entry that its token completes; a reserved way, before and
when its refill arrives; an entry in error. -/
theorem test_meets_siding :
    let t := tok 1 .b (x 3)
    let key := setKeyAt 65 0 1 0
    let ways := [Way.reserved, .free, .free, .free]
    let s := spilled false (some (t, .sidingLookup)) ways
    let r := spilled true none ways
    s.fab.spills.get? 9 = some ⟨1, key, half1⟩ ∧ (s.ctx? 1).isSome = true ∧ s.regionAt (siteOfSet key half1.e) = some (65536, region0) ∧
    (ctx1.siding.insert ⟨half1, 0, 1, 1, 4, noSlot, false, false, 0, 0, key % 64⟩).isSome = true ∧ siteOfSet key half1.e = 65 ∧
    Admits s 65 t 1 0 1 addSlot ∧ (s.elem 65).held = some (t, .sidingLookup) ∧ (s.elem 65).stopped = false ∧
    (s.set? key).find (elemIndex 65) 0 1 0 = none ∧ (s.set? key).spills ≠ 0 ∧ (s.set? key).flying = 0 ∧
    s.sidingFind 1 0 1 1 0 1 0 = some (4, sid0 false) ∧ (sidingOf (sid0 false)).entries.get? 4 = some (sid0 false) ∧
    (sid0 false).refill = false ∧ (s.elem 65).ready.length < Config.readyDepth ∧ s.ctxOfSet key = 1 ∧
    (s.set? key).ways.findIdx? (fun w => w == .reserved) = some 0 ∧
    ((sidingOf (sid0 false)).chain (s.set? key).head 2).find? (fun y => y.2.refill) = none ∧
    ((sidingOf (sid0 false)).chain (s.set? key).head 2).find? (fun y => y.2.wanted) = none ∧
    ((sidingOf (sid0 false)).chain (s.set? key).head 2).find? (fun y => !y.2.m.parked) = some (4, sid0 false) ∧
    ((sidingOf (sid0 true)).chain (r.set? key).head 2).find? (fun y => y.2.refill) = some (4, sid0 true) ∧
    (half1.place (r.usedWords 65)).isSome = true ∧ half1.parked = false ∧
    (s.ctx? 1).map (·.ring.length) = some 0 := by
  refine ⟨?_, ?_, ?_, ?_, ?_, ⟨?_, ⟨{ ctx1 with siding := sidingOf (sid0 false) }, ?_⟩, ?_, ?_, .sc, ?_, .inr ?_⟩, ?_, ?_, ?_, ?_, ?_, ?_, ?_, ?_, ?_,
    ?_, ?_, ?_, ?_, ?_, ?_, ?_, ?_, ?_⟩ <;> decide

/-- ErrorsAndStops: an entry that is not poisoned; a region that stops; a Siding that has been full for 65 536 cycles. -/
theorem test_meets_stops :
    let key := setKeyAt 65 0 1 0
    let s := arrives (tok 1 .b (x 3)) [.held half1, .free, .free, .free]
    let r := { base with run := ⟨[(65536, { region0 with stopped := true })], [], [], []⟩ }
    let f := { withCtx base (fun c => { c with siding := { c.siding with fullSince := some 7 } }) with now := 65543 }
    (s.set? key).ways[0]? = some (.held half1) ∧ (s.elem (siteOfSet key half1.e)).slotOf 0 1 = some (1, addSlot) ∧ half1.poisoned = false ∧
    r.regionAt 65 = some (65536, { region0 with stopped := true }) ∧ (f.ctx? 1).map (·.siding.fullSince) = some (some 7) ∧
    ctx1.state = .running ∧ Config.fullLimit ≤ ctx1.siding.waiting + (f.now - 7) := by
  refine ⟨?_, ?_, ?_, ?_, ?_, ?_, ?_⟩ <;> decide

/-- The block's image: header with its CRC, and two records, at its place in `tables` (virtual 0x100040). -/
def blockBytes : List Byte := recBytes movWord ++ recBytes addWord
def header0 : Rec := (0xB1 <<< 88) ||| (1 <<< 81) ||| (crc32c blockBytes).setWidth 96
def imaged : State := { tables with bytes := { tables.bytes with dram := tables.bytes.dram.write 0x10100040 (recBytes header0 ++ blockBytes) } }

/-- BlockStarts: a request whose block is in a frame, and one whose block is fetched; a fetch that arrives sound, and one whose
address has no translation. -/
theorem test_meets_block_starts :
    let q : StartReq := ⟨0, 0x100040, 3, 1, some (fire (x 0) (x 0) (x 0)), []⟩
    let hit := { region0 with starts := [q] }
    let miss := { region0 with starts := [{ q with block := 0x100080 }], frames := [{ frame0 with insts := [] }] }
    let fill := fun (a : Nat) => { region0 with starts := [{ q with block := a }], frames := [{ frame0 with block := none, filling := some a }] }
    let c := { ctx1 with acts := [(0, act0), (3, act0)] }
    let s := { withCtx base (fun _ => c) with run := ⟨[(65536, hit)], [], [], []⟩ }
    let t := fun (a : Nat) => { withCtx imaged (fun _ => c) with run := ⟨[(65536, fill a)], [], [], []⟩ }
    s.ctx? 1 = some c ∧ s.region? 1 0 = some hit ∧ hit.stopped = false ∧ hit.starts = [q] ∧ q.due ≤ s.now ∧ s.act? 1 q.dom = some act0 ∧
    hit.frameOf q.block = some 0 ∧ hit.frames[0]? = some frame0 ∧ frame0.filling = none ∧ frame0.block = some block0 ∧
    (∀ i ∈ frame0.insts, i.dom ≠ q.dom) ∧ miss.frameOf 0x100080 = none ∧ miss.victim = some 0 ∧ 0 < miss.frames.length ∧
    c.image.holds 0x100080 = true ∧ (∀ a ∈ [0x100040, 2 ^ 40], (t a).ctx? 1 = some c ∧ (t a).region? 1 0 = some (fill a)) ∧
    ((t 0x100040).fetchBlock c (fill 0x100040) 0x100040).toOption.isSome = true ∧
    (match (t (2 ^ 40)).fetchBlock c (fill (2 ^ 40)) (2 ^ 40) with | .error (cause, _, _) => cause == causeXlate | .ok _ => false) = true ∧
    (fill (2 ^ 40)).starts = [{ q with block := 2 ^ 40 }] ∧ q.origin.map (·.ctx) = some 1 ∧ c.ring.length < 64 := by
  refine ⟨?_, ?_, ?_, ?_, ?_, ?_, ?_, ?_, ?_, ?_, ?_, ?_, ?_, ?_, ?_, ?_, ?_, ?_, ?_, ?_, ?_⟩ <;> decide +kernel

/-- CommitsAndReads: an instance whose commit set has fired, with one WRITE and with none; a READ behind no WRITE, and one behind
the WRITE of an earlier instance. -/
theorem test_meets_commits :
    let i := { inst0 with fired := [0], writes := [⟨5, false, 3, x 9⟩] }
    let f := { frame0 with insts := [i] }
    let r := { region0 with frames := [f] }
    let s := { base with run := ⟨[(65536, r)], [(9, ⟨fire (x 0) (x 0) (x 0), ldN.toHdr, 3, false⟩)], [], []⟩ }
    let wb := { block0 with nodes := [0x090068000001800000000000], commit := [] }
    let p := { s with run := { s.run with regions := [(65536, { region0 with
      frames := [{ frame0 with block := some wb }, { frame0 with insts := [{ inst0 with seq := 1 }] }] })] } }
    s.inst? 1 0 0 0 = some i ∧ f.block = some block0 ∧ r.stopped = false ∧ s.commitReady 1 0 0 0 r block0 i = true ∧
    i.writes = [⟨5, false, 3, x 9⟩] ∧ (x 9).isNull = false ∧ { i with writes := [] }.writes = [] ∧ i.branch = .none ∧
    (s.run.reads.get? 9).isSome = true ∧ s.writePending (fire (x 0) (x 0) (x 0)) 3 false = false ∧
    p.writePending { fire (x 0) (x 0) (x 0) with frm := 1 } 3 false = true := by
  refine ⟨?_, ?_, ?_, ?_, ?_, ?_, ?_, ?_, ?_, ?_, ?_⟩ <;> decide

/-- QueuesAndDeliveries: a reservation with room, one that must wait, a granted firing and a granted append, an append with an
owner, a complete delivery, and a domain that becomes free. -/
theorem test_meets_queues :
    let f := fire (x 6) (x 0) (x 1)
    let r : Reservation := ⟨some f, 1, 0, 1, x 6, some 0, none, 0⟩
    let s := { base with run := { base.run with reservations := [(9, r)] } }
    let full := { qinst0 with resv := 4 }
    let p : Parked := ⟨.route (gf .n64 0 false false 0 0), f, .reservation, 0, false, false⟩
    let g := { s with
      run := { base.run with reservations := [(9, { r with slot := some 3 })] }
      fab := ⟨[(65, { elem0 with parked := [p] })], [], [], [], []⟩ }
    let ready := { qinst0 with resv := 1, slots := [(0, .written (x 5))] }
    let d := { region0 with queues := [ready] }
    let w := { ctx1 with waitingDom := [(0, 3)] }
    s.resv? 9 = some r ∧ r.slot = none ∧ s.qinst 1 0 (some 0) = some qinst0 ∧ region0.state = .available ∧ qinst0.waiting = [] ∧
    0 < qinst0.room ∧ r.f.isSome = true ∧ 9 ∉ full.waiting ∧ full.room = 0 ∧ g.resv? 9 = some { r with slot := some 3 } ∧
    (g.elem f.sid).parked.filter (fun q => q.f.fid == f.fid && q.why == .reservation) = [p] ∧ p.released = false ∧ g.parkPlace p = .nowhere ∧ s.ownerOf 1 0 1 = some (some 0) ∧ ctx1.state = .running ∧ base.replaying 1 = false ∧
    ctx1.waitingDom = [] ∧ ctx1.freeDomain = some 1 ∧ ctx1.image.inputs d.actor = [0] ∧ d.queues.find? (fun i => i.queue == 0) = some ready ∧
    ready.ready (ctx1.image.queue 0).consume = true ∧ (withCtx base fun _ => w).act? 1 5 = none ∧ w.waitingDom = (0, 3) :: [] := by
  refine ⟨?_, ?_, ?_, ?_, ?_, ?_, ?_, ?_, ?_, ?_, ?_, ?_, ?_, ?_, ?_, ?_, ?_, ?_, ?_, ?_, ?_, ?_, ?_⟩ <;> decide

/-- A job of a kind in a state, with its packet. -/
def job0 (kind : JobKind) (state : JobState) (packet : List Byte) : Job :=
  ⟨kind, 0, 0, 1, none, state, packet, [], false, none, none, 0, 0, false, 0, 0, 0, 0, 0, 0, 0, 0, 1, 0, [], 0, 0, 0⟩
/-- The page table with a vault area of context 1 on die 0. -/
def vaulted : State := { tables with ten := { tables.ten with vaultUse := [(0, 0, 256, 1)] } }
def withJob (j : Job) : State := { vaulted with eng := ⟨[], [(9, j)], [], [], []⟩ }
/-- A packet of 64 bytes as bytes. -/
def bytes64 (fields : List (Nat × Nat)) : List Byte := leBytes (packet fields).wide.toNat 64

/-- CopyQueues: a descriptor disabled and enabled; head slots with VALID 0, 1 and 2; a job that waits for a channel. -/
theorem test_meets_copy_queues :
    let d := fun (bs : List Byte) (slot : List Byte) =>
      { tables with bytes := { tables.bytes with dram := (tables.bytes.dram.write 0x10000000 bs).write 0x10001000 slot } }
    let off := bytes64 [(0, 0x1000), (24, 8)]
    let on := bytes64 [(0, 0x1000), (8, 1), (24, 8), (28, 1), (31, 1)]
    let v : Service := ⟨0x1000, 8, 1, 0, false, false⟩
    let j := job0 .copy .waiting (bytes64 [(0, 5)])
    (∀ bs ∈ [off, on], (d bs []).engError 0 0 ((d bs []).descriptor 0 0 false) 64 .read = none) ∧
    field ((d off []).engBytes 0 0 0 64 0 none).1 31 1 % 2 = 0 ∧ field ((d on []).engBytes 0 0 0 64 0 none).1 31 1 % 2 = 1 ∧
    slotsOk (field ((d on []).engBytes 0 0 0 64 0 none).1 24 4) = true ∧ field ((d on []).engBytes 0 0 0 64 0 none).1 0 8 % 64 = 0 ∧
    (d on []).eng.services.get? (serviceKey 0 0 false) = none ∧ ((d on []).vd 0).state = 2 ∧
    (d on []).svc.ready.getLsbD 32 = true ∧ (d on []).channelsUsed 0 < 16 ∧ (d on []).jobsWaiting 0 = [] ∧
    (∀ n ∈ [0, 1, 2], (match (d on (bytes64 [(0, 5), (63, n)])).headSlot 0 0 false v with
      | .slot _ _ bs => field bs 63 1 == n | _ => false) = true) ∧
    (withJob j).channelsUsed 0 < 16 ∧ (withJob j).jobsWaiting 0 = (9, j) :: [] ∧
    (let s := fun (n : Nat) => { d on (bytes64 [(0, 5), (63, n)]) with eng := ⟨[], [], [(serviceKey 0 0 false, v)], [], []⟩ };
      (s 0).serves 0 v = true ∧ (s 0).nextQueue 0 = none ∧ (∀ n ∈ [1, 2], (s n).nextQueue 0 = some (0, 0)) ∧
      (some (0, 0) : Option (Nat × Nat)) ≠ some (0, 1) ∧ (s 1).isDue (.slotTakeUp 0 0) = false) := by
  refine ⟨?_, ?_, ?_, ?_, ?_, ?_, ?_, ?_, ?_, ?_, ?_, ?_, ?_, ?_⟩ <;> decide +kernel

/-- CopyJobs and TransformTakesTokens: a job whose checks pass and one whose checks fail; one that nothing holds and one that an
earlier job holds; a payload with credits, and the FILL of one vault cell; a failed job with room in its ring; a poisoned and
a null token at the head of an engine queue. -/
theorem test_meets_copy_jobs :
    let good := job0 .copy .checking (bytes64 [(0, 5)])
    let bad := job0 .copy .checking (bytes64 [(0, 6)])
    let b : Tensor := ⟨2 ^ 63, 0, 7, .i32, false, [1], [], [0], [1]⟩
    let fill := { job0 .copy .running (bytes64 [(0, 4)]) with dst := some b, left := 0 }
    let two := { tables with eng := ⟨[], [(4, job0 .copy .checking []), (9, job0 .copy .blocked [])], [], [], []⟩ }
    let i := fun (v : Val) => ({ qinst0 with resv := 1, slots := [(0, .written v)] } : QInst)
    let tr := { job0 .copy .running (bytes64 [(0, 2)]) with dst := some b, target := 64, expected := 2 }
    let q := fun (v : Val) => { withCtx (withJob tr) (fun c => { c with equeues := [i v] }) with eng := ⟨[], [(9, tr)], [], [], []⟩ }
    let poor := { withJob fill with ten := { base.ten with buckets := [(engineArbiter 0, [(0, ⟨0, false⟩)])] } }
    (match (withJob good).checkCopy good with | .ok .. => true | _ => false) = true ∧
    (match (withJob bad).checkCopy bad with | .fails .. => true | _ => false) = true ∧ bad.status = 0 ∧
    (withJob { good with state := .blocked }).jobHeld 9 { good with state := .blocked } = false ∧ two.jobHeld 9 (job0 .copy .blocked []) = true ∧
    { job0 .copy .running [] with left := 5 }.left ≠ 0 ∧ ((withJob good).credit (engineArbiter 0) 0).left ≠ 0 ∧ fill.die < 4 ∧ ((withJob fill).credit (engineArbiter 0) 0).left ≠ 0 ∧
    (withJob fill).spotArbiters fill true (b.spots [0]) = [] ∧ (poor.credit (engineArbiter 0) 0).left = 0 ∧ b.inVault = true ∧ cSlotWait 1 = 0 ∧ cSlotWait 0 ≠ 0 ∧ (withJob fill).cellsWait fill b true [0] = false ∧ b.perCycle = 16 ∧
    field fill.packet 0 1 = 4 ∧ b.cells = 1 ∧ b.inside 0 = true ∧ b.dataSpot 0 = .vault 0 0 ∧
    (withJob fill).spotFails fill (.vault 0 0) 4 true = none ∧ ({ fill with status := 3 }).status ≠ 0 ∧
    ((withJob fill).ctx? 1).map (·.ring.length) = some 0 ∧
    (∀ v ∈ [Val.poison 7, .null false], (q v).eng.jobs = [(9, tr)] ∧ tr.got < tr.expected ∧ (q v).qinst 1 0 none = some (i v) ∧
      (i v).ready 1 = true ∧ (i v).depth ≠ 0 ∧ (q v).spotArbiters tr true (b.spots ((List.range b.perToken).map (0 * b.perToken + ·))) = [] ∧ (i v).slot ((i v).head % (i v).depth) = .written v) := by
  refine ⟨?_, ?_, ?_, ?_, ?_, ?_, ?_, ?_, ?_, ?_, ?_, ?_, ?_, ?_, ?_, ?_⟩ <;> decide +kernel

/-- A state whose service part is changed. -/
def withSvc (f : SvcState → SvcState) : State := { base with svc := f base.svc }

/-- RegisterPages: a lane at VD.PEERQ of VD 5, for a LD, a MWAIT that holds and one that does not, and a ST; one at MP-free THERM. -/
theorem test_meets_register_pages :
    let ld8 := { ldN with ty := Ty.n64 }
    let l := { lane0 with
      pa := 3 * 2 ^ 50 + 0x1000090 + 65536 * 5
      cc := 3
      size := 8
      data := [1, 2, 3, 4, 5, 6, 7, 8] }
    let ld := mop (.ld ld8) true false [l] .sent
    let mw := fun (b : Val) => { mop (.mwait { ld8 with sub := 0 }) true false [l] .sent with f := fire (x 0x1000) b (x 1) }
    let st := mop (.st ld8) false true [l] .sent
    l.bound = false ∧ l.cc = 3 ∧ l.pa % 8 = 0 ∧ l.size = 8 ∧ l.idx = 0 ∧ l.reg = .vdPeerQ 5 ∧
    (∀ o ∈ [ld, mw (x 0), mw (x 3), st], (withOp o []).op? 9 = some o ∧ o.lanes = [l] ∧ o.phase = .sent) ∧
    (∀ d, regServedBy l.reg = some d → d ∉ base.svc.mpDown) ∧ ld8.ty = .n64 ∧ ld8.v = false ∧ ld.isStore = false ∧ st.isStore = true ∧
    mwaitHolds { ld8 with sub := 0 } 0 0 = true ∧ mwaitHolds { ld8 with sub := 0 } 0 3 = false ∧
    base.readReg (.vdPeerQ 5) = 0 ∧ (orNull (mw (x 3)).f.b).word = 3 ∧ (orNull (mw (x 0)).f.b).word = 0 ∧
    regServedBy (.thermAllow 3) = some 3 := by
  refine ⟨?_, ?_, ?_, ?_, ?_, ?_, ?_, ?_, ?_, ?_, ?_, ?_, ?_, ?_, ?_, ?_, ?_, ?_⟩ <;> decide

/-- RegisterWrites: a VD that is Absent, an MP that serves and one that is being reset. -/
theorem test_meets_register_writes :
    (base.vd 5).state < 2 ∧ 0 ∉ base.svc.mpDown ∧ 0 ∈ (withSvc fun v => { v with mpDown := [0] }).svc.mpDown := by
  refine ⟨?_, ?_, ?_⟩ <;> decide

/-- HeatRules and IssueCycles: the four dies, both sensors, with the MP serving; an accumulator below 255, cut and not. -/
theorem test_meets_heat :
    (∀ d, d < 4 → d < base.svc.thermal.length ∧ d ∉ base.svc.mpDown) ∧ (∀ k, k < 2 → 2 * 3 + k < 8) ∧
    (let th := base.thermal 3
     th.allow ≤ 255 ∧ th.accAt ≤ 5 ∧ th.cut = false ∧ th.acc < 255 ∧ { th with cut := true }.cut = true) := by
  refine ⟨?_, ?_, ?_⟩ <;> decide

/-- ErrorsAndRepair: a unit of DRAM; a node slot; a frame of a stack that has spares; one whose lines are being copied, and
whose last line has been; the last site. -/
theorem test_meets_repair :
    let r := fun (k : Nat) => withSvc fun v => { v with retiring := [(5, k)] }
    paWindow 0x50000 = 0 ∧ (base.elem 65).slots.get? 0 = some movSlot ∧ (∀ die ∈ [0, 1, 2, 3], die ∉ base.svc.mpDown) ∧
    65536 * (5 + 1) ≤ Config.dramSize ∧ base.homeStack (65536 * 5) / 2 ∉ base.svc.mpDown ∧
    base.homeStack (65536 * 5) < base.svc.retstat.length ∧ base.svc.retstat.getD (base.homeStack (65536 * 5)) 0 ≠ 0 ∧
    (∀ p ∈ base.svc.retiring, p.1 ≠ 5) ∧ (∀ k ∈ [0, 511, 512], (r k).svc.retiring.find? (fun p => p.1 == 5) = some (5, k)) ∧
    (∀ k ∈ [0, 511], k ≠ 512 ∧ (r k).lockedLine (512 * 5 + k) = false) ∧ 3 < 4 ∧ 63 < 64 ∧ 23 < 24 := by
  refine ⟨?_, ?_, ?_, ?_, ?_, ?_, ?_, ?_, ?_, ?_, ?_, ?_, ?_⟩ <;> decide

/-- PowerAndReadiness: functions not yet ready and not failed; an MP that serves, and one whose time is up; the journal in each
of its states, with a request that is refused and one that is not; a capture stream with room and one without, at both ends of LOG. -/
theorem test_meets_power_and_management :
    let s := withSvc fun v => { v with
      ready := 0
      fail := 0 }
    let down := withSvc fun v => { v with mpDown := [3] }
    let j := fun (state : LayState) (es : List (Nat × W64)) => withSvc fun v => { v with
      journal := { v.journal with
        state := state
        entries := es } }
    let e : Nat × W64 := (0x1000018 + 65536 * 5, 1)
    let cap := fun (log ptr : Nat) => withSvc fun v => { v with caps := [⟨1 + BitVec.ofNat 64 log <<< 34, 0x1000, BitVec.ofNat 64 ptr, false⟩] }
    (∀ bit ∈ [0, 55], bit < 56 ∧ s.svc.fail.getLsbD bit = false ∧ s.svc.ready.getLsbD bit = false) ∧ 0 ∉ base.svc.mpDown ∧
    3 ∉ base.svc.mpDown ∧ 3 ∈ down.svc.mpDown ∧ down.isDue (.mpWatchdogReset 3) = false ∧ down.svc.mpWrites = [] ∧
    base.svc.journal.state = .idle ∧ (j .prepared []).svc.journal.state ≠ .idle ∧
    (j .checking []).layoutError [] (j .checking []).svc.journal.force ≠ 0 ∧
    (j .checking [e]).layoutError [e] (j .checking [e]).svc.journal.force = 0 ∧ (j .checking [e]).layoutContexts = [] ∧
    (∀ st ∈ [LayState.checking, .prepared, .committed, .applying, .recovering], (j st [e]).svc.journal.state = st ∧ 0 ∉ (j st [e]).svc.mpDown) ∧
    (j .applying [e]).svc.journal.entries[(j .applying [e]).svc.journal.applied]? = some e ∧ layoutReg e.1 = some (.vdShare0 5) ∧
    (j .applying []).svc.journal.entries.length ≤ (j .applying []).svc.journal.applied ∧
    (∀ log ∈ [12, 32], ∀ ptr ∈ [0, 2 ^ 32], ((cap log ptr).svc.caps[0]?).map (fun c => (c.ctl.getLsbD 0, c.ctl.getLsbD 1, c.ptr.toNat)) =
      some (true, false, ptr)) ∧
    (∀ log ∈ [12, 32], natBits (1 + BitVec.ofNat 64 log <<< 34 : W64).toNat 39 34 = log ∧ (⟨1, 0, 0, 0, []⟩ : CapRec).bytes.length ≤ 2 ^ log ∧
      2 ^ log < 2 ^ 32 + (⟨1, 0, 0, 0, []⟩ : CapRec).bytes.length) := by
  refine ⟨?_, ?_, ?_, ?_, ?_, ?_, ?_, ?_, ?_, ?_, ?_, ?_, ?_, ?_, ?_, ?_, ?_⟩ <;> decide

/-- FirmwareIsVerified: an empty image is not whole; dies and a state that keeps a digest for each. Which image is sound rests on the
fused key, an opaque constant. -/
theorem test_meets_firmware (die : Nat) (h : die < 4) :
    ¬ ((([] : List Byte).length = 16 + field [] 8 8 + 114) ∧ field [] 0 4 = 0x574B524B) ∧ die < base.svc.fwDigest.length :=
  ⟨by decide, h⟩

/-- DebugRules: a token at an input of a region; the region that DBGSEL names, with debug on, and halted. -/
theorem test_meets_debug :
    let t := tok 0 .a (x 6)
    let s := arrives t []
    let d := { base with svc := { base.svc with dbgsel := 2 ^ 32 + 1 * 65536 + 0 } }
    let h := { region0 with halted := true }
    let u := { d with run := ⟨[(65536, h)], [], [], []⟩ }
    s.regionAt 65 = some (65536, region0) ∧ (s.elem 65).input .scalar = some t ∧ s.region? 1 0 = some region0 ∧ s.ctx? 1 = some ctx1 ∧
    ctx1.ring.length < 64 ∧ 7 < 8 ∧ d.debugRegion = some region0 ∧ d.region? 1 0 = some region0 ∧ d.debugOn 1 = true ∧
    u.debugRegion = some h ∧ u.region? 1 0 = some h ∧ h.halted = true := by
  refine ⟨?_, ?_, ?_, ?_, ?_, ?_, ?_, ?_, ?_, ?_, ?_, ?_⟩ <;> decide

/-- HostAccesses: a port that is ready and one that is not, at which nothing waits; one at which an access waits that is tried again, and
one at which it waits while another like it comes; the first address beyond the address space, and one of the reserved window;
the first byte beyond DRAM; host memory to its last byte; a word of DRAM whose line is free and one whose line is locked; registers
beyond the pages. -/
theorem test_meets_host_accesses :
    let off := withSvc fun v => { v with ready := 0 }
    let locked := withOp (mop (.st ldN) false true [lane0] .sent) [(32, locked0)]
    let again := fun (due : List (Nat × Task)) => { withSvc fun v => { v with hostWait := [[(2 ^ 51, .load 8)], []] } with agenda := due }
    (∀ port ∈ [0, 1], port < 2 ∧ off.svc.ready.getLsbD (54 + port) = false ∧ base.svc.ready.getLsbD (54 + port) = true ∧
      port < base.svc.hostReply.length ∧ port < base.svc.hostWait.length ∧ base.hostQueue port = []) ∧
    (∀ a ∈ base.hostArbiters 0 0x1000 (.load 8), base.hasCredit a.1 0 = true) ∧
    ((again []).hostQueue 0).head? = some (2 ^ 51, .load 8) ∧ (again []).isDue (.hostAccess 0 (2 ^ 51) (.load 8)) = false ∧
    (again [(1, .ev (.hostAccess 0 (2 ^ 51) (.load 8)))]).isDue (.hostAccess 0 (2 ^ 51) (.load 8)) = true ∧
    2 ^ 52 ≤ 2 ^ 52 ∧ paWindow (2 ^ 50) = 1 ∧ paWindow Config.dramSize = 0 ∧ Config.dramSize < Config.dramSize + 1 ∧ Config.dramSize < 2 ^ 52 ∧
    paWindow (2 ^ 51) = 2 ∧ 2 ^ 51 < 2 ^ 52 ∧ base.bytes.wf = true ∧ (2 ^ 51 + 2 ^ 50 - 1) % 2 ^ 50 + 1 ≤ 2 ^ 50 ∧
    paWindow 0x1000 = 0 ∧ 0x1000 + 8 ≤ Config.dramSize ∧ 0x1000 % 8 = 0 ∧ 32 = 0x1000 / 128 ∧ base.homeBusy (base.homeDie 0x1000) 32 0 = false ∧
    base.l2Ready (base.homeDie 0x1000) = true ∧ base.lostAt 0x1000 8 = false ∧ base.poisonedAt 0x1000 8 = false ∧
    locked.lockedLine 32 = true ∧ locked.svc.ready.getLsbD 54 = true ∧ paWindow (3 * 2 ^ 50 + 2 ^ 26) = 3 ∧ 3 * 2 ^ 50 + 2 ^ 26 < 2 ^ 52 ∧
    natBits (3 * 2 ^ 50 + 2 ^ 26) 49 26 ≠ 0 := by
  refine ⟨?_, ?_, ?_, ?_, ?_, ?_, ?_, ?_, ?_, ?_, ?_, ?_, ?_, ?_, ?_, ?_, ?_, ?_, ?_, ?_, ?_, ?_, ?_, ?_, ?_, ?_, ?_⟩ <;> decide

/-- A list of two members of this package (number 0xFFFF): region 0 of die 0 and region 1 of die 1. -/
def list2 : List Byte := leBytes 0xFFFF 2 ++ leBytes 0 2 ++ leBytes 0 4 ++ (leBytes 0xFFFF 2 ++ leBytes 1 2 ++ leBytes 1 4)
/-- The members' groups have the keys 256 (context 1, slot 0, region 0 of die 0) and 2^24 + 257 (region 1 of die 1). -/
def group0 (state : GroupState) (rank : Nat) : Group := { Group.empty with
  state := state
  key := 7
  list := list2
  count := 2
  rank := rank }
def withGroups (gs : Tbl Group) : State := { base with eng := ⟨[], [], [], gs, []⟩ }

/-- GroupsForm: two members that declare the same; two that declare different counts; one alone. -/
theorem test_meets_groups_form :
    let g := group0 .declaring 0
    let h := group0 .declaring 1
    let other := { h with count := 3 }
    let s := withGroups [(256, g), (2 ^ 24 + 257, h)]
    let d := withGroups [(256, g), (2 ^ 24 + 257, other)]
    let w := withGroups [(256, g)]
    s.eng.groups.filter (fun (_, x) => x.state == .declaring && x.key == 7) = (256, g) :: [(2 ^ 24 + 257, h)] ∧
    d.eng.groups.filter (fun (_, x) => x.state == .declaring && x.key == 7) = (256, g) :: [(2 ^ 24 + 257, other)] ∧
    w.eng.groups.filter (fun (_, x) => x.state == .declaring && x.key == 7) = (256, g) :: [] ∧
    (∀ u ∈ [s, d, w], u.group 256 = g ∧ 256 ∈ u.declarers 256 g) ∧ (∀ u ∈ [s, d], 2 ^ 24 + 257 ∈ u.declarers 256 g) ∧
    s.declaredAs 256 g = .agrees ∧ d.declaredAs 256 g = .differs [2 ^ 24 + 257] ∧ w.declaredAs 256 g = .waits := by
  refine ⟨?_, ?_, ?_, ?_, ?_, ?_, ?_, ?_⟩ <;> decide +kernel

/-- A run of a COLL of 4 bytes to each of two members into the vault of die 0, and into DRAM. -/
def rep0 : CollRep := ⟨0, 6, 0, 0, 4, 8⟩
def vdst : Tensor := ⟨2 ^ 63, 0, 7, .i32, false, [2], [], [0], [2]⟩

/-- CoordinatorDecides: a first report and the last; reports that agree and that do not, all there; shares; a member that is
killed, and a slot that is not open. -/
theorem test_meets_coordinator :
    let at' := fun (d : CollDesk) => withGroups [(256, { group0 .intact 0 with desk := d })]
    let reps := [(0, rep0), (1, rep0)]
    let bad := [(0, rep0), (1, { rep0 with ty := 7 })]
    (at' CollDesk.empty |>.group 256).state = .intact ∧ (∀ y ∈ (at' CollDesk.empty |>.group 256).desk.reports, y.1 ≠ 0) ∧
    (∀ y ∈ (at' ⟨[(0, rep0)], false, []⟩ |>.group 256).desk.reports, y.1 ≠ 1) ∧
    (∀ r ∈ [reps, bad], (at' ⟨r, false, []⟩ |>.group 256).desk.accepted = false ∧
      (at' ⟨r, false, []⟩ |>.group 256).desk.reports.length = (at' ⟨r, false, []⟩ |>.group 256).count) ∧
    (at' ⟨reps, false, []⟩ |>.group 256).run = none ∧ collDecision 2 reps = 0 ∧ collDecision 2 bad ≠ 0 ∧ (at' CollDesk.empty).uncaptured ∧
    (∀ sh ∈ [[], [0]], (at' ⟨reps, true, sh⟩ |>.group 256).desk.accepted = true ∧ 1 ∉ (at' ⟨reps, true, sh⟩ |>.group 256).desk.shares) ∧
    1 < (at' CollDesk.empty |>.group 256).count ∧
    ¬ ((withGroups [(256, group0 .broken 0)] |>.group 256).state = .intact ∨ (withGroups [(256, group0 .broken 0)] |>.group 256).state = .leaving) := by
  refine ⟨?_, ?_, ?_, ?_, ?_, ?_, ?_, ?_, ?_, ?_, ?_⟩ <;> first | decide +kernel | (show ∀ c ∈ base.svc.caps, c.ctl.getLsbD 0 = false; decide)

/-- ChunksArrive: the first of two chunks, and the last; a piece whose line is locked. -/
theorem test_meets_chunks :
    let run := fun (dst : Tensor) (written : Nat) => (⟨9, rep0, none, some dst, written, [], 0, 0, false, false⟩ : CollRun)
    let g := fun (dst : Tensor) (written : Nat) => { group0 .intact 0 with run := some (run dst written) }
    let s := fun (dst : Tensor) (written : Nat) => { vaulted with eng := ⟨[], [], [], [(256, g dst written)], []⟩ }
    let ddst := { vdst with base := 0 }
    let locked := { s ddst 0 with mem := { (s ddst 0).mem with homes := [(0x10000000 / 128, locked0)] } }
    (∀ n ∈ [0, 4], ((s vdst n).group 256).run = some (run vdst n) ∧ (run vdst n).dst = some vdst ∧ (run vdst n).rep.sub ≠ 1 ∧
      (run vdst n).shared = false ∧
      (s vdst n).spotArbiters ((s vdst n).memberJob 256 (run vdst n)) true
        ((vdst.pieces ((1 : Nat) * (run vdst n).chunk 2 + 0) [1, 2, 3, 4]).map fun p => (p.1, p.2.length)) = [] ∧
      (∀ p ∈ vdst.pieces ((1 : Nat) * (run vdst n).chunk 2 + 0) [1, 2, 3, 4], (s vdst n).spotWaits ((s vdst n).memberJob 256 (run vdst n)) true p.1 p.2.length = false ∧
        (s vdst n).spotFails ((s vdst n).memberJob 256 (run vdst n)) p.1 p.2.length true = none)) ∧
    (run vdst 4).written + 4 = (run vdst 4).total 2 ∧ (s vdst 4).coordinator (g vdst 4) = some 256 ∧ vdst.pieces 4 [1, 2, 3, 4] ≠ [] ∧
    (∃ p ∈ ddst.pieces 0 [1, 2, 3, 4], locked.spotWaits (locked.memberJob 256 (run ddst 0)) true p.1 p.2.length = true) := by
  refine ⟨?_, ?_, ?_, ?_, ?_⟩ <;> decide +kernel

theorem field_crc (body : List Byte) (n : Nat) (h : body.length = 252) : field (body ++ leBytes n 4) 252 4 = n % 2 ^ 32 := by
  simp only [field, List.drop_left' h]
  simp [leBytes, leNat]
  omega

/-- Links: a flit with its CRC, and one with another. -/
theorem test_meets_crc (dpkg spkg ddie sdie kind slot seq gkey ofs : Nat) :
    let f := flitBytes seq (flitBody dpkg spkg ddie sdie kind slot gkey ofs [])
    let bad := f.take 252 ++ leBytes ((crc32c (f.take 252)).toNat + 1) 4
    (crc32c (f.take 252)).toNat = field f 252 4 ∧ ¬ (crc32c (bad.take 252)).toNat = field bad 252 4 ∧ f.length = 256 ∧ bad.length = 256 := by
  intro f bad
  obtain ⟨body, hb, hf⟩ : ∃ body : List Byte, body.length = 252 ∧ f = body ++ leBytes (crc32c body).toNat 4 :=
    ⟨_, by simp only [flitBody, List.length_append, leBytes, List.length_cons, List.length_nil, List.length_take, List.length_drop,
      List.length_replicate]; decide, rfl⟩
  have ht : ∀ n, (body ++ leBytes n 4).take 252 = body := fun n => List.take_left' hb
  have h1 : f.take 252 = body := by rw [hf]; exact ht _
  have hbad : bad = body ++ leBytes ((crc32c body).toNat + 1) 4 := by
    show f.take 252 ++ leBytes ((crc32c (f.take 252)).toNat + 1) 4 = _
    rw [h1]
  have hc := (crc32c body).isLt
  rw [h1, hbad, ht, hf, field_crc _ _ hb, field_crc _ _ hb]
  refine ⟨?_, ?_, ?_, ?_⟩
  · omega
  · omega
  · simp [hb, leBytes]
  · simp [hb, leBytes]

/-- Links: a flit out of order, one for another package, an acknowledgement; a port that keeps flits, before and after its time is up. -/
theorem test_meets_links :
    let p := 3
    let data := flitBytes 0 (flitBody 5 0xFFFF 0 0 2 0 0 0 [])
    let late := flitBytes 9 (flitBody 5 0xFFFF 0 0 2 0 0 0 [])
    let ack := flitBytes 8 (flitBody 0xFFFF 5 0 0 4 0 0 0 [])
    let port : DbPort := ⟨10, 0, [(8, [1]), (9, [2])], [], [], 0, none, none⟩
    let s := withSvc fun v => { v with ports := [(p, port)] }
    s.svc.ready.getLsbD (46 + p) = true ∧ (∀ f ∈ [data, late], field f 4 1 / 16 ≠ 4) ∧ field late 6 2 ≠ (s.port p).expect ∧
    field data 6 2 = (s.port p).expect ∧ field data 0 2 ≠ s.svc.pkgid ∧ field ack 4 1 / 16 = 4 ∧
    (s.port p).kept = (field ack 6 2, [1]) :: [(9, [2])] ∧ (s.port p).kept = [(8, [1])] ++ (9, [2]) :: [] ∧
    (∀ y ∈ [((8 : Nat), [(1 : Byte)])], y.1 ≠ 9) ∧ (s.port p).down = none ∧ (s.port p).kept ≠ [] ∧
    s.now < (s.port p).lastAck + Config.linkTimeout ∧ (s.port p).lastAck + Config.linkTimeout ≤ { s with now := 10 ^ 6 }.now := by
  refine ⟨?_, ?_, ?_, ?_, ?_, ?_, ?_, ?_, ?_, ?_, ?_, ?_, ?_⟩ <;> decide

/-- A launch of VD 0 from queue 0 of die 0. -/
def launch0 (state : LaunchState) : Launch := { Launch.taken 0 0 0 9 5 (bytes64 [(16, 0x100000)]) 0 with state := state }
def withLaunch (l : Launch) : State := { tables with
  eng := ⟨[], [(9, job0 .launch .blocked [])], [], [], []⟩
  ten := { tables.ten with launches := [(9, l)] } }

/-- LaunchesAreChecked: head slots with VALID 1 and 0; a launch that nothing holds back and one that an earlier job does; a launch that is
refused, and whose place does not wait. -/
theorem test_meets_launch_checks :
    let v : Service := ⟨0x1000, 8, 1, 0, false, false⟩
    let d := fun (n : Nat) => { tables with
      bytes := { tables.bytes with dram :=
        (tables.bytes.dram.write 0x10000000 (bytes64 [(0, 0x1000), (8, 1), (24, 8), (28, 1), (31, 1)])).write 0x10001000 (bytes64 [(63, n)]) }
      eng := ⟨[], [], [(serviceKey 0 0 true, v)], [], []⟩ }
    let s := { withLaunch (launch0 .blocked) with
      now := 40
      ten := { tables.ten with launches := [(9, launch0 .blocked)] } }
    let two := { s with eng := ⟨[], [(4, job0 .copy .checking []), (9, job0 .launch .blocked [])], [], [], []⟩ }
    (∀ n ∈ [0, 1], (d n).eng.services.get? (serviceKey 0 0 true) = some v ∧
      (match (d n).headSlot 0 0 true v with | .slot _ _ bs => field bs 63 1 == n | _ => false) = true) ∧
    (d 1).nextLaunch 0 = some 0 ∧ (d 0).nextLaunch 0 = none ∧ s.exitWaits (launch0 .checking) = false ∧
    ((d 1).vd 0).state = 2 ∧ v.die < 4 ∧ (d 1).svc.ready.getLsbD 28 = true ∧ v.stopped = false ∧ v.bad = false ∧
    s.ten.launches.get? 9 = some (launch0 .blocked) ∧ s.job? 9 = some (job0 .launch .blocked []) ∧ (launch0 .blocked).since + 40 ≤ s.now ∧
    s.jobHeld 9 (job0 .launch .blocked []) = false ∧ two.jobHeld 9 (job0 .launch .blocked []) = true ∧
    (launch0 .checking).state = .checking ∧ (match s.checkLaunch 9 (launch0 .checking) with | .error _ => true | _ => false) = true ∧
    field (launch0 .checking).packet 48 8 = 0 := by
  refine ⟨?_, ?_, ?_, ?_, ?_, ?_, ?_, ?_, ?_, ?_, ?_, ?_, ?_, ?_, ?_, ?_, ?_⟩ <;> decide +kernel

/-- LaunchesStart: a waiting launch whose domains are free and one whose are not; a launch in each stage of loading. -/
theorem test_meets_launch_starts :
    let w := { launch0 .waiting with image := some img }
    let big := { img with dcount := 300 }
    let s := { withLaunch w with
      run := State.reset.run
      ten := { tables.ten with
        launches := [(9, w)]
        ctxs := [] } }
    let b := { w with image := some big }
    let t := { s with ten := { s.ten with launches := [(9, b)] } }
    let l := fun (n : Nat) => { launch0 .loading with
      ctx := some 1
      stage := n }
    let c := { ctx1 with state := .loading }
    let u := fun (n : Nat) => { withLaunch (l n) with ten := { tables.ten with
      launches := [(9, l n)]
      ctxs := [(1, c)] } }
    (s.vd 0).state = 2 ∧ s.waitingLaunches 0 = [(9, w)] ∧ s.secondSupervisor w = false ∧ w.restore = none ∧ s.svc.journal.state = .idle ∧
    (∀ n a v, (n, Task.ev (.partitionWrite 0 a v)) ∉ s.agenda) ∧ t.waitingLaunches 0 = [(9, b)] ∧ t.planLaunch b big = none ∧
    (∃ p, s.planLaunch w img = some p ∧ p.2.2.length = 1 ∧ (s.vaultPlace 9 ((p.2.2.map (·.die)).dedup) img.vaultBytes).isSome = true) ∧
    (∀ n ∈ [0, 1, 2, 3], (u n).ten.launches.get? 9 = some (l n) ∧ (u n).ctx? 1 = some c) ∧
    (∀ r ∈ (u 2).regionsOf 1, (r.frames.headD Frame.empty).filling = none) := by
  refine ⟨?_, ?_, ?_, ?_, ?_, ?_, ?_, ?_, ⟨(0, 1, [⟨0, 0, 0, 0, 0, 0, 0, 0⟩]), ?_, ?_, ?_⟩, ?_, ?_⟩
  case refine_6 =>
    intro n a v
    change (n, Task.ev (.partitionWrite 0 a v)) ∉ State.reset.agenda
    simp [State.reset]
  case refine_11 =>
    refine List.find?_isSome.2 ⟨0, List.mem_cons_of_mem _ (?_ : 0 ∈ sortBy id [0]), (?_ : State.vaultFree _ _ 0 _ = true)⟩
    all_goals decide
  all_goals decide +kernel

/-- A state with VD 5, whose partition stands beside that of VD 0. -/
def vd5 (state : Nat) : Vd := { Vd.reset 6 with
  state := state
  dbase := 256
  dsize := 64
  tiles := 4
  shares := List.replicate 8 64
  l2mask := 0xF0
  l2new := 0xF0 }
def withVd (v : Vd) : State := { base with ten := { base.ten with vds := [(0, { Vd.reset 0 with l2mask := 0x0F }), (5, v)] } }
/-- `withVd` with context 1 in VD 5. -/
def inVd (v : Vd) (c : Ctx) : State := { withVd v with ten := { (withVd v).ten with ctxs := [(1, { c with vd := 5 })] } }

/-- MapperServes: a request that is looked up, one that is being mapped with credits and without, and one that is done. -/
theorem test_meets_mapper :
    let q := fun (left : Option Nat) => (⟨1, 0x100040, 0, 0, left⟩ : MapReq)
    let s := fun (left : Option Nat) (buckets : Tbl (Tbl Credit)) => { imaged with ten := { imaged.ten with
      maps := [(9, q left)]
      buckets := buckets } }
    (∀ left ∈ [none, some 0, some 8], (s left []).isDue (.mapperRequest 0) = false ∧ (s left []).mapQueue 0 = (9, q left) :: [] ∧
      (s left []).ten.maps.get? 9 = some (q left) ∧ (s left []).svc.ready.getLsbD 28 = true ∧ (s left []).ctx? 1 = some ctx1) ∧
    ((s none []).mapKey (q none)).isSome = true ∧ ((s (some 8) []).credit (mapperArbiter 0) 0).left ≠ 0 ∧
    ((s (some 8) [(mapperArbiter 0, [(0, ⟨0, false⟩)])]).credit (mapperArbiter 0) ((s (some 8) []).vdOfCtx 1)).left = 0 := by
  refine ⟨?_, ?_, ?_, ?_⟩ <;> decide +kernel

/-- A snapshot of context 1 by job 9. -/
def snap0 (job : Option Nat) (kind : Nat) : Snap := ⟨1, job, 0, kind, false, [], none, [], 0, []⟩
def withSnap (n : Snap) : State := { withJob (job0 .snap .running []) with ten := { tables.ten with
  ctxs := base.ten.ctxs
  snaps := [(7, n)]
  launches := [(1, launch0 .running)] } }

/-- ContextsEnd: a context on which a job runs; one that runs; one that has settled; launches that have ended, one with a place that
waits at home, and one whose context still moves, and no longer does. -/
theorem test_meets_context_ends :
    let s := withCtx base (fun c => { c with state := .freezing })
    let calm := { s with
      run := State.reset.run
      ten := { s.ten with launches := [(1, launch0 .running)] } }
    let l := { launch0 .running with exit := some 0 }
    let r := { launch0 .running with ctx := some 1 }
    let ls := fun (l : Launch) => { base with ten := { base.ten with launches := [(1, l)] } }
    let open' := { withLaunch l with mem := { tables.mem with homes := [(0x10000000 / 128, locked0)] } }
    let busy := { ls r with fab := { base.fab with elements := [(65, { elem0 with ready := [⟨1, 0, 1, 0, some (x 6), some (x 3), none, none, 0, 0, 0⟩] })] } }
    base.ctx? 1 = some ctx1 ∧ (withSnap (snap0 (some 9) 1)).ctxJob 1 = true ∧ base.ctxJob 1 = false ∧ ctx1.state ≠ .freezing ∧
    ctx1.state ≠ .frozen ∧ (∃ r ∈ base.regionsOf 1, base.region? 1 r.rgn = some r) ∧ (calm.ctx? 1).map (·.state) = some .freezing ∧
    calm.ctxJob 1 = false ∧ calm.calm 1 = true ∧ calm.eng.groups = [] ∧ calm.ten.launches.get? ctx1.launch = some (launch0 .running) ∧
    (ls l).ten.launches.get? 1 = some l ∧ l.ctx = none ∧ l.exit = some 0 ∧ field l.packet 48 8 = 0 ∧ (ls r).ten.launches.get? 1 = some r ∧
    r.ctx = some 1 ∧ ((ls r).ctx? 1).isSome = true ∧ (withLaunch l).exitWaits l = false ∧ open'.exitWaits l = true ∧
    open'.ten.launches.get? 9 = some l ∧ (ls r).moves 1 = false ∧ busy.moves 1 = true ∧ ctx1.state ≠ .frozen := by
  refine ⟨?_, ?_, ?_, ?_, ?_, ⟨region0, ?_, ?_⟩, ?_, ?_, ?_, ?_, ?_, ?_, ?_, ?_, ?_, ?_, ?_, ?_, ?_, ?_, ?_, ?_, ?_, ?_⟩ <;> decide +kernel

/-- DeviceStates: a VD in each state, with a partition that stands and one that does not, with contexts and without. -/
theorem test_meets_device_states :
    let none' := Vd.reset 6
    (∀ k ∈ [0, 1, 2, 3, 4], ((withVd (vd5 k)).vd 5).state = k ∧ (withVd (vd5 k)).ctxsOf 5 = [] ∧ (inVd (vd5 k) ctx1).ctxsOf 5 ≠ []) ∧
    (withVd (vd5 1)).partitionError 5 (vd5 1) = 0 ∧ (withVd { none' with state := 1 }).partitionError 5 { none' with state := 1 } ≠ 0 ∧
    (inVd (vd5 2) ctx1).ten.ctxs.rising ∧ (inVd (vd5 2) ctx1).ctx? 1 = some { ctx1 with vd := 5 } ∧ ctx1.exit = none ∧ ctx1.vd ≠ 5 := by
  refine ⟨?_, ?_, ?_, ?_, ?_, ?_, ?_⟩
  case refine_4 => exact List.pairwise_singleton _ _
  all_goals decide

/-- PartitionWrites: values that agree and that do not, before and after activation; L2 ways added and removed, in each stage, with lines
beyond the ways and without; an entry of a partition map. -/
theorem test_meets_partition_writes :
    let w := { vd5 2 with
      wayStage := .flush
      l2new := 0x10 }
    let lines := { withVd w with mem := { base.mem with homes := [(0, { home0 with vd := 5 }), (2 ^ 21, { home0 with vd := 5 }),
      (2 ^ 22, { home0 with vd := 5 })] } }
    (withVd (vd5 2)).ctxsOf 5 = [] ∧ (withVd (vd5 2)).partitionError 5 ((vd5 2).withPartition true 5) = 0 ∧
    (withVd (vd5 2)).partitionError 5 ((vd5 2).withPartition true 400) ≠ 0 ∧ (inVd (vd5 2) ctx1).ctxsOf 5 ≠ [] ∧ (vd5 2).force = false ∧
    (vd5 2).state ≠ 0 ∧ (vd5 2).wayStage = .idle ∧ (∀ v ∈ (withVd (vd5 2)).otherVds 5, v.l2mask &&& ((0x1F0 : BitVec 16) &&& ~~~(vd5 2).l2mask) = 0) ∧
    (vd5 2).l2mask &&& ~~~(0x1F0 : BitVec 16) = 0 ∧ (vd5 2).l2mask &&& ~~~(0x10 : BitVec 16) ≠ 0 ∧ (0x10 : BitVec 16) &&& ~~~(vd5 2).l2mask = 0 ∧
    (∀ st ∈ [WayStage.quiesce, .flush], (withVd { w with wayStage := st }).beyondWays 5 = []) ∧
    lines.beyondWays 5 = [(0, ⟨false, 0, 0, false⟩), (0, ⟨false, 2 ^ 21, 0, false⟩)] ∧ (0, ⟨false, 0, 0, false⟩) ∈ flushFirst (lines.beyondWays 5) ∧ (inVd (vd5 2) ctx1).ctx? 1 = some { ctx1 with vd := 5 } ∧
    ctx1.pmaps.get? 0 = some [1, 1] ∧ 1 < [1, 1].length := by
  refine ⟨?_, ?_, ?_, ?_, ?_, ?_, ?_, ?_, ?_, ?_, ?_, ?_, ?_, ?_, ?_, ?_⟩ <;> decide +kernel

/-- Invalidations: values that name all pages and one; an invalidation whose accesses have performed, and one that waits. -/
theorem test_meets_invalidations :
    let s := fun (phase : MemPhase) => { base with mem := { base.mem with
      ops := [(9, mop (.ld ldN) true false [lane0] phase)]
      invals := [(4, ⟨0, [9]⟩)] } }
    (1 : W64).getLsbD 0 = true ∧ (0x20000 : W64).getLsbD 0 = false ∧ (0x20000 : W64).getLsbD 1 = false ∧
    (∀ p ∈ [MemPhase.done, .sent], (s p).mem.invals.find? (fun x => x.2.vd == 0) = some (4, ⟨0, [9]⟩) ∧
      (s p).op? 9 = some (mop (.ld ldN) true false [lane0] p)) ∧
    (mop (.ld ldN) true false [lane0] .done).phase = .done ∧ (mop (.ld ldN) true false [lane0] .sent).performed < 3 := by
  refine ⟨?_, ?_, ?_, ?_, ?_, ?_⟩ <;> decide

/-- DeviceResets: a VD in each state; one whose contexts have come to rest, or load, one whose contexts have not, and one without
contexts or queues. -/
theorem test_meets_device_resets :
    (∀ k ∈ [0, 1, 2, 3, 4], ((withVd (vd5 k)).vd 5).state = k) ∧
    (let quiet := { inVd (vd5 4) ctx1 with run := State.reset.run };
      (quiet.vd 5).state = 4 ∧ quiet.ctxsOf 5 ≠ [] ∧ ∀ p ∈ quiet.ctxsOf 5, quiet.calm p.1 = true) ∧
    (let loading := inVd (vd5 4) { ctx1 with state := .loading };
      loading.ctxsOf 5 ≠ [] ∧ ∀ p ∈ loading.ctxsOf 5, p.2.state = .loading) ∧
    0 ∉ (withVd (vd5 4)).svc.mpDown ∧ ((withVd (vd5 4)).vd 5).state = 4 ∧ (withVd (vd5 4)).ctxsOf 5 = [] ∧
    (withVd (vd5 4)).eng.services = [] ∧ (vd5 4).resetFrom = none ∧
    (∃ p ∈ (inVd (vd5 4) ctx1).ctxsOf 5, p.2.state ≠ .loading ∧ (inVd (vd5 4) ctx1).calm p.1 = false) := by
  refine ⟨?_, ?_, ?_, ?_, ?_, ?_, ?_, ?_, ?_⟩ <;> decide +kernel

/-- TenancyTimers: a watchdog that has run out and one that has not; a refill with buckets; a waiting launch with no victim, with one that
is killed and with one that drains; a drain that is overdue. -/
theorem test_meets_tenancy_timers :
    let s := { base with agenda := [] }
    let late := { s with now := 2 ^ 30 }
    let x := { launch0 .waiting with
      image := some img
      packet := bytes64 [(16, 0x100000), (34, 5)] }
    let v := fun (est : Nat) => { launch0 .running with
      prio := 1
      ctx := some 1
      packet := bytes64 [(36, est)] }
    let ls := fun (tiles est : Nat) => { base with ten := { base.ten with
      vds := [(0, { Vd.reset 0 with tiles := tiles })]
      launches := [(1, v est), (9, x)] } }
    let need := (1, img, none)
    let full := { base with
      svc := { base.svc with ports := [(3, ⟨0, 0, [], [], [(0, [])], 0, none, none⟩)] }
      ten := { base.ten with buckets := [(drawbarArbiter 3 true, [(0, ⟨0, true⟩)])] } }
    let d := { launch0 .running with drained := some 0 }
    let o := { base with ten := { base.ten with launches := [(1, d)] } }
    s.ctx? 1 = some ctx1 ∧ ctx1.paused = none ∧ ctx1.state = .running ∧ late.watchTicks 1 ctx1.lastProgress late.now = 2 ^ 30 ∧
    2 ^ (late.vd ctx1.vd).wdog ≤ 2 ^ 30 ∧ s.watchTicks 1 ctx1.lastProgress s.now < 2 ^ (s.vd ctx1.vd).wdog ∧
    s.isDue (.watchdogExpire 1) = false ∧ (s.ten.buckets.map (·.1)).Nodup ∧ s.isDue .bucketRefill = false ∧ (∀ q < 8, (s.port q).waiting = []) ∧
    (∀ q < 8, q ≠ 3 → (full.port q).waiting = []) ∧ (full.port 3).waiting = [(0, [])] ∧ (full.ten.buckets.map (·.1)).Nodup ∧
    drawbarArbiter 3 true ∈ full.ten.buckets.map (·.1) ∧ (0, 14, 0, 0) ∈ refillArbiter full (drawbarArbiter 3 true) [0] ∧ (full.ten.vds.map (·.1)).Pairwise (· < ·) ∧
    (ls 16 0).ten.launches.get? 9 = some x ∧ (ls 16 0).launchNeeds x = some need ∧ x.state = .waiting ∧ ((ls 16 0).vd x.vd).state = 2 ∧
    (ls 16 0).victims x.vd need ((ls 16 0).candidates x) = [] ∧
    (∀ est ∈ [0, 3], (ls 1 est).launchNeeds x = some need ∧ (ls 1 est).victims x.vd need ((ls 1 est).candidates x) = [(1, 1, v est)] ∧
      (ls 1 est).ctx? 1 = some ctx1 ∧ (v est).drained = none) ∧ ctx1.exit = none ∧
    policyFor x.tokens (v 0).tokens (v 0).est (((ls 1 0).now - (v 0).since) / 1024) true = .kill ∧
    policyFor x.tokens (v 3).tokens (v 3).est (((ls 1 3).now - (v 3).since) / 1024) true = .drain 3 ∧
    o.ten.launches.get? ctx1.launch = some d ∧ d.drained = some 0 ∧ 0 ≤ o.now ∧ o.waitingLaunches d.vd = [] := by
  refine ⟨?_, ?_, ?_, ?_, ?_, ?_, ?_, ?_, ?_, ?_, ?_, ?_, ?_, ?_, ?_, ?_, ?_, ?_, ?_, ?_, ?_, ?_, ?_, ?_, ?_, ?_, ?_, ?_, ?_⟩ <;> decide +kernel

/-- ReplicasComeAndGo: a context of one actor whose VD holds; a replica that is placed, one that retires and is empty, and one that is
available. -/
theorem test_meets_replicas :
    let s := { base with
      ten := { base.ten with vds := [(0, { Vd.reset 0 with hold := true })] }
      agenda := [] }
    let r := fun (state : ReplicaState) (frames : List Frame) => { region0 with
      state := state
      frames := frames }
    let at' := fun (r : Region) => { base with run := ⟨[(65536, r)], [], [], []⟩ }
    let empty := [{ frame0 with insts := [] }]
    s.ten.ctxs = [(1, ctx1)] ∧ ctx1.state = .running ∧ (s.vd ctx1.vd).state = 2 ∧ ctx1.image.actors.length = 1 ∧ ctx1.image.inputs 0 ≠ [] ∧
    (s.vd ctx1.vd).hold = true ∧ s.isDue .placementSample = false ∧
    (∀ x ∈ [r .placing [frame0], r .retiring empty, r .available [frame0]], (at' x).ctx? 1 = some ctx1 ∧ (at' x).region? 1 0 = some x ∧
      x.ctx = 1 ∧ x.rgn = 0) ∧ ((r .placing [frame0]).frames.headD Frame.empty).filling = none ∧ ctx1.pmaps.get? region0.actor = some [1, 1] ∧
    (∀ q ∈ (r .retiring empty).queues, q.occupancy = 0) ∧ (∀ f ∈ (r .retiring empty).frames, f.insts = []) ∧ (r .retiring empty).starts = [] := by
  refine ⟨?_, ?_, ?_, ?_, ?_, ?_, ?_, ?_, ?_, ?_, ?_, ?_, ?_⟩ <;> decide

/-- Snapshots: the last marker and one that is not; a save whose requests are done, for a job and for a checkpoint, and one whose requests
are not; a job that ends, and stops of a VD that have reached their boundary and have not. -/
theorem test_meets_snapshots :
    let s := withSnap (snap0 (some 9) 1)
    let two := { s with run := ⟨[(65536, region0), (65537, { region0 with rgn := 1 })], [], [], []⟩ }
    let f := { snap0 (some 9) 1 with waits := [1] }
    let wait := { withSnap f with mem := { tables.mem with ops := [(9, mop (.ld ldN) true false [lane0] .sent)] } }
    let cp := { withSnap (snap0 none 3) with
      run := State.reset.run
      mem := State.reset.mem }
    let stop := job0 (.vdctl 0) .running []
    let done := { withJob stop with
      fab := State.reset.fab
      mem := State.reset.mem }
    let early := { done with eng := ⟨[], [(4, job0 .snap .running []), (9, stop)], [], [], []⟩ }
    (∀ u ∈ [s, two], u.ten.snaps.get? 7 = some (snap0 (some 9) 1) ∧ u.ctx? 1 = some ctx1) ∧ (snap0 (some 9) 1).body = none ∧
    (∀ r ∈ s.regionsOf 1, r.rgn ∈ (snap0 (some 9) 1).markers ∨ r.rgn = 0) ∧ (snap0 (some 9) 1).kind = 1 ∧
    (∃ r ∈ two.regionsOf 1, r.rgn ∉ (snap0 (some 9) 1).markers ∧ r.rgn ≠ 0) ∧ s.requestsDone (snap0 (some 9) 1) = true ∧
    wait.ten.snaps.get? 7 = some f ∧ wait.requestsDone f = false ∧ s.job? 9 = some (job0 .snap .running []) ∧
    cp.requestsDone (snap0 none 3) = true ∧ cp.quiet 1 = true ∧ (snap0 none 3).job = none ∧ cp.eng.groups = [] ∧
    cp.ten.launches.get? ctx1.launch = some (launch0 .running) ∧ (withJob (job0 .snap .finishing [])).job? 9 = some (job0 .snap .finishing []) ∧
    (withJob (job0 .snap .finishing [])).stampWaits 0 0 0 true 0 = false ∧
    (∀ u ∈ [done, early], u.job? 9 = some stop) ∧ done.stopDone 9 stop.target = true ∧ early.stopDone 9 stop.target = false := by
  refine ⟨?_, ?_, ?_, ?_, ?_, ?_, ?_, ?_, ?_, ?_, ?_, ?_, ?_, ?_, ?_, ?_, ?_, ?_, ?_⟩ <;> decide +kernel

/-! ### Records and the step -/

/-- A record of an opcode, with D0 to node 9 port a. -/
def ofOpcode (o : Nat) : Rec := (BitVec.ofNat 96 o <<< 88) ||| (movWord &&& 0xFFFFFFFFFFFFFFFFFFFF)

/-- RecordsAreRefused and UnknownOpcodes: both ends of every gap of the opcodes; PRED = 11 and the reserved bit of the overlay; a firing of
such a record with poison and without. -/
theorem test_meets_refused_records :
    (∀ o ∈ [0, 0x0E, 0x0F, 0x1A, 0x1F, 0x3D, 0x3F, 0x56, 0x5F, 0x67, 0x73, 0x77, 0x7A, 0x7F, 0x91, 0x9F, 0xA9, 0xAF, 0xB7, 0xBF, 0xCF,
      0xDF, 0xE0, 0xFE, 0xFF], ((ofOpcode o).extractLsb' 88 8).toNat = o ∧ ((RawNode.unpack (ofOpcode o)).hdr .always).d0.val = true) ∧
    opcodeAssigned (((ofOpcode 0x20 ||| (3 <<< 80)).extractLsb' 88 8).toNat) = true ∧ (ofOpcode 0x20 ||| (3 <<< 80)).extractLsb' 80 2 = 3 ∧
    (∀ o ∈ [0x20, 0x3C, 0x40, 0x55], ((ofOpcode o ||| (1 <<< 48)).extractLsb' 88 8).toNat = o ∧ (ofOpcode o ||| (1 <<< 48)).extractLsb' 80 2 ≠ 3 ∧
      (ofOpcode o ||| (1 <<< 48)).getLsbD 48 = true) ∧
    (at_ (fire (.poison 7) (x 1) (x 1))).cur.poison? = some 7 ∧ (at_ (fire (x 1) (x 1) (x 1))).cur.poison? = none := by
  refine ⟨?_, ?_, ?_, ?_, ?_, ?_⟩ <;> decide

/-- A ready entry of the ADD at element (1, 1), its candidate, and a state in which its issue is due. -/
def entry0 : ReadyEntry := ⟨1, 0, 1, 0, some (x 6), some (x 3), none, none, 0, 0, 0⟩
def issues : State := { base with
  fab := ⟨[(65, { elem0 with ready := [entry0] })], [], [], [], []⟩
  agenda := [(4, .issue 65)] }

/-- StepDoesTheEarliestTask, StepRunsTheDecodedRecord and IssueChoosesTheOldest: an empty agenda; an event; a parked firing; an element with
an entry that can issue, and one that 64 issues have passed over. -/
theorem test_meets_steps :
    let f := fire (x 6) (x 3) (x 1)
    let r := { base with agenda := [(4, .refire (.add (cm 0 .n32 0 true false false 0 false 0)) f)] }
    let cand := fun (bypass : Nat) => (⟨{ entry0 with bypass := bypass }, addSlot, decode addSlot.word, true, true⟩ : Candidate)
    base.power = true ∧ ({ base with agenda := [] } : State).agenda = [] ∧ ({ base with agenda := [(4, .ev .placementSample)] } : State).agenda =
      (4, .ev .placementSample) :: [] ∧ (r.ctx? f.ctx).isSome = true ∧ r.mayIssue (r.elem f.sid) f.ctx f.rgn = true ∧ r.refireAllowed f = true ∧
    issues.power = true ∧ issues.agenda = (4, .issue 65) :: [] ∧
    ((choose ((issues.elem 65).ready.filterMap (issues.candidate 65 (issues.elem 65)))).map fun c => (c.entry, c.slot)) = some (entry0, addSlot) ∧
    (match decode addSlot.word with | .ok _ => true | .error _ => false) = true ∧
    (match decode (ofOpcode 0) with | .ok _ => false | .error _ => true) = true ∧
    (∀ n ∈ [0, 64], ((choose [cand n]).map fun c => c.entry.bypass) = some n) ∧ (choose []).isNone = true := by
  refine ⟨?_, rfl, rfl, ?_, ?_, ?_, ?_, rfl, ?_, ?_, ?_, ?_, ?_⟩ <;> decide

/-- StepKeepsInv and TimeGoesOn: a state that meets the invariant, with an empty agenda; its step answers the next cycle. -/
theorem test_meets_step_keeps_inv :
    let s := { State.reset with agenda := [] }
    s.Inv ∧ step s = .next { s with now := 1 } :=
  ⟨⟨by decide, .nil, fun _ h => absurd h List.not_mem_nil⟩, rfl⟩

/-- PoisonThenNull and ComputingRowsFrame: an ADD with poison, with a null operand and with a predicate that does not match, and one whose
firing answers. -/
theorem test_meets_computing :
    let f := cm 0 .n32 0 true false false 0 false 0
    let i := Instr.add f
    i.view = some (.common 0x20 f) ∧ (0x20 : BitVec 8).toNat < 0x78 ∧ (0x20 : BitVec 8).toNat < 0x60 ∧ (f.d0.val || f.d1.val) = true ∧
    (at_ (fire (.poison 7) (.null false) (x 1))).cur.poison? = some 7 ∧ (at_ (fire (x 1) (.null false) (x 1))).cur.poison? = none ∧
    (at_ (fire (x 1) (.null false) (x 1))).cur.off f.pred = true ∧
    (at_ { fire (x 1) (x 2) (x 1) with p := some (.bit false) }).cur.off f.pred = true ∧ i.WellFormed ∧
    (match exec i (at_ (fire (x 1) (x 2) (x 1))) with | .next _ => true | _ => false) = true := by
  refine ⟨?_, ?_, ?_, ?_, ?_, ?_, ?_, ?_, ?_, ?_⟩ <;> first | decide | (unfold Instr.WellFormed; decide)
end Sys2Proof.Tests
end

/-! ## Register writes (R6, R245, R332, R398 to R400, R404, R424)

A REGISTER_WRITE either is made at once or waits for the MP that serves the register. Each of these two courses is one lemma;
the clauses of the obligation then only compare what a write stores with what the register reads as. -/

namespace Sys2Proof.Machine

/-! ### The course of a register write -/

/-- The privilege rule (R245; log 69) bars the host alone, so a REGISTER_WRITE is never barred. -/
@[simp] theorem regWritableBy_any (r : Reg) : regWritableBy r .any = true := by
  cases r <;> rfl

section
variable {s : State} {r : Reg} {value : W64} {P : State → Prop}

theorem exec_registerWrite : exec (.registerWrite r value) s = .next ((writeAs .any r value).exec s) := rfl

/-- A write of a register whose MP, if one serves it, is not reset is made at once (R6). -/
theorem exec_registerWrite_served (hup : ∀ d, regServedBy r = some d → d ∉ s.svc.mpDown) :
    exec (.registerWrite r value) s = .next ((writeReg r value).exec s) := by
  rw [exec_registerWrite, writeAs, regWritableBy_any]
  cases hd : regServedBy r with
  | none => rfl
  | some d => simp [hup d hd]

/-- A write of a register whose MP is reset joins the waiting writes and changes nothing else (R424). -/
theorem exec_registerWrite_waits {d : Nat} (hd : regServedBy r = some d) (hdown : d ∈ s.svc.mpDown) :
    exec (.registerWrite r value) s =
      .next ((Prim.svc fun v => { v with mpWrites := v.mpWrites ++ [(d, r, value)] }).run s) := by
  rw [exec_registerWrite, writeAs, regWritableBy_any]
  simp [hd, hdown]

theorem answers_registerWrite_served (hup : ∀ d, regServedBy r = some d → d ∉ s.svc.mpDown)
    (hP : P ((writeReg r value).exec s)) : Answers (.registerWrite r value) s P :=
  ⟨_, exec_registerWrite_served hup, hP⟩

/-- A register that no MP serves takes its write in every state. -/
theorem answers_registerWrite_unserved (hr : regServedBy r = none)
    (hP : P ((writeReg r value).exec s)) : Answers (.registerWrite r value) s P :=
  answers_registerWrite_served (by simp [hr]) hP

/-- A register of the MP block takes its write while the MP of die 0 serves. -/
theorem answers_registerWrite_mp (hr : regServedBy r = some 0) (h0 : 0 ∉ s.svc.mpDown)
    (hP : P ((writeReg r value).exec s)) : Answers (.registerWrite r value) s P :=
  answers_registerWrite_served (fun d hd => by rwa [← Option.some.inj (hr.symm.trans hd)]) hP

end

/-! ### What a register reads as, and what a write of it stores -/

section
variable (s : State) (n : Nat) (value : W64)

@[simp] theorem readReg_vdPtRoot : s.readReg (.vdPtRoot n) = (s.vd n).ptroot.toNat := rfl
@[simp] theorem readReg_vdPeerQ : s.readReg (.vdPeerQ n) = (s.vd n).peerq.toNat := rfl
@[simp] theorem readReg_vdIrqAddr : s.readReg (.vdIrqAddr n) = (s.vd n).irqaddr.toNat := rfl
@[simp] theorem readReg_vdIrqData : s.readReg (.vdIrqData n) = (s.vd n).irqdata := rfl
@[simp] theorem readReg_vdRplBase : s.readReg (.vdRplBase n) = (s.vd n).rplbase.toNat := rfl
@[simp] theorem readReg_vdMquota : s.readReg (.vdMquota n) = (s.vd n).mquota := rfl
@[simp] theorem readReg_vdPlace : s.readReg (.vdPlace n) =
    (s.vd n).grow + (s.vd n).shrink * 2 ^ 16 + if (s.vd n).hold then 2 ^ 32 else 0 := rfl
@[simp] theorem readReg_keyown : s.readReg (.keyown n) = s.svc.keyown.getD n 0 := rfl
@[simp] theorem readReg_dbgSel : s.readReg .dbgSel = s.svc.dbgsel.toNat := rfl
@[simp] theorem readReg_devPkgId : s.readReg .devPkgId = s.svc.pkgid := rfl

@[simp] theorem writeReg_vdPtRoot : writeReg (.vdPtRoot n) value = modVd n fun v => { v with ptroot := value } := rfl
@[simp] theorem writeReg_vdPeerQ : writeReg (.vdPeerQ n) value = modVd n fun v => { v with peerq := value } := rfl
@[simp] theorem writeReg_vdIrqAddr : writeReg (.vdIrqAddr n) value = modVd n fun v => { v with irqaddr := value } := rfl
@[simp] theorem writeReg_vdIrqData :
    writeReg (.vdIrqData n) value = modVd n fun v => { v with irqdata := value.toNat % 2 ^ 24 } := rfl
@[simp] theorem writeReg_vdRplBase :
    writeReg (.vdRplBase n) value = modVd n fun v => { v with rplbase := BitVec.ofNat 64 (value.toNat / 64 * 64) } := rfl
@[simp] theorem writeReg_vdMquota : writeReg (.vdMquota n) value = modVd n fun v =>
    { v with mquota := if 1 ≤ value.toNat % 8 ∧ value.toNat % 8 ≤ 4 then value.toNat % 8 else 4 } := rfl
@[simp] theorem writeReg_vdPlace : writeReg (.vdPlace n) value = modVd n fun v =>
    { v with grow := natBits value.toNat 15 0, shrink := natBits value.toNat 31 16, hold := value.toNat.testBit 32 } := rfl
@[simp] theorem writeReg_vdShare0 : writeReg (.vdShare0 n) value = writeShares n (.vdShare0 n) value := rfl
@[simp] theorem writeReg_devPkgId :
    writeReg .devPkgId value = .prim (.svc fun v => { v with pkgid := value.toNat % 65536 }) := rfl
@[simp] theorem writeReg_dbgSel :
    writeReg .dbgSel value = .prim (.svc fun v => { v with dbgsel := BitVec.ofNat 64 (value.toNat % 2 ^ 33) }) := rfl
@[simp] theorem writeReg_laycmd : writeReg .laycmd value = .when (value.toNat == 1) submitLayout := rfl

@[simp] theorem writeReg_keyown_exec : (writeReg (.keyown n) value).exec s =
    (Prim.svc fun v => { v with keyown := v.keyown.set n (value.toNat % 128) }).run s := rfl

end

/-! ### Fields of a register -/

/-- VD.n.PLACE reads back as its 33 bits: GROW, SHRINK and HOLD are adjacent (R318). -/
theorem place_fields_eq_mod (x : Nat) :
    natBits x 15 0 + natBits x 31 16 * 2 ^ 16 + (if x.testBit 32 then 2 ^ 32 else 0) = x % 2 ^ 33 := by
  simp only [natBits, Nat.testBit_eq_decide_div_mod_eq, decide_eq_true_eq]
  split <;> omega

/-- The four shares of a value are its 10-bit fields, 16 bits apart (R372). -/
theorem sharesOf_eq (x : W64) : sharesOf x = (List.range 4).map fun k => x.toNat / 2 ^ (16 * k) % 1024 := by
  refine List.map_congr_left fun k _ => ?_
  have hwidth : 16 * k + 9 + 1 - 16 * k = 10 := by omega
  rw [natBits, hwidth]
  rfl

/-- RPLBASE is aligned to 64 bytes, and clearing the low bits of a word keeps it a word (R420). -/
theorem toNat_ofNat_align64 (value : W64) : (BitVec.ofNat 64 (value.toNat / 64 * 64)).toNat = value.toNat / 64 * 64 := by
  have hlt : value.toNat / 64 * 64 < 2 ^ 64 := (Nat.div_mul_le_self _ _).trans_lt value.isLt
  exact (BitVec.toNat_ofNat ..).trans (Nat.mod_eq_of_lt hlt)

/-! ### Writes that look at the state -/

/-- Shares of a VD that is neither Active nor Stopped are stored unchecked (R369). -/
theorem writeShares_vd_of_inactive {s : State} {n : Nat} (r : Reg) (value : W64) (h : (s.vd n).state < 2) :
    ((writeShares n r value).exec s).vd n = { (s.vd n).withReg r value with err := 0 } := by
  have hactive : ¬((s.vd n).state = 2 ∨ (s.vd n).state = 3) := by omega
  simp [writeShares, hactive]

/-- A layout request is only noted in the journal: it moves no bytes of memory (R422). -/
theorem submitLayout_bytes (s : State) : (submitLayout.exec s).bytes = s.bytes := by
  simp only [submitLayout, Cmd.exec_get]
  split
  · rfl
  · split <;> rfl

/-! ### The clauses -/

section
variable (s : State) (n : Nat) (value : W64)

/-- The registers of a VD that store all 64 bits (R399, R400, R404). -/
theorem registerWrite_vdWord {r : Reg} (hr : r ∈ [Reg.vdPeerQ n, .vdPtRoot n, .vdIrqAddr n]) :
    Answers (.registerWrite r value) s fun t => t.readReg r = value.toNat ∧ t.svc = s.svc ∧ ∀ k, k ≠ n → t.vd k = s.vd k := by
  simp only [List.mem_cons, List.not_mem_nil, or_false] at hr
  rcases hr with rfl | rfl | rfl <;>
    exact answers_registerWrite_unserved rfl ⟨by simp, rfl, fun k hk => by simp [modVd_vd_ne, hk]⟩

theorem registerWrite_vdShare0 (h : (s.vd n).state < 2) : Answers (.registerWrite (.vdShare0 n) value) s fun t =>
    (t.vd n).shares = (List.range 4).map (fun k => value.toNat / 2 ^ (16 * k) % 1024) ++ (s.vd n).shares.drop 4 := by
  refine answers_registerWrite_unserved rfl ?_
  rw [writeReg_vdShare0, writeShares_vd_of_inactive _ _ h, ← sharesOf_eq]
  rfl

/-- Registers of the MP block, while the MP of die 0 serves (R332, R396, R422). -/
theorem registerWrite_mpBlock (h0 : 0 ∉ s.svc.mpDown) :
    Answers (.registerWrite .dbgSel value) s (fun t => t.readReg .dbgSel = value.toNat % 2 ^ 33) ∧
    Answers (.registerWrite .laycmd value) s (fun t => t.bytes = s.bytes) ∧
    Answers (.registerWrite (.keyown n) value) s (fun t => t.readReg (.keyown n) = value.toNat % 128) := by
  refine ⟨?dbgSel, ?laycmd, ?keyown⟩
  case dbgSel =>
    refine answers_registerWrite_mp rfl h0 ?_
    simp only [writeReg_dbgSel, Cmd.exec_prim, readReg_dbgSel, Prim.svc_svc, BitVec.toNat_ofNat]
    omega
  case laycmd =>
    refine answers_registerWrite_mp rfl h0 ?_
    rw [writeReg_laycmd]
    exact Cmd.keep_when (g := State.bytes) submitLayout_bytes s
  case keyown => exact answers_registerWrite_mp rfl h0 (by simp)

/-- A read-only register ignores a write (R398, R414). -/
theorem registerWrite_readOnly {r : Reg} (hr : r ∈ [Reg.devReady, .devFail, .devDramSz, .devStep, .vdTlbSeq n, .vdRstStat n]) :
    exec (.registerWrite r value) s = .next s := by
  simp only [List.mem_cons, List.not_mem_nil, or_false] at hr
  rcases hr with rfl | rfl | rfl | rfl | rfl | rfl <;> rfl

/-- While the MP of die 0 is reset, a write of its block waits (R424). -/
theorem registerWrite_mpBlock_waits {r : Reg} (hr : r ∈ [Reg.dbgSel, .retreq, .laycmd, .attsel]) (h0 : 0 ∈ s.svc.mpDown) :
    Answers (.registerWrite r value) s fun t =>
      t.svc = { s.svc with mpWrites := s.svc.mpWrites ++ [(0, r, value)] } ∧ t.ten = s.ten := by
  have hserved : regServedBy r = some 0 := by
    simp only [List.mem_cons, List.not_mem_nil, or_false] at hr
    rcases hr with rfl | rfl | rfl | rfl <;> rfl
  exact ⟨_, exec_registerWrite_waits hserved h0, rfl, rfl⟩

end

/-- Settles O34: each register reads back the field that its write sets; a write waits only for the MP that serves its
register. -/
theorem registerWrites : Obligations.RegisterWrites := by
  unfold Obligations.RegisterWrites
  intro s n value
  refine ⟨?pkgId, fun r hr => registerWrite_vdWord s n value hr, ?irqData, ?rplBase, ?mquota, ?place,
    registerWrite_vdShare0 s n value, registerWrite_mpBlock s n value, fun r hr => registerWrite_readOnly s n value hr,
    fun r hr => registerWrite_mpBlock_waits s value hr⟩
  case pkgId => exact answers_registerWrite_unserved rfl ⟨by simp, rfl⟩
  case irqData => exact answers_registerWrite_unserved rfl (by simp)
  case rplBase => exact answers_registerWrite_unserved rfl (by simpa using toNat_ofNat_align64 value)
  case mquota => exact answers_registerWrite_unserved rfl (by simp)
  case place => exact answers_registerWrite_unserved rfl (by simpa using place_fields_eq_mod value.toNat)

end Sys2Proof.Machine

/-! ## The choice of an element's issue (R35) -/

namespace Sys2Proof.Machine

theorem ReadyEntry.before_iff (x y : ReadyEntry) : x.before y = true ↔
    x.born < y.born ∨ (x.born = y.born ∧ (x.since < y.since ∨ (x.since = y.since ∧ x.slot < y.slot))) := by
  simp [ReadyEntry.before]

theorem ReadyEntry.before_self (x : ReadyEntry) : x.before x = false := by
  simp [ReadyEntry.before]

/-- Of two entries at most one is older than the other. -/
theorem ReadyEntry.before_asymm {x y : ReadyEntry} (h : x.before y = true) : y.before x = false := by
  rw [← Bool.not_eq_true, ReadyEntry.before_iff]
  rw [ReadyEntry.before_iff] at h
  omega

/-- If neither of two entries is older than the next, the first is not older than the last. -/
theorem ReadyEntry.not_before_trans {x y z : ReadyEntry} (hyx : x.before y = false) (hzy : y.before z = false) :
    x.before z = false := by
  rw [← Bool.not_eq_true, ReadyEntry.before_iff] at hyx hzy ⊢
  omega

theorem oldest_eq_none_iff {cs : List Candidate} : oldest cs = none ↔ cs = [] := by
  cases cs with
  | nil => simp [oldest]
  | cons c cs =>
    unfold oldest
    split
    · simp
    · split <;> simp

/-- The oldest of a list is one of its candidates, and none of them is older (R35 rule 3). -/
theorem oldest_spec {cs : List Candidate} {c : Candidate} (h : oldest cs = some c) :
    c ∈ cs ∧ ∀ d ∈ cs, d.entry.before c.entry = false := by
  induction cs generalizing c with
  | nil => simp [oldest] at h
  | cons x cs ih =>
    unfold oldest at h
    cases hd : oldest cs with
    | none =>
      obtain rfl := oldest_eq_none_iff.1 hd
      obtain rfl : x = c := by simpa [hd] using h
      simp [ReadyEntry.before_self]
    | some d =>
      obtain ⟨hmem, hle⟩ := ih hd
      simp only [hd] at h
      by_cases hdx : d.entry.before x.entry = true
      · obtain rfl : d = c := by simpa [hdx] using h
        exact ⟨List.mem_cons_of_mem _ hmem, List.forall_mem_cons.2 ⟨ReadyEntry.before_asymm hdx, hle⟩⟩
      · obtain rfl : x = c := by simpa [hdx] using h
        rw [Bool.not_eq_true] at hdx
        exact ⟨List.mem_cons_self, List.forall_mem_cons.2 ⟨ReadyEntry.before_self _, fun e he =>
          ReadyEntry.not_before_trans (hle e he) hdx⟩⟩

/-- The choice is the oldest of the able entries that 64 issues have passed over, and without such an entry the oldest able one. -/
theorem choose_eq (cs : List Candidate) :
    choose cs = (oldest ((cs.filter fun c => c.free && c.credit).filter fun c => 64 ≤ c.entry.bypass)).or
      (oldest (cs.filter fun c => c.free && c.credit)) := by
  simp only [choose]
  cases oldest ((cs.filter fun c => c.free && c.credit).filter fun c => 64 ≤ c.entry.bypass) <;> rfl

/-- Settles O55: the oldest of a list is one of it that none is older than, and the choice takes it of those that 64 issues have
passed over, if there are any, else of all that are able. -/
theorem issueChoosesTheOldest : Obligations.IssueChoosesTheOldest := by
  unfold Obligations.IssueChoosesTheOldest
  intro cs able
  have hable : ∀ c, c ∈ (cs.filter fun c => c.free && c.credit) ↔ able c := by simp [able]
  have hpassed : ∀ c, c ∈ ((cs.filter fun c => c.free && c.credit).filter fun c => 64 ≤ c.entry.bypass) ↔
      able c ∧ 64 ≤ c.entry.bypass := fun c => by
    rw [List.mem_filter, hable, decide_eq_true_eq]
  rw [choose_eq]
  refine ⟨?none, fun c hc => ?some⟩
  case none =>
    rw [Option.or_eq_none_iff, oldest_eq_none_iff, oldest_eq_none_iff]
    simp only [List.eq_nil_iff_forall_not_mem, hable, hpassed]
    exact ⟨And.right, fun h => ⟨fun c hc => h c hc.1, h⟩⟩
  case some =>
    rw [Option.or_eq_some_iff] at hc
    rcases hc with hc | ⟨hnone, hc⟩
    · obtain ⟨hmem, hle⟩ := oldest_spec hc
      obtain ⟨ha, hb⟩ := (hpassed c).1 hmem
      exact ⟨ha, fun _ d hd hdb => hle d ((hpassed d).2 ⟨hd, hdb⟩), fun hlt => absurd hb (Nat.not_le.2 hlt)⟩
    · obtain ⟨hmem, hle⟩ := oldest_spec hc
      have hfew : ∀ d, able d → d.entry.bypass < 64 := fun d hd => Nat.lt_of_not_le fun hdb =>
        List.eq_nil_iff_forall_not_mem.1 (oldest_eq_none_iff.1 hnone) d ((hpassed d).2 ⟨hd, hdb⟩)
      have ha := (hable c).1 hmem
      exact ⟨ha, fun hb => absurd hb (Nat.not_le.2 (hfew c ha)), fun _ d hd => ⟨hfew d hd, hle d ((hable d).2 hd)⟩⟩

end Sys2Proof.Machine

/-! ## Commands that stay within a relation

What a command leaves alone is a relation between the states before and after it. A relation that is reflexive and transitive is
kept by every command that is put together from commands that keep it. -/

namespace Sys2Proof.Machine

/-- A relation between a state and a later one that allows doing nothing and doing two allowed things in order. -/
structure Chains (R : State → State → Prop) : Prop where
  refl : ∀ s, R s s
  trans : ∀ {s t u}, R s t → R t u → R s u

/-- Whatever state a command meets, it answers one that the relation allows. -/
def Cmd.Within (R : State → State → Prop) (c : Cmd) : Prop := ∀ s, R s (c.exec s)

section
variable {R : State → State → Prop} {α : Type}

theorem Cmd.within_get {k : State → Cmd} (h : ∀ s, R s ((k s).exec s)) : (Cmd.get k).Within R := h

section
variable (hR : Chains R)
include hR

theorem Cmd.within_skip : Cmd.skip.Within R := hR.refl

theorem Cmd.within_seq {a b : Cmd} (ha : a.Within R) (hb : b.Within R) : (Cmd.seq a b).Within R :=
  fun s => hR.trans (ha s) (hb _)

theorem Cmd.within_when {b : Bool} {c : Cmd} (h : b = true → c.Within R) : (Cmd.when b c).Within R := by
  cases b
  · exact within_skip hR
  · exact h rfl

theorem Cmd.within_opt {o : Option α} {f : α → Cmd} (h : ∀ x, (f x).Within R) : (Cmd.opt o f).Within R := by
  cases o
  · exact within_skip hR
  · exact h _

theorem Cmd.within_all {cs : List Cmd} (h : ∀ c ∈ cs, c.Within R) : (Cmd.all cs).Within R := by
  induction cs with
  | nil => exact within_skip hR
  | cons c cs ih =>
    cases cs with
    | nil => exact h c List.mem_cons_self
    | cons d cs => exact within_seq hR (h c List.mem_cons_self) (ih fun x hx => h x (List.mem_cons_of_mem _ hx))

theorem Cmd.within_each {xs : List α} {f : α → Cmd} (h : ∀ x ∈ xs, (f x).Within R) : (Cmd.each xs f).Within R := by
  induction xs with
  | nil => exact within_skip hR
  | cons x xs ih =>
    exact within_seq hR (h x List.mem_cons_self) (ih fun y hy => h y (List.mem_cons_of_mem _ hy))

end
end

end Sys2Proof.Machine

/-! ## Computing rows: poison, null, and what a firing leaves alone (R33, R34, R59, R106)

Every row of the common overlay but REDA and REDX runs as `node` on its own operands. So poison and null are decided once, for
`node`, and the frame of a row follows from the frames of the commands that `node` is put together from. -/

namespace Sys2Proof.Machine

/-! ### The form of the rows -/

/-- What an integer, address or float row does on ordinary operands: flags and one result, two results, or a fault. -/
inductive ComputingBody (f : Firing) (h : Hdr) (lat : Nat) : Cmd → Prop
  | flags (fl : Nat) (v : Val) : ComputingBody f h lat (.seq (orFlags f.ctx fl) (emit f h lat f.tag v))
  | results (v0 v1 : Val) : ComputingBody f h lat (emit2 f h lat f.tag v0 v1)
  | fault (cause : Nat) : ComputingBody f h lat (raiseFault f h lat cause)

/-- DIV and REM raise a fault or give a result (R135). -/
theorem divNode_eq_node (i : Instr) (f : CommonNode) (s : State) (op : List Nat → Res) :
    ∃ lat k, divNode i f s op = (node s.cur f.toHdr i.sig lat s.cur.tag k).next s ∧ ComputingBody s.cur f.toHdr lat k := by
  simp only [divNode]
  split
  · exact ⟨_, _, rfl, .fault _⟩
  · exact ⟨_, _, rfl, .flags _ _⟩

/-- Every row of the common overlay but REDA and REDX is a node with its own operands and tag; the integer, address and float
rows do nothing else than compute. -/
theorem exec_common_eq_node {i : Instr} {opc : BitVec 8} {f : CommonNode} (hview : i.view = some (.common opc f))
    (hlt : opc.toNat < 0x78) (s : State) :
    ∃ lat k, exec i s = (node s.cur f.toHdr i.sig lat s.cur.tag k).next s ∧
      (opc.toNat < 0x60 → ComputingBody s.cur f.toHdr lat k) := by
  cases i <;> simp only [Instr.view, Option.some.injEq, NodeView.common.injEq, reduceCtorEq] at hview
  all_goals obtain ⟨rfl, rfl⟩ := hview
  case reda | redx => simp at hlt
  case div | rem =>
    obtain ⟨lat, k, he, hb⟩ := divNode_eq_node _ _ s _
    exact ⟨lat, k, he, fun _ => hb⟩
  case addc | subb => exact ⟨_, _, rfl, fun _ => .results _ _⟩
  case sel => exact ⟨_, _, rfl, fun _ => .results _ _⟩
  case cvt | qnt | dqnt | bscl | pack | unpack | srnd | vbcast | vext | vins | vshuf | vred | vscan | vdot | vcmpr | vexpd | vmask |
      vcnt =>
    exact ⟨_, _, rfl, fun h => absurd h (by decide)⟩
  all_goals exact ⟨_, _, rfl, fun _ => .flags _ _⟩

/-! ### Poison and null -/

/-- Poison leaves a node with a valid destination on its destinations (R106). -/
theorem emitPoison_of_dest {h : Hdr} (hd : (h.d0.val || h.d1.val) = true) (f : Firing) (lat : Nat) (tag o : W64) :
    emitPoison f h lat tag o = emit f h lat tag (.poison o) := by
  simp [emitPoison, hd]

/-- A node on a poisoned operand sends the poison (R33 rule 1). -/
theorem node_poison_sends {f : Firing} {h : Hdr} {g : Sig} {lat : Nat} {tag : W64} {k : Cmd} {s : State} {o : W64}
    (hd : (h.d0.val || h.d1.val) = true) (ho : f.poison? = some o) :
    Sends s ((node f h g lat tag k).exec s) f h lat tag (.poison o) (.poison o) := by
  rw [node_poison ho, emitPoison_of_dest hd]
  exact (emit_sends ..).after (by simp) (by simp)

/-- A null firing of a node sends nulls of its result shapes (R33 rule 2). -/
theorem node_null_sends {f : Firing} {h : Hdr} {g : Sig} {lat : Nat} {tag : W64} {k : Cmd} {s : State}
    (hp : f.poison? = none) (ho : f.off h.pred = true) :
    Sends s ((node f h g lat tag k).exec s) f h lat tag (.null g.r0) (.null g.r1) := by
  rw [node_null hp ho]
  exact (emit2_sends ..).after (by simp) (by simp)

theorem poisonThenNull : Claims.PoisonThenNull := by
  intro s i opc f hview hlt hd
  obtain ⟨lat, k, hexec, -⟩ := exec_common_eq_node hview hlt s
  exact ⟨fun o ho => ⟨lat, _, hexec, node_poison_sends hd ho⟩, fun hp ho => ⟨lat, _, hexec, node_null_sends hp ho⟩⟩

/-! ### The frame of a computing row -/

/-- A firing that changes nothing has the frame of a computing node, and so have two of them in order. -/
theorem NodeFrame.chains (f : Firing) : Chains (NodeFrame · · f) where
  refl _ := {
    power := rfl, now := rfl, bytes := rfl, mem := rfl, eng := rfl, svc := rfl, sets := rfl, boxes := rfl, edges := rfl,
    spills := rfl, others := fun _ _ => rfl, own := rfl, pools := rfl, reads := rfl, reservations := rfl,
    regions := fun _ _ => rfl, vds := rfl, launches := rfl, saves := rfl, otherCtxs := fun _ _ => rfl, ctx := rfl }
  trans a b := {
    power := b.power.trans a.power, now := b.now.trans a.now, bytes := b.bytes.trans a.bytes, mem := b.mem.trans a.mem,
    eng := b.eng.trans a.eng, svc := b.svc.trans a.svc, sets := b.sets.trans a.sets, boxes := b.boxes.trans a.boxes,
    edges := b.edges.trans a.edges, spills := b.spills.trans a.spills,
    others := fun k hk => (b.others k hk).trans (a.others k hk), own := b.own.trans a.own, pools := b.pools.trans a.pools,
    reads := b.reads.trans a.reads, reservations := b.reservations.trans a.reservations,
    regions := fun c r => (b.regions c r).trans (a.regions c r), vds := b.vds.trans a.vds,
    launches := b.launches.trans a.launches, saves := b.saves.trans a.saves,
    otherCtxs := fun c hc => (b.otherCtxs c hc).trans (a.otherCtxs c hc), ctx := b.ctx.trans a.ctx }

section
variable (f : Firing)

/-- A change of the own element's output buffers and capture. -/
theorem modElem_nodeFrame {g : Element → Element} (hg : ∀ e, (g e).still = e.still := by exact fun _ => rfl) :
    (modElem f.sid g).Within (NodeFrame · · f) := fun s =>
  { (NodeFrame.chains f).refl s with
    others := fun _ hk => modElem_elem_ne g s hk
    own := by rw [modElem_elem_self, hg] }

/-- A change of the own context's progress, flags and told faults. -/
theorem modCtx_nodeFrame {g : Ctx → Ctx} (hg : ∀ c, (g c).still = c.still := by exact fun _ => rfl) :
    (modCtx f.ctx g).Within (NodeFrame · · f) := fun s =>
  { (NodeFrame.chains f).refl s with
    otherCtxs := fun _ hc => modCtx_ctx_ne g s hc
    ctx := by rw [modCtx_ctx_self, Option.map_map]; exact congrArg (Option.map · _) (funext hg) }

/-- A task that becomes due is in no part of the frame. -/
theorem after_nodeFrame (n : Nat) (i : Instr) : (after n i).Within (NodeFrame · · f) := fun s =>
  { (NodeFrame.chains f).refl s with }

/-- A change of a region that only records firings. -/
theorem modRegion_nodeFrame {ctx rgn : Nat} {g : Region → Region} (hg : ∀ r, (g r).still = r.still) :
    (modRegion ctx rgn g).Within (NodeFrame · · f) := fun s =>
  { (NodeFrame.chains f).refl s with
    regions := fun c r => by
      simp only [State.region?, modRegion, Cmd.exec_prim, Prim.blocks_run, Tbl.get?_mod]
      split
      · next h => rw [h, Option.map_map]; exact congrArg (Option.map · _) (funext hg)
      · rfl }

end

/-- An `Inst` but for what it has fired. -/
def Inst.unfired (i : Inst) : Inst := { i with fired := [] }

theorem Region.still_eq (r : Region) :
    r.still = { r with frames := r.frames.map fun fr => { fr with insts := fr.insts.map Inst.unfired } } := rfl

/-- What an `Inst` has fired is no part of what `still` keeps of its region. -/
theorem Region.still_modify_frames (r : Region) (frm : Nat) {g : Inst → Inst} (hg : ∀ i, (g i).unfired = i.unfired) :
    { r with frames := r.frames.modify frm fun fr => { fr with insts := fr.insts.map g } }.still = r.still := by
  have hcomp : Inst.unfired ∘ g = Inst.unfired := funext hg
  have hframes : (r.frames.modify frm fun fr => { fr with insts := fr.insts.map g }).map
      (fun fr => { fr with insts := fr.insts.map Inst.unfired }) =
      r.frames.map fun fr => { fr with insts := fr.insts.map Inst.unfired } := by
    refine List.ext_getElem? fun k => ?_
    rw [List.getElem?_map, List.getElem?_map, List.getElem?_modify]
    cases r.frames[k]? with
    | none => rfl
    | some fr => by_cases hk : frm = k <;> simp [hk, hcomp]
  simp only [Region.still_eq, hframes]

/-- The record of a firing (R226, R239, R364). -/
theorem markFired_nodeFrame (f : Firing) : (markFired f).Within (NodeFrame · · f) := by
  have hR := NodeFrame.chains f
  refine Cmd.within_get fun s => Cmd.within_all hR ?_ s
  simp only [List.forall_mem_cons, List.not_mem_nil, false_imp_iff, implies_true, and_true]
  refine ⟨modRegion_nodeFrame f fun r => Region.still_modify_frames r _ fun i => ?_,
    Cmd.within_get fun t => modCtx_nodeFrame f (s := t), fun t => { hR.refl t with }, after_nodeFrame f _ _⟩
  split
  · dsimp only
    split <;> rfl
  · rfl

/-- Results of a firing. -/
theorem emit2_nodeFrame (f : Firing) (h : Hdr) (lat : Nat) (tag : W64) (v0 v1 : Val) :
    (emit2 f h lat tag v0 v1).Within (NodeFrame · · f) := by
  have hR := NodeFrame.chains f
  have hput : ∀ which tok, (putOut f.sid f.fid which lat tok).Within (NodeFrame · · f) := fun _ _ =>
    Cmd.within_seq hR (Cmd.within_get fun s => modElem_nodeFrame f (s := s)) (after_nodeFrame f _ _)
  exact Cmd.within_seq hR (Cmd.within_when hR fun _ => hput _ _) (Cmd.within_when hR fun _ => hput _ _)

/-- A fault found at a node with a valid destination (R32, R33). -/
theorem raiseFault_nodeFrame (f : Firing) {h : Hdr} (hd : (h.d0.val || h.d1.val) = true) (lat cause : Nat) :
    (raiseFault f h lat cause).Within (NodeFrame · · f) := by
  have hR := NodeFrame.chains f
  refine Cmd.within_get fun s => ?_
  dsimp only
  rw [emitPoison_of_dest hd]
  exact Cmd.within_seq hR (modElem_nodeFrame f)
    (Cmd.within_seq hR (modCtx_nodeFrame f) (emit2_nodeFrame f h lat _ _ _)) s

theorem ComputingBody.nodeFrame {f : Firing} {h : Hdr} {lat : Nat} {k : Cmd} (hd : (h.d0.val || h.d1.val) = true)
    (hk : ComputingBody f h lat k) : k.Within (NodeFrame · · f) := by
  have hR := NodeFrame.chains f
  cases hk with
  | flags fl v =>
    exact Cmd.within_seq hR (Cmd.within_when hR fun _ => modCtx_nodeFrame f) (emit2_nodeFrame f h lat _ _ _)
  | results v0 v1 => exact emit2_nodeFrame f h lat _ v0 v1
  | fault cause => exact raiseFault_nodeFrame f hd lat cause

/-- A node with a valid destination has the frame of a computing node if what it does on ordinary operands has. -/
theorem node_nodeFrame {f : Firing} {h : Hdr} {g : Sig} {lat : Nat} {tag : W64} {k : Cmd} (hd : (h.d0.val || h.d1.val) = true)
    (hk : k.Within (NodeFrame · · f)) : (node f h g lat tag k).Within (NodeFrame · · f) := by
  refine Cmd.within_seq (NodeFrame.chains f) (markFired_nodeFrame f) ?_
  split
  · rw [emitPoison_of_dest hd]
    exact emit2_nodeFrame f _ _ _ _ _
  · split
    · exact emit2_nodeFrame f _ _ _ _ _
    · exact hk

/-- An integer, address or float row with a valid destination has the frame of a computing node. -/
theorem exec_common_nodeFrame {s t : State} {i : Instr} {opc : BitVec 8} {f : CommonNode}
    (hview : i.view = some (.common opc f)) (hlt : opc.toNat < 0x60) (hd : (f.d0.val || f.d1.val) = true)
    (hexec : exec i s = .next t) : NodeFrame s t s.cur := by
  obtain ⟨lat, k, hnode, hbody⟩ := exec_common_eq_node hview (by omega) s
  obtain rfl : (node s.cur f.toHdr i.sig lat s.cur.tag k).exec s = t := by simpa [hnode] using hexec
  exact node_nodeFrame hd ((hbody hlt).nodeFrame hd) s

/-- Settles O60: the rows are `node` commands; poison and null are decided by `node`, and every part of a computing node keeps
its frame. -/
theorem computingNodes : Obligations.ComputingNodes :=
  ⟨poisonThenNull, fun _ _ _ _ _ hview hlt _ hd hexec => exec_common_nodeFrame hview hlt hd hexec⟩

end Sys2Proof.Machine

/-! ## An issue whose choice has not come yet (R35, R36, log 87)

A step chooses among the entries that may issue by now, those of `Element.queued`; the statement about the decoded record chooses
among all entries of the ready queue. An entry whose first cycle has not come separates the two: the step waits for it. -/

namespace Sys2Proof.Machine

/-- A computing node changes nothing in the ready queue of its element. -/
theorem NodeFrame.ready {s t : State} {f : Firing} (h : NodeFrame s t f) : (t.elem f.sid).ready = (s.elem f.sid).ready :=
  (congrArg Element.ready h.own :)

/-- The word of an ADD.n32 of two tokens, with its result to port a of node 9. -/
def earlyWord : Rec := 0x200068900000000000000000

/-- The entry of the ADD, which may issue from cycle 1 on. -/
def earlyEntry : ReadyEntry := ⟨0, 0, 0, 0, some (.scalar 0), some (.scalar 0), none, none, 1, 1, 0⟩

/-- Cycle 0 after reset: the ADD is placed at element (1, 1), whose issue is due and whose ready queue holds the entry above. -/
def earlyIssue : State :=
  let s := State.reset.placeRecord earlyWord
  { s with fab := { s.fab with elements := [(65, { s.elem 65 with ready := [earlyEntry] })] } }

/-- What its step leaves: the entry still waits, and the element's issue is due in cycle 1. -/
def earlyIssueNext : State := { earlyIssue with agenda := agendaInsert State.reset.agenda 1 (.issue 65) }

theorem step_earlyIssue : step earlyIssue = .next earlyIssueNext := rfl

/-- Among all entries of the ready queue the choice is the entry that may not issue yet. -/
theorem choose_earlyIssue :
    let s := { earlyIssue with agenda := State.reset.agenda, now := max earlyIssue.now 0 }
    ((choose ((s.elem 65).ready.filterMap (s.candidate 65 (s.elem 65)))).map fun c => (c.entry, c.slot.word)) =
      some (earlyEntry, earlyWord) := by
  decide

/-- Refutes O54: in `earlyIssue` the choice among all ready entries is an ADD that may issue only in the next cycle. The step
leaves it in the ready queue, while the ADD's own row, run on a state whose queue the entry has left, would not put it back. -/
theorem not_stepRuns : ¬ Obligations.StepRuns := by
  rintro ⟨-, hruns⟩
  obtain ⟨c, hchoose, hc⟩ := Option.map_eq_some_iff.1 choose_earlyIssue
  obtain ⟨hentry, hword⟩ := Prod.mk.inj hc
  obtain ⟨u, hcur, -, -, -, -, -, hleft, -, hok, -⟩ := hruns earlyIssue 0 65 State.reset.agenda c rfl rfl hchoose
  obtain ⟨f, hdecode, hdest⟩ : ∃ f, decode earlyWord = .ok (.add f) ∧ (f.d0.val || f.d1.val) = true := ⟨_, rfl, rfl⟩
  have hstep : exec (.add f) u = .next earlyIssueNext := (hok _ (hword ▸ hdecode)).symm.trans step_earlyIssue
  have hsid : u.cur.sid = 65 := by
    rw [hcur, Candidate.firing, ReadyEntry.firing]
    split <;> rfl
  have hready : (u.elem 65).ready = [earlyEntry] := by
    have h := (exec_common_nodeFrame rfl (by decide) hdest hstep).ready
    rw [hsid] at h
    exact h.symm
  have hsame : earlyEntry.same c.entry = false := hleft _ (by simp [hready])
  rw [hentry] at hsame
  exact absurd hsame (by decide)

end Sys2Proof.Machine

/-! ## What commands beside the fabric leave alone

Tasks that become due, records, counters and the accesses of the Siding engine change neither the fabric nor the cycle, take no
task off the agenda, and change contexts at most in some fields. `Aside g` says so, where `g` keeps the other fields. -/

namespace Sys2Proof.Machine

/-- Between two states the fabric, the cycle and the part `g` of every context are the same, and no due task is lost. -/
structure Aside {α : Type} (g : Ctx → α) (s t : State) : Prop where
  fab : t.fab = s.fab
  now : t.now = s.now
  ctx : ∀ c, (t.ctx? c).map g = (s.ctx? c).map g
  agenda : ∀ x ∈ s.agenda, x ∈ t.agenda

section
variable {α β : Type} {g : Ctx → α} {s t : State}

theorem Aside.chains (g : Ctx → α) : Chains (Aside g) where
  refl _ := ⟨rfl, rfl, fun _ => rfl, fun _ h => h⟩
  trans a b := ⟨b.fab.trans a.fab, b.now.trans a.now, fun c => (b.ctx c).trans (a.ctx c), fun x h => b.agenda x (a.agenda x h)⟩

theorem Aside.elem (h : Aside g s t) (k : Nat) : t.elem k = s.elem k := by rw [State.elem, h.fab]; rfl
theorem Aside.set (h : Aside g s t) (k : Nat) : t.set? k = s.set? k := by rw [State.set?, h.fab]; rfl
theorem Aside.box (h : Aside g s t) (k : Nat) : t.box k = s.box k := by rw [State.box, h.fab]; rfl

/-- What depends only on the kept part of the contexts is kept. -/
theorem Aside.comp (h : Aside g s t) (k : α → β) : Aside (k ∘ g) s t :=
  { h with ctx := fun c => by rw [← Option.map_map, h.ctx, Option.map_map] }

/-- Where contexts are kept whole, every part of them is. -/
theorem Aside.part (h : Aside id s t) (k : Ctx → β) : Aside k s t := h.comp k

theorem Aside.ctx_eq (h : Aside id s t) (c : Nat) : t.ctx? c = s.ctx? c := by simpa using h.ctx c

/-! ### Tasks, counters and contexts -/

theorem afterTask_aside (n : Nat) (t : Task) : (afterTask n t).Within (Aside id) := fun _ =>
  ⟨rfl, rfl, fun _ => rfl, fun _ h => mem_agendaInsert.2 (.inr h)⟩

theorem after_aside (n : Nat) (i : Instr) : (after n i).Within (Aside id) := afterTask_aside n _

theorem afterOnce_aside (n : Nat) (i : Instr) : (afterOnce n i).Within (Aside id) :=
  Cmd.within_get fun s => Cmd.within_when (Aside.chains id) (fun _ => after_aside n i) s

theorem count_aside (die vd number n : Nat) : (count die vd number n).Within (Aside id) := fun _ =>
  ⟨rfl, rfl, fun _ => rfl, fun _ h => h⟩

theorem modVd_aside (n : Nat) (f : Vd → Vd) : (modVd n f).Within (Aside id) := fun _ =>
  ⟨rfl, rfl, fun _ => rfl, fun _ h => h⟩

theorem memPrim_aside (f : MemSys → MemSys) : (Cmd.prim (.mem f)).Within (Aside id) := fun _ =>
  ⟨rfl, rfl, fun _ => rfl, fun _ h => h⟩

theorem svcPrim_aside (f : SvcState → SvcState) : (Cmd.prim (.svc f)).Within (Aside id) := fun _ =>
  ⟨rfl, rfl, fun _ => rfl, fun _ h => h⟩

theorem blocksPrim_aside (f : RunState → RunState) : (Cmd.prim (.blocks f)).Within (Aside id) := fun _ =>
  ⟨rfl, rfl, fun _ => rfl, fun _ h => h⟩

theorem dramPrim_aside (a : Nat) (bs : List Byte) : (Cmd.prim (.dram a bs)).Within (Aside id) := fun _ =>
  ⟨rfl, rfl, fun _ => rfl, fun _ h => h⟩

theorem hostPrim_aside (a : Nat) (bs : List Byte) : (Cmd.prim (.host a bs)).Within (Aside id) := fun _ =>
  ⟨rfl, rfl, fun _ => rfl, fun _ h => h⟩

/-- A change of a context in fields that are not kept. -/
theorem modCtx_aside {c : Nat} {f : Ctx → Ctx} (hf : ∀ x, g (f x) = g x := by exact fun _ => rfl) :
    (modCtx c f).Within (Aside g) := fun s =>
  ⟨rfl, rfl, fun k => by
    by_cases hk : k = c
    · subst hk
      rw [modCtx_ctx_self, Option.map_map]
      exact congrArg (Option.map · _) (funext hf)
    · rw [modCtx_ctx_ne f s hk], fun _ h => h⟩

end

/-! ### Writing a record (R105, R327, R328) -/

/-- A context but for what taking a fault changes in it: its ring, FCOUNT and the faults told. -/
def Ctx.unrecorded (c : Ctx) : Ctx := { c with ring := [], fcount := 0, told := [] }

theorem sendInterrupt_aside (vd src : Nat) : (sendInterrupt vd src).Within (Aside id) :=
  Cmd.within_get fun s => Cmd.within_when (Aside.chains id) (fun _ => hostPrim_aside _ _) s

theorem noticeAppend_aside (ctx : Nat) (v : W64) : (noticeAppend ctx v).Within (Aside id) :=
  Cmd.within_get fun s => (Aside.chains id).trans (t := Prim.takeSerial.run s) ⟨rfl, rfl, fun _ => rfl, fun _ h => h⟩
    (Cmd.within_seq (Aside.chains id) (blocksPrim_aside _) (after_aside 0 _) _)

/-- A record that finds room stands at the end of its context's ring and raises FCOUNT; beyond that a notice goes out, which a
handler of the context gets as an append of the new count to its queue 63. -/
theorem writeRecord_room {r : FaultRec} {s : State} {c : Ctx} (hc : s.ctx? r.ctx = some c) (hroom : c.ring.length < 64) :
    ∃ notice : Cmd, notice.Within (Aside id) ∧
      (c.hasHandler = true → notice = noticeAppend r.ctx (BitVec.ofNat 64 ((c.fcount + 1) % 2 ^ 32))) ∧
      (writeRecord r).exec s = notice.exec ((modCtx r.ctx fun c =>
        { c with ring := c.ring ++ [r], fcount := (c.fcount + 1) % 2 ^ 32 }).exec s) := by
  simp only [writeRecord, Cmd.exec_get, hc, hroom, if_true, Cmd.exec_all_cons, Cmd.exec_all_one]
  refine ⟨_, ?_, fun h => if_pos h, rfl⟩
  split
  · exact noticeAppend_aside _ _
  · split
    · split
      · split
        · exact noticeAppend_aside _ _
        · exact sendInterrupt_aside _ _
      · exact sendInterrupt_aside _ _
    · exact sendInterrupt_aside _ _

/-- A full ring takes no record: the last one counts it (R327). -/
theorem writeRecord_full {r : FaultRec} {s : State} {c : Ctx} (hc : s.ctx? r.ctx = some c) (hfull : ¬ c.ring.length < 64) :
    (writeRecord r).exec s = (modCtx r.ctx fun c => { c with
      ring := c.ring.modify 63 fun n => { n with count := (n.count + 1 + r.count) % 65536 } }).exec s := by
  simp only [writeRecord, Cmd.exec_get, hc, hfull, if_false]

theorem writeRecord_aside (r : FaultRec) : (writeRecord r).Within (Aside Ctx.unrecorded) := fun s => by
  cases hc : s.ctx? r.ctx with
  | none =>
    simp only [writeRecord, Cmd.exec_get, hc]
    exact (svcPrim_aside _ s).part _
  | some c =>
    by_cases hroom : c.ring.length < 64
    · obtain ⟨notice, hn, -, he⟩ := writeRecord_room hc hroom
      rw [he]
      exact (Aside.chains _).trans (modCtx_aside (s := s)) ((hn _).part _)
    · rw [writeRecord_full hc hroom]
      exact modCtx_aside (s := s)

/-- The context of a record that finds room gains the record and a count. -/
theorem writeRecord_ctx {r : FaultRec} {s : State} {c : Ctx} (hc : s.ctx? r.ctx = some c) (hroom : c.ring.length < 64) :
    ((writeRecord r).exec s).ctx? r.ctx = some { c with ring := c.ring ++ [r], fcount := (c.fcount + 1) % 2 ^ 32 } := by
  obtain ⟨notice, hn, -, he⟩ := writeRecord_room hc hroom
  rw [he, (hn _).ctx_eq, modCtx_ctx_self, hc]
  rfl

theorem writeToSupervisor_aside (vd : Nat) (r : FaultRec) : (writeToSupervisor vd r).Within (Aside Ctx.unrecorded) :=
  Cmd.within_get fun s => by
    split
    · exact writeRecord_aside _ s
    · exact (sendInterrupt_aside _ _ s).part _

end Sys2Proof.Machine

/-! ## Poison at a sink (R32, R105, R106, R326 to R328) -/

namespace Sys2Proof.Machine

/-! ### The record of a sink -/

section
variable (s : State) (f : Firing) (origin : W64)

/-- The site that a poison's origin names. -/
def originSite (origin : W64) : Nat :=
  sidAt (natBits origin.toNat 49 48) (natBits origin.toNat 47 42) (natBits origin.toNat 41 37)

/-- The capture that belongs to a poison: that of its origin's element, if it is of the same cause and node (R32). -/
def State.sinkCapture : Option FaultRec :=
  match (s.elem (originSite origin)).capture with
  | some c => if c.cause == natBits origin.toNat 63 56 && c.onode == natBits origin.toNat 34 28 && natBits origin.toNat 41 37 < 24
      then some c else none
  | none => none

/-- The record that a sink writes of a poison without a capture: the origin's fields, the sink's position and VIA. -/
def State.poisonRecord : FaultRec :=
  let o := origin.toNat
  let rgn := match s.regionAt (originSite origin) with | some (_, r) => if natBits o 41 37 < 24 then r.rgn else f.rgn | none => f.rgn
  { s.recordAt f (natBits o 63 56) with
    vd := natBits o 55 50, die := natBits o 49 48, ox := natBits o 47 42, oy := natBits o 41 37, ofrm := natBits o 36 35,
    onode := natBits o 34 28, rgn := rgn, via := true }

/-- The record that a sink writes of a poison: a capture supplies the tag, the values and the COUNT. -/
def State.sinkRecord : FaultRec :=
  match s.sinkCapture origin with
  | some c => { s.poisonRecord f origin with tag := c.tag, vala := c.vala, valb := c.valb, count := c.count }
  | none => s.poisonRecord f origin

/-- What a sink does about a poison of which nothing has been told. -/
def State.sinkTells : Cmd := .all [
  writeRecord (s.sinkRecord f origin),
  modCtx f.ctx fun c => { c with told := (origin, (s.sinkRecord f origin).tag) :: c.told },
  .when (s.sinkCapture origin).isSome (modElem (originSite origin) fun e => { e with capture := none })]

/-- Whether a fault has been told in the firing's context (R106). -/
def State.hasTold : Bool :=
  match s.ctx? f.ctx with | some c => c.told.contains (origin, (s.sinkRecord f origin).tag) | none => false

theorem sinkPoison_exec : (sinkPoison f origin).exec s = (Cmd.when (!s.hasTold f origin) (s.sinkTells f origin)).exec s := rfl

end

section
variable {s : State} {f : Firing} {o : W64} {x : Ctx}

/-- Of a fault that has been told, a sink writes no second record (R106). -/
theorem sinkPoison_told (hx : s.ctx? f.ctx = some x) (htold : (o, (s.sinkRecord f o).tag) ∈ x.told) :
    (sinkPoison f o).exec s = s := by
  have h : s.hasTold f o = true := by simpa [State.hasTold, hx] using htold
  rw [sinkPoison_exec, h]
  rfl

theorem sinkPoison_untold (hx : s.ctx? f.ctx = some x) (htold : (o, (s.sinkRecord f o).tag) ∉ x.told) :
    (sinkPoison f o).exec s = (s.sinkTells f o).exec s := by
  have h : s.hasTold f o = false := by simpa [State.hasTold, hx] using htold
  rw [sinkPoison_exec, h]
  rfl

theorem sinkCapture_of_no_capture (hcap : (s.elem (originSite o)).capture = none) : s.sinkCapture o = none := by
  rw [State.sinkCapture, hcap]

theorem sinkRecord_of_no_capture (hcap : (s.elem (originSite o)).capture = none) : s.sinkRecord f o = s.poisonRecord f o := by
  rw [State.sinkRecord, sinkCapture_of_no_capture hcap]

/-- Telling a fault without a capture is its record and a mark in the context. -/
theorem sinkTells_of_no_capture (hcap : (s.elem (originSite o)).capture = none) :
    (s.sinkTells f o).exec s = (modCtx f.ctx fun c => { c with told := (o, f.tag) :: c.told }).exec
      ((writeRecord (s.poisonRecord f o)).exec s) := by
  rw [State.sinkTells, sinkRecord_of_no_capture hcap, sinkCapture_of_no_capture hcap]
  rfl

end

/-! ### The row SINK -/

/-- SINK on poison: the firing is recorded, and the poison is taken. -/
theorem exec_sink_poison {s : State} {o : W64} (f : PlumbNode) (ho : s.cur.poison? = some o) :
    exec (.sink f) s = .next ((sinkPoison s.cur o).exec ((markFired s.cur).exec s)) := by
  change (sinkNode s.cur f.toHdr false .skip).next s = _
  simp [sinkNode, ho]

section
variable {s : State} {x : Ctx}

/-- Once its firing is recorded, the context differs in its progress cycle alone. -/
theorem markFired_ctx_some {f : Firing} (hx : s.ctx? f.ctx = some x) :
    ((markFired f).exec s).ctx? f.ctx = some { x with lastProgress := s.now } := by
  rw [markFired_ctx, hx]
  rfl

/-- A handler's notice is an append of the value to queue 63 of its context, due at once (R328). -/
theorem noticeAppend_due (ctx : Nat) (v : W64) : ((noticeAppend ctx v).exec s).due s.now (.deviceQueueAppend s.serial) :=
  mem_agendaInsert.2 (.inl rfl)

theorem noticeAppend_reservation (ctx : Nat) (v : W64) : ((noticeAppend ctx v).exec s).run.reservations.get? s.serial =
    some ⟨none, ctx, 63, 0xFFFFFFFFFFFFFFFF, .scalar v, none, none, 0⟩ :=
  Tbl.get?_set_self ..

variable {o : W64} {f : Firing}

/-- A sink writes an untold poison to a ring with room, marks it as told, and a handler is sent the new count. -/
theorem sinkPoison_writes (hx : s.ctx? f.ctx = some x) (hcap : (s.elem (originSite o)).capture = none)
    (htold : (o, f.tag) ∉ x.told) (hroom : x.ring.length < 64) :
    let t := (sinkPoison f o).exec s
    t.ctx? f.ctx = some { x with
      ring := x.ring ++ [s.poisonRecord f o], fcount := (x.fcount + 1) % 2 ^ 32, told := (o, f.tag) :: x.told } ∧
    (x.hasHandler = true → t.due s.now (.deviceQueueAppend s.serial) ∧ t.run.reservations.get? s.serial =
      some ⟨none, f.ctx, 63, 0xFFFFFFFFFFFFFFFF, .scalar (BitVec.ofNat 64 ((x.fcount + 1) % 2 ^ 32)), none, none, 0⟩) := by
  have hrec : s.ctx? (s.poisonRecord f o).ctx = some x := hx
  rw [sinkPoison_untold hx (by rwa [sinkRecord_of_no_capture hcap]), sinkTells_of_no_capture hcap]
  refine ⟨?ctx, fun hhandler => ?notice⟩
  case ctx =>
    have hwritten := writeRecord_ctx hrec hroom
    rw [modCtx_ctx_self, show f.ctx = (s.poisonRecord f o).ctx from rfl, hwritten]
    rfl
  case notice =>
    obtain ⟨notice, -, hnotice, he⟩ := writeRecord_room hrec hroom
    rw [he, hnotice hhandler]
    exact ⟨noticeAppend_due _ _, noticeAppend_reservation _ _⟩

/-- A full ring counts an untold poison in its last record. -/
theorem sinkPoison_full (hx : s.ctx? f.ctx = some x) (hcap : (s.elem (originSite o)).capture = none)
    (htold : (o, f.tag) ∉ x.told) (hfull : ¬ x.ring.length < 64) :
    ∃ n : FaultRec → FaultRec, ((sinkPoison f o).exec s).ctx? f.ctx =
      some { x with ring := x.ring.modify 63 n, told := (o, f.tag) :: x.told } := by
  have hrec : s.ctx? (s.poisonRecord f o).ctx = some x := hx
  rw [sinkPoison_untold hx (by rwa [sinkRecord_of_no_capture hcap]), sinkTells_of_no_capture hcap,
    writeRecord_full hrec hfull, modCtx_ctx_self, show f.ctx = (s.poisonRecord f o).ctx from rfl, modCtx_ctx_self, hrec]
  exact ⟨_, rfl⟩

end

/-- Settles O13: a SINK records its firing and takes the poison; what the record says is read off the poison's origin. -/
theorem sinksWriteRecords : Obligations.SinksWriteRecords := by
  unfold Obligations.SinksWriteRecords
  intro s f x o ho hx c b ring count hcap
  have hx' := markFired_ctx_some hx
  have hcap' : (((markFired s.cur).exec s).elem (originSite o)).capture = none := by rw [markFired_elem]; exact hcap
  have hanswers : ∀ P : State → Prop, P ((sinkPoison c o).exec ((markFired c).exec s)) → Answers (.sink f) s P :=
    fun P hP => ⟨_, exec_sink_poison f ho, hP⟩
  refine ⟨fun htold hroom => hanswers _ ?room, fun htold hfull => hanswers _ ?full, fun htold => hanswers _ ?told⟩
  case room =>
    obtain ⟨hctx, hnotice⟩ := sinkPoison_writes hx' hcap' htold hroom
    refine ⟨⟨((markFired c).exec s).poisonRecord c o, by simp [ring, c, hctx], ?_⟩, by simp [count, c, hctx], fun hhandler => ?_⟩
    · exact ⟨rfl, rfl, rfl, rfl, rfl, rfl, rfl, rfl, rfl, rfl, rfl, rfl, rfl⟩
    · obtain ⟨hdue, hres⟩ := hnotice hhandler
      rw [markFired_now, markFired_serial] at hdue
      rw [markFired_serial] at hres
      exact ⟨hdue, by rw [hres]; rfl⟩
  case full =>
    obtain ⟨n, hctx⟩ := sinkPoison_full hx' hcap' htold hfull.not_lt
    have htake : (x.ring.modify 63 n).take 63 = x.ring.take 63 := by simp [List.modify_eq_take_drop, hfull]
    simp [ring, count, c, hctx, hfull, htake]
  case told =>
    rw [sinkPoison_told hx' (by rwa [sinkRecord_of_no_capture hcap'])]
    simp [ring, count, c, hx']

end Sys2Proof.Machine

/-! ## What taking a fault leaves alone (R32, R105, R106, R326)

`FaultFrame p` allows what `Aside Ctx.unrecorded` allows, and of every element a change in fields that `p` does not keep. -/

namespace Sys2Proof.Machine

/-- Between two states the matching sets, the cycle, the part `p` of every element and all of a context but its records are the
same, and no due task is lost. -/
structure FaultFrame {α : Type} (p : Element → α) (s t : State) : Prop where
  elem : ∀ k, p (t.elem k) = p (s.elem k)
  sets : t.fab.sets = s.fab.sets
  now : t.now = s.now
  ctx : ∀ c, (t.ctx? c).map Ctx.unrecorded = (s.ctx? c).map Ctx.unrecorded
  agenda : ∀ x ∈ s.agenda, x ∈ t.agenda

/-- An element but for its fault capture. -/
def Element.uncaptured (e : Element) : Element := { e with capture := none }

section
variable {α β : Type} {p : Element → α} {s t : State}

theorem FaultFrame.chains (p : Element → α) : Chains (FaultFrame p) where
  refl _ := ⟨fun _ => rfl, rfl, rfl, fun _ => rfl, fun _ h => h⟩
  trans a b := ⟨fun k => (b.elem k).trans (a.elem k), b.sets.trans a.sets, b.now.trans a.now, fun c => (b.ctx c).trans (a.ctx c),
    fun x h => b.agenda x (a.agenda x h)⟩

theorem FaultFrame.comp (h : FaultFrame p s t) (k : α → β) : FaultFrame (k ∘ p) s t :=
  { h with elem := fun e => congrArg k (h.elem e) }

theorem FaultFrame.set (h : FaultFrame p s t) (k : Nat) : t.set? k = s.set? k := by rw [State.set?, h.sets]; rfl

/-- What a context keeps whatever is recorded in it is kept. -/
theorem FaultFrame.ctx_comp (h : FaultFrame p s t) (k : Ctx → β) (c : Nat) :
    (t.ctx? c).map (k ∘ Ctx.unrecorded) = (s.ctx? c).map (k ∘ Ctx.unrecorded) := by
  rw [← Option.map_map, h.ctx, Option.map_map]

theorem State.vdOfCtx_eq (s : State) (c : Nat) : s.vdOfCtx c = ((s.ctx? c).map (·.vd)).getD 0 := by
  rw [State.vdOfCtx]
  cases s.ctx? c <;> rfl

theorem FaultFrame.vdOfCtx (h : FaultFrame p s t) (c : Nat) : t.vdOfCtx c = s.vdOfCtx c := by
  rw [State.vdOfCtx_eq, State.vdOfCtx_eq]
  exact congrArg (Option.getD · 0) (h.ctx_comp (·.vd) c)

theorem Aside.faultFrame (h : Aside Ctx.unrecorded s t) (p : Element → α) : FaultFrame p s t :=
  ⟨fun k => by rw [h.elem], by rw [h.fab], h.now, h.ctx, h.agenda⟩

/-- A change of an element in fields that are not kept. -/
theorem modElem_faultFrame {k : Nat} {g : Element → Element} (hg : ∀ e, p (g e) = p e := by exact fun _ => rfl) :
    (modElem k g).Within (FaultFrame p) := fun s =>
  { (FaultFrame.chains p).refl s with
    elem := fun j => by
      by_cases hj : j = k
      · subst hj
        rw [modElem_elem_self, hg]
      · rw [modElem_elem_ne g s hj] }

end

/-! ### Captures and sinks -/

theorem foldCapture_frame (sid : Nat) : (foldCapture sid).Within (FaultFrame Element.uncaptured) := modElem_faultFrame

theorem freshFault_aside (f : Firing) (o : W64) : (freshFault f o).Within (Aside Ctx.unrecorded) := modCtx_aside

theorem siteError_aside (sid : Nat) : (siteError sid).Within (Aside id) :=
  Cmd.within_get fun s => Cmd.within_seq (Aside.chains id) (svcPrim_aside _)
    (Cmd.within_when (Aside.chains id) fun _ => after_aside _ _) s

/-- A sink changes captures and records. -/
theorem sinkPoison_frame (f : Firing) (o : W64) : (sinkPoison f o).Within (FaultFrame Element.uncaptured) := fun s => by
  have hR := FaultFrame.chains Element.uncaptured
  rw [sinkPoison_exec]
  exact Cmd.within_when hR (fun _ => Cmd.within_seq hR (fun s => (writeRecord_aside _ s).faultFrame _)
    (Cmd.within_seq hR (fun s => (modCtx_aside (s := s)).faultFrame _) (Cmd.within_when hR fun _ => modElem_faultFrame))) s

/-! ### Poison from a slot's node -/

/-- The results of a header without a valid destination are none. -/
theorem results_of_no_dest {h : Hdr} (hd : ¬ (h.d0.val || h.d1.val) = true) (f : Firing) (due : Nat) (tag : W64) (v0 v1 : Val) :
    f.results h due tag v0 v1 = [] := by
  simp only [Bool.or_eq_true, not_or, Bool.not_eq_true] at hd
  simp [Firing.results, hd]

section
variable (f : Firing) {w : Rec} (cause : Nat) (s : State)

/-- From a node with a valid destination poison goes out. -/
theorem emitFrom_of_dest (hd : (((RawNode.unpack w).hdr .always).d0.val || ((RawNode.unpack w).hdr .always).d1.val) = true) :
    let o := f.origin (s.vdOfCtx f.ctx) cause
    (emitFrom f w cause).exec s = (emit f ((RawNode.unpack w).hdr .always) 0 f.tag (.poison o)).exec ((freshFault f o).exec s) := by
  intro o
  rw [← emitPoison_of_dest hd]
  rfl

/-- A node without a valid destination acts as a sink (R326). -/
theorem emitFrom_of_no_dest (hd : ¬ (((RawNode.unpack w).hdr .always).d0.val || ((RawNode.unpack w).hdr .always).d1.val) = true) :
    let o := f.origin (s.vdOfCtx f.ctx) cause
    (emitFrom f w cause).exec s = (sinkPoison f o).exec ((freshFault f o).exec s) := by
  simp only [emitFrom, Cmd.exec_get, Cmd.exec_seq, emitPoison, hd]
  rfl

end

/-- Poison that an element emits from a slot's node stands in its output buffers (R29, R32). -/
theorem emitFrom_outs (f : Firing) (w : Rec) (cause : Nat) (s : State) :
    let o := f.origin (s.vdOfCtx f.ctx) cause
    (((emitFrom f w cause).exec s).elem f.sid).outs = (s.elem f.sid).outs ++
      f.results ((RawNode.unpack w).hdr .always) (s.now + 0) f.tag (.poison o) (.poison o) := by
  intro o
  by_cases hd : (((RawNode.unpack w).hdr .always).d0.val || ((RawNode.unpack w).hdr .always).d1.val) = true
  · rw [emitFrom_of_dest f cause s hd]
    exact ((emit_sends ..).after rfl rfl).outs
  · rw [emitFrom_of_no_dest f cause s hd, results_of_no_dest hd, List.append_nil]
    exact (sinkPoison_frame f o _).comp Element.outs |>.elem f.sid

/-- An element but for its output buffers. -/
def Element.unsent (e : Element) : Element := { e with outs := [] }

theorem emit_frame (f : Firing) (h : Hdr) (lat : Nat) (tag : W64) (v : Val) :
    (emit f h lat tag v).Within (FaultFrame Element.unsent) := by
  have hR := FaultFrame.chains Element.unsent
  have hput : ∀ which tok, (putOut f.sid f.fid which lat tok).Within (FaultFrame Element.unsent) := fun _ _ =>
    Cmd.within_seq hR (Cmd.within_get fun s => modElem_faultFrame (s := s)) fun s => ((after_aside _ _ s).part _).faultFrame _
  exact Cmd.within_seq hR (Cmd.within_when hR fun _ => hput _ _) (Cmd.within_when hR fun _ => hput _ _)

/-- Poison from a slot's node changes output buffers, captures and records. -/
theorem emitFrom_frame (f : Firing) (w : Rec) (cause : Nat) : (emitFrom f w cause).Within (FaultFrame Element.still) := by
  have hR := FaultFrame.chains Element.still
  refine Cmd.within_get fun s => Cmd.within_seq hR (fun s => (freshFault_aside _ _ s).faultFrame _) ?_ s
  unfold emitPoison
  split
  · exact fun s => (emit_frame f _ _ _ _ s).comp Element.still
  · exact fun s => (sinkPoison_frame f _ s).comp Element.still

/-! ## Errors and stops (R29, R45, R252) -/

/-- An element but for its parked firings. -/
def Element.unparked (e : Element) : Element := { e with parked := [] }

theorem dropParked_frame (sid : Nat) (m : MatchEntry) : (dropParked sid m).Within (FaultFrame Element.unparked) :=
  Cmd.within_when (FaultFrame.chains _) fun _ => modElem_faultFrame

theorem setWay_set_self (key k : Nat) (w : Way) (s : State) :
    ((setWay key k w).exec s).set? key = { s.set? key with ways := (s.set? key).ways.set k w } := modSet_set_self ..

/-- A way of a set that holds something holds what is put into it. -/
theorem setWay_ways_getElem {key k : Nat} {w v : Way} {s : State} (hv : (s.set? key).ways[k]? = some v) :
    (((setWay key k w).exec s).set? key).ways[k]? = some w := by
  rw [setWay_set_self]
  exact List.getElem?_set_self (List.getElem?_eq_some_iff.1 hv).1

/-- An uncorrectable error in the operands of an entry poisons it, and poison leaves its node (R29). -/
theorem matchEccError_poisons {s : State} {set way : Nat} {m : MatchEntry} {slot : Nat} {sl : NodeSlot}
    (hway : (s.set? set).ways[way]? = some (.held m))
    (hslot : (s.elem (siteOfSet set m.e)).slotOf m.frm m.node = some (slot, sl)) (hm : m.poisoned = false) :
    let sid := siteOfSet set m.e
    let f := slotFiring sid slot sl m.tag
    let o := f.origin (s.vdOfCtx sl.ctx) 0x0C
    Answers (.matchEccError set way false) s fun u => (u.set? set).ways[way]? = some (.held m.poison) ∧
      (u.elem sid).outs = (s.elem sid).outs ++ f.results ((RawNode.unpack sl.word).hdr .always) (s.now + 0) m.tag
        (.poison o) (.poison o) := by
  intro sid f o
  let before := Cmd.all [siteError sid, foldCapture sid, dropParked sid m]
  have hexec : exec (.matchEccError set way false) s =
      .next ((setWay set way (.held m.poison)).exec ((emitFrom f sl.word causeEcc).exec (before.exec s))) := by
    change (matchError set way false).next s = _
    simp only [matchError, Cmd.next_eq, Cmd.exec_get, hway, hslot, hm]
    rfl
  have hbefore : FaultFrame Element.outs s (before.exec s) := by
    refine Cmd.within_all (FaultFrame.chains Element.outs) ?_ s
    simp only [List.forall_mem_cons, List.not_mem_nil, false_imp_iff, implies_true, and_true]
    exact ⟨fun s => ((siteError_aside _ s).part _).faultFrame _, fun s => (foldCapture_frame _ s).comp Element.outs,
      fun s => (dropParked_frame _ _ s).comp Element.outs⟩
  have hsets := (emitFrom_frame f sl.word causeEcc (before.exec s)).set set
  refine ⟨_, hexec, setWay_ways_getElem (v := .held m) ?_, ?_⟩
  · rw [hsets, hbefore.set, hway]
  · have houts := emitFrom_outs f sl.word causeEcc (before.exec s)
    rw [hbefore.elem, hbefore.now, hbefore.vdOfCtx] at houts
    exact houts

/-- A stop reaches the element of its site alone (R45). -/
theorem stopWave_stops {s : State} {sid k : Nat} {r : Region} (hr : s.regionAt sid = some (k, r)) (hstop : r.stopped = true) :
    Answers (.stopWave sid) s fun u => (u.elem sid).stopped = true ∧ ∀ x, x ≠ sid → u.elem x = s.elem x := by
  let stopped := (modElem sid fun e => { e with stopped := true }).exec s
  obtain ⟨settle, hsettle, hexec⟩ : ∃ c : Cmd, c.Within (Aside fun _ => ()) ∧ exec (.stopWave sid) s = .next (c.exec stopped) := by
    refine ⟨?rest, ?settle, ?exec⟩
    case exec =>
      change execStopWave sid s = _
      simp only [execStopWave, hr, hstop, Cmd.next_eq, Cmd.exec_when_true, Cmd.exec_seq]
      rfl
    case settle =>
      refine Cmd.within_get fun t => ?_
      split
      · split
        · exact Cmd.within_skip (Aside.chains _) t
        · split
          · exact modCtx_aside (s := t)
          · exact (after_aside _ _ t).part _
      · exact Cmd.within_skip (Aside.chains _) t
  refine ⟨_, hexec, ?_, fun x hx => ?_⟩
  · rw [(hsettle _).elem, modElem_elem_self]
  · rw [(hsettle _).elem, modElem_elem_ne _ _ hx]

/-- A task that one part of a sequence makes due is due after the whole sequence. -/
theorem each_agenda {α β : Type} {g : Ctx → β} {xs : List α} {f : α → Cmd} (hw : ∀ x ∈ xs, (f x).Within (Aside g)) {x : α}
    (hx : x ∈ xs) {y : Nat × Task} {s : State} (hy : ∀ t : State, t.now = s.now → y ∈ ((f x).exec t).agenda) :
    y ∈ ((Cmd.each xs f).exec s).agenda := by
  induction xs generalizing s with
  | nil => exact absurd hx List.not_mem_nil
  | cons z zs ih =>
    have hz := hw z List.mem_cons_self s
    have hzs : ∀ x ∈ zs, (f x).Within (Aside g) := fun x h => hw x (List.mem_cons_of_mem _ h)
    rw [Cmd.exec_each_cons]
    rcases List.mem_cons.1 hx with rfl | hx
    · exact (Cmd.within_each (Aside.chains g) hzs _).agenda _ (hy s rfl)
    · exact ih hzs hx fun t ht => hy t (ht.trans hz.now)

/-- Freezing a context sends a stop wave over its regions, one cycle per site of distance (R45). -/
theorem freezeContext_stopWave {s : State} {ctx sid : Nat} {r : Region} (hr : r ∈ s.regionsOf ctx) (hsid : sid ∈ r.sites) :
    ((freezeContext ctx).exec s).due (s.now + (1 + (xOf sid - r.x0) + (yOf sid - r.y0))) (.stopWave sid) := by
  have hwave : ∀ r : Region, ∀ k ∈ r.sites, (after (1 + (xOf k - r.x0) + (yOf k - r.y0)) (.stopWave k)).Within (Aside id) :=
    fun _ _ _ => after_aside _ _
  refine each_agenda (fun x _ => Cmd.within_seq (Aside.chains id) (blocksPrim_aside _)
    (Cmd.within_each (Aside.chains id) (hwave x))) hr fun t ht => ?_
  refine each_agenda (hwave r) hsid fun u hu => mem_agendaInsert.2 (.inl ?_)
  rw [hu]
  exact congrArg (fun n => (n + (1 + (xOf sid - r.x0) + (yOf sid - r.y0)), Task.ev (.stopWave sid))) ht.symm

theorem freezeContext_state {s : State} {ctx : Nat} {c : Ctx} (hc : s.ctx? ctx = some c) :
    ((freezeContext ctx).exec s).ctx? ctx = some { c with state := .freezing } := by
  have hregions : (Cmd.each (s.regionsOf ctx) fun r => .seq (modRegion ctx r.rgn fun r => { r with stopped := true })
      (Cmd.each r.sites fun sid => after (1 + (xOf sid - r.x0) + (yOf sid - r.y0)) (.stopWave sid))).Within (Aside id) :=
    Cmd.within_each (Aside.chains id) fun r _ => Cmd.within_seq (Aside.chains id) (blocksPrim_aside _)
      (Cmd.within_each (Aside.chains id) fun _ _ => after_aside _ _)
  refine ((hregions _).ctx_eq ctx).trans ?_
  rw [modCtx_ctx_self, hc]
  rfl

/-- When the full counter has run out, the context freezes (R252). -/
theorem sidefull_freezes {s : State} {ctx t : Nat} {c : Ctx} (hc : s.ctx? ctx = some c) (hfull : c.siding.fullSince = some t)
    (hstate : c.state = .running ∨ c.state = .stopped) (hlimit : Config.fullLimit ≤ c.siding.waiting + (s.now - t)) :
    Answers (.sidefull ctx) s fun u => (u.ctx? ctx).map (·.state) = some .freezing ∧
      ∀ r ∈ s.regionsOf ctx, ∀ sid ∈ r.sites, u.due (s.now + (1 + (xOf sid - r.x0) + (yOf sid - r.y0))) (.stopWave sid) := by
  obtain ⟨tell, htell, hexec⟩ : ∃ c : Cmd, c.Within (Aside Ctx.unrecorded) ∧
      exec (.sidefull ctx) s = .next (c.exec ((freezeContext ctx).exec s)) := by
    have hgo : (decide (c.siding.waiting + (s.now - t) < Config.fullLimit) || !(c.state == .running || c.state == .stopped)) =
        false := by
      rcases hstate with h | h <;> simpa [h] using hlimit
    refine ⟨?rest, ?tell, ?exec⟩
    case exec =>
      change execSidefull ctx s = _
      simp only [execSidefull, hc, hfull, hgo, Cmd.next_eq, Bool.false_eq_true, if_false]
      rw [Cmd.exec_all_cons]
    case tell =>
      exact Cmd.within_seq (Aside.chains _) (fun s => (sendInterrupt_aside c.vd 4 s).part _)
        (Cmd.within_opt (Aside.chains _) fun x => writeToSupervisor_aside _ _)
  refine ⟨_, hexec, ?_, fun r hr sid hsid => (htell _).agenda _ (freezeContext_stopWave hr hsid)⟩
  have h := (htell ((freezeContext ctx).exec s)).comp (·.state) |>.ctx ctx
  rw [freezeContext_state hc] at h
  exact h

/-- Settles O28: an error poisons the entry and its node sends poison; a stop changes one element; the full counter freezes its
context and sends out the stop wave. -/
theorem errorsAndStops : Obligations.ErrorsAndStops :=
  ⟨fun _ _ _ _ _ _ hway hslot hm => matchEccError_poisons hway hslot hm, fun _ _ _ _ hr hstop => stopWave_stops hr hstop,
    fun _ _ _ _ hc hfull hstate hlimit => sidefull_freezes hc hfull hstate hlimit⟩

end Sys2Proof.Machine

/-! ## Tokens hop from box to box (R37 to R41, R371, R373)

A hop marks the VDs that waited only for a credit, takes the token from its input, spends a credit of its VD, notes the output
that has passed it, and delivers it. Each of these five parts leaves alone what the others say. -/

namespace Sys2Proof.Machine

/-! ### Credits -/

/-- Credits are part of the tenancy state. -/
theorem credit_of_ten {s t : State} (h : t.ten = s.ten) (key vd : Nat) : t.credit key vd = s.credit key vd := by
  simp only [State.credit, State.idleCredit, State.vd, h]

theorem setCredit_credit_self (key vd : Nat) (c : Credit) (s : State) : ((setCredit key vd c).exec s).credit key vd = c := by
  simp [State.credit, setCredit]

/-- A credit of one VD leaves those of the others. -/
theorem setCredit_credit_ne {key vd v : Nat} (c : Credit) (s : State) (hv : vd ≠ v) :
    ((setCredit key v c).exec s).credit key vd = s.credit key vd := by
  simp only [State.credit, setCredit, Cmd.exec_prim, Prim.ten_ten, Tbl.get?_set_self, Tbl.get?_set_ne _ _ hv, Tbl.getD]
  cases s.ten.buckets.get? key <;> rfl

theorem spend_credit (key vd n : Nat) (s : State) :
    (((spend key vd n).exec s).credit key vd).left = (s.credit key vd).left - n :=
  congrArg Credit.left (setCredit_credit_self ..)

/-- Between two states a VD's credit at an arbiter, the fabric and the cycle are the same. -/
structure WaitFrame (key vd : Nat) (s t : State) : Prop where
  credit : t.credit key vd = s.credit key vd
  fab : t.fab = s.fab
  now : t.now = s.now

theorem WaitFrame.chains (key vd : Nat) : Chains (WaitFrame key vd) where
  refl _ := ⟨rfl, rfl, rfl⟩
  trans a b := ⟨b.credit.trans a.credit, b.fab.trans a.fab, b.now.trans a.now⟩

/-- Marking VDs that waited for a credit leaves the others' credits. -/
theorem markWaited_frame {key vd v : Nat} (hv : vd ≠ v) : (markWaited key v).Within (WaitFrame key vd) :=
  fun s => ⟨setCredit_credit_ne _ s hv, rfl, rfl⟩

/-! ### Taking and delivering a token -/

/-- Between two states the tenancy state, the cycle and every box whose key is not listed are the same. -/
structure HopFrame (keys : List Nat) (s t : State) : Prop where
  ten : t.ten = s.ten
  now : t.now = s.now
  box : ∀ k, k ∉ keys → t.box k = s.box k

section
variable (keys : List Nat)

theorem HopFrame.chains : Chains (HopFrame keys) where
  refl _ := ⟨rfl, rfl, fun _ _ => rfl⟩
  trans a b := ⟨b.ten.trans a.ten, b.now.trans a.now, fun k hk => (b.box k hk).trans (a.box k hk)⟩

theorem modElem_hopFrame (k : Nat) (f : Element → Element) : (modElem k f).Within (HopFrame keys) :=
  fun _ => ⟨rfl, rfl, fun _ _ => rfl⟩

theorem after_hopFrame (n : Nat) (i : Instr) : (after n i).Within (HopFrame keys) := fun _ => ⟨rfl, rfl, fun _ _ => rfl⟩

theorem afterOnce_hopFrame (n : Nat) (i : Instr) : (afterOnce n i).Within (HopFrame keys) :=
  Cmd.within_get fun s => Cmd.within_when (HopFrame.chains keys) (fun _ => after_hopFrame keys n i) s

end

theorem modBox_hopFrame (k : Nat) (f : SwitchBox → SwitchBox) : (modBox k f).Within (HopFrame [k]) := fun s =>
  ⟨rfl, rfl, fun _ hj => modBox_box_ne f s (List.ne_of_not_mem_cons hj)⟩

/-- Taking a token away changes its box and its element. -/
theorem takeOffer_hopFrame (sid : Nat) (net : Net) (out input : Dir) (t : Token) :
    (takeOffer sid net out input t).Within (HopFrame [boxKey sid net]) := by
  have hR := HopFrame.chains [boxKey sid net]
  have hbuf : ∀ d : Dir, (Cmd.seq (modBox (boxKey sid net) fun b => { b with bufs := b.bufs.filter fun (i, _) => i != d })
      (Cmd.opt (neighbour sid d) fun n => .get fun s => .when (dirOrder.any fun i => (s.offer n net (dirBack d) i).isSome)
        (afterOnce 0 (.tokenHop n net (dirBack d))))).Within (HopFrame [boxKey sid net]) := fun d =>
    Cmd.within_seq hR (modBox_hopFrame _ _) (Cmd.within_opt hR fun _ => Cmd.within_get fun s =>
      Cmd.within_when hR (fun _ => afterOnce_hopFrame _ _ _) s)
  cases input with
  | loc =>
    refine Cmd.within_get fun s => Cmd.within_opt hR (fun o => ?_) s
    refine Cmd.within_seq hR (modElem_hopFrame _ _ _) (Cmd.within_get fun s' => Cmd.within_opt hR (fun n => ?_) s')
    exact Cmd.within_seq hR (modElem_hopFrame _ _ _) (afterOnce_hopFrame _ _ _)
  | north => exact hbuf .north
  | south => exact hbuf .south
  | east => exact hbuf .east
  | west => exact hbuf .west

theorem setInput_input (sid : Nat) (net : Net) (t : Option Token) (s : State) :
    (((setInput sid net t).exec s).elem sid).input net = t := by
  rw [setInput, modElem_elem_self]
  cases net <;> rfl

theorem withhold_input (sid : Nat) (net : Net) (s : State) :
    (((withhold sid net).exec s).elem sid).input net = (s.elem sid).input net := by
  rw [withhold, modElem_elem_self]
  cases net <;> rfl

theorem wakeInput_aside (sid : Nat) : (wakeInput sid).Within (Aside id) :=
  Cmd.within_get fun s => Cmd.within_when (Aside.chains id) (fun _ => after_aside _ _) s

/-- After its input buffers look for a token, an element has a token's arrival due. -/
theorem wakeInput_due (sid : Nat) (s : State) : ∃ n, ((wakeInput sid).exec s).due n (.tokenArrive sid) := by
  simp only [wakeInput, Cmd.exec_get]
  cases h : s.isDue (.tokenArrive sid) with
  | false => exact ⟨_, mem_agendaInsert.2 (.inl rfl)⟩
  | true =>
    obtain ⟨⟨n, task⟩, hmem, htask⟩ := List.any_eq_true.1 h
    cases task with
    | ev j => exact ⟨n, by rw [← beq_iff_eq.1 htask]; exact hmem⟩
    | issue | refire => exact absurd htask Bool.false_ne_true

/-- The last parts of a delivery to an element: a withheld token, comparators, and the look for a token. -/
def announce (sid : Nat) (net : Net) (hits : List Nat) : Cmd := .all [
  .when (!hits.isEmpty) (withhold sid net), Cmd.each hits fun k => after 0 (.comparatorHit sid net k), wakeInput sid]

theorem deliverHop_loc (sid : Nat) (net : Net) (t : Token) (s : State) :
    (deliverHop sid net .loc t).exec s = (announce sid net (s.hitsAt sid t)).exec ((setInput sid net (some t)).exec s) := rfl

/-- A token that moves into its element stands at the input, its arrival is due, and nothing beside the element changes. -/
theorem deliverHop_loc_spec (sid : Nat) (net : Net) (t : Token) (s : State) :
    let u := (deliverHop sid net .loc t).exec s
    (u.elem sid).input net = some t ∧ (∃ n, u.due n (.tokenArrive sid)) ∧ HopFrame [] s u := by
  have hR := HopFrame.chains []
  have hhits : (Cmd.each (s.hitsAt sid t) fun k => after 0 (.comparatorHit sid net k)).Within (Aside id) :=
    Cmd.within_each (Aside.chains id) fun _ _ => after_aside _ _
  have hframe : (announce sid net (s.hitsAt sid t)).Within (HopFrame []) :=
    Cmd.within_seq hR (Cmd.within_when hR fun _ => modElem_hopFrame _ _ _) (Cmd.within_seq hR
      (Cmd.within_each hR fun _ _ => after_hopFrame _ _ _) (Cmd.within_get fun s =>
        Cmd.within_when hR (fun _ => after_hopFrame _ _ _) s))
  rw [deliverHop_loc]
  refine ⟨?_, wakeInput_due _ _, hR.trans (modElem_hopFrame _ _ _ s) (hframe _)⟩
  rw [announce, Cmd.exec_all_cons, Cmd.exec_all_cons, Cmd.exec_all_one, (wakeInput_aside _ _).elem, (hhits _).elem]
  refine Eq.trans ?_ (setInput_input sid net (some t) s)
  cases (s.hitsAt sid t).isEmpty
  · exact withhold_input ..
  · rfl

theorem neighbour_ne {sid n : Nat} {d : Dir} (hd : d ≠ .loc) (hn : neighbour sid d = some n) : n ≠ sid := by
  cases d
  case loc => exact absurd rfl hd
  all_goals
    obtain ⟨h, hsome⟩ := Option.ite_none_right_eq_some.1 hn
    simp only [Option.some.injEq, yOf, xOf] at h hsome
    omega

theorem boxKey_ne {sid n : Nat} (h : n ≠ sid) (net : Net) : boxKey n net ≠ boxKey sid net := by
  simp only [boxKey]
  omega

/-- A token that moves to the next box joins its facing buffer, and hops on in the next cycle. -/
theorem deliverHop_box {sid n : Nat} {out : Dir} (hout : out ≠ .loc) (hn : neighbour sid out = some n) (net : Net) (t : Token)
    (s : State) :
    let u := (deliverHop sid net out t).exec s
    (u.box (boxKey n net)).bufs = (s.box (boxKey n net)).bufs ++ [(dirBack out, t)] ∧
      u.due (s.now + 1) (.tokenHop n net (t.routeAt n)) ∧ HopFrame [boxKey n net] s u := by
  have h : (deliverHop sid net out t).exec s = (Cmd.seq (modBox (boxKey n net) fun b => { b with
      bufs := b.bufs ++ [(dirBack out, t)], came := (b.came.filter fun (i, _) => i != dirBack out) ++ [(dirBack out, s.now)] })
      (after 1 (.tokenHop n net (t.routeAt n)))).exec s := by
    cases out <;> simp_all [deliverHop]
  rw [h]
  refine ⟨?_, mem_agendaInsert.2 (.inl rfl),
    Cmd.within_seq (HopFrame.chains _) (modBox_hopFrame _ _) (after_hopFrame _ _ _) s⟩
  rw [Cmd.exec_seq, (after_aside _ _ _).box, modBox_box_self]

/-! ### The row TOKEN_HOP -/

section
variable {s : State} {sid : Nat} {net : Net} {out i : Dir} {t : Token}

/-- The tokens that the inputs of a box offer to an output, in round-robin order (R40). -/
def State.offers (s : State) (sid : Nat) (net : Net) (out : Dir) : List (Dir × Token) :=
  (s.rrInputs sid net out).filterMap fun j => (s.offer sid net out j).map fun u => (j, u)

/-- Whether the VD of an offered token holds a credit at an output (R371). -/
def State.paid (s : State) (sid : Nat) (net : Net) (out : Dir) (x : Dir × Token) : Bool :=
  s.hasCredit (portArbiter (boxKey sid net) out) (s.vdOfDomain (tagDomain x.2.tag))

/-- The VDs that wait only for a credit. -/
def State.unpaidVds (s : State) (sid : Nat) (net : Net) (out : Dir) : List Nat :=
  (((s.offers sid net out).filter fun x => !s.paid sid net out x).map fun x => s.vdOfDomain (tagDomain x.2.tag)).dedup

/-- What a hop does before it delivers: VDs that waited are marked, the token is taken, its credit spent, and the pass noted. -/
def passHop (s : State) (sid : Nat) (net : Net) (out i : Dir) (t : Token) : State :=
  let port := portArbiter (boxKey sid net) out
  (modBox (boxKey sid net) fun b => { b with
    last := (b.last.filter fun (o, _) => o != out) ++ [(out, i)]
    passed := (b.passed.filter fun (o, _) => o != out) ++ [(out, s.now)] }).exec
      ((spend port (s.vdOfDomain (tagDomain t.tag)) 1).exec ((takeOffer sid net out i t).exec
        ((Cmd.each (s.unpaidVds sid net out) (markWaited port)).exec s)))

/-- The first cycle after the one in which an output last passed a token, or 0. -/
def State.passedAt (s : State) (sid : Nat) (net : Net) (out : Dir) : Nat :=
  match (s.box (boxKey sid net)).passed.find? fun (o, _) => o == out with | some (_, c) => c + 1 | none => 0

/-- Whether an output has passed a token too lately to pass another (R40). -/
def State.portBusy (s : State) (sid : Nat) (net : Net) (out : Dir) : Bool :=
  s.now < s.passedAt sid net out || (net == .vector && s.now = s.passedAt sid net out && s.passedAt sid net out != 0)

/-- What a hop does with the first token whose VD holds a credit, if there is one. -/
def hopFirst (s : State) (sid : Nat) (net : Net) (out : Dir) : Option (Dir × Token) → Cmd
  | none => afterOnce 1 (.tokenHop sid net out)
  | some (i, t) => .all [
      takeOffer sid net out i t,
      spend (portArbiter (boxKey sid net) out) (s.vdOfDomain (tagDomain t.tag)) 1,
      modBox (boxKey sid net) fun b => { b with
        last := (b.last.filter fun (o, _) => o != out) ++ [(out, i)]
        passed := (b.passed.filter fun (o, _) => o != out) ++ [(out, s.now)] },
      deliverHop sid net out t]

theorem execTokenHop_eq (s : State) (sid : Nat) (net : Net) (out : Dir) : execTokenHop sid net out s = Cmd.next (
    if (s.offers sid net out).isEmpty || (s.elem sid).stopped then .skip
    else if s.portBusy sid net out || !s.receiverReady sid net out then afterOnce 1 (.tokenHop sid net out)
    else .seq (Cmd.each (s.unpaidVds sid net out) (markWaited (portArbiter (boxKey sid net) out)))
      (hopFirst s sid net out ((s.offers sid net out).find? (s.paid sid net out)))) s := rfl

/-- An output that last passed a token two cycles ago or earlier may pass one. -/
theorem portBusy_of_passed (hpassed : ∀ p ∈ (s.box (boxKey sid net)).passed, p.1 = out → p.2 + 1 < s.now) :
    s.portBusy sid net out = false := by
  have hat : s.passedAt sid net out < s.now ∨ s.passedAt sid net out = 0 := by
    unfold State.passedAt
    split
    · next o c hfind =>
      have hout : (o == out) = true := List.find?_some (p := fun x : Dir × Nat => x.1 == out) hfind
      exact .inl (hpassed _ (List.mem_of_find?_eq_some hfind) (beq_iff_eq.1 hout))
    · exact .inr rfl
  unfold State.portBusy
  rcases hat with h | h
  · have hlt : ¬ s.now < s.passedAt sid net out := by omega
    have hne : ¬ s.now = s.passedAt sid net out := by omega
    simp [hlt, hne]
  · simp [h]

/-- A hop that nothing holds back passes the first token whose VD holds a credit. -/
theorem exec_tokenHop_passes (hfirst : (s.offers sid net out).find? (s.paid sid net out) = some (i, t))
    (hstop : (s.elem sid).stopped = false) (hpassed : ∀ p ∈ (s.box (boxKey sid net)).passed, p.1 = out → p.2 + 1 < s.now)
    (hready : s.receiverReady sid net out = true) :
    exec (.tokenHop sid net out) s = .next ((deliverHop sid net out t).exec (passHop s sid net out i t)) := by
  have hoffers : (s.offers sid net out).isEmpty = false := by
    cases h : s.offers sid net out with
    | nil => simp [h] at hfirst
    | cons => rfl
  refine (execTokenHop_eq s sid net out).trans ?_
  rw [hoffers, hstop, portBusy_of_passed hpassed, hready, hfirst]
  rfl

/-- Before the delivery the token's VD has one credit less, and the output has served the token's input last. -/
theorem passHop_spec (hfirst : (s.offers sid net out).find? (s.paid sid net out) = some (i, t)) :
    let port := portArbiter (boxKey sid net) out
    let vd := s.vdOfDomain (tagDomain t.tag)
    ((passHop s sid net out i t).credit port vd).left = (s.credit port vd).left - 1 ∧
      (out, i) ∈ ((passHop s sid net out i t).box (boxKey sid net)).last ∧ (passHop s sid net out i t).now = s.now ∧
      ∀ k, k ≠ boxKey sid net → (passHop s sid net out i t).box k = s.box k := by
  intro port vd
  let marked := (Cmd.each (s.unpaidVds sid net out) (markWaited port)).exec s
  let taken := (takeOffer sid net out i t).exec marked
  have hmarked : WaitFrame port vd s marked := by
    refine Cmd.within_each (WaitFrame.chains port vd) (fun v hv => markWaited_frame ?_) s
    rintro rfl
    obtain ⟨x, hx, hvd⟩ := List.mem_map.1 (List.mem_dedup.1 hv)
    have hunpaid : s.paid sid net out x = false := by simpa using (List.mem_filter.1 hx).2
    have hpaid : s.paid sid net out (i, t) = true := List.find?_some hfirst
    rw [State.paid, hvd] at hunpaid
    exact Bool.false_ne_true (hunpaid.symm.trans hpaid)
  have htaken : HopFrame [boxKey sid net] marked taken := takeOffer_hopFrame _ _ _ _ _ _
  refine ⟨?credit, ?last, htaken.now.trans hmarked.now, fun k hk => ?box⟩
  case credit =>
    calc ((passHop s sid net out i t).credit port vd).left
      _ = (((spend port vd 1).exec taken).credit port vd).left := congrArg Credit.left (credit_of_ten rfl port vd)
      _ = (taken.credit port vd).left - 1 := spend_credit ..
      _ = (s.credit port vd).left - 1 := by rw [credit_of_ten htaken.ten, hmarked.credit]
  case last => simp [passHop]
  case box =>
    calc (passHop s sid net out i t).box k
      _ = taken.box k := modBox_box_ne _ _ hk
      _ = marked.box k := htaken.box k (by simpa using hk)
      _ = s.box k := by rw [State.box, hmarked.fab]; rfl

end

/-- The token hops of O27. -/
theorem tokenHops : Claims.TokenHops := by
  intro s sid net out i t port vd hfirst hstop hpassed hready
  have hexec := exec_tokenHop_passes hfirst hstop hpassed hready
  obtain ⟨hcredit, hlast, hnow, hbox⟩ := passHop_spec hfirst
  refine ⟨?loc, fun n hout hn => ?next⟩
  case loc =>
    rintro rfl
    obtain ⟨hinput, hdue, hframe⟩ := deliverHop_loc_spec sid net t (passHop s sid net .loc i t)
    exact ⟨_, hexec, hinput, by rw [credit_of_ten hframe.ten]; exact hcredit, by rw [hframe.box _ List.not_mem_nil]; exact hlast,
      hdue⟩
  case next =>
    have hkey := boxKey_ne (neighbour_ne hout hn) net
    obtain ⟨hbufs, hdue, hframe⟩ := deliverHop_box hout hn net t (passHop s sid net out i t)
    rw [hbox _ hkey] at hbufs
    rw [hnow] at hdue
    exact ⟨_, hexec, hbufs, by rw [credit_of_ten hframe.ten]; exact hcredit,
      by rw [hframe.box _ (by simpa using hkey.symm)]; exact hlast, hdue⟩

end Sys2Proof.Machine

/-! ## Tokens are admitted and matched (R24 to R32, R35, R241) -/

namespace Sys2Proof.Machine

/-! ### The steps of the match stage

Each is one change of an element or a set, and then commands beside the fabric. -/

/-- A context but for its full counter (R252). -/
def Ctx.uncounted (c : Ctx) : Ctx := { c with siding := { c.siding with waiting := 0, fullSince := none } }

theorem wakeSet_aside (key : Nat) : (wakeSet key).Within (Aside id) :=
  Cmd.within_get fun s => Cmd.within_each (Aside.chains id) (fun _ _ => afterOnce_aside _ _) s

theorem wakeCtx_aside (ctx : Nat) : (wakeCtx ctx).Within (Aside id) :=
  Cmd.within_get fun s => Cmd.within_each (Aside.chains id) (fun _ _ => afterOnce_aside _ _) s

theorem pauseFull_aside (ctx : Nat) : (pauseFull ctx).Within (Aside Ctx.uncounted) :=
  Cmd.within_get fun s => Cmd.within_when (Aside.chains _) (fun _ => modCtx_aside) s

section
variable (s : State)

/-- The match stage goes on: the element holds nothing. -/
theorem unhold_aside (sid : Nat) :
    Aside Ctx.uncounted ((modElem sid fun e => { e with held := none }).exec s) ((unhold sid).exec s) :=
  Cmd.within_get (fun s => Cmd.within_seq (Aside.chains _) (fun s => (wakeInput_aside sid s).part _) (pauseFull_aside _) s) _

/-- A way frees, for a refill while the set has spills. -/
theorem freeWayOf_aside (key k : Nat) :
    Aside id ((setWay key k (if (s.set? key).spills = 0 then .free else .reserved)).exec s) ((freeWayOf key k).exec s) := by
  by_cases h : (s.set? key).spills = 0
  · simp only [freeWayOf, Cmd.exec_get, h, if_true, Cmd.exec_seq]
    exact wakeSet_aside _ _
  · simp only [freeWayOf, Cmd.exec_get, h, if_false, Cmd.exec_seq]
    exact after_aside _ _ _

/-- A complete group enters the ready queue, and an issue of the element is due. -/
theorem pushReady_spec (lat sid slot : Nat) (sl : NodeSlot) (tag : W64) (a b c p : Option Val) :
    ∃ x : ReadyEntry, (x.slot = slot ∧ x.tag = tag ∧ x.a = a ∧ x.b = b ∧ x.c = c ∧ x.p = p) ∧
      Aside id ((modElem sid fun e => { e with ready := e.ready ++ [x] }).exec s)
        ((pushReady lat sid slot sl tag a b c p).exec s) ∧
      ∃ n, (n, Task.issue sid) ∈ ((pushReady lat sid slot sl tag a b c p).exec s).agenda := by
  refine ⟨_, ⟨rfl, rfl, rfl, rfl, rfl, rfl⟩,
    Cmd.within_when (Aside.chains id) (fun _ => afterTask_aside lat (.issue sid)) _, ?_⟩
  simp only [pushReady, Cmd.exec_get, Cmd.exec_seq]
  cases h : s.agenda.any fun (_, t) => t == .issue sid with
  | false => exact ⟨_, mem_agendaInsert.2 (.inl rfl)⟩
  | true =>
    obtain ⟨⟨n, task⟩, hmem, htask⟩ := List.any_eq_true.1 h
    exact ⟨n, by rw [← beq_iff_eq.1 htask]; exact hmem⟩

/-- A token that waits for another lookup of its set is held, and looked up again in the next cycle (R30). -/
theorem holdToken_setBusy (sid : Nat) (t : Token) :
    let u := (holdToken sid t .setBusy).exec s
    (u.elem sid).held = some (t, .setBusy) ∧ u.due (s.now + 1) (.matchRetry sid) := by
  refine ⟨?_, mem_agendaInsert.2 (.inl rfl)⟩
  simp only [holdToken, Cmd.exec_get, Cmd.exec_all_cons, Cmd.exec_all_one, (after_aside _ _ _).elem, modElem_elem_self]

end

/-! ### The state in which a token is looked up -/

/-- Between two states only the input buffers and the last served input of an element have changed. -/
structure Arrived (sid : Nat) (s t : State) : Prop where
  rest : t = { s with fab := { s.fab with elements := t.fab.elements } }
  slots : (t.elem sid).slots = (s.elem sid).slots
  ready : (t.elem sid).ready = (s.elem sid).ready
  outs : (t.elem sid).outs = (s.elem sid).outs
  capture : (t.elem sid).capture = (s.elem sid).capture

section
variable {s t : State} {sid : Nat}

theorem Arrived.set (h : Arrived sid s t) (k : Nat) : t.set? k = s.set? k := by rw [h.rest]; rfl
theorem Arrived.ctx (h : Arrived sid s t) (c : Nat) : t.ctx? c = s.ctx? c := by rw [h.rest]; rfl
theorem Arrived.now (h : Arrived sid s t) : t.now = s.now := by rw [h.rest]
theorem Arrived.vdOfCtx (h : Arrived sid s t) (c : Nat) : t.vdOfCtx c = s.vdOfCtx c := by rw [h.rest]; rfl
theorem Arrived.quota (h : Arrived sid s t) (c : Nat) : t.quota c = s.quota c := by rw [h.rest]; rfl
theorem Arrived.fits (h : Arrived sid s t) (k : Nat) (q : Port) (v : Val) : t.fits k q v = s.fits k q v := by rw [h.rest]; rfl

/-- A token that is admitted stays admitted when it leaves the input buffer. -/
theorem Arrived.admits (h : Arrived sid s t) {tok : Token} {ctx rgn slot : Nat} {sl : NodeSlot}
    (ha : Admits s sid tok ctx rgn slot sl) : Admits t sid tok ctx rgn slot sl where
  region := by rw [h.rest]; exact ha.region
  run := by rw [h.rest]; exact ha.run
  inst := by rw [h.rest]; exact ha.inst
  slot := by rw [Element.slotOf, h.slots]; exact ha.slot
  port := ha.port

/-- A row that brings a token to the match stage takes it from its input, or from where it was held, and matches it. -/
theorem exec_presents {tok : Token} {i : Instr} (h : Presents s sid tok i) :
    ∃ t, Arrived sid s t ∧ exec i s = .next ((matchToken sid tok false).exec t) := by
  obtain ⟨hstop, hunplaced, ⟨rfl, hheld, n, hnext⟩ | ⟨rfl, hheld⟩⟩ := h
  · refine ⟨(modElem sid fun e => { e with lastIn := netIndex n }).exec ((setInput sid n none).exec s), ?_, ?_⟩
    · constructor
      · rfl
      all_goals
        rw [modElem_elem_self, setInput, modElem_elem_self]
        cases n <;> rfl
    · change execTokenArrive sid s = _
      simp only [execTokenArrive, hstop, hheld, hunplaced, hnext]
      rfl
  · refine ⟨s, ⟨rfl, rfl, rfl, rfl, rfl⟩, ?_⟩
    change execMatchRetry sid s = _
    simp only [execMatchRetry, hstop, hunplaced]
    rcases hheld with hheld | hheld <;> rw [hheld] <;> rfl

/-- An admitted token is looked up in its set. -/
theorem matchToken_admitted {tok : Token} {ctx rgn slot : Nat} {sl : NodeSlot} (ha : Admits s sid tok ctx rgn slot sl)
    (bypass : Bool) : (matchToken sid tok bypass).exec s = (lookupToken sid slot sl tok bypass).exec s := by
  obtain ⟨hregion, ⟨c, hc, hlo, hhi⟩, hinst, hslot, sh, hport, hshape⟩ := ha
  obtain ⟨⟨k, r⟩, hat, hr⟩ := Option.map_eq_some_iff.1 hregion
  obtain ⟨rfl, rfl⟩ := Prod.mk.inj hr
  have hinst' : (s.inst? r.ctx r.rgn tok.frm (tagDomain tok.tag)).isNone = false := by
    rw [Option.isNone_eq_false_iff]; exact hinst
  simp only [matchToken, Cmd.exec_get, hat, hc, hlo, hhi, hinst', hslot, hport]
  rcases hshape with ⟨o, ho⟩ | hshape
  · simp [ho]
  · cases hv : tok.val <;> simp_all

end

end Sys2Proof.Machine

/-! ## The match stage looks a token up (R24, R27 to R30, R32, R35) -/

namespace Sys2Proof.Machine

/-! ### What the steps of a lookup leave -/

/-- The operands of a group: that of the token, and at the other ports what is known already. -/
def Token.group (t : Token) (operand : Port → Option Val) (q : Port) : Option Val :=
  if q = t.port then some t.val else operand q

/-- A complete group enters the ready queue of its node. -/
def pushGroup (sid slot : Nat) (sl : NodeSlot) (t : Token) (operand : Port → Option Val) : Cmd :=
  pushReady 2 sid slot sl t.tag (t.group operand .a) (t.group operand .b) (t.group operand .c) (t.group operand .p)

section
variable (s : State)

theorem unhold_elem (sid : Nat) : ((unhold sid).exec s).elem sid = { s.elem sid with held := none } := by
  rw [(unhold_aside s sid).elem, modElem_elem_self]

theorem unhold_set (sid k : Nat) : ((unhold sid).exec s).set? k = s.set? k := (unhold_aside s sid).set k

theorem unhold_agenda (sid : Nat) {x : Nat × Task} (h : x ∈ s.agenda) : x ∈ ((unhold sid).exec s).agenda :=
  (unhold_aside s sid).agenda x h

theorem freeWayOf_elem (key k sid : Nat) : ((freeWayOf key k).exec s).elem sid = s.elem sid := (freeWayOf_aside s key k).elem sid

theorem freeWayOf_ctx (key k c : Nat) : ((freeWayOf key k).exec s).ctx? c = s.ctx? c := (freeWayOf_aside s key k).ctx_eq c

/-- A way frees when its set has no spills. -/
theorem freeWayOf_ways {key k : Nat} (hspills : (s.set? key).spills = 0) (hk : k < (s.set? key).ways.length) :
    (((freeWayOf key k).exec s).set? key).ways[k]? = some .free := by
  rw [(freeWayOf_aside s key k).set, if_pos hspills]
  exact setWay_ways_getElem (List.getElem?_eq_getElem hk)

/-- A group in the ready queue is the token with its other operands, its issue is due, and no set and no context changes. -/
theorem pushGroup_spec (sid slot : Nat) (sl : NodeSlot) (t : Token) (operand : Port → Option Val) :
    let u := (pushGroup sid slot sl t operand).exec s
    (∃ x, (u.elem sid).ready = (s.elem sid).ready ++ [x] ∧ x.isOf slot t operand) ∧
      (∃ n, (n, Task.issue sid) ∈ u.agenda) ∧ (∀ k, u.set? k = s.set? k) ∧ ∀ c, u.ctx? c = s.ctx? c := by
  obtain ⟨x, ⟨hslot, htag, ha, hb, hc, hp⟩, hpush, hissue⟩ := pushReady_spec s 2 sid slot sl t.tag (t.group operand .a)
    (t.group operand .b) (t.group operand .c) (t.group operand .p)
  refine ⟨⟨x, ?_, hslot, htag, ?_⟩, hissue, hpush.set, hpush.ctx_eq⟩
  · rw [pushGroup, hpush.elem, modElem_elem_self]
  · rw [ha, hb, hc, hp]
    simp only [Token.group, eq_comm, and_self]

end

/-! ### The branches of a lookup -/

/-- The set of a token has been looked up in this cycle. -/
def markLooked (sid : Nat) (t : Token) (s : State) : State :=
  (modSet (setKeyAt sid t.frm t.node t.tag) fun x => { x with looked := s.now + 1 }).exec s

section
variable {s : State} {sid slot : Nat} {sl : NodeSlot} {t : Token}

/-- A token of a node with one operand is a group of its own (R29). -/
theorem lookupToken_one (hneed : sl.needs.length ≤ 1) (hroom : (s.elem sid).ready.length < Config.readyDepth) :
    (lookupToken sid slot sl t false).exec s = (unhold sid).exec ((pushGroup sid slot sl t fun _ => none).exec s) := by
  have hneed' : ((slotPorts sl.word).1.required (slotPorts sl.word).2).length ≤ 1 := hneed
  have hempty : ∀ q, MatchEntry.operand ⟨0, 0, 0, 0, none, none, none, none, false, [], false, 0⟩ q = none :=
    fun q => by cases q <;> rfl
  simp only [lookupToken, Cmd.exec_get, hneed', hroom.not_ge, if_true, if_false, Cmd.exec_seq, hempty]
  rfl

/-- Of two lookups of one cycle in one set the second repeats in the next cycle (R30). -/
theorem lookupToken_busy (hneed : 2 ≤ sl.needs.length) (hlooked : (s.set? (setKeyAt sid t.frm t.node t.tag)).looked = s.now + 1) :
    (lookupToken sid slot sl t false).exec s = (holdToken sid t .setBusy).exec s := by
  have hneed' : ¬ ((slotPorts sl.word).1.required (slotPorts sl.word).2).length ≤ 1 := Nat.not_le.2 hneed
  simp only [lookupToken, Cmd.exec_get, hneed', hlooked, if_true, if_false]

section
variable (hneed : 2 ≤ sl.needs.length) (hlooked : (s.set? (setKeyAt sid t.frm t.node t.tag)).looked ≠ s.now + 1)
include hneed hlooked

section
variable {k : Nat} {m : MatchEntry}
  (hfound : (s.set? (setKeyAt sid t.frm t.node t.tag)).find (elemIndex sid) t.frm t.node t.tag = some (k, m))
  (hm : m.poisoned = false)
include hfound hm

/-- The last token of a group makes it ready, and its way frees (R29, R35). -/
theorem lookupToken_complete (hport : m.port t.port = none) (hall : ∀ q ∈ sl.needs, q = t.port ∨ q ∈ m.present)
    (hroom : (s.elem sid).ready.length < Config.readyDepth) :
    (lookupToken sid slot sl t false).exec s = (unhold sid).exec ((freeWayOf (setKeyAt sid t.frm t.node t.tag) k).exec
      ((pushGroup sid slot sl t m.operand).exec (markLooked sid t s))) := by
  have hneed' : ¬ ((slotPorts sl.word).1.required (slotPorts sl.word).2).length ≤ 1 := Nat.not_le.2 hneed
  have hall' : (((slotPorts sl.word).1.required (slotPorts sl.word).2).all fun q => q == t.port || m.present.contains q) = true := by
    simpa [NodeSlot.needs] using hall
  simp only [lookupToken, Cmd.exec_get, hneed', hlooked, if_false, Cmd.exec_seq, hfound, hm, Bool.false_eq_true, hport, hall',
    if_true, hroom.not_ge, Cmd.exec_all_cons, Cmd.exec_all_one]
  rfl

/-- A token on a port that is present is a DUPTAG; its entry is poisoned, and goes when no token of the group is to come (R32). -/
theorem lookupToken_dup {h : PortHold} (hport : m.port t.port = some h) :
    (lookupToken sid slot sl t false).exec s = (unhold sid).exec
      ((if sl.needs.all m.present.contains then freeWayOf (setKeyAt sid t.frm t.node t.tag) k
        else setWay (setKeyAt sid t.frm t.node t.tag) k (.held m.poison)).exec
        ((dupTag sid slot sl t h.val).exec ((dropParked sid m).exec (markLooked sid t s)))) := by
  have hneed' : ¬ ((slotPorts sl.word).1.required (slotPorts sl.word).2).length ≤ 1 := Nat.not_le.2 hneed
  simp only [lookupToken, Cmd.exec_get, hneed', hlooked, if_false, Cmd.exec_seq, hfound, hm, Bool.false_eq_true, hport,
    Cmd.exec_all_cons, Cmd.exec_all_one]
  rfl

end

/-- The first token of a group takes a way, while its set has no spills (R27, R250). -/
theorem lookupToken_first (hfound : (s.set? (setKeyAt sid t.frm t.node t.tag)).find (elemIndex sid) t.frm t.node t.tag = none)
    (hspills : (s.set? (setKeyAt sid t.frm t.node t.tag)).spills = 0) :
    (lookupToken sid slot sl t false).exec s = (allocate sid sl.ctx t).exec (markLooked sid t s) := by
  have hneed' : ¬ ((slotPorts sl.word).1.required (slotPorts sl.word).2).length ≤ 1 := Nat.not_le.2 hneed
  simp only [lookupToken, Cmd.exec_get, hneed', hlooked, if_false, Cmd.exec_seq, hfound, hspills]
  rfl

end
end

end Sys2Proof.Machine

/-! ## A second token on a port is a DUPTAG (R32) -/

namespace Sys2Proof.Machine

/-! ### The fields of an origin (R21) -/

theorem mkOrigin_toNat (cause vd die x y frm node : Nat) : (mkOrigin cause vd die x y frm node).toNat =
    cause % 256 * 2 ^ 56 + vd % 64 * 2 ^ 50 + die % 4 * 2 ^ 48 + x % 64 * 2 ^ 42 + y % 32 * 2 ^ 37 + frm % 4 * 2 ^ 35 +
      node % 128 * 2 ^ 28 := by
  rw [mkOrigin, BitVec.toNat_ofNat, Nat.mod_eq_of_lt]
  omega

section
variable (f : Firing) (vd cause : Nat)

theorem origin_cause : natBits (f.origin vd cause).toNat 63 56 = cause % 256 := by
  rw [Firing.origin, mkOrigin_toNat, natBits]
  omega

theorem origin_die : natBits (f.origin vd cause).toNat 49 48 = dieOf f.sid % 4 := by
  rw [Firing.origin, mkOrigin_toNat, natBits]
  omega

theorem origin_column : natBits (f.origin vd cause).toNat 47 42 = xOf f.sid % 64 := by
  rw [Firing.origin, mkOrigin_toNat, natBits]
  omega

theorem origin_row : natBits (f.origin vd cause).toNat 41 37 = yOf f.sid % 32 := by
  rw [Firing.origin, mkOrigin_toNat, natBits]
  omega

theorem origin_node : natBits (f.origin vd cause).toNat 34 28 = f.node % 128 := by
  rw [Firing.origin, mkOrigin_toNat, natBits]
  omega

/-- The origin of a fault names the site of its firing. -/
theorem originSite_origin {f : Firing} (hsid : f.sid < 6144) : originSite (f.origin vd cause) = f.sid := by
  rw [originSite, origin_die, origin_column, origin_row]
  simp only [sidAt, dieOf, xOf, yOf]
  omega

/-- A capture of the cause and the node of a fault is the one that its sink reports. -/
theorem sinkCapture_origin {s : State} {f : Firing} {r : FaultRec} (hsid : f.sid < 6144) (hnode : f.node < 128) (hcause : cause < 256)
    (hcap : (s.elem f.sid).capture = some r) (hrcause : r.cause = cause) (hrnode : r.onode = f.node) :
    s.sinkCapture (f.origin vd cause) = some r := by
  have hrow : yOf f.sid % 32 < 24 := by
    rw [yOf]
    omega
  simp [State.sinkCapture, originSite_origin vd cause hsid, hcap, origin_cause, origin_node, origin_row, Nat.mod_eq_of_lt hcause,
    Nat.mod_eq_of_lt hnode, hrcause, hrnode, hrow]

end

/-! ### The capture and the poison of a DUPTAG -/

/-- What a change of an element does is what it does to the element as it is. -/
theorem modElem_congr {s : State} {k : Nat} {f g : Element → Element} (h : f (s.elem k) = g (s.elem k)) :
    (modElem k f).exec s = (modElem k g).exec s :=
  congrArg (fun e : Element => { s with fab := { s.fab with elements := s.fab.elements.set k e } }) h

/-- The capture of a DUPTAG: it keeps both values. -/
def State.dupRecord (s : State) (f : Firing) (earlier later : Val) : FaultRec :=
  { s.recordAt f causeDuptag with vala := earlier.word, valb := later.word }

/-- An element's capture takes a record. -/
def setCapture (sid : Nat) (r : FaultRec) : Cmd := modElem sid fun e => { e with capture := some r }

theorem setCapture_capture (sid : Nat) (r : FaultRec) (s : State) : (((setCapture sid r).exec s).elem sid).capture = some r :=
  congrArg Element.capture (modElem_elem_self sid _ s)

theorem setCapture_outs (sid : Nat) (r : FaultRec) (s : State) : (((setCapture sid r).exec s).elem sid).outs = (s.elem sid).outs := by
  rw [setCapture, modElem_elem_self]

/-- A fault that is new is not told. -/
theorem freshFault_ctx {s : State} {f : Firing} {c : Ctx} (o : W64) (hc : s.ctx? f.ctx = some c) :
    ∃ x, ((freshFault f o).exec s).ctx? f.ctx = some x ∧ x.ring = c.ring ∧ (o, f.tag) ∉ x.told := by
  exact ⟨_, (modCtx_ctx_self f.ctx _ s).trans (congrArg (Option.map _) hc), rfl, by simp⟩

/-- A sink that finds the capture of a fault writes the capture's values into the ring. -/
theorem sinkPoison_captured {s : State} {f : Firing} {o : W64} {c : Ctx} {r : FaultRec} (hcap : s.sinkCapture o = some r)
    (hc : s.ctx? f.ctx = some c) (htold : (o, r.tag) ∉ c.told) (hroom : c.ring.length < 64) :
    s.sinkRecord f o ∈ ((((sinkPoison f o).exec s).ctx? f.ctx).map (·.ring)).getD [] := by
  have hrec : s.sinkRecord f o = { s.poisonRecord f o with tag := r.tag, vala := r.vala, valb := r.valb, count := r.count } := by
    rw [State.sinkRecord, hcap]
  have hctx : s.ctx? (s.sinkRecord f o).ctx = some c := by rw [hrec]; exact hc
  have hwritten := writeRecord_ctx hctx hroom
  rw [show (s.sinkRecord f o).ctx = f.ctx by rw [hrec]; rfl] at hwritten
  rw [sinkPoison_untold hc (by rwa [hrec])]
  simp only [State.sinkTells, Cmd.exec_all_cons, Cmd.exec_all_one, hcap, Option.isSome_some, Cmd.exec_when_true, modElem_at_ctx_get,
    modCtx_ctx_self, hwritten, Option.map_some, Option.getD_some]
  exact List.mem_append_right _ (List.mem_singleton_self _)

section
variable {s : State} {sid slot : Nat} {sl : NodeSlot} {t : Token} {v : Val}

/-- At an element without a capture a DUPTAG is its capture, and then poison from its node. -/
theorem dupTag_exec (hcap : (s.elem sid).capture = none) :
    let f := slotFiring sid slot sl t.tag
    (dupTag sid slot sl t v).exec s =
      (emitFrom f sl.word causeDuptag).exec ((setCapture sid (s.dupRecord f v t.val)).exec s) := by
  exact congrArg (emitFrom _ sl.word causeDuptag).exec (modElem_congr (by rw [hcap]; rfl))

/-- With a valid destination the capture stays. -/
theorem dupTag_capture (hcap : (s.elem sid).capture = none)
    (hd : (((RawNode.unpack sl.word).hdr .always).d0.val || ((RawNode.unpack sl.word).hdr .always).d1.val) = true) :
    (((dupTag sid slot sl t v).exec s).elem sid).capture = some (s.dupRecord (slotFiring sid slot sl t.tag) v t.val) := by
  rw [dupTag_exec hcap, emitFrom_of_dest _ _ _ hd]
  refine ((emit_frame _ _ _ _ _ _).comp Element.capture |>.elem sid).trans ?_
  change (((freshFault _ _).exec _).elem sid).capture = _
  rw [(freshFault_aside _ _ _).elem, setCapture_capture]

/-- Without a valid destination the capture's record goes to the ring at once. -/
theorem dupTag_ring (hcap : (s.elem sid).capture = none)
    (hd : ¬ (((RawNode.unpack sl.word).hdr .always).d0.val || ((RawNode.unpack sl.word).hdr .always).d1.val) = true)
    (hsid : sid < 6144) (hnode : sl.node < 128) {c : Ctx} (hc : s.ctx? sl.ctx = some c) (hroom : c.ring.length < 64) :
    ∃ r ∈ ((((dupTag sid slot sl t v).exec s).ctx? sl.ctx).map (·.ring)).getD [],
      r.cause = causeDuptag ∧ r.vala = v.word ∧ r.valb = t.val.word ∧ r.tag = t.tag ∧ r.via = true := by
  let f := slotFiring sid slot sl t.tag
  let s1 := (setCapture sid (s.dupRecord f v t.val)).exec s
  let o := f.origin (s1.vdOfCtx f.ctx) causeDuptag
  let s2 := (freshFault f o).exec s1
  obtain ⟨x, hx, hring, htold⟩ := freshFault_ctx (s := s1) (f := f) o hc
  have hcap2 : s2.sinkCapture o = some (s.dupRecord f v t.val) := by
    refine sinkCapture_origin _ _ hsid hnode (by decide) ?_ rfl rfl
    rw [(freshFault_aside f o s1).elem]
    exact setCapture_capture sid _ s
  have hmem := sinkPoison_captured hcap2 hx htold (by rwa [hring])
  rw [dupTag_exec hcap, emitFrom_of_no_dest _ _ _ hd]
  refine ⟨_, hmem, ?_⟩
  rw [State.sinkRecord, hcap2]
  refine ⟨?_, rfl, rfl, rfl, rfl⟩
  exact (origin_cause f _ causeDuptag).trans rfl

theorem dupTag_outs (hcap : (s.elem sid).capture = none) :
    let f := slotFiring sid slot sl t.tag
    let o := f.origin (s.vdOfCtx sl.ctx) causeDuptag
    (((dupTag sid slot sl t v).exec s).elem sid).outs = (s.elem sid).outs ++
      f.results ((RawNode.unpack sl.word).hdr .always) (s.now + 0) t.tag (.poison o) (.poison o) := by
  intro f o
  rw [dupTag_exec hcap]
  refine (emitFrom_outs f sl.word causeDuptag _).trans ?_
  exact congrArg (fun outs : List OutTok => outs ++ _) (setCapture_outs sid _ s)

/-- A DUPTAG leaves the sets. -/
theorem dupTag_set (k : Nat) : ((dupTag sid slot sl t v).exec s).set? k = s.set? k :=
  (emitFrom_frame _ _ _ _).set k

end

end Sys2Proof.Machine

/-! ## The first token of a group takes a way (R26, R27, R29) -/

namespace Sys2Proof.Machine

/-! ### The words in use do not depend on the lookups of a set -/

/-- What a table of sets says through its ways stays when a set changes beside them; a set that is not there has free ways. -/
theorem flatMap_ways_set {β : Type} {w : List Way → List β} (hw : w MatchSet.empty.ways = []) {f : MatchSet → MatchSet}
    (hf : ∀ x, (f x).ways = x.ways) (p : Nat → Bool) (key : Nat) (tbl : Tbl MatchSet) :
    ((tbl.set key (f (tbl.getD key MatchSet.empty))).filter fun x => p x.1).flatMap (fun x => w x.2.ways) =
      (tbl.filter fun x => p x.1).flatMap fun x => w x.2.ways := by
  induction tbl with
  | nil => cases hp : p key <;> simp [Tbl.set, Tbl.getD, hp, hf, hw]
  | cons e rest ih =>
    obtain ⟨k, x⟩ := e
    rcases Nat.lt_trichotomy key k with h | h | h
    · cases hp : p key <;> simp [Tbl.set, Tbl.getD, Tbl.get?, h, h.ne', hp, hf, hw]
    · subst h
      cases hp : p key <;> simp [Tbl.set, Tbl.getD, Tbl.get?, hp, hf]
    · have hget : Tbl.getD ((k, x) :: rest) key MatchSet.empty = Tbl.getD rest key MatchSet.empty := by
        simp [Tbl.getD, Tbl.get?, h.ne, h.not_gt]
      have hset : Tbl.set ((k, x) :: rest) key (f (Tbl.getD rest key MatchSet.empty)) =
          (k, x) :: Tbl.set rest key (f (Tbl.getD rest key MatchSet.empty)) := by
        simp [Tbl.set, h.ne, h.not_gt]
      rw [hget, hset]
      cases hp : p k <;> simp [hp, ih]

/-- The words that a way takes of an element's operand store. -/
def wordsAt (e : Nat) : Way → List (Nat × Nat)
  | .held m => if m.e == e then m.words else []
  | _ => []

section
variable (s : State) (sid : Nat) (t : Token)

theorem markLooked_usedWords (k : Nat) : (markLooked sid t s).usedWords k = s.usedWords k :=
  flatMap_ways_set (w := fun ways => ways.flatMap (wordsAt (elemIndex k))) rfl (f := fun x => { x with looked := s.now + 1 })
    (fun _ => rfl) (fun key => 64 * clusterOf k ≤ key && key < 64 * clusterOf k + 64) (setKeyAt sid t.frm t.node t.tag) s.fab.sets

theorem markLooked_fits (q : Port) (v : Val) : (markLooked sid t s).fits sid q v = s.fits sid q v := by
  rw [State.fits, State.fits, markLooked_usedWords]

theorem markLooked_set : (markLooked sid t s).set? (setKeyAt sid t.frm t.node t.tag) =
    { s.set? (setKeyAt sid t.frm t.node t.tag) with looked := s.now + 1 } := modSet_set_self ..

end

/-! ### The first token of a group -/

/-- The way with its number, when it holds a key. -/
def Way.keyed (e frm node : Nat) (tag : W64) : Way × Nat → Option (Nat × MatchEntry)
  | (.held m, k) => if m.isKey e frm node tag then some (k, m) else none
  | _ => none

theorem MatchSet.find_eq (t : MatchSet) (e frm node : Nat) (tag : W64) :
    t.find e frm node tag = t.ways.zipIdx.findSome? (Way.keyed e frm node tag) :=
  congrArg t.ways.zipIdx.findSome? (funext fun ⟨w, _⟩ => by cases w <;> rfl)

/-- A key that no way holds is found where it is put. -/
theorem MatchSet.find_set {t : MatchSet} {e frm node k : Nat} {tag : W64} {m : MatchEntry} (hnone : t.find e frm node tag = none)
    (hk : k < t.ways.length) (hm : m.isKey e frm node tag = true) :
    { t with ways := t.ways.set k (.held m) }.find e frm node tag = some (k, m) := by
  rw [MatchSet.find_eq, List.findSome?_eq_none_iff] at hnone
  rw [MatchSet.find_eq, List.findSome?_eq_some_iff]
  refine ⟨(t.ways.take k).zipIdx, (.held m, k), (t.ways.drop (k + 1)).zipIdx (k + 1), ?_, if_pos hm, fun x hx => hnone x ?_⟩
  · rw [List.set_eq_take_append_cons_drop, if_pos hk, List.zipIdx_append, List.length_take, Nat.min_eq_left hk.le]
    simp
  · obtain ⟨w, j⟩ := x
    rw [List.mem_zipIdx_iff_getElem?] at hx ⊢
    rw [List.getElem?_take] at hx
    split at hx
    · exact hx
    · exact absurd hx (by simp)

theorem freshEntry_isKey (sid : Nat) (t : Token) (h : PortHold) (age : Nat) :
    (freshEntry sid t h age).isKey (elemIndex sid) t.frm t.node t.tag = true := by
  unfold freshEntry MatchEntry.setPort MatchEntry.isKey
  cases t.port <;> simp

theorem MatchSet.freeWay_lt {t : MatchSet} {quota k : Nat} (h : t.freeWay quota = some k) : k < t.ways.length := by
  rw [MatchSet.freeWay] at h
  split at h
  · exact absurd h (by simp)
  · exact (List.findIdx?_eq_some_iff_getElem.1 h).1

section
variable {s : State} {sid ctx : Nat} {t : Token}

/-- The first token of a group takes the lowest free way (R27, R29). -/
theorem allocate_freeWay {h : PortHold} {k : Nat} (hfits : s.fits sid t.port t.val = some h)
    (hway : (s.set? (setKeyAt sid t.frm t.node t.tag)).freeWay (s.quota ctx) = some k) :
    (allocate sid ctx t).exec s =
      (unhold sid).exec ((setWay (setKeyAt sid t.frm t.node t.tag) k (.held (freshEntry sid t h s.now))).exec s) := by
  simp only [allocate, Cmd.exec_get, hfits, hway, Cmd.exec_seq]

end

end Sys2Proof.Machine

/-! ## The match stage as a whole (R24 to R32, R35) -/

namespace Sys2Proof.Machine

section
variable {s : State} {sid slot ctx rgn : Nat} {t : Token} {i : Instr} {sl : NodeSlot}

/-- What holds after every lookup of an admitted token holds after the row that brings it. -/
theorem answers_lookup (hp : Presents s sid t i) (ha : Admits s sid t ctx rgn slot sl) {P : State → Prop}
    (h : ∀ u, Arrived sid s u → P ((lookupToken sid slot sl t false).exec u)) : Answers i s P := by
  obtain ⟨u, hu, hexec⟩ := exec_presents hp
  exact ⟨_, hexec, by rw [matchToken_admitted (hu.admits ha)]; exact h u hu⟩

/-- The only operand of a node makes a ready entry (R29). -/
theorem lookup_one {u : State} (hneed : sl.needs.length ≤ 1) (hroom : (u.elem sid).ready.length < Config.readyDepth) :
    let v := (lookupToken sid slot sl t false).exec u
    ∃ x, (v.elem sid).ready = (u.elem sid).ready ++ [x] ∧ x.isOf slot t (fun _ => none) ∧ ∃ n, (n, Task.issue sid) ∈ v.agenda := by
  obtain ⟨⟨x, hready, hx⟩, ⟨n, hissue⟩, -⟩ := pushGroup_spec u sid slot sl t fun _ => none
  rw [lookupToken_one hneed hroom]
  exact ⟨x, by rw [unhold_elem]; exact hready, hx, n, unhold_agenda _ _ hissue⟩

section
variable {u : State} {k : Nat}

/-- The last token of a group makes a ready entry, and its way frees (R29). -/
theorem lookup_complete {m : MatchEntry} (hneed : 2 ≤ sl.needs.length)
    (hlooked : (u.set? (setKeyAt sid t.frm t.node t.tag)).looked ≠ u.now + 1)
    (hfound : (u.set? (setKeyAt sid t.frm t.node t.tag)).find (elemIndex sid) t.frm t.node t.tag = some (k, m))
    (hm : m.poisoned = false) (hport : m.port t.port = none) (hall : ∀ q ∈ sl.needs, q = t.port ∨ q ∈ m.present)
    (hroom : (u.elem sid).ready.length < Config.readyDepth) :
    let key := setKeyAt sid t.frm t.node t.tag
    let v := (lookupToken sid slot sl t false).exec u
    (∃ x, (v.elem sid).ready = (u.elem sid).ready ++ [x] ∧ x.isOf slot t m.operand) ∧
      ((u.set? key).spills = 0 → k < (u.set? key).ways.length → (v.set? key).ways[k]? = some .free) := by
  intro key v
  obtain ⟨⟨x, hready, hx⟩, -, hset, -⟩ := pushGroup_spec (markLooked sid t u) sid slot sl t m.operand
  have hv := lookupToken_complete (slot := slot) hneed hlooked hfound hm hport hall hroom
  have hset' := (hset key).trans (markLooked_set u sid t)
  refine ⟨⟨x, ?_, hx⟩, fun hspills hk => ?_⟩
  · rw [show v = _ from hv, unhold_elem, freeWayOf_elem]
    exact hready
  · rw [show v = _ from hv, unhold_set]
    exact freeWayOf_ways _ (by rw [hset']; exact hspills) (by rw [hset']; exact hk)

/-- After a DUPTAG the entry's way frees, or keeps the poisoned entry. -/
def leavePoisoned (sl : NodeSlot) (key k : Nat) (m : MatchEntry) : Cmd :=
  if sl.needs.all m.present.contains then freeWayOf key k else setWay key k (.held m.poison)

theorem leavePoisoned_elem (key k : Nat) (m : MatchEntry) (sid : Nat) (s : State) :
    ((leavePoisoned sl key k m).exec s).elem sid = s.elem sid := by
  unfold leavePoisoned
  split
  · exact freeWayOf_elem ..
  · rfl

theorem leavePoisoned_ctx (key k : Nat) (m : MatchEntry) (c : Nat) (s : State) :
    ((leavePoisoned sl key k m).exec s).ctx? c = s.ctx? c := by
  unfold leavePoisoned
  split
  · exact freeWayOf_ctx ..
  · rfl

/-- While a token of the group is to come, the way holds the poisoned entry. -/
theorem leavePoisoned_ways {key : Nat} {m : MatchEntry} {s : State} (hmissing : ∃ q ∈ sl.needs, q ∉ m.present)
    (hk : k < (s.set? key).ways.length) :
    (((leavePoisoned sl key k m).exec s).set? key).ways[k]? = some (.held m.poison) := by
  have hnot : ¬ sl.needs.all m.present.contains = true := by simpa using hmissing
  rw [leavePoisoned, if_neg hnot]
  exact setWay_ways_getElem (List.getElem?_eq_getElem hk)

/-- A token on a port that is present: the capture keeps both values and poison goes out, or the record of both values goes to the
ring; the entry is poisoned (R32). -/
theorem lookup_dup {m : MatchEntry} {h : PortHold} (hneed : 2 ≤ sl.needs.length)
    (hlooked : (u.set? (setKeyAt sid t.frm t.node t.tag)).looked ≠ u.now + 1)
    (hfound : (u.set? (setKeyAt sid t.frm t.node t.tag)).find (elemIndex sid) t.frm t.node t.tag = some (k, m))
    (hm : m.poisoned = false) (hport : m.port t.port = some h) (hcap : (u.elem sid).capture = none)
    (hk : k < (u.set? (setKeyAt sid t.frm t.node t.tag)).ways.length) :
    let v := (lookupToken sid slot sl t false).exec u
    let hdr := (RawNode.unpack sl.word).hdr .always
    let f := slotFiring sid slot sl t.tag
    let o := f.origin (u.vdOfCtx sl.ctx) causeDuptag
    ((hdr.d0.val || hdr.d1.val) = true → ∃ r, (v.elem sid).capture = some r ∧
      r.cause = causeDuptag ∧ r.vala = h.val.word ∧ r.valb = t.val.word ∧ r.tag = t.tag) ∧
    (¬ (hdr.d0.val || hdr.d1.val) = true → sid < 6144 → sl.node < 128 → ∀ c, u.ctx? sl.ctx = some c → c.ring.length < 64 →
      ∃ r ∈ ((v.ctx? sl.ctx).map (·.ring)).getD [],
        r.cause = causeDuptag ∧ r.vala = h.val.word ∧ r.valb = t.val.word ∧ r.tag = t.tag ∧ r.via = true) ∧
    (v.elem sid).outs = (u.elem sid).outs ++ f.results hdr (u.now + 0) t.tag (.poison o) (.poison o) ∧
    ((∃ q ∈ sl.needs, q ∉ m.present) → (v.set? (setKeyAt sid t.frm t.node t.tag)).ways[k]? = some (.held m.poison)) := by
  intro v hdr f o
  let w := (dropParked sid m).exec (markLooked sid t u)
  let d := (dupTag sid slot sl t h.val).exec w
  have hframe : FaultFrame Element.unparked (markLooked sid t u) w := dropParked_frame sid m _
  have hctx : ∀ c, w.ctx? c = u.ctx? c := fun c => by
    change ((dropParked sid m).exec _).ctx? c = _
    unfold dropParked
    cases m.parked <;> rfl
  have houts : (w.elem sid).outs = (u.elem sid).outs := (hframe.comp Element.outs).elem sid
  have hcapw : (w.elem sid).capture = none := ((hframe.comp Element.capture).elem sid).trans hcap
  have hv : v = (unhold sid).exec ((leavePoisoned sl (setKeyAt sid t.frm t.node t.tag) k m).exec d) :=
    lookupToken_dup hneed hlooked hfound hm hport
  have helem : v.elem sid = { d.elem sid with held := none } := by rw [hv, unhold_elem, leavePoisoned_elem]
  have hring : (v.ctx? sl.ctx).map (·.ring) = (d.ctx? sl.ctx).map (·.ring) := by
    rw [hv, ← leavePoisoned_ctx (sl := sl) (setKeyAt sid t.frm t.node t.tag) k m sl.ctx d]
    exact (unhold_aside _ sid).comp (·.ring) |>.ctx _
  refine ⟨fun hd => ?capture, fun hd hsid hnode c hc hroom => ?ring, ?outs, fun hmissing => ?way⟩
  case capture =>
    rw [helem]
    exact ⟨_, dupTag_capture hcapw hd, rfl, rfl, rfl, rfl⟩
  case ring =>
    rw [hring]
    exact dupTag_ring hcapw hd hsid hnode ((hctx _).trans hc) hroom
  case outs =>
    have h := dupTag_outs (slot := slot) (sl := sl) (t := t) (v := h.val) hcapw
    rw [houts, hframe.now, hframe.vdOfCtx] at h
    rw [helem]
    exact h
  case way =>
    rw [hv, unhold_set]
    refine leavePoisoned_ways hmissing ?_
    rw [dupTag_set, hframe.set, markLooked_set]
    exact hk

/-- The first token of a group stands in the lowest free way, and nothing is held (R27, R29). -/
theorem lookup_first {h : PortHold} (hneed : 2 ≤ sl.needs.length)
    (hlooked : (u.set? (setKeyAt sid t.frm t.node t.tag)).looked ≠ u.now + 1)
    (hfound : (u.set? (setKeyAt sid t.frm t.node t.tag)).find (elemIndex sid) t.frm t.node t.tag = none)
    (hspills : (u.set? (setKeyAt sid t.frm t.node t.tag)).spills = 0) (hfits : u.fits sid t.port t.val = some h)
    (hway : (u.set? (setKeyAt sid t.frm t.node t.tag)).freeWay (u.quota sl.ctx) = some k) :
    let v := (lookupToken sid slot sl t false).exec u
    (v.elem sid).held = none ∧ (v.elem sid).ready = (u.elem sid).ready ∧
      (v.set? (setKeyAt sid t.frm t.node t.tag)).find (elemIndex sid) t.frm t.node t.tag = some (k, freshEntry sid t h u.now) := by
  intro v
  have hway' : ((markLooked sid t u).set? (setKeyAt sid t.frm t.node t.tag)).freeWay ((markLooked sid t u).quota sl.ctx) = some k := by
    rw [markLooked_set]
    exact hway
  have hv : v = _ := (lookupToken_first (slot := slot) hneed hlooked hfound hspills).trans
    (allocate_freeWay ((markLooked_fits ..).trans hfits) hway')
  rw [hv, unhold_elem, unhold_set, setWay_set_self, markLooked_set]
  exact ⟨rfl, rfl, MatchSet.find_set hfound (MatchSet.freeWay_lt hway) (freshEntry_isKey ..)⟩

end

/-- What the match stage does with an admitted token (R24 to R32, R35). -/
theorem tokensMatch : Claims.TokensMatch := by
  intro s sid t i ctx rgn slot sl hp ha e key set found
  have hslot : sl.frm = t.frm ∧ sl.node = t.node := by
    have h := List.find?_some ha.slot
    simpa using h
  refine ⟨fun hneed hroom => ?one, fun hneed hlooked => ?busy, fun hneed hlooked k m hfound hm => ⟨fun hport hall hroom => ?complete,
    fun h hport hcap hk => ?dup⟩, fun hneed hlooked hfound hspills k h hfits hway => ?first⟩
  all_goals refine answers_lookup hp ha fun u hu => ?_
  case one =>
    have h := lookup_one (u := u) (slot := slot) (t := t) hneed (by rw [hu.ready]; exact hroom)
    rw [hu.ready] at h
    exact h
  case busy =>
    rw [lookupToken_busy hneed (by rw [hu.set, hu.now]; exact hlooked), ← hu.now]
    exact holdToken_setBusy u sid t
  case complete =>
    have h := lookup_complete (u := u) (slot := slot) hneed (by rw [hu.set, hu.now]; exact hlooked) (by rw [hu.set]; exact hfound)
      hm hport hall (by rw [hu.ready]; exact hroom)
    simp only [hu.ready, hu.set] at h
    exact h
  case dup =>
    obtain ⟨hcapture, hring, houts, hways⟩ := lookup_dup (u := u) (slot := slot) hneed (by rw [hu.set, hu.now]; exact hlooked)
      (by rw [hu.set]; exact hfound) hm hport (by rw [hu.capture]; exact hcap) (by rw [hu.set]; exact hk)
    rw [hu.outs, hu.now, hu.vdOfCtx] at houts
    refine ⟨hcapture, fun hd hsid _ hnode c hc hroom => ?_, houts, hways⟩
    exact hring (by rw [show (_ || _) = false from hd]; exact Bool.false_ne_true) hsid (by rw [hslot.2]; exact hnode) c
      (by rw [hu.ctx]; exact hc) hroom
  case first =>
    have h := lookup_first (u := u) (slot := slot) hneed (by rw [hu.set, hu.now]; exact hlooked) (by rw [hu.set]; exact hfound)
      (by rw [hu.set]; exact hspills) (by rw [hu.fits]; exact hfits) (by rw [hu.set, hu.quota]; exact hway)
    rw [hu.ready, hu.now] at h
    exact h

end

end Sys2Proof.Machine

/-! ## Changes of a Siding (R246 to R249)

The bytes of an entry go to its hidden area at home: memory, counters and tasks. What else a change of a Siding does is the change
itself. -/

namespace Sys2Proof.Machine

/-! ### Writes at home are beside the fabric -/

theorem physWrite_aside (pa : Nat) (bs : List Byte) : (physWrite pa bs).Within (Aside id) := by
  unfold physWrite
  split
  · exact hostPrim_aside _ _
  · exact dramPrim_aside _ _

theorem trimSet_aside (die line vd : Nat) : (trimSet die line vd).Within (Aside id) :=
  Cmd.within_get fun s => Cmd.within_when (Aside.chains id) (fun _ => by
    split
    · exact after_aside _ _
    · exact Cmd.within_skip (Aside.chains id)) s

theorem fillHome_aside (die line vd key : Nat) : (fillHome die line vd key).Within (Aside id) := by
  have hR := Aside.chains (id : Ctx → Ctx)
  refine Cmd.within_get fun s => ?_
  split
  · exact Cmd.within_seq hR (memPrim_aside _) (count_aside _ _ _ _) s
  · exact Cmd.within_seq hR (memPrim_aside _) (Cmd.within_seq hR (count_aside _ _ _ _)
      (Cmd.within_seq hR (count_aside _ _ _ _) (trimSet_aside _ _ _))) s

theorem bumpHzn_aside (die : Nat) (w : Stamp) : (bumpHzn die w).Within (Aside id) :=
  Cmd.within_get fun s => Cmd.within_when (Aside.chains id) (fun _ => Cmd.within_get fun _ => memPrim_aside _ _) s

theorem stampHome_aside (die line : Nat) (w : Stamp) : (stampHome die line w).Within (Aside id) :=
  Cmd.within_seq (Aside.chains id) (memPrim_aside _) (bumpHzn_aside _ _)

theorem cleanUnits_aside (pa n : Nat) : (cleanUnits pa n).Within (Aside id) :=
  Cmd.within_when (Aside.chains id) fun _ => memPrim_aside _

theorem homeWrite_aside (pa : Nat) (bs : List Byte) : (homeWrite pa bs).Within (Aside id) := by
  have hR := Aside.chains (id : Ctx → Ctx)
  exact Cmd.within_get fun s => Cmd.within_seq hR (Cmd.within_when hR fun _ => dramPrim_aside _ _)
    (Cmd.within_seq hR (dramPrim_aside _ _) (Cmd.within_seq hR (memPrim_aside _) (cleanUnits_aside _ _))) s

theorem writePte_aside (vd addr : Nat) (p : W64) : (writePte vd addr p).Within (Aside id) := by
  have hR := Aside.chains (id : Ctx → Ctx)
  refine Cmd.within_get fun s => ?_
  by_cases h : paWindow addr = 2
  · simp only [h, if_true]
    exact physWrite_aside _ _ s
  · simp only [h, if_false]
    exact Cmd.within_seq hR (fillHome_aside _ _ _ _) (Cmd.within_seq hR (Cmd.within_get fun t => stampHome_aside _ _ _ t)
      (homeWrite_aside _ _)) s

theorem setDirty_aside (die vd : Nat) (va : W64) : (setDirty die vd va).Within (Aside id) := by
  refine Cmd.within_get fun s => ?_
  split
  · exact Cmd.within_when (Aside.chains id) (fun _ => writePte_aside _ _ _) s
  · exact Cmd.within_skip (Aside.chains id) s

theorem dirtyFrame_aside (fr : Nat) : (dirtyFrame fr).Within (Aside id) :=
  Cmd.within_opt (Aside.chains id) fun _ => Cmd.within_get fun s =>
    Cmd.within_when (Aside.chains id) (fun _ => modVd_aside _ _) s

theorem markDirty_aside (pa : Nat) (big : Bool) : (markDirty pa big).Within (Aside id) :=
  Cmd.within_get fun s => Cmd.within_when (Aside.chains id) (fun _ =>
    Cmd.within_each (Aside.chains id) fun _ _ => dirtyFrame_aside _) s

theorem areaWrite_aside (die vd va : Nat) (bs : List Byte) : (areaWrite die vd va bs).Within (Aside id) := by
  have hR := Aside.chains (id : Ctx → Ctx)
  refine Cmd.within_each hR fun x _ => Cmd.within_get fun s => ?_
  split
  · exact Cmd.within_skip hR s
  next e _ =>
    refine Cmd.within_seq hR (setDirty_aside _ _ _) (Cmd.within_seq hR ?_ (markDirty_aside _ _)) s
    split
    · exact physWrite_aside _ _
    · exact Cmd.within_seq hR (fillHome_aside _ _ _ _) (Cmd.within_get fun t =>
        Cmd.within_seq hR (stampHome_aside _ _ _) (homeWrite_aside _ _) t)

/-! ### A change of a Siding -/

/-- A change of a context's Siding is that change, and bytes in the hidden area. -/
theorem modSiding_aside {s : State} {ctx : Nat} {c : Ctx} (hc : s.ctx? ctx = some c) (die : Nat) (g : Siding → Siding) :
    Aside id ((modCtx ctx fun x => { x with siding := g c.siding }).exec s) ((modSiding ctx die g).exec s) := by
  have hR := Aside.chains (id : Ctx → Ctx)
  simp only [modSiding, Cmd.exec_get, hc, Cmd.opt, Cmd.exec_all_cons]
  refine Cmd.within_seq hR (Cmd.within_each hR fun k _ => ?_) (Cmd.within_each hR fun k _ => areaWrite_aside _ _ _ _) _
  split <;> exact areaWrite_aside _ _ _ _

section
variable {s : State} {ctx : Nat} {c : Ctx} (hc : s.ctx? ctx = some c) (die : Nat) (g : Siding → Siding)
include hc

theorem modSiding_ctx : ((modSiding ctx die g).exec s).ctx? ctx = some { c with siding := g c.siding } := by
  rw [(modSiding_aside hc die g).ctx_eq, modCtx_ctx_self, hc]
  rfl

theorem modSiding_elem (k : Nat) : ((modSiding ctx die g).exec s).elem k = s.elem k := (modSiding_aside hc die g).elem k
theorem modSiding_set (k : Nat) : ((modSiding ctx die g).exec s).set? k = s.set? k := (modSiding_aside hc die g).set k
theorem modSiding_now : ((modSiding ctx die g).exec s).now = s.now := (modSiding_aside hc die g).now

end

/-- A set's chain and count after an entry has left it (R248, R249). -/
def MatchSet.freed (t : MatchSet) (k : Nat) (n : SidEntry) : MatchSet :=
  { t with spills := t.spills - 1, head := if t.head = k then n.next else t.head, tail := if t.tail = k then n.prev else t.tail }

section
variable {s : State} {ctx k : Nat} {c : Ctx} {n : SidEntry} (hc : s.ctx? ctx = some c) (hn : c.siding.entries.get? k = some n)
  (key : Nat)
include hc hn

/-- Freeing an entry takes it out of its Siding and out of its set's chain. -/
theorem freeSiding_aside : Aside id
    ((modSet key fun t => t.freed k n).exec ((modSiding ctx (key / 64 / 384) fun d => d.remove k).exec s))
    ((freeSiding ctx key k).exec s) := by
  simp only [freeSiding, Cmd.exec_get, hc, hn, Cmd.exec_all_cons]
  exact Cmd.within_seq (Aside.chains id) (wakeSet_aside _) (wakeCtx_aside _) _

theorem freeSiding_ctx : ((freeSiding ctx key k).exec s).ctx? ctx = some { c with siding := c.siding.remove k } := by
  rw [(freeSiding_aside hc hn key).ctx_eq]
  exact modSiding_ctx hc _ _

theorem freeSiding_set : ((freeSiding ctx key k).exec s).set? key = (s.set? key).freed k n := by
  rw [(freeSiding_aside hc hn key).set, modSet_set_self, modSiding_set hc]

theorem freeSiding_elem (j : Nat) : ((freeSiding ctx key k).exec s).elem j = s.elem j := by
  rw [(freeSiding_aside hc hn key).elem]
  exact modSiding_elem hc _ _ j

end

theorem Siding.remove_use {d : Siding} {k : Nat} {n : SidEntry} (h : d.entries.get? k = some n) : (d.remove k).use = d.use - 1 := by
  simp only [Siding.remove, h]

end Sys2Proof.Machine

/-! ## The Siding's accesses (R247 to R253) -/

namespace Sys2Proof.Machine

/-! ### Entries of a table that change in other fields -/

theorem get?_mod_m (es : Tbl SidEntry) (j k : Nat) {f : SidEntry → SidEntry} (hf : ∀ n, (f n).m = n.m) :
    ((es.mod j f).get? k).map (·.m) = (es.get? k).map (·.m) := by
  by_cases hk : k = j
  · subst hk
    rw [Tbl.get?_mod_self, Option.map_map]
    exact congrArg (Option.map · _) (funext hf)
  · rw [Tbl.get?_mod_ne _ _ hk]

/-- What a context's Siding says of a slot: the entries in use, and the matching entry in it. -/
def Ctx.spilled (k : Nat) (c : Ctx) : Nat × Option MatchEntry := (c.siding.use, (c.siding.entries.get? k).map (·.m))

/-! ### A spilled entry goes into its bucket (R248, R249) -/

theorem Siding.insert_spec {d d' : Siding} {n : SidEntry} {k : Nat} (h : d.insert n = some (k, d')) :
    d'.use = d.use + 1 ∧ d'.entries.get? k = some n := by
  simp only [Siding.insert] at h
  split at h
  · exact absurd h (by simp)
  · obtain ⟨rfl, rfl⟩ := Prod.mk.inj (Option.some.inj h)
    exact ⟨rfl, Tbl.get?_set_self ..⟩

section
variable (f : Firing) (j : Nat) (s : State)

/-- Asking for an entry marks it, and reserves a way at most. -/
theorem askRefill_spec :
    (∀ c k, (((askRefill f j).exec s).ctx? c).map (Ctx.spilled k) = (s.ctx? c).map (Ctx.spilled k)) ∧
    ∀ key, ∃ ways, ((askRefill f j).exec s).set? key = { s.set? key with ways := ways } := by
  have hwanted : ∀ k, (modCtx f.ctx fun c => { c with siding := { c.siding with
      entries := c.siding.entries.mod j fun n => { n with wanted := true } } }).Within (Aside (Ctx.spilled k)) := fun k =>
    modCtx_aside fun x => congrArg (Prod.mk x.siding.use) (get?_mod_m _ _ _ fun _ => rfl)
  have hctx := fun c k => (hwanted k s).ctx c
  simp only [askRefill, Cmd.exec_get, Cmd.exec_seq]
  cases (s.set? (setKeyAt f.sid f.frm f.node f.tag)).freeWay (s.quota f.ctx) with
  | none => exact ⟨hctx, fun key => ⟨(s.set? key).ways, rfl⟩⟩
  | some w =>
    refine ⟨hctx, fun key => ?_⟩
    simp only [Cmd.exec_seq]
    rw [(after_aside _ _ _).set]
    by_cases hkey : key = setKeyAt f.sid f.frm f.node f.tag
    · subst hkey
      exact ⟨_, setWay_set_self ..⟩
    · exact ⟨(s.set? key).ways, modSet_set_ne _ _ hkey⟩

end

/-- The Siding's entry of a spill, behind the tail of its set. -/
def State.spillEntry (s : State) (p : Spill) (r : Region) : SidEntry :=
  let sid := siteOfSet p.set p.m.e
  ⟨p.m, r.rgn, xOf sid - r.x0, yOf sid - r.y0, (s.set? p.set).tail, noSlot, false, false, dieOf sid, clusterOf sid % 384, p.set % 64⟩

/-- The entry behind which a new one is linked names it as its successor. -/
def Siding.link (d : Siding) (tail k : Nat) : Siding := { d with entries := d.entries.mod tail fun e => { e with next := k } }

/-- Linking leaves what a slot matches. -/
theorem Siding.link_m (d : Siding) (tail j k : Nat) : ((d.link tail j).entries.get? k).map (·.m) = (d.entries.get? k).map (·.m) :=
  get?_mod_m d.entries tail k fun _ => rfl

/-- The set of an entry that has come to the Siding: the entry is its tail. -/
def MatchSet.inserted (t : MatchSet) (k : Nat) : MatchSet :=
  { t with flying := t.flying - 1, tail := k, head := if t.head = noSlot then k else t.head }

/-- A spilled entry goes into its bucket and to the tail of its set. -/
theorem sidingInsert_spec {s : State} {sp k rk : Nat} {p : Spill} {c : Ctx} {r : Region} {d : Siding}
    (hp : s.fab.spills.get? sp = some p) (hc : s.ctx? p.ctx = some c) (hr : s.regionAt (siteOfSet p.set p.m.e) = some (rk, r))
    (hd : c.siding.insert (s.spillEntry p r) = some (k, d)) :
    Answers (.sidingInsert sp) s fun u => (u.ctx? p.ctx).map (Ctx.spilled k) = some (c.siding.use + 1, some p.m) ∧
      ∃ ways, u.set? p.set = { (s.set? p.set).inserted k with ways := ways } := by
  let gone := (Cmd.prim (.fab fun b => { b with spills := b.spills.del sp })).exec s
  let linked := d.link (s.set? p.set).tail k
  let inserted := (modSet p.set fun t => t.inserted k).exec
    ((modSiding p.ctx (dieOf (siteOfSet p.set p.m.e)) fun _ => linked).exec gone)
  let asker := (s.elem (siteOfSet p.set p.m.e)).parked.find? fun q => p.m.parked && q.released && q.isOf p.m
  have hexec : exec (.sidingInsert sp) s = .next ((Cmd.opt asker fun q => askRefill q.f k).exec inserted) := by
    change execSidingInsert sp s = _
    rw [State.spillEntry] at hd
    simp only [execSidingInsert, hp, hc, hr, hd, Cmd.next_eq, Cmd.exec_all_cons, Cmd.exec_all_one]
    rfl
  obtain ⟨huse, hentry⟩ := Siding.insert_spec hd
  have hctx : (inserted.ctx? p.ctx).map (Ctx.spilled k) = some (c.siding.use + 1, some p.m) := by
    have h : inserted.ctx? p.ctx = some { c with siding := linked } := modSiding_ctx (s := gone) hc _ _
    have hm : (linked.entries.get? k).map (·.m) = some p.m := by
      rw [Siding.link_m, hentry]
      rfl
    rw [h]
    exact congrArg some (Prod.ext huse hm)
  have hset : inserted.set? p.set = (s.set? p.set).inserted k := by
    change ((modSet _ _).exec _).set? _ = _
    rw [modSet_set_self, modSiding_set (s := gone) hc]
    rfl
  refine ⟨_, hexec, ?_⟩
  cases asker with
  | none => exact ⟨hctx, _, hset⟩
  | some q =>
    obtain ⟨hask, hways⟩ := askRefill_spec q.f k inserted
    obtain ⟨ways, hways⟩ := hways p.set
    exact ⟨(hask _ _).trans hctx, ways, by rw [← hset]; exact hways⟩

/-! ### A lookup completes a spilled entry (R250) -/

section
variable {s : State} {sid ctx rgn slot rk k : Nat} {t : Token} {sl : NodeSlot} {r : Region} {n : SidEntry}

/-- A spilled entry that its token completes is freed, and its group is ready. -/
theorem exec_sidingLookup_complete (hslot : (s.elem sid).slotOf t.frm t.node = some (slot, sl))
    (hheld : (s.elem sid).held = some (t, .sidingLookup)) (hstop : (s.elem sid).stopped = false)
    (hr : s.regionAt sid = some (rk, r))
    (hnone : (s.set? (setKeyAt sid t.frm t.node t.tag)).find (elemIndex sid) t.frm t.node t.tag = none)
    (hspills : (s.set? (setKeyAt sid t.frm t.node t.tag)).spills ≠ 0)
    (hflying : (s.set? (setKeyAt sid t.frm t.node t.tag)).flying = 0)
    (hfind : s.sidingFind r.ctx r.rgn (xOf sid - r.x0) (yOf sid - r.y0) t.frm t.node t.tag = some (k, n))
    (hrefill : n.refill = false) (hpoison : n.m.poisoned = false) (hport : n.m.port t.port = none)
    (hall : ∀ q ∈ sl.needs, q = t.port ∨ q ∈ n.m.present) (hroom : (s.elem sid).ready.length < Config.readyDepth) :
    exec (.sidingLookup sid) s = .next ((unhold sid).exec ((freeSiding r.ctx (setKeyAt sid t.frm t.node t.tag) k).exec
      ((pushGroup sid slot sl t n.m.operand).exec s))) := by
  have hall' : (((slotPorts sl.word).1.required (slotPorts sl.word).2).all fun q => q == t.port || n.m.present.contains q) = true := by
    simpa [NodeSlot.needs] using hall
  change execSidingLookup sid s = _
  simp only [execSidingLookup, hheld, hr, hslot, hstop, hnone, hspills, hflying, hfind, hrefill, hpoison, hport, hall',
    hroom.not_ge, Cmd.next_eq]
  rfl

end

end Sys2Proof.Machine

/-! ## The Siding engine as a whole (R249 to R253) -/

namespace Sys2Proof.Machine

/-! ### A lookup that completes -/

/-- A lookup that completes a spilled entry makes a ready entry and frees the slot (R250). -/
theorem sidingLookup_completes {s : State} {sid k slot : Nat} {t : Token} {sl : NodeSlot} {c : Ctx} {r : Region} {n : SidEntry}
    {key : Nat} (hc : s.ctx? r.ctx = some c) (hn : c.siding.entries.get? k = some n)
    (hexec : exec (.sidingLookup sid) s = .next ((unhold sid).exec ((freeSiding r.ctx key k).exec
      ((pushGroup sid slot sl t n.m.operand).exec s)))) :
    Answers (.sidingLookup sid) s fun u =>
      (∃ x, (u.elem sid).ready = (s.elem sid).ready ++ [x] ∧ x.isOf slot t n.m.operand) ∧
      (u.set? key).spills = (s.set? key).spills - 1 ∧ (u.ctx? r.ctx).map (·.siding.use) = some (c.siding.use - 1) := by
  obtain ⟨⟨x, hready, hx⟩, -, hset, hctx⟩ := pushGroup_spec s sid slot sl t n.m.operand
  have hc' := (hctx r.ctx).trans hc
  refine ⟨_, hexec, ⟨x, ?_, hx⟩, ?_, ?_⟩
  · rw [unhold_elem, freeSiding_elem hc' hn]
    exact hready
  · rw [unhold_set, freeSiding_set hc' hn, hset]
    rfl
  · have h := (unhold_aside ((freeSiding r.ctx key k).exec ((pushGroup sid slot sl t n.m.operand).exec s)) sid).comp (·.siding.use)
      |>.ctx r.ctx
    refine h.trans ?_
    change (((freeSiding r.ctx key k).exec _).ctx? r.ctx).map (·.siding.use) = _
    rw [freeSiding_ctx hc' hn]
    exact congrArg some (Siding.remove_use hn)

/-! ### Refills (R251) -/

/-- The entries of a chain stand in their slots. -/
theorem Siding.get?_of_mem_chain {d : Siding} {x : Nat × SidEntry} {fuel : Nat} :
    ∀ {j : Nat}, x ∈ d.chain j fuel → d.entries.get? x.1 = some x.2 := by
  induction fuel with
  | zero => exact fun h => absurd h List.not_mem_nil
  | succ fuel ih =>
    intro j h
    rw [Siding.chain] at h
    split at h
    next n hn =>
      rcases List.mem_cons.1 h with rfl | h
      · exact hn
      · exact ih h
    · exact absurd h List.not_mem_nil

theorem mem_of_nextRefill {chain : List (Nat × SidEntry)} {x : Nat × SidEntry} (h : nextRefill chain = some x) : x ∈ chain := by
  rw [nextRefill] at h
  split at h
  next y hy => exact Option.some.inj h ▸ List.mem_of_find?_eq_some hy
  · exact List.mem_of_find?_eq_some h

/-- A slot's entry is on its way back to a way. -/
def Siding.markRefill (d : Siding) (k : Nat) : Siding :=
  { d with entries := d.entries.mod k fun e => { e with refill := true } }

section
variable {s : State} {set way k : Nat} {c : Ctx} {n : SidEntry} (hc : s.ctx? (s.ctxOfSet set) = some c)
  (hway : (s.set? set).ways.findIdx? (fun w => w == .reserved) = some way)
include hc hway

/-- The entry that comes next is marked, and its refill is due after the Siding's access. -/
theorem sidingRefill_marks
    (hfind : (c.siding.chain (s.set? set).head ((s.set? set).spills + 1)).find? (fun x => x.2.refill) = none)
    (hnext : nextRefill (c.siding.chain (s.set? set).head ((s.set? set).spills + 1)) = some (k, n)) :
    Answers (.sidingRefill set) s fun u => u.due (s.now + s.sidingCycles (s.ctxOfSet set) (set / 64 / 384) k) (.sidingRefill set) ∧
      ((u.ctx? (s.ctxOfSet set)).bind fun x => (x.siding.entries.get? k).map (·.refill)) = some true := by
  have hn : c.siding.entries.get? k = some n := Siding.get?_of_mem_chain (mem_of_nextRefill hnext)
  let marked := (modSiding (s.ctxOfSet set) (set / 64 / 384) fun d => d.markRefill k).exec s
  have hexec : exec (.sidingRefill set) s =
      .next ((after (s.sidingCycles (s.ctxOfSet set) (set / 64 / 384) k) (.sidingRefill set)).exec marked) := by
    change execSidingRefill set s = _
    simp only [execSidingRefill, hway, hc, hfind, hnext, Cmd.next_eq, Cmd.exec_seq]
    rfl
  refine ⟨_, hexec, mem_agendaInsert.2 (.inl ?_), ?_⟩
  · rw [← modSiding_now hc (set / 64 / 384) fun d => d.markRefill k]
  · rw [(after_aside _ _ _).ctx_eq, modSiding_ctx hc]
    simp [Siding.markRefill, hn]

/-- A marked entry whose words fit comes back into the reserved way. -/
theorem sidingRefill_places {m : MatchEntry}
    (hfind : (c.siding.chain (s.set? set).head ((s.set? set).spills + 1)).find? (fun x => x.2.refill) = some (k, n))
    (hplace : n.m.place (s.usedWords (siteOfSet set n.m.e)) = some m) (hparked : m.parked = false) :
    Answers (.sidingRefill set) s fun u => (u.set? set).ways[way]? = some (.held m) ∧
      (u.set? set).spills = (s.set? set).spills - 1 := by
  have hn : c.siding.entries.get? k = some n := Siding.get?_of_mem_chain (List.mem_of_find?_eq_some hfind)
  let counted := (count (set / 64 / 384) (s.vdOfCtx (s.ctxOfSet set)) 3 1).exec ((setWay set way (.held m)).exec s)
  have hexec : exec (.sidingRefill set) s = .next ((freeSiding (s.ctxOfSet set) set k).exec counted) := by
    have hnobody : (s.elem (siteOfSet set n.m.e)).parked.find? (fun p => m.parked && p.isOf m) = none := by
      simp [hparked]
    change execSidingRefill set s = _
    simp only [execSidingRefill, hway, hc, hfind, hplace, hnobody, Cmd.next_eq, Cmd.exec_all_cons, Cmd.exec_all_one]
    rfl
  have hset : counted.set? set = { s.set? set with ways := (s.set? set).ways.set way (.held m) } := setWay_set_self ..
  have hlt := (List.findIdx?_eq_some_iff_getElem.1 hway).1
  refine ⟨_, hexec, ?_⟩
  have hfreed := freeSiding_set (s := counted) hc hn set
  rw [hset] at hfreed
  exact ⟨by rw [hfreed]; exact List.getElem?_set_self hlt, by rw [hfreed]; rfl⟩

end

/-! ### Errors in an entry (R253) -/

/-- A record that finds room stands in the ring of its context. -/
theorem writeRecord_mem_ring {s : State} {r : FaultRec} {ctx : Nat} {c : Ctx} (hctx : r.ctx = ctx) (hc : s.ctx? ctx = some c)
    (hroom : c.ring.length < 64) : r ∈ ((((writeRecord r).exec s).ctx? ctx).map (·.ring)).getD [] := by
  subst hctx
  rw [writeRecord_ctx hc hroom]
  exact List.mem_append_right _ (List.mem_singleton_self _)

/-- What follows an error in an entry: a record when its key is lost, and poison from its node otherwise. -/
def entryErrorReport (s : State) (ctx slot : Nat) (keyBad lost : Bool) (c : Ctx) (n : SidEntry) : Cmd :=
  let cause := if lost then causePageLost else causeEcc
  if keyBad then writeRecord { s.engineRecord ctx n.die cause (c.siding.base + BitVec.ofNat 64 (256 * slot)) 0 with rgn := n.rgn }
  else match s.siteOfEntry ctx n with
    | none => .skip
    | some sid => match (s.elem sid).slotOf n.m.frm n.m.node with
      | some (k, sl) => .seq (dropParked sid n.m) (emitFrom (slotFiring sid k sl n.m.tag) sl.word cause)
      | none => .skip

theorem entryErrorReport_frame (s : State) (ctx slot : Nat) (keyBad lost : Bool) (c : Ctx) (n : SidEntry) :
    (entryErrorReport s ctx slot keyBad lost c n).Within (FaultFrame fun _ => ()) := by
  have hR := FaultFrame.chains fun _ : Element => ()
  cases keyBad with
  | true => exact fun t => (writeRecord_aside _ t).faultFrame _
  | false =>
    simp only [entryErrorReport, Bool.false_eq_true, if_false]
    split
    · exact Cmd.within_skip hR
    · split
      · exact Cmd.within_seq hR (fun t => (dropParked_frame _ _ t).comp fun _ => ()) fun t => (emitFrom_frame _ _ _ t).comp fun _ => ()
      · exact Cmd.within_skip hR

/-- An error in an entry frees it, with a record of its address when its key is lost (R253). -/
theorem sidingEntryError_frees {s : State} {ctx slot : Nat} {c : Ctx} {n : SidEntry} (keyBad lost : Bool) (hc : s.ctx? ctx = some c)
    (hn : c.siding.entries.get? slot = some n) : Answers (.sidingEntryError ctx slot keyBad lost) s fun u =>
      (u.ctx? ctx).map (·.siding.use) = some (c.siding.use - 1) ∧
      (keyBad = true → c.ring.length < 64 → ∃ rec ∈ ((u.ctx? ctx).map (·.ring)).getD [],
        rec.cause = (if lost then causePageLost else causeEcc) ∧ rec.addr = c.siding.base + BitVec.ofNat 64 (256 * slot)) := by
  let key := 64 * (384 * n.die + n.cluster) + n.set
  let freed := (freeSiding ctx key slot).exec s
  have hexec : exec (.sidingEntryError ctx slot keyBad lost) s = .next ((entryErrorReport s ctx slot keyBad lost c n).exec freed) := by
    change execSidingEntryError ctx slot keyBad lost s = _
    simp only [execSidingEntryError, hc, hn, Cmd.next_eq, Cmd.exec_seq]
    rfl
  have hfreed : freed.ctx? ctx = some { c with siding := c.siding.remove slot } := freeSiding_ctx hc hn key
  refine ⟨_, hexec, ?_, fun hkey hroom => ?_⟩
  · refine ((entryErrorReport_frame s ctx slot keyBad lost c n freed).ctx_comp (·.siding.use) ctx).trans ?_
    rw [hfreed]
    exact congrArg some (Siding.remove_use hn)
  · subst hkey
    exact ⟨_, writeRecord_mem_ring rfl hfreed hroom, rfl, rfl⟩

/-! ### The obligation -/

/-- What the Siding's accesses do (R247 to R253). -/
theorem sidingAccesses : Claims.SidingAccesses := by
  refine ⟨?insert, ?lookup, ?refill, fun s ctx slot keyBad lost c n hc hn => sidingEntryError_frees keyBad lost hc hn⟩
  case insert =>
    intro s sp p c r rk k d hp hc hr sid set hd
    obtain ⟨u, hexec, hspilled, ways, hset⟩ := sidingInsert_spec hp hc hr hd
    obtain ⟨x, hx, hview⟩ := Option.map_eq_some_iff.1 hspilled
    obtain ⟨huse, hm⟩ := Prod.mk.inj hview
    refine ⟨u, hexec, ?_, ?_, ?_⟩
    · rw [hx]
      exact congrArg some huse
    · rw [hx]
      exact hm
    · rw [hset]
      exact ⟨rfl, rfl, rfl⟩
  case lookup =>
    intro s sid t ctx rgn slot sl c r rk k n ha hheld hstop hc hr key set hnone hspills hflying hfind hn hrefill hpoison hport hall hroom
    have hregion := ha.region
    rw [hr] at hregion
    obtain ⟨rfl, rfl⟩ := Prod.mk.inj (Option.some.inj hregion)
    exact sidingLookup_completes hc hn (exec_sidingLookup_complete ha.slot hheld hstop hr hnone hspills hflying hfind hrefill hpoison
      hport hall hroom)
  case refill =>
    intro s set way c k n t ctx chain hc hway
    exact ⟨sidingRefill_marks hc hway, fun m => sidingRefill_places hc hway⟩

/-- Settles O27: a token's hop, its match, and the Siding's accesses, each read off the one change its row makes. -/
theorem tokensMoveAndMatch : Obligations.TokensMoveAndMatch := ⟨tokenHops, tokensMatch, sidingAccesses⟩

end Sys2Proof.Machine

/-! ## Integer results wrap or saturate (R47, R48)

A pattern of `w` bits is that of a bit vector, whose library lemmas say what it reads in a signed type. The clamped integer lies in
the range of its type, so its pattern reads back as itself. -/

namespace Sys2Proof.Machine

theorem Ty.width_pos (t : Ty) : 0 < t.width := by
  cases t <;> decide

theorem Ty.lo_le_hi (t : Ty) : Ty.lo t ≤ Ty.hi t := by
  cases t <;> decide

/-- The pattern of an integer is its least residue (R48). -/
theorem wrapTo_cast (w : Nat) (x : Int) : (wrapTo w x : Int) = x % 2 ^ w :=
  Int.toNat_of_nonneg (Int.emod_nonneg x (by positivity))

/-- The pattern of an integer is that of its bit vector. -/
theorem wrapTo_eq_toNat_ofInt (w : Nat) (x : Int) : wrapTo w x = (BitVec.ofInt w x).toNat := by
  simp [wrapTo, BitVec.toNat_ofInt]

/-- A signed type reads a pattern in two's complement (R47). -/
theorem readInt_signed {t : Ty} (hsign : t.isSigned = true) (x : Nat) : readInt t x = (BitVec.ofNat t.width x).toInt := by
  simp [readInt, hsign, BitVec.toInt_eq_msb_cond, BitVec.msb_eq_getLsbD_last, BitVec.getLsbD, Ty.width_pos t]

/-- Any other type reads the low bits as they are. -/
theorem readInt_unsigned {t : Ty} (hsign : t.isSigned = false) (x : Nat) : readInt t x = (x : Int) % 2 ^ t.width := by
  simp [readInt, hsign]

/-- An integer in the range of its type is read back from its pattern. -/
theorem readInt_wrapTo {t : Ty} {x : Int} (hlo : Ty.lo t ≤ x) (hhi : x ≤ Ty.hi t) : readInt t (wrapTo t.width x) = x := by
  cases hsign : t.isSigned with
  | true =>
    simp only [Ty.lo, Ty.hi, hsign, if_true] at hlo hhi
    rw [readInt_signed hsign, wrapTo_eq_toNat_ofInt, BitVec.ofNat_toNat, BitVec.setWidth_eq]
    exact BitVec.toInt_ofInt_eq_self (Ty.width_pos t) hlo (by omega)
  | false =>
    simp only [Ty.lo, Ty.hi, hsign, Bool.false_eq_true, if_false] at hlo hhi
    rw [readInt_unsigned hsign, wrapTo_cast, Int.emod_emod]
    exact Int.emod_eq_of_lt hlo (by omega)

/-- Without SAT the result is the pattern of the exact integer, without a flag (R48). -/
theorem reduceInt_wraps (t : Ty) (x : Int) : reduceInt t false x = ⟨wrapTo t.width x, 0⟩ := rfl

/-- With SAT the result is the pattern of the clamped integer, and SA tells that the integer lay out of range (R48). -/
theorem reduceInt_saturates (t : Ty) (x : Int) : reduceInt t true x =
    ⟨wrapTo t.width (max (Ty.lo t) (min (Ty.hi t) x)), if Ty.lo t ≤ x ∧ x ≤ Ty.hi t then 0 else fSA⟩ := by
  have hrange := Ty.lo_le_hi t
  simp only [reduceInt, if_true]
  split
  case isTrue hbelow => rw [if_neg (by omega), show max (Ty.lo t) (min (Ty.hi t) x) = Ty.lo t by omega]
  case isFalse hbelow =>
    split
    case isTrue habove => rw [if_neg (by omega), show max (Ty.lo t) (min (Ty.hi t) x) = Ty.hi t by omega]
    case isFalse habove => rw [if_pos (by omega), show max (Ty.lo t) (min (Ty.hi t) x) = x by omega]

/-- Settles O2: the reduced value is the pattern of the exact integer, or with SAT of the clamped one, which its range lets the
type read back. -/
theorem wrapAndSaturate : Obligations.WrapAndSaturate := by
  unfold Obligations.WrapAndSaturate
  intro t x _ lo hi
  rw [reduceInt_wraps, reduceInt_saturates]
  exact ⟨wrapTo_cast t.width x, rfl, readInt_wrapTo (le_max_left lo _) (max_le (Ty.lo_le_hi t) (min_le_left hi x)), rfl⟩

end Sys2Proof.Machine

/-! ## Records decode to what encodes to them (R72 to R91)

A record that decodes has been compared with the encoding of what it decodes to. For the other direction the fields of an encoding
are read back one by one, and its opcode and SUB lead back to its row. -/

namespace Sys2Proof

/-! ### Fields and bits -/

section
variable {v w i : Nat} {hi : BitVec v} {lo : BitVec w}

theorem getLsbD_append_of_le (h : w ≤ i) : (hi ++ lo).getLsbD i = hi.getLsbD (i - w) := by
  rw [BitVec.getLsbD_append, if_neg h.not_gt]

theorem getLsbD_append_of_lt (h : i < w) : (hi ++ lo).getLsbD i = lo.getLsbD i := by
  rw [BitVec.getLsbD_append, if_pos h]

end

@[simp] theorem boolBit_getLsbD_zero (b : Bool) : (boolBit b).getLsbD 0 = b := by cases b <;> rfl

@[simp] theorem Ty.ofCode_code (t : Ty) : Ty.ofCode t.code.toNat = t := by cases t <;> rfl

@[simp] theorem Port.ofCode_code (q : Port) : Port.ofCode q.code.toNat = q := by cases q <;> rfl

@[simp] theorem Pred.unpack_code (q : Pred) : Pred.unpack q.code = some q := by cases q <;> rfl

@[simp] theorem Dest.unpack_pack (d : Dest) : Dest.unpack d.pack = d := by
  simp (disch := omega) only [Dest.unpack, Dest.pack, BitVec.extractLsb'_append_eq_of_le, BitVec.extractLsb'_append_eq_of_add_le,
    BitVec.extractLsb'_eq_self, getLsbD_append_of_le, Nat.reduceSub, boolBit_getLsbD_zero, Port.ofCode_code]

/-- The fields stand in a record where they are read from it (R73). -/
@[simp] theorem RawNode.unpack_pack (r : RawNode) : RawNode.unpack r.pack = r := by
  simp (disch := omega) only [RawNode.unpack, RawNode.pack, BitVec.extractLsb'_append_eq_of_le,
    BitVec.extractLsb'_append_eq_of_add_le, Nat.reduceSub, BitVec.extractLsb'_eq_self]

@[simp] theorem Hdr.raw_hdr (h : Hdr) (opc : BitVec 8) (x : BitVec 24) : (h.raw opc x).hdr h.pred = h := by
  simp [Hdr.raw, RawNode.hdr]

/-- The fields of every overlay stand in X where they are read from it (R77 to R84). -/
theorem overlay_ofX_x :
    (∀ f : CommonNode, CommonNode.ofX f.toHdr f.x = f) ∧ (∀ f : PlumbNode, PlumbNode.ofX f.toHdr f.x = f) ∧
    (∀ f : TagNode, TagNode.ofX f.toHdr f.x = f) ∧ (∀ f : MemNode, MemNode.ofX f.toHdr f.x = f) ∧
    (∀ f : EngNode, EngNode.ofX f.toHdr f.x = f) ∧ (∀ f : GfxNode, GfxNode.ofX f.toHdr f.x = f) ∧
    (∀ f : SysSNode, SysSNode.ofX f.toHdr f.x = f) ∧ (∀ f : SysMNode, SysMNode.ofX f.toHdr f.x = f) := by
  refine ⟨fun f => ?_, fun f => ?_, fun f => ?_, fun f => ?_, fun f => ?_, fun f => ?_, fun f => ?_, fun f => ?_⟩
  all_goals
    simp (disch := omega) only [CommonNode.ofX, CommonNode.x, PlumbNode.ofX, PlumbNode.x, TagNode.ofX, TagNode.x, MemNode.ofX,
      MemNode.x, EngNode.ofX, EngNode.x, GfxNode.ofX, GfxNode.x, SysSNode.ofX, SysSNode.x, SysMNode.ofX, SysMNode.x,
      BitVec.extractLsb'_append_eq_of_le, BitVec.extractLsb'_append_eq_of_add_le, BitVec.extractLsb'_eq_self,
      getLsbD_append_of_le, getLsbD_append_of_lt, Nat.reduceSub, boolBit_getLsbD_zero]

/-! ### The row of a view -/

/-- The row that `Instr.build` looks up for an opcode and an overlay (R90). -/
def NodeView.row : NodeView → Option Instr
  | .common o f => if o.toNat < 0x40 then intRow o.toNat f else if o.toNat < 0x60 then floatRow o.toNat f else vectorRow o.toNat f
  | .plumb o f => plumbRow o.toNat f
  | .tag o f => tagRow o.toNat f
  | .mem o f => memRow o.toNat f
  | .eng o f => engRow o.toNat f
  | .gfx o f => gfxRow o.toNat f
  | .sysS o f => sysSRow o.toNat f
  | .sysM o f => sysMRow o.toNat f

/-- Whether the opcode of a view belongs to the class of its overlay (R90). -/
def NodeView.inClass : NodeView → Bool
  | .plumb o _ => o.toNat < 0x10
  | .tag o _ => 0x10 ≤ o.toNat && o.toNat < 0x20
  | .common o _ => 0x20 ≤ o.toNat && o.toNat < 0x80
  | .mem o _ => 0x80 ≤ o.toNat && o.toNat < 0xA0
  | .eng o _ => 0xA0 ≤ o.toNat && o.toNat < 0xB0
  | .gfx o _ => 0xB0 ≤ o.toNat && o.toNat < 0xC0
  | .sysS o _ => 0xC0 ≤ o.toNat && (o.toNat < 0xC9 || o.toNat == 0xCE)
  | .sysM o _ => 0xC9 ≤ o.toNat && o.toNat != 0xCE

/-- The row of a view is found again from its fields. -/
theorem NodeView.build_raw {n : NodeView} (hclass : n.inClass = true) : Instr.build n.raw n.hdr.pred = n.row := by
  obtain ⟨hcommon, hplumb, htag, hmem, heng, hgfx, hsysS, hsysM⟩ := overlay_ofX_x
  cases n
  all_goals
    simp only [NodeView.inClass, Bool.and_eq_true, Bool.or_eq_true, decide_eq_true_eq, beq_iff_eq, bne_iff_ne] at hclass
    simp only [Instr.build, NodeView.raw, NodeView.hdr, NodeView.row, Hdr.raw_hdr]
    simp (disch := omega) only [Hdr.raw, if_neg, if_pos, hcommon, hplumb, htag, hmem, heng, hgfx, hsysS, hsysM]

theorem NodeView.raw_opc (n : NodeView) : n.raw.opc = n.opc := by cases n <;> rfl
theorem NodeView.raw_pred (n : NodeView) : n.raw.pred = n.hdr.pred.code := by cases n <;> rfl

theorem checkEng_sub {f : EngNode} {sub ty mx : Bool} (h : checkEng f sub ty mx = none) : sub = true := by
  cases sub
  · simp [checkEng, firstReject] at h
  · rfl

theorem checkSysS_sub {f : SysSNode} {sub ty : Bool} {l : BitRule} {lit sreg dests : Bool}
    (h : checkSysS f sub ty l lit sreg dests = none) : sub = true := by
  cases sub
  · simp [checkSysS, firstReject] at h
  · rfl

theorem checkSysM_sub {f : SysMNode} {sub : Nat} (h : checkSysM f sub = none) : f.sub.toNat = sub := by
  by_contra hne
  simp [checkSysM, firstReject, hne] at h

theorem Instr.view_row {i : Instr} {n : NodeView} (hview : i.view = some n) (hwf : i.WellFormed) :
    n.row = some i ∧ n.inClass = true ∧ opcodeAssigned n.opc.toNat = true := by
  cases i <;> simp only [Instr.view, Option.some.injEq, reduceCtorEq] at hview
  all_goals obtain rfl := hview
  case mxsStat f | mxsClr f | mxsSync f | grpxLeave f | grpxBreak f =>
    have hsub := eq_of_beq (checkEng_sub hwf)
    exact ⟨by simp [NodeView.row, engRow, hsub], rfl, rfl⟩
  case retryResume f | retrySkip f | poisMake f | poisTest f | timeNow f | timeUntil f | timeAfter f =>
    have hsub := eq_of_beq (checkSysS_sub hwf)
    exact ⟨by simp [NodeView.row, sysSRow, hsub], rfl, rfl⟩
  case vdctlStop f | vdctlResume f | vdctlReset f | vdctlTrackon f | vdctlTrackoff f =>
    have hsub := checkSysM_sub hwf
    exact ⟨by simp [NodeView.row, sysMRow, ← BitVec.toNat_inj, hsub], rfl, rfl⟩
  all_goals exact ⟨rfl, rfl, rfl⟩

/-! ### Decoding -/

/-- No assigned opcode is one of a later version (R91). -/
theorem opcodeAssigned_lt {o : Nat} (h : opcodeAssigned o = true) : ¬ (0xE0 ≤ o ∧ o ≤ 0xFE) := by
  simp [opcodeAssigned] at h
  omega

/-- An instruction is decoded when every check of its record passes. -/
theorem decode_eq_ok {w : Rec} {i : Instr} {q : Pred} (hopc : opcodeAssigned (RawNode.unpack w).opc.toNat = true)
    (hpred : Pred.unpack (RawNode.unpack w).pred = some q) (hbuild : Instr.build (RawNode.unpack w) q = some i)
    (henc : i.encode = some w) (hwf : i.WellFormed) : decode w = .ok i := by
  simp [decode, opcodeAssigned_lt hopc, hopc, hpred, hbuild, henc, show i.check = none from hwf]

/-- What decodes has passed the check of its row, and its encoding was compared with the record. -/
theorem checked_of_decode {w : Rec} {i : Instr} (h : decode w = .ok i) : i.WellFormed ∧ i.encode = some w := by
  simp only [decode] at h
  repeat' split at h
  all_goals cases h
  exact ⟨‹i.check = none›, not_not.1 ‹¬ i.encode ≠ some w›⟩

/-- Settles O52: decoding compares with the encoding; and the record of a well-formed row is unpacked to its own fields, whose
opcode and SUB lead back to the row. -/
theorem decodeIsExact : Obligations.DecodeIsExact := by
  intro w i
  refine ⟨checked_of_decode, fun ⟨hwf, henc⟩ => ?_⟩
  obtain ⟨n, hview, rfl⟩ := Option.map_eq_some_iff.1 henc
  obtain ⟨hrow, hclass, hopc⟩ := i.view_row hview hwf
  refine decode_eq_ok (q := n.hdr.pred) ?_ ?_ ?_ henc hwf
  · rwa [RawNode.unpack_pack, n.raw_opc]
  · rw [RawNode.unpack_pack, n.raw_pred, Pred.unpack_code]
  · rw [RawNode.unpack_pack, n.build_raw hclass, hrow]

end Sys2Proof

/-! ## Records that no row accepts (R75, R76, R91, R106) -/

namespace Sys2Proof

/-! ### The names of what is refused -/

section
variable {w : Rec}

theorem decode_reserved (hlo : 0xE0 ≤ (RawNode.unpack w).opc.toNat) (hhi : (RawNode.unpack w).opc.toNat ≤ 0xFE) :
    decode w = .error .reservedOpcode := by
  simp [decode, hlo, hhi]

theorem decode_unassigned (hres : ¬ (0xE0 ≤ (RawNode.unpack w).opc.toNat ∧ (RawNode.unpack w).opc.toNat ≤ 0xFE))
    (h : opcodeAssigned (RawNode.unpack w).opc.toNat = false) : decode w = .error .illegalOpcode := by
  simp [decode, hres, h]

variable (hopc : opcodeAssigned (RawNode.unpack w).opc.toNat = true)
include hopc

theorem decode_predIllegal (hpred : Pred.unpack (RawNode.unpack w).pred = none) : decode w = .error .predIllegal := by
  simp [decode, opcodeAssigned_lt hopc, hopc, hpred]

theorem decode_reservedBits {i : Instr} {q : Pred} (hpred : Pred.unpack (RawNode.unpack w).pred = some q)
    (hbuild : Instr.build (RawNode.unpack w) q = some i) (henc : i.encode ≠ some w) : decode w = .error .reservedBits := by
  simp [decode, opcodeAssigned_lt hopc, hopc, hpred, hbuild, henc]

end

/-! ### The common overlay's reserved bit -/

/-- Bit 48 of a common-overlay record is written as zero (R77). -/
theorem common_raw_reserved_bit (o : BitVec 8) (f : CommonNode) : (NodeView.common o f).raw.pack.getLsbD 48 = false := by
  have hbit : (NodeView.common o f).raw.pack.getLsbD 48 = (0 : BitVec 1).getLsbD 0 := by
    simp (disch := omega) only [NodeView.raw, RawNode.pack, Hdr.raw, CommonNode.x, getLsbD_append_of_le, getLsbD_append_of_lt,
      Nat.reduceSub]
  exact hbit.trans rfl

section
variable {o : Nat} (f : CommonNode)

theorem intRow_total (hlo : 0x20 ≤ o) (hhi : o ≤ 0x3C) : ∃ i opc, intRow o f = some i ∧ i.view = some (.common opc f) := by
  interval_cases o <;> exact ⟨_, _, rfl, rfl⟩

theorem floatRow_total (hlo : 0x40 ≤ o) (hhi : o ≤ 0x55) : ∃ i opc, floatRow o f = some i ∧ i.view = some (.common opc f) := by
  interval_cases o <;> exact ⟨_, _, rfl, rfl⟩

end

/-- The integer, address and float opcodes all have rows, of the common overlay (R90). -/
theorem build_common {r : RawNode} (q : Pred)
    (hopc : 0x20 ≤ r.opc.toNat ∧ r.opc.toNat ≤ 0x3C ∨ 0x40 ≤ r.opc.toNat ∧ r.opc.toNat ≤ 0x55) :
    ∃ i opc f, Instr.build r q = some i ∧ i.view = some (.common opc f) := by
  rcases hopc with ⟨hlo, hhi⟩ | ⟨hlo, hhi⟩
  · obtain ⟨i, opc, hrow, hview⟩ := intRow_total (.ofX (r.hdr q) r.x) hlo hhi
    exact ⟨i, opc, _, by simp (disch := omega) only [Instr.build, if_neg, if_pos, hrow], hview⟩
  · obtain ⟨i, opc, hrow, hview⟩ := floatRow_total (.ofX (r.hdr q) r.x) hlo hhi
    exact ⟨i, opc, _, by simp (disch := omega) only [Instr.build, if_neg, if_pos, hrow], hview⟩

theorem Pred.unpack_isSome : ∀ x : BitVec 2, x ≠ 3 → (Pred.unpack x).isSome = true := by decide

/-- The ranges of assigned opcodes (R90). -/
theorem opcodeAssigned_iff {o : Nat} : opcodeAssigned o = true ↔
    1 ≤ o ∧ o ≤ 0x0D ∨ 0x10 ≤ o ∧ o ≤ 0x19 ∨ 0x20 ≤ o ∧ o ≤ 0x3C ∨
    0x40 ≤ o ∧ o ≤ 0x55 ∨ 0x60 ≤ o ∧ o ≤ 0x66 ∨ 0x68 ≤ o ∧ o ≤ 0x72 ∨ 0x78 ≤ o ∧ o ≤ 0x79 ∨ 0x80 ≤ o ∧ o ≤ 0x90 ∨
    0xA0 ≤ o ∧ o ≤ 0xA8 ∨ 0xB0 ≤ o ∧ o ≤ 0xB6 ∨ 0xC0 ≤ o ∧ o ≤ 0xCE := by
  simp only [opcodeAssigned, Bool.or_eq_true, Bool.and_eq_true, decide_eq_true_eq, beq_iff_eq]
  omega

theorem recordsAreRefused : Claims.RecordsAreRefused := by
  intro w o pred gap
  have ho : (RawNode.unpack w).opc.toNat = o := rfl
  refine ⟨fun ⟨hlo, hhi⟩ => decode_reserved hlo hhi, fun h => decode_unassigned ?_ ?_,
    fun hopc hpred => decode_predIllegal hopc ((congrArg Pred.unpack hpred).trans rfl), fun hopc hpred hbit => ?_⟩
  · simp only [gap] at h
    omega
  · rw [← Bool.not_eq_true, opcodeAssigned_iff]
    simp only [gap] at h
    omega
  · obtain ⟨q, hq⟩ := Option.isSome_iff_exists.1 (Pred.unpack_isSome pred hpred)
    obtain ⟨i, opc, f, hbuild, hview⟩ := build_common (r := RawNode.unpack w) q hopc
    refine decode_reservedBits (opcodeAssigned_iff.2 ?_) hq hbuild fun henc => ?_
    · simp only [gap] at hopc
      omega
    · obtain rfl : (NodeView.common opc f).raw.pack = w := by simpa [Instr.encode, hview] using henc
      rw [common_raw_reserved_bit] at hbit
      cases hbit

namespace Machine

/-! ### A record without a row fires -/

/-- Between commands that keep the element's output buffers and the cycle. -/
theorem Sends.of_outs {s t u : State} {f : Firing} {h : Hdr} {lat : Nat} {tag : W64} {v0 v1 : Val}
    (hs : Sends t u f h lat tag v0 v1) (ho : (t.elem f.sid).outs = (s.elem f.sid).outs) (hn : t.now = s.now) :
    Sends s u f h lat tag v0 v1 := by
  obtain ⟨houts, hhop0, hhop1⟩ := hs
  exact ⟨by rw [houts, ho, hn], by rwa [← hn], by rwa [← hn]⟩

/-- A fault found at a node with a valid destination goes out as poison of its own origin. -/
theorem raiseFault_sends {f : Firing} {h : Hdr} (hd : (h.d0.val || h.d1.val) = true) (lat cause : Nat) (s : State) :
    let o := f.origin (s.vdOfCtx f.ctx) cause
    Sends s ((raiseFault f h lat cause).exec s) f h lat f.tag (.poison o) (.poison o) := by
  simp only [raiseFault, Cmd.exec_get, Cmd.exec_all_cons, Cmd.exec_all_one, emitPoison_of_dest hd]
  have hbefore := (FaultFrame.chains Element.uncaptured).trans (foldCapture_frame f.sid s)
    ((freshFault_aside f (f.origin (s.vdOfCtx f.ctx) cause) _).faultFrame _)
  exact (emit_sends ..).of_outs (hbefore.comp Element.outs |>.elem f.sid) hbefore.now

section
variable {s : State} {w : Rec}
  (hd : (((RawNode.unpack w).hdr .always).d0.val || ((RawNode.unpack w).hdr .always).d1.val) = true)
include hd

/-- A record without a row passes arriving poison on (R106). -/
theorem illegalOpcodeFire_poison {o : W64} (ho : s.cur.poison? = some o) :
    Answers (.illegalOpcodeFire w) s fun t => Emits s t ((RawNode.unpack w).hdr .always) 1 (.poison o) := by
  refine ⟨_, rfl, ?_⟩
  rw [Cmd.exec_seq, ho]
  change Sends s ((emitPoison _ _ 1 _ o).exec _) ..
  rw [emitPoison_of_dest hd]
  exact (emit_sends ..).after (markFired_fab ..) (markFired_now ..)

/-- Without poison it takes a fault of its own: RESERVED_OPC for an opcode of a later version, else ILLEGAL (R75, R91). -/
theorem illegalOpcodeFire_fault {cause : Nat} (ho : s.cur.poison? = none)
    (hcause : (if 0xE0 ≤ (RawNode.unpack w).opc.toNat ∧ (RawNode.unpack w).opc.toNat ≤ 0xFE then causeReserved
      else causeIllegal) = cause) :
    Answers (.illegalOpcodeFire w) s fun t =>
      Emits s t ((RawNode.unpack w).hdr .always) 1 (.poison (s.cur.origin (s.vdOfCtx s.cur.ctx) cause)) := by
  have hsends := raiseFault_sends (f := s.cur) hd 1 cause ((markFired s.cur).exec s)
  rw [markFired_vdOfCtx] at hsends
  refine ⟨_, rfl, ?_⟩
  rw [Cmd.exec_seq, ho, hcause]
  exact hsends.after (markFired_fab ..) (markFired_now ..)

end

theorem unknownOpcodes : Claims.UnknownOpcodes := fun _ _ hd =>
  ⟨fun _ ho => illegalOpcodeFire_poison hd ho, fun ho hopc => illegalOpcodeFire_fault hd ho (if_neg (by omega)),
    fun ho hlo hhi => illegalOpcodeFire_fault hd ho (if_pos ⟨hlo, hhi⟩)⟩

/-- Settles O53: `decode` refuses by name in the order of its checks, and a record without a row fires as a fault or passes
poison on. -/
theorem unknownRecords : Obligations.UnknownRecords := ⟨recordsAreRefused, unknownOpcodes⟩

end Machine
end Sys2Proof

/-! ## Lanes (R78, R132) -/

namespace Sys2Proof.Machine

theorem laneOf_packLanes (w : Nat) (xs : List Nat) (j : Nat) : laneOf (packLanes w xs) w j = xs.getD j 0 % 2 ^ w := by
  induction xs generalizing j with
  | nil => simp [packLanes, laneOf]
  | cons x xs ih =>
    cases j with
    | zero => simp [packLanes, laneOf]
    | succ j =>
      have hlow : (x % 2 ^ w + 2 ^ w * packLanes w xs) / 2 ^ w = packLanes w xs := by
        rw [Nat.add_mul_div_left _ _ (by positivity), Nat.div_eq_of_lt (Nat.mod_lt _ (by positivity)), Nat.zero_add]
      rw [List.getD_cons_succ, ← ih, packLanes, laneOf, laneOf, Nat.mul_succ, Nat.add_comm (w * j), Nat.pow_add,
        ← Nat.div_div_eq_div_mul, hlow]

/-- A bit of flags that are ORed together is set when it is set in one of them. -/
theorem testBit_foldl_or (rs : List Res) (a b : Nat) :
    (rs.foldl (fun a r => a ||| r.flags) a).testBit b = (a.testBit b || rs.any fun r => r.flags.testBit b) := by
  induction rs generalizing a with
  | nil => simp
  | cons r rs ih => simp [ih, Bool.or_assoc]

/-- The result of one lane: the operation where the lane is enabled, and else what a disabled lane holds, without flags (R78). -/
def laneRes (w : Nat) (mask : BitVec 16) (ops : List Val) (dis : List Nat → Nat) (op : List Nat → Res) (j : Nat) : Res :=
  let xs := ops.map fun o => laneOf o.wide.toNat w j
  if laneOn mask (512 / w) j then op xs else ⟨dis xs, 0⟩

section
variable {w : Nat} {mask : BitVec 16} {ops : List Val} {dis : List Nat → Nat} {op : List Nat → Res}

theorem laneRes_bits (j : Nat) : (laneRes w mask ops dis op j).bits =
    if laneOn mask (512 / w) j then (op (ops.map fun o => laneOf o.wide.toNat w j)).bits
    else dis (ops.map fun o => laneOf o.wide.toNat w j) := by
  rw [laneRes]
  split <;> rfl

/-- Only an enabled lane raises flags. -/
theorem laneRes_flags (j b : Nat) : (laneRes w mask ops dis op j).flags.testBit b =
    (laneOn mask (512 / w) j && (op (ops.map fun o => laneOf o.wide.toNat w j)).flags.testBit b) := by
  rw [laneRes]
  cases laneOn mask (512 / w) j
  · exact Nat.zero_testBit b
  · rfl

theorem evalLanes_vector : evalLanes true w mask ops dis op =
    (packLanes w (((List.range (512 / w)).map (laneRes w mask ops dis op)).map (·.bits)),
      ((List.range (512 / w)).map (laneRes w mask ops dis op)).foldl (fun a r => a ||| r.flags) 0) := rfl

theorem evalLanes_lane {j : Nat} (hj : j < 512 / w) :
    laneOf (evalLanes true w mask ops dis op).1 w j = (laneRes w mask ops dis op j).bits % 2 ^ w := by
  simp [evalLanes_vector, laneOf_packLanes, List.getD_eq_getElem?_getD, hj]

theorem evalLanes_flags (b : Nat) : (evalLanes true w mask ops dis op).2.testBit b =
    (List.range (512 / w)).any fun k => (laneRes w mask ops dis op k).flags.testBit b := by
  simp [evalLanes_vector, testBit_foldl_or, List.any_map, Function.comp_def]

end

/-- Settles O1: a lane of the packed result is the result of that lane, which looks at no other lane of the operands. -/
theorem lanesAreIndependent : Obligations.LanesAreIndependent := by
  unfold Obligations.LanesAreIndependent
  intro w mask ops dis op j _ hj at_ on
  refine ⟨?lane, fun b => ?flags, rfl⟩
  case lane => exact (evalLanes_lane hj).trans (congrArg (· % 2 ^ w) (laneRes_bits j))
  case flags => exact (evalLanes_flags b).trans (congrArg (List.any _) (funext fun k => laneRes_flags k b))

end Sys2Proof.Machine

/-! ## Blocks start and arrive (R86, R117, R236 to R238, R242)

The sequencer's commands change regions and contexts in few fields; `BlockFrame` says which they keep. A start that hits also keeps
what its element queues hold already, which `Readies` says. -/

namespace Sys2Proof.Machine

/-! ### What the commands of the sequencer leave alone -/

/-- Between two states the cycle, the part `p` of every region and the part `g` of every context are the same. -/
structure BlockFrame {α β : Type} (p : Region → α) (g : Ctx → β) (s t : State) : Prop where
  now : t.now = s.now
  region : ∀ c r, (t.region? c r).map p = (s.region? c r).map p
  ctx : ∀ c, (t.ctx? c).map g = (s.ctx? c).map g

section
variable {α β : Type} {p : Region → α} {g : Ctx → β} {s t : State}

theorem BlockFrame.chains (p : Region → α) (g : Ctx → β) : Chains (BlockFrame p g) where
  refl _ := ⟨rfl, fun _ _ => rfl, fun _ => rfl⟩
  trans a b := ⟨b.now.trans a.now, fun c r => (b.region c r).trans (a.region c r), fun c => (b.ctx c).trans (a.ctx c)⟩

theorem BlockFrame.region_eq (h : BlockFrame id g s t) (c r : Nat) : t.region? c r = s.region? c r := by
  simpa using h.region c r

theorem BlockFrame.ctx_eq (h : BlockFrame p id s t) (c : Nat) : t.ctx? c = s.ctx? c := by simpa using h.ctx c

/-- A change of neither the cycle nor the tables of regions and contexts. -/
theorem BlockFrame.of_eq (hnow : t.now = s.now) (hregions : t.run.regions = s.run.regions) (hctxs : t.ten.ctxs = s.ten.ctxs) :
    BlockFrame p g s t :=
  ⟨hnow, fun c r => by rw [State.region?, hregions]; rfl, fun c => by rw [State.ctx?, hctxs]; rfl⟩

/-- A change of a region in fields that are not kept. -/
theorem modRegion_blockFrame {ctx rgn : Nat} {f : Region → Region} (hf : ∀ r, p (f r) = p r := by exact fun _ => rfl) :
    (modRegion ctx rgn f).Within (BlockFrame p g) := fun s =>
  { (BlockFrame.chains p g).refl s with
    region := fun c r => by
      simp only [State.region?, modRegion, Cmd.exec_prim, Prim.blocks_run, Tbl.get?_mod]
      split
      · next h => rw [h, Option.map_map]; exact congrArg (Option.map · _) (funext hf)
      · rfl }

/-- A change of a context in fields that are not kept. -/
theorem modCtx_blockFrame {ctx : Nat} {f : Ctx → Ctx} (hf : ∀ c, g (f c) = g c := by exact fun _ => rfl) :
    (modCtx ctx f).Within (BlockFrame p g) := fun s =>
  { (BlockFrame.chains p g).refl s with ctx := (modCtx_aside (g := g) hf s).ctx }

theorem afterTask_blockFrame (n : Nat) (x : Task) : (afterTask n x).Within (BlockFrame p g) := fun _ => .of_eq rfl rfl rfl

theorem after_blockFrame (n : Nat) (i : Instr) : (after n i).Within (BlockFrame p g) := afterTask_blockFrame n _

theorem modElem_blockFrame (sid : Nat) (f : Element → Element) : (modElem sid f).Within (BlockFrame p g) := fun _ =>
  .of_eq rfl rfl rfl

theorem clearFrame_blockFrame (r : Region) (frm : Nat) : (clearFrame r frm).Within (BlockFrame p g) :=
  Cmd.within_each (BlockFrame.chains p g) fun _ _ => modElem_blockFrame _ _

theorem installBlock_blockFrame (r : Region) (frm : Nat) (b : Block) : (installBlock r frm b).Within (BlockFrame p g) :=
  Cmd.within_seq (BlockFrame.chains p g) (clearFrame_blockFrame r frm)
    (Cmd.within_each (BlockFrame.chains p g) fun _ _ => modElem_blockFrame _ _)

theorem launchFilled_blockFrame (c : Ctx) : (launchFilled c).Within (BlockFrame p g) :=
  Cmd.within_get fun s => Cmd.within_when (BlockFrame.chains p g) (fun _ => after_blockFrame 0 _) s

theorem sendInterrupt_blockFrame (vd src : Nat) : (sendInterrupt vd src).Within (BlockFrame p g) :=
  Cmd.within_get fun s => Cmd.within_when (BlockFrame.chains p g) (fun _ _ => .of_eq rfl rfl rfl) s

theorem noticeAppend_blockFrame (ctx : Nat) (v : W64) : (noticeAppend ctx v).Within (BlockFrame p g) :=
  fun _ => .of_eq rfl rfl rfl

/-- A record changes no region, and of a context only what taking a fault changes. -/
theorem writeRecord_blockFrame (r : FaultRec) : (writeRecord r).Within (BlockFrame p Ctx.unrecorded) := by
  have hR := BlockFrame.chains p Ctx.unrecorded
  refine Cmd.within_get fun s => ?_
  split
  · exact .of_eq rfl rfl rfl
  · split
    · refine Cmd.within_seq hR modCtx_blockFrame ?_ s
      dsimp only
      split
      · exact noticeAppend_blockFrame _ _
      · split
        · split
          · split
            · exact noticeAppend_blockFrame _ _
            · exact sendInterrupt_blockFrame _ _
          · exact sendInterrupt_blockFrame _ _
        · exact sendInterrupt_blockFrame _ _
    · exact modCtx_blockFrame (s := s)

theorem endActivation_blockFrame (ctx rgn dom : Nat) :
    (endActivation ctx rgn dom).Within (BlockFrame (·.starts) (·.ring)) := by
  have hR := BlockFrame.chains Region.starts Ctx.ring
  refine Cmd.within_all hR ?_
  simp only [List.forall_mem_cons, List.not_mem_nil, false_imp_iff, implies_true, and_true]
  exact ⟨modCtx_blockFrame, Cmd.within_seq hR modCtx_blockFrame modRegion_blockFrame,
    Cmd.within_get fun s => modRegion_blockFrame (s := s), after_blockFrame _ _, after_blockFrame _ _⟩

end

/-! ### Frames -/

theorem modFrame_region (ctx rgn frm : Nat) (f : Frame → Frame) (s : State) :
    ((modFrame ctx rgn frm f).exec s).region? ctx rgn =
      (s.region? ctx rgn).map fun r => { r with frames := r.frames.modify frm f } :=
  modRegion_region_self ..

theorem modFrame_frame {ctx rgn frm : Nat} (g : Frame → Frame) {s : State} {r : Region} {f : Frame}
    (hr : s.region? ctx rgn = some r) (hf : r.frames[frm]? = some f) :
    ∃ x, ((modFrame ctx rgn frm g).exec s).region? ctx rgn = some x ∧ x.frames[frm]? = some (g f) :=
  ⟨_, (modFrame_region ..).trans (congrArg _ hr), (List.getElem?_modify_eq ..).trans (congrArg (Option.map g) hf)⟩

theorem after_due (n : Nat) (i : Instr) (s : State) : ((after n i).exec s).due (s.now + n) i := mem_agendaInsert.2 (.inl rfl)

theorem frames_getD_of_getElem? {r : Region} {frm : Nat} {f : Frame} (hf : r.frames[frm]? = some f) :
    r.frames.getD frm Frame.empty = f := by
  rw [List.getD_eq_getElem?_getD, hf]
  rfl

/-! ### A block arrives (R238) -/

/-- What follows a fetch that has ended: a replica that is placed and a launch that waits for its first blocks are told, and the
start requests are looked at again. -/
def endFetch (ctx rgn : Nat) (c : Ctx) (r : Region) : Cmd := .seq
  (.seq (.when (r.state == .placing) (after 2 (.replicaAvailable ctx rgn))) (launchFilled c)) (after 1 (.blockStart ctx rgn))

/-- A sound block fills its frame. -/
def fillFrame (ctx rgn frm : Nat) (r : Region) (b : Block) : Cmd := .seq (installBlock r frm b)
  (modFrame ctx rgn frm fun f => { f with block := some b, filling := none })

/-- A frame whose block did not arrive is empty, and the start requests for the block fail. -/
def failFrame (ctx rgn frm addr : Nat) (r : Region) (e : FetchFail) : Cmd := .seq
  (modFrame ctx rgn frm fun f => { f with block := none, filling := none })
  (Cmd.each (r.starts.filter fun q => q.block == addr) fun q => failStart ctx rgn addr e q)

/-- What a frame takes from the end of its fetch. -/
def takeFetched (ctx rgn frm addr : Nat) (r : Region) : Except FetchFail Block → Cmd
  | .ok b => fillFrame ctx rgn frm r b
  | .error e => failFrame ctx rgn frm addr r e

section
variable {α β : Type} {p : Region → α} {g : Ctx → β}

theorem tellFetched_blockFrame (ctx rgn : Nat) (c : Ctx) (r : Region) :
    (Cmd.seq (.when (r.state == .placing) (after 2 (.replicaAvailable ctx rgn))) (launchFilled c)).Within (BlockFrame p g) :=
  Cmd.within_seq (BlockFrame.chains p g) (Cmd.within_when (BlockFrame.chains p g) fun _ => after_blockFrame _ _)
    (launchFilled_blockFrame c)

theorem endFetch_blockFrame (ctx rgn : Nat) (c : Ctx) (r : Region) : (endFetch ctx rgn c r).Within (BlockFrame p g) :=
  Cmd.within_seq (BlockFrame.chains p g) (tellFetched_blockFrame ctx rgn c r) (after_blockFrame _ _)

theorem endFetch_due (ctx rgn : Nat) (c : Ctx) (r : Region) (s : State) :
    ((endFetch ctx rgn c r).exec s).due (s.now + 1) (.blockStart ctx rgn) := by
  rw [← (tellFetched_blockFrame (p := id) (g := id) ctx rgn c r s).now]
  exact after_due ..

end

section
variable {s : State} {ctx rgn frm addr : Nat} {c : Ctx} {r : Region} {f : Frame} (hc : s.ctx? ctx = some c)
  (hr : s.region? ctx rgn = some r) (hstopped : r.stopped = false) (hf : r.frames[frm]? = some f)
  (hfilling : f.filling = some addr)
include hc hr hstopped hf hfilling

/-- FRAME_FILLED fills the frame or fails the start requests, as the fetch ends. -/
theorem exec_frameFilled : exec (.frameFilled ctx rgn frm) s = .next ((endFetch ctx rgn c r).exec
    ((takeFetched ctx rgn frm addr r (s.fetchBlock c r addr)).exec s)) := by
  change execFrameFilled ctx rgn frm s = _
  simp only [execFrameFilled, hc, hr, frames_getD_of_getElem? hf, hfilling, hstopped, Cmd.next_eq, Bool.false_eq_true, if_false]
  cases s.fetchBlock c r addr <;> rfl

/-- A sound block stands in its frame, and the start requests are looked at again. -/
theorem frameFilled_fills {b : Block} (hfetch : s.fetchBlock c r addr = .ok b) : Answers (.frameFilled ctx rgn frm) s fun t =>
    ((t.region? ctx rgn).bind fun x => (x.frames[frm]?).map fun f => (f.block, f.filling)) = some (some b, none) ∧
      t.due (s.now + 1) (.blockStart ctx rgn) := by
  have hinstall := installBlock_blockFrame (p := id) (g := id) r frm b s
  obtain ⟨x, hx, hframe⟩ := modFrame_frame (fun f => { f with block := some b, filling := none })
    ((hinstall.region_eq ctx rgn).trans hr) hf
  refine ⟨_, exec_frameFilled hc hr hstopped hf hfilling, ?_⟩
  rw [hfetch, takeFetched]
  refine ⟨?frame, ?due⟩
  case frame =>
    rw [(endFetch_blockFrame (p := id) (g := id) ctx rgn c r _).region_eq,
      show ((fillFrame ..).exec s).region? ctx rgn = _ from hx]
    simp [hframe]
  case due =>
    rw [← hinstall.now]
    exact endFetch_due ..

end

/-! ### A block that does not arrive (R117, R242) -/

/-- The record of a start request of a branch whose block did not arrive (R117). -/
def State.fetchRecord (s : State) (g : Firing) (addr : Nat) : FetchFail → FaultRec
  | (cause, detail, vala) =>
    { s.recordAt g cause with addr := BitVec.ofNat 64 addr, detail := detail, vala := BitVec.ofNat 64 vala }

/-- How an activation ends whose next block did not arrive: with the commit of its predecessor, if that is still to come. -/
def endFailed (s : State) (ctx rgn frm dom : Nat) : Cmd :=
  match s.inst? ctx rgn frm dom with
  | some _ => .seq (modInst ctx rgn frm dom fun i => { i with branch := .taken none }) (tryCommit ctx rgn frm dom)
  | none => endActivation ctx rgn dom

theorem failStart_exec {q : StartReq} {g : Firing} (hq : q.origin = some g) (ctx rgn addr : Nat) (e : FetchFail) (s : State) :
    (failStart ctx rgn addr e q).exec s = (endFailed s ctx rgn g.frm q.dom).exec
      ((writeRecord (s.fetchRecord g addr e)).exec ((dropStart ctx rgn q).exec s)) := by
  simp only [failStart, Cmd.exec_get, Cmd.exec_seq, hq]
  rfl

theorem endFailed_blockFrame (s : State) (ctx rgn frm dom : Nat) :
    (endFailed s ctx rgn frm dom).Within (BlockFrame (·.starts) (·.ring)) := by
  unfold endFailed
  split
  · exact Cmd.within_seq (BlockFrame.chains _ _) modRegion_blockFrame (after_blockFrame _ _)
  · exact endActivation_blockFrame _ _ _

/-- The only start request of a region leaves it. -/
theorem dropStart_starts {s : State} {ctx rgn : Nat} {r : Region} {q : StartReq} (hr : s.region? ctx rgn = some r)
    (hstarts : r.starts = [q]) : ((dropStart ctx rgn q).exec s).region? ctx rgn = some { r with starts := [] } := by
  rw [dropStart, modRegion_region_self, hr]
  simp [hstarts]

/-- The origin of a start request whose block did not arrive writes a record, and the request leaves. -/
theorem failStart_records {s : State} {rgn : Nat} {c : Ctx} {r : Region} {q : StartReq} {g : Firing} (hc : s.ctx? g.ctx = some c)
    (hr : s.region? g.ctx rgn = some r) (hstarts : r.starts = [q]) (hq : q.origin = some g) (hroom : c.ring.length < 64)
    (addr : Nat) (e : FetchFail) :
    let t := (failStart g.ctx rgn addr e q).exec s
    (t.region? g.ctx rgn).map (·.starts) = some [] ∧
    (t.ctx? g.ctx).map (·.ring) = some (c.ring ++ [s.fetchRecord g addr e]) := by
  intro t
  let dropped := (dropStart g.ctx rgn q).exec s
  have hwritten : ((writeRecord (s.fetchRecord g addr e)).exec dropped).ctx? g.ctx = _ := writeRecord_ctx (s := dropped) hc hroom
  have hwrite := (writeRecord_blockFrame (p := id) (s.fetchRecord g addr e) dropped).region g.ctx rgn
  have hend := endFailed_blockFrame s g.ctx rgn g.frm q.dom ((writeRecord (s.fetchRecord g addr e)).exec dropped)
  have ht : t = _ := failStart_exec hq g.ctx rgn addr e s
  rw [dropStart_starts hr hstarts, Option.map_id_fun, id_eq] at hwrite
  rw [ht, hend.region, hend.ctx, hwritten, hwrite]
  exact ⟨rfl, rfl⟩

/-- A fetch that fails leaves a record at the branch that asked for the block, and the start request leaves (R117). -/
theorem frameFilled_records {s : State} {rgn frm addr : Nat} {c : Ctx} {r : Region} {f : Frame} {q : StartReq} {g : Firing}
    {cause detail vala : Nat} (hc : s.ctx? g.ctx = some c) (hr : s.region? g.ctx rgn = some r) (hstopped : r.stopped = false)
    (hf : r.frames[frm]? = some f) (hfilling : f.filling = some addr)
    (hfetch : s.fetchBlock c r addr = .error (cause, detail, vala))
    (hstarts : r.starts = [q]) (hblock : q.block = addr) (hq : q.origin = some g) (hroom : c.ring.length < 64) :
    Answers (.frameFilled g.ctx rgn frm) s fun t => (t.region? g.ctx rgn).map (·.starts) = some [] ∧
      ∃ rec ∈ ((t.ctx? g.ctx).map (·.ring)).getD [], rec.cause = cause ∧ rec.detail = detail ∧ rec.onode = g.node ∧
        rec.addr = BitVec.ofNat 64 addr := by
  let e : FetchFail := (cause, detail, vala)
  let emptied := (modFrame g.ctx rgn frm fun f => { f with block := none, filling := none }).exec s
  have hemptied : emptied.region? g.ctx rgn = _ := (modFrame_region ..).trans (congrArg _ hr)
  obtain ⟨hleft, hring⟩ := failStart_records (s := emptied) hc hemptied hstarts hq hroom addr e
  have hfail : (failFrame g.ctx rgn frm addr r e).exec s = (failStart g.ctx rgn addr e q).exec emptied := by
    simp [failFrame, hstarts, hblock, emptied]
  have hend := endFetch_blockFrame (p := Region.starts) (g := Ctx.ring) g.ctx rgn c r
    ((failStart g.ctx rgn addr e q).exec emptied)
  refine ⟨_, exec_frameFilled hc hr hstopped hf hfilling, ?_⟩
  rw [hfetch, takeFetched, hfail]
  dsimp only
  rw [hend.region, hend.ctx, hleft, hring]
  exact ⟨rfl, _, List.mem_append_right _ (List.mem_singleton_self _), rfl, rfl, rfl, rfl⟩

/-! ### A start request that misses (R236 step 2, R238) -/

/-- A miss takes a frame for its block and asks for the block. -/
def missFrame (s : State) (ctx rgn k : Nat) (c : Ctx) (r : Region) (q : StartReq) : Cmd := .all [
  modFrame ctx rgn k fun f => { f with block := none, filling := some q.block },
  clearFrame r k,
  after (s.fillCycles r.die c.vd q.block) (.frameFilled ctx rgn k)]

section
variable {s : State} {ctx rgn : Nat} {r : Region} {q : StartReq} {a : Act} (hr : s.region? ctx rgn = some r)
  (hstopped : r.stopped = false) (hstarts : r.starts = [q]) (hdue : q.due ≤ s.now) (ha : s.act? ctx q.dom = some a)
include hr hstopped hstarts hdue ha

/-- With one start request due that need not wait for a frame, the sequencer looks at it. -/
theorem exec_blockStart_one (hframe : r.frameOf q.block ≠ none ∨ r.victim ≠ none) :
    exec (.blockStart ctx rgn) s = .next ((grantStart ctx rgn q).exec s) := by
  have hwaits : s.waitsFrame ctx rgn q = false := by
    rcases hframe with h | h <;> simp [State.waitsFrame, hr, ha, Option.isSome_iff_ne_none, h]
  change execBlockStart ctx rgn s = _
  simp [execBlockStart, hr, hstopped, hstarts, hdue, grantStarts, hwaits]

/-- A start request that misses takes a frame and fetches its block from the image. -/
theorem blockStart_misses {c : Ctx} {k : Nat} (hc : s.ctx? ctx = some c)
    (hnone : r.frameOf q.block = none) (hvictim : r.victim = some k) (hk : k < r.frames.length)
    (himage : c.image.holds q.block = true) : Answers (.blockStart ctx rgn) s fun t =>
      t.due (s.now + s.fillCycles r.die c.vd q.block) (.frameFilled ctx rgn k) ∧
      ((t.region? ctx rgn).bind fun x => (x.frames[k]?).map fun f => (f.block, f.filling)) = some (none, some q.block) := by
  have hgrant : (grantStart ctx rgn q).exec s = (missFrame s ctx rgn k c r q).exec s := by
    simp only [grantStart, Cmd.exec_get, hc, hr, ha, hnone, hvictim, himage]
    rfl
  let taken := (modFrame ctx rgn k fun f => { f with block := none, filling := some q.block }).exec s
  obtain ⟨x, hx, hframe⟩ := modFrame_frame (fun f => { f with block := none, filling := some q.block }) hr
    (List.getElem?_eq_getElem hk)
  have hclear := clearFrame_blockFrame (p := id) (g := id) r k taken
  refine ⟨_, exec_blockStart_one hr hstopped hstarts hdue ha (.inr (by simp [hvictim])), ?_⟩
  rw [hgrant]
  refine ⟨?due, ?frame⟩
  case due =>
    have := after_due (s.fillCycles r.die c.vd q.block) (.frameFilled ctx rgn k) ((clearFrame r k).exec taken)
    rwa [hclear.now] at this
  case frame =>
    have : ((missFrame s ctx rgn k c r q).exec s).region? ctx rgn = some x := (hclear.region_eq ctx rgn).trans hx
    simp [this, hframe]

end

/-! ### A start request that hits (R86, R236, R242) -/

/-- Between two states the tables of regions and contexts and the slots of every element are the same, and no ready entry is
lost. -/
structure Readies (s t : State) : Prop extends BlockFrame id id s t where
  slots : ∀ k, (t.elem k).slots = (s.elem k).slots
  ready : ∀ k, ∀ x ∈ (s.elem k).ready, x ∈ (t.elem k).ready

theorem Readies.chains : Chains Readies where
  refl s := ⟨(BlockFrame.chains id id).refl s, fun _ => rfl, fun _ _ h => h⟩
  trans a b := ⟨(BlockFrame.chains id id).trans a.toBlockFrame b.toBlockFrame, fun k => (b.slots k).trans (a.slots k),
    fun k x h => b.ready k x (a.ready k x h)⟩

/-- An entry of a slot under a tag stands in the ready queue of an element. -/
def State.hasReady (s : State) (sid slot : Nat) (tag : W64) : Prop := ∃ x ∈ (s.elem sid).ready, x.slot = slot ∧ x.tag = tag

theorem Readies.hasReady {s t : State} {sid slot : Nat} {tag : W64} (h : Readies s t) (hs : s.hasReady sid slot tag) :
    t.hasReady sid slot tag := by
  obtain ⟨x, hx, hfields⟩ := hs
  exact ⟨x, h.ready sid x hx, hfields⟩

/-- A change of an element that keeps its slots and its ready entries. -/
theorem modElem_readies {sid : Nat} {f : Element → Element} (hslots : ∀ e, (f e).slots = e.slots)
    (hready : ∀ e, ∀ x ∈ e.ready, x ∈ (f e).ready) : (modElem sid f).Within Readies := fun s => by
  refine ⟨modElem_blockFrame _ _ s, fun k => ?_, fun k x h => ?_⟩ <;> by_cases hk : k = sid
  · rw [hk, modElem_elem_self, hslots]
  · rw [modElem_elem_ne _ _ hk]
  · rw [hk] at h ⊢
    rw [modElem_elem_self]
    exact hready _ x h
  · rwa [modElem_elem_ne _ _ hk]

/-- A change of neither elements, cycle, regions nor contexts. -/
theorem Readies.of_eq {s t : State} (hfab : t.fab = s.fab) (hnow : t.now = s.now) (hregions : t.run.regions = s.run.regions)
    (hctxs : t.ten.ctxs = s.ten.ctxs) : Readies s t :=
  ⟨.of_eq hnow hregions hctxs, fun k => by rw [State.elem, hfab]; rfl, fun k x h => by rwa [State.elem, hfab]⟩

theorem pushReady_readies (lat sid slot : Nat) (sl : NodeSlot) (tag : W64) (a b c p : Option Val) :
    (pushReady lat sid slot sl tag a b c p).Within Readies :=
  Cmd.within_get fun s => by
    refine Cmd.within_seq Readies.chains (modElem_readies ?slots ?ready)
      (Cmd.within_when Readies.chains fun _ _ => .of_eq rfl rfl rfl rfl) s
    case slots => exact fun _ => rfl
    case ready => exact fun _ _ => List.mem_append_left _

/-- What is pushed stands in the ready queue of its element. -/
theorem pushReady_hasReady (lat sid slot : Nat) (sl : NodeSlot) (tag : W64) (a b c p : Option Val) (s : State) :
    ((pushReady lat sid slot sl tag a b c p).exec s).hasReady sid slot tag := by
  obtain ⟨x, ⟨hslot, htag, -⟩, haside, -⟩ := pushReady_spec (s := s) lat sid slot sl tag a b c p
  refine ⟨x, ?_, hslot, htag⟩
  rw [haside.elem, modElem_elem_self]
  exact List.mem_append_right _ (List.mem_singleton_self x)

theorem putOut_readies (sid fid which lat : Nat) (tok : Token) : (putOut sid fid which lat tok).Within Readies := by
  refine Cmd.within_seq Readies.chains (Cmd.within_get fun s => modElem_readies ?slots ?ready s)
    fun _ => .of_eq rfl rfl rfl rfl
  case slots => exact fun _ => rfl
  case ready => exact fun _ _ h => h

theorem captureTo_readies (k : Nat) (r : CapRec) : (captureTo k r).Within Readies :=
  Cmd.within_get fun s => by
    dsimp only
    split
    · exact Readies.chains.refl s
    · split <;> exact .of_eq rfl rfl rfl rfl

theorem capture_readies (ctx : Nat) (r : CapRec) : (capture ctx r).Within Readies :=
  Cmd.within_get fun s => Cmd.within_each Readies.chains (fun _ _ => captureTo_readies _ _) s

/-- Node `k` of a block, with record `w`, becomes ready in frame `frm` if it has no operands. -/
def readySource (frm : Nat) (r : Region) (b : Block) (tag : W64) : Rec × Nat → Cmd := fun (w, k) =>
  .when (match laxRow w with | some i => i.isSource | none => false) (.get fun t =>
    match (t.elem (r.siteOf b k)).slotOf frm k with
    | some (slot, sl) => pushReady 1 (r.siteOf b k) slot sl tag none none none none
    | none => .skip)

/-- A token of a delivery is injected at the site of the MOV that takes it (R314), and captured unless the context replays. -/
def injectToken (ctx rgn frm : Nat) (r : Region) (b : Block) (tag : W64) (replays : Bool) : Nat × Val → Cmd := fun (k, v) =>
  let sid := r.siteOf b k
  .seq (putOut sid 0 2 0 ⟨xOf sid, yOf sid, frm, k, .a, xOf sid, yOf sid, tag, v⟩) (.when (!replays)
    (capture ctx ⟨1, rgn, BitVec.ofNat 32 (destWord ⟨true, BitVec.ofNat 7 k, .a⟩ (xOf sid) (yOf sid) frm), tag, v.payload⟩))

theorem readySource_readies (frm : Nat) (r : Region) (b : Block) (tag : W64) (x : Rec × Nat) :
    (readySource frm r b tag x).Within Readies :=
  Cmd.within_when Readies.chains fun _ => Cmd.within_get fun s => by
    split
    · exact pushReady_readies _ _ _ _ _ _ _ _ _ s
    · exact Readies.chains.refl s

theorem injectToken_readies (ctx rgn frm : Nat) (r : Region) (b : Block) (tag : W64) (replays : Bool) (x : Nat × Val) :
    (injectToken ctx rgn frm r b tag replays x).Within Readies :=
  Cmd.within_seq Readies.chains (putOut_readies _ _ _ _ _) (Cmd.within_when Readies.chains fun _ => capture_readies _ _)

/-- What one part of a sequence brings about, and the other parts keep, holds after the whole sequence. -/
theorem Cmd.each_brings {α : Type} {R : State → State → Prop} (hR : Chains R) {xs : List α} {f : α → Cmd}
    (hw : ∀ x ∈ xs, (f x).Within R) {P : State → Prop} (hkeep : ∀ {t u}, R t u → P t → P u) {x : α} (hx : x ∈ xs) {s : State}
    (hbring : ∀ t, R s t → P ((f x).exec t)) : P ((Cmd.each xs f).exec s) := by
  induction xs generalizing s with
  | nil => exact absurd hx List.not_mem_nil
  | cons z zs ih =>
    have hzs : ∀ x ∈ zs, (f x).Within R := fun x h => hw x (List.mem_cons_of_mem _ h)
    rw [Cmd.exec_each_cons]
    rcases List.mem_cons.1 hx with rfl | hx
    · exact hkeep (Cmd.within_each hR hzs _) (hbring s (hR.refl s))
    · exact ih hzs hx fun t ht => hbring t (hR.trans (hw z List.mem_cons_self s) ht)

/-- What a start brings to the elements: the block's source nodes become ready, and the tokens of the delivery are injected. -/
def wakeSources (s : State) (ctx rgn frm : Nat) (r : Region) (b : Block) (q : StartReq) : Cmd := .seq
  (Cmd.each b.nodes.zipIdx (readySource frm r b (instTag q.dom)))
  (Cmd.each q.inject (injectToken ctx rgn frm r b (instTag q.dom) (s.replaying ctx)))

/-- What a frame gains at a start in state `s`: the run of its block in the activation `a` of the request. -/
def State.freshInst (s : State) (q : StartReq) (a : Act) : Inst := ⟨q.dom, s.serial, a.seq, [], .none, [], [], [], []⟩

/-- A start counts in its activation and stands in its frame. -/
def openInst (s : State) (ctx rgn frm : Nat) (q : StartReq) (a : Act) : Cmd := .all [
  .prim .takeSerial,
  modAct ctx q.dom fun a => { a with seq := a.seq + 1 },
  modFrame ctx rgn frm fun f => { f with insts := f.insts ++ [s.freshInst q a], lastStart := s.now }]

theorem startInstance_exec {s : State} {ctx rgn frm : Nat} {q : StartReq} {r : Region} {a : Act} {f : Frame} {b : Block}
    (hr : s.region? ctx rgn = some r) (ha : s.act? ctx q.dom = some a) (hf : r.frames[frm]? = some f) (hb : f.block = some b) :
    (startInstance ctx rgn frm q).exec s =
      (wakeSources s ctx rgn frm r b q).exec ((openInst s ctx rgn frm q a).exec s) := by
  have hr' : (Prim.takeSerial.run s).region? ctx rgn = some r := hr
  have ha' : (Prim.takeSerial.run s).act? ctx q.dom = some a := ha
  simp only [startInstance, Cmd.exec_withSerial, Cmd.exec_get, hr', ha', frames_getD_of_getElem? hf, hb]
  rfl

theorem State.act?_eq (s : State) (ctx dom : Nat) : s.act? ctx dom = (s.ctx? ctx).bind fun c => c.acts.get? dom := by
  rw [State.act?]
  cases s.ctx? ctx <;> rfl

theorem modAct_act (ctx dom : Nat) (g : Act → Act) (s : State) :
    ((modAct ctx dom g).exec s).act? ctx dom = (s.act? ctx dom).map g := by
  rw [State.act?_eq, State.act?_eq, modAct, modCtx_ctx_self]
  cases s.ctx? ctx with
  | none => rfl
  | some c => exact Tbl.get?_mod_self ..

section
variable {s : State} {ctx rgn frm : Nat} {q : StartReq} {r : Region} {a : Act} {f : Frame}

theorem openInst_act (ha : s.act? ctx q.dom = some a) :
    ((openInst s ctx rgn frm q a).exec s).act? ctx q.dom = some { a with seq := a.seq + 1 } :=
  (modAct_act _ _ _ (Prim.takeSerial.run s)).trans (congrArg (Option.map _) ha)

theorem openInst_region (hr : s.region? ctx rgn = some r) (hf : r.frames[frm]? = some f) :
    ∃ frames, ((openInst s ctx rgn frm q a).exec s).region? ctx rgn = some { r with frames := frames } ∧
      (frames[frm]?).map (·.insts) = some (f.insts ++ [s.freshInst q a]) :=
  ⟨_, (modRegion_region_self ..).trans (congrArg (Option.map _) hr), by simp [hf]⟩

theorem openInst_elem (j : Nat) : ((openInst s ctx rgn frm q a).exec s).elem j = s.elem j := rfl

end

theorem wakeSources_readies (s : State) (ctx rgn frm : Nat) (r : Region) (b : Block) (q : StartReq) :
    (wakeSources s ctx rgn frm r b q).Within Readies :=
  Cmd.within_seq Readies.chains (Cmd.within_each Readies.chains fun _ _ => readySource_readies _ _ _ _ _)
    (Cmd.within_each Readies.chains fun _ _ => injectToken_readies _ _ _ _ _ _ _ _)

/-- A source node whose slot is at its site is ready there. -/
theorem wakeSources_ready {s u : State} {ctx rgn frm : Nat} {r : Region} {b : Block} {q : StartReq} {n slot : Nat} {w : Rec}
    {i : Instr} {sl : NodeSlot} (hw : b.nodes[n]? = some w) (hi : laxRow w = some i) (hsource : i.isSource = true)
    (hslot : (u.elem (r.siteOf b n)).slotOf frm n = some (slot, sl)) :
    ((wakeSources s ctx rgn frm r b q).exec u).hasReady (r.siteOf b n) slot (instTag q.dom) := by
  have hmem : (w, n) ∈ b.nodes.zipIdx := List.mem_zipIdx_iff_getElem?.2 hw
  refine Readies.hasReady (Cmd.within_each Readies.chains (fun _ _ => injectToken_readies _ _ _ _ _ _ _ _) _)
    (Cmd.each_brings Readies.chains (fun _ _ => readySource_readies _ _ _ _ _) Readies.hasReady hmem fun t ht => ?_)
  have hslot' : (t.elem (r.siteOf b n)).slotOf frm n = some (slot, sl) := by rw [← hslot, Element.slotOf, ht.slots]; rfl
  simp only [readySource, hi, hsource, Cmd.exec_when_true, Cmd.exec_get, hslot']
  exact pushReady_hasReady ..

/-- A start request whose block stands in a frame runs there: its sources become ready, and it leaves (R236). -/
theorem blockStart_hits {s : State} {ctx rgn k : Nat} {c : Ctx} {r : Region} {q : StartReq} {a : Act} {f : Frame} {b : Block}
    (hc : s.ctx? ctx = some c)
    (hr : s.region? ctx rgn = some r) (hstopped : r.stopped = false) (hstarts : r.starts = [q]) (hdue : q.due ≤ s.now)
    (ha : s.act? ctx q.dom = some a) (hframe : r.frameOf q.block = some k)
    (hf : r.frames[k]? = some f) (hfilling : f.filling = none) (hb : f.block = some b) (hdom : ∀ i ∈ f.insts, i.dom ≠ q.dom) :
    Answers (.blockStart ctx rgn) s fun t => (t.region? ctx rgn).map (·.starts) = some [] ∧
      (t.act? ctx q.dom).map (·.seq) = some (a.seq + 1) ∧
      (∃ i, ((t.region? ctx rgn).bind fun x => (x.frames[k]?).map (·.insts)) = some (f.insts ++ [i]) ∧
        i.dom = q.dom ∧ i.seq = a.seq ∧ i.start = s.serial ∧ i.fired = [] ∧ i.writes = [] ∧ i.branch = .none) ∧
      ∀ n w i slot sl, b.nodes[n]? = some w → laxRow w = some i → i.isSource = true →
        (s.elem (r.siteOf b n)).slotOf k n = some (slot, sl) →
        ∃ x ∈ (t.elem (r.siteOf b n)).ready, x.slot = slot ∧ x.tag = instTag q.dom := by
  let dropped := (dropStart ctx rgn q).exec s
  have hdropped : dropped.region? ctx rgn = some { r with starts := [] } := dropStart_starts hr hstarts
  have hgrant : (grantStart ctx rgn q).exec s = (startInstance ctx rgn k q).exec dropped := by
    have hnew : (f.insts.any fun i => i.dom == q.dom) = false := by simpa using hdom
    simp only [grantStart, Cmd.exec_get, hc, hr, ha, hframe, frames_getD_of_getElem? hf, hfilling, hnew]
    rfl
  have hact : dropped.act? ctx q.dom = some a := ha
  refine ⟨_, exec_blockStart_one hr hstopped hstarts hdue ha (.inl (by simp [hframe])), ?_⟩
  have hready := wakeSources_readies dropped ctx rgn k { r with starts := [] } b q ((openInst dropped ctx rgn k q a).exec dropped)
  obtain ⟨frames, hregion, hinsts⟩ := openInst_region (q := q) (a := a) hdropped hf
  rw [hgrant, startInstance_exec hdropped hact hf hb]
  dsimp only
  rw [hready.region_eq, State.act?_eq, hready.ctx_eq, ← State.act?_eq, hregion, openInst_act hact]
  refine ⟨rfl, rfl, ⟨_, hinsts, rfl, rfl, rfl, rfl, rfl, rfl⟩, fun n w i slot sl hw hi hsource hslot => ?_⟩
  exact wakeSources_ready hw hi hsource (by rw [openInst_elem]; exact hslot)

/-- Settles O29: the only request is granted a frame that holds its block or is emptied for it; a fetch that ends fills that frame
or fails the request. -/
theorem blockStarts : Obligations.BlockStarts := by
  unfold Obligations.BlockStarts
  intro s ctx rgn c r hc hr hstopped
  refine ⟨fun q a hstarts hdue ha => ⟨fun k f b hframe hf hfilling hb hdom => ?hit, fun k hnone hvictim hk himage => ?miss⟩,
    fun frm addr f hf hfilling => ⟨fun b hfetch => ?sound,
      fun q g cause detail vala hfetch hstarts hblock hq hctx hroom => ?failed⟩⟩
  case hit => exact blockStart_hits hc hr hstopped hstarts hdue ha hframe hf hfilling hb hdom
  case miss => exact blockStart_misses hr hstopped hstarts hdue ha hc hnone hvictim hk himage
  case sound => exact frameFilled_fills hc hr hstopped hf hfilling hfetch
  case failed =>
    subst hctx
    exact frameFilled_records hc hr hstopped hf hfilling hfetch hstarts hblock hq hroom

end Sys2Proof.Machine

/-! ## Integer, address, compare and select rows (R131 to R134, R138 to R140)

Every row of the class is `computeFlags` or `node` on its own operands, whose laws say what goes out. So a row's value is read off
its definition, and what is left is to see the rule in it. -/

namespace Sys2Proof.Machine

/-- A row without flags sends its value. -/
theorem compute_passes {s : State} {i : Instr} {h : Hdr} {g : Sig} {lat : Nat} {v : Val} (ho : s.cur.ordinary h.pred)
    (hexec : exec i s = (compute s.cur h g lat v).next s) : Passes i s h lat v :=
  ⟨_, hexec, compute_ordinary ho⟩

section
variable {s : State} {f : CommonNode} {i : Instr} (ho : s.cur.ordinary f.pred)
include ho

/-- A row that is a node of the class sends what its operation computes, with the flags of the enabled lanes. -/
theorem intNode_computes {ops : List Val} {op : List Nat → Res} (hexec : exec i s = intNode i f s ops op) :
    Computes i s f.toHdr 1 (laneResult f ops op) :=
  ⟨_, hexec, computeFlags_ordinary ho⟩

/-- A row whose flags are left out of account sends its value. -/
theorem computeFlags_passes {g : Sig} {lat : Nat} {r : Val × Nat} (hexec : exec i s = (computeFlags s.cur f.toHdr g lat r).next s) :
    Passes i s f.toHdr lat r.1 :=
  ⟨_, hexec, (computeFlags_ordinary ho).1⟩

/-- A row with two results sends one on each destination. -/
theorem emit2_answers {g : Sig} {v0 v1 : Val}
    (hexec : exec i s = (node s.cur f.toHdr g 1 s.cur.tag (emit2 s.cur f.toHdr 1 s.cur.tag v0 v1)).next s) :
    Answers i s fun t => Sends s t s.cur f.toHdr 1 s.cur.tag v0 v1 := by
  refine ⟨_, hexec, ?_⟩
  rw [node_ordinary ho]
  exact (emit2_sends ..).after (markFired_fab ..) (markFired_now ..)

end

/-! ### Exact integers and bit patterns (R131, R132, R140) -/

theorem exactIntegerRows : Claims.ExactIntegerRows := by
  intro s f ho n one two bits
  exact ⟨intNode_computes ho rfl, intNode_computes ho rfl, intNode_computes ho rfl, intNode_computes ho rfl, intNode_computes ho rfl,
    intNode_computes ho rfl, intNode_computes ho rfl, intNode_computes ho rfl, intNode_computes ho rfl, intNode_computes ho rfl⟩

/-! ### Comparison and selection (R138, R139) -/

/-- The condition of R138 that a code names, on two integers. -/
def intCondition (cc : Nat) (x y : Int) : Bool :=
  match cc with
  | 0 => decide (x = y) | 1 => decide (x ≠ y) | 2 => decide (x < y) | 3 => decide (x ≤ y) | 4 => decide (y < x)
  | _ => decide (y ≤ x)

/-- The model's conditions on an ordering are those of R138 on the integers compared. -/
theorem ccHolds_compare (cc : Nat) (x y : Int) : ccHolds cc (compare x y) = intCondition cc x y := by
  unfold ccHolds intCondition
  refine Bool.eq_iff_iff.2 ?_
  split <;> simp [compare_lt_iff_lt, compare_gt_iff_gt]

section
variable {s : State} {f : CommonNode} (i : Instr) (lat : Nat) (op : List Nat → Bool × Nat)

/-- A comparison of scalars sends a pr. -/
theorem compareNode_scalar (hv : f.v = false) :
    let r := op ((ops2 f s).map (·.low f.ty.width))
    compareNode i f s lat op = (computeFlags s.cur f.toHdr i.sig lat (.bit r.1, r.2)).next s := by
  simp only [compareNode, hv, evalLanes]
  cases (op _).1 <;> rfl

/-- A comparison of vectors sends a mask for each lane. -/
theorem compareNode_vector (hv : f.v = true) :
    let r := evalLanes true f.ty.width f.mask (ops2 f s) (fun _ => 0) fun xs => ⟨laneMask f.ty.width (op xs).1, (op xs).2⟩
    compareNode i f s lat op = (computeFlags s.cur f.toHdr i.sig lat (.vector (BitVec.ofNat 512 r.1), r.2)).next s := by
  simp only [compareNode, hv]
  rfl

end

section
variable {s : State} {f : CommonNode}

/-- What CMP decides of a lane (R138). -/
def cmpLane (f : CommonNode) (xs : List Nat) : Bool × Nat :=
  (intCondition f.rm.toNat (readInt f.ty (xs.getD 0 0)) (readInt f.ty (xs.getD 1 0)), 0)

theorem exec_cmp : exec (.cmp f) s = compareNode (.cmp f) f s 1 (cmpLane f) := by
  change execCmp f s = _
  simp only [execCmp, ccHolds_compare]
  rfl

/-- The value that SEL sends (R139). -/
def selVal (f : CommonNode) (a b c : Val) : Val :=
  if f.v then .vector (BitVec.ofNat 512 (evalLanes true f.ty.width f.mask [a, b, c] passA
    (fun xs => ⟨if xs.getD 2 0 != 0 then xs.getD 0 0 else xs.getD 1 0, 0⟩)).1)
  else f.ty.scalarVal (if c.word.getLsbD 0 then a.word.toNat else b.word.toNat)

theorem sel_passes (ho : s.cur.ordinary f.pred) :
    Passes (.sel f) s f.toHdr 1 (selVal f (orNull s.cur.a) (f.opB s.cur.b) (orNull s.cur.c)) := compute_passes ho rfl

theorem selVal_scalar (hv : f.v = false) (a b c : Val) :
    selVal f a b c = f.ty.scalarVal (if c.word.getLsbD 0 then a.word.toNat else b.word.toNat) := by
  simp [selVal, hv]

/-- A disabled lane of SEL takes that of a. -/
theorem selVal_vector (hv : f.v = true) (a b c : Val) :
    selVal f a b c = .vector (BitVec.ofNat 512 (evalLanes true f.ty.width f.mask [a, b, c] (fun xs => xs.getD 0 0)
      fun xs => ⟨if xs.getD 2 0 ≠ 0 then xs.getD 0 0 else xs.getD 1 0, 0⟩).1) := by
  have hpass : passA = fun xs => xs.getD 0 0 := by
    funext xs
    cases xs <;> rfl
  simp [selVal, hv, hpass]

end

theorem compareAndSelectRows : Claims.CompareAndSelectRows := by
  intro s f ho _ w holds a b c
  refine ⟨fun hv => ?cmpScalar, fun hv => ?cmpVector, fun hv => ?selScalar, fun hv => ?selVector⟩
  case cmpScalar => exact computeFlags_passes ho (exec_cmp.trans (compareNode_scalar _ _ _ hv))
  case cmpVector => exact computeFlags_passes ho (exec_cmp.trans (compareNode_vector _ _ _ hv))
  case selScalar =>
    rw [← selVal_scalar hv]
    exact sel_passes ho
  case selVector =>
    rw [← selVal_vector hv]
    exact sel_passes ho

/-- Settles O3: the rows are nodes of the class, whose operations are the rules'. -/
theorem integerRows : Obligations.IntegerRows := ⟨exactIntegerRows, compareAndSelectRows⟩

/-! ### Products, carries and borrows (R133, R134) -/

/-- Settles O4: the rows are nodes of the class; MAD reduces once, after the sum. -/
theorem productRows : Obligations.ProductRows := by
  unfold Obligations.ProductRows
  intro s f ho n two three
  exact ⟨intNode_computes ho rfl, intNode_computes ho rfl, intNode_computes ho rfl⟩

/-- What travels of a scalar result is its pattern in the type. -/
theorem Ty.scalarVal_mod (t : Ty) (x : Nat) : t.scalarVal (x % 2 ^ t.width) = t.scalarVal x := by
  unfold Ty.scalarVal
  split
  · next h => subst h; simp [Ty.width]
  · rw [Nat.mod_mod]

/-- Settles O5: the rows send the two parts of `addCarry` and `subBorrow`. -/
theorem carryRows : Obligations.CarryRows := by
  unfold Obligations.CarryRows
  intro s f ho w a b c
  refine ⟨?_, emit2_answers ho rfl⟩
  rw [← Ty.scalarVal_mod]
  exact emit2_answers ho rfl

end Sys2Proof.Machine

/-! ## Division (R135) -/

namespace Sys2Proof.Machine

/-- An operand reads as zero when its bits of the type are zero (R47). -/
theorem readInt_eq_zero (t : Ty) (x : Nat) : readInt t x = 0 ↔ x % 2 ^ t.width = 0 := by
  cases hsign : t.isSigned with
  | true =>
    rw [readInt_signed hsign, ← BitVec.toInt_zero (w := t.width), BitVec.toInt_inj, ← BitVec.toNat_inj, BitVec.toNat_ofNat,
      BitVec.toNat_zero]
  | false => rw [readInt_unsigned hsign]; norm_cast

theorem divLane_bits (t : Ty) (xs : List Nat) : (divLane t xs).bits = if readInt t (xs.getD 1 0) = 0 then 2 ^ t.width - 1
    else ((readInt t (xs.getD 0 0)).tdiv (readInt t (xs.getD 1 0)) % 2 ^ t.width).toNat :=
  apply_ite Res.bits ..

theorem remLane_bits (t : Ty) (xs : List Nat) : (remLane t xs).bits = if readInt t (xs.getD 1 0) = 0 then 0
    else ((readInt t (xs.getD 0 0)).tmod (readInt t (xs.getD 1 0)) % 2 ^ t.width).toNat :=
  apply_ite Res.bits ..

/-- A fault of a node whose firing has been recorded goes out as poison of the node's own origin. -/
theorem raiseFault_fired_sends {f : Firing} {h : Hdr} (hd : (h.d0.val || h.d1.val) = true) (lat cause : Nat) (s : State) :
    let o := f.origin (s.vdOfCtx f.ctx) cause
    Sends s ((raiseFault f h lat cause).exec ((markFired f).exec s)) f h lat f.tag (.poison o) (.poison o) := by
  have hsends := raiseFault_sends (f := f) hd lat cause ((markFired f).exec s)
  rw [markFired_vdOfCtx] at hsends
  exact hsends.after (markFired_fab ..) (markFired_now ..)

section
variable {s : State} {f : CommonNode} {i : Instr} {op : List Nat → Res} (ho : s.cur.ordinary f.pred) (hv : f.v = false)

/-- Cycles of a scalar division: it takes longest at 64 bits (R36). -/
def divCycles (f : CommonNode) : Nat := if f.ty.width = 64 then 20 else 12

/-- The operands of a scalar row, in the bits of its type. -/
def scalarArgs (f : CommonNode) (s : State) : List Nat := (ops2 f s).map (·.low f.ty.width)

include hv in
theorem zeroDivisor_scalar : zeroDivisor f (f.opB s.cur.b) = decide (readInt f.ty ((f.opB s.cur.b).low f.ty.width) = 0) := by
  simp [zeroDivisor, hv, readInt_eq_zero, Val.low, beq_eq_decide]

include ho hv

/-- A division that takes no fault sends its result. -/
theorem divNode_passes (hexec : exec i s = divNode i f s op) 
    (hsound : readInt f.ty ((f.opB s.cur.b).low f.ty.width) ≠ 0 ∨ (s.fpcm s.cur.ctx).divz = false) :
    Passes i s f.toHdr (divCycles f) (f.ty.scalarVal (op (scalarArgs f s)).bits) := by
  have hfault : ((s.fpcm s.cur.ctx).divz && zeroDivisor f (f.opB s.cur.b)) = false := by
    rw [zeroDivisor_scalar hv]
    rcases hsound with h | h <;> simp [h]
  simp only [divNode, hfault, hv, evalLanes, resultVal, Bool.false_eq_true, if_false] at hexec
  exact computeFlags_passes ho hexec

/-- A zero divisor under FPCM.DIVZ is a fault of the node. -/
theorem divNode_faults (hexec : exec i s = divNode i f s op) (hd : (f.d0.val || f.d1.val) = true)
    (hzero : readInt f.ty ((f.opB s.cur.b).low f.ty.width) = 0) (hdivz : (s.fpcm s.cur.ctx).divz = true) :
    Passes i s f.toHdr (divCycles f) (.poison (s.cur.origin (s.vdOfCtx s.cur.ctx) causeDivzero)) := by
  have hfault : ((s.fpcm s.cur.ctx).divz && zeroDivisor f (f.opB s.cur.b)) = true := by
    rw [zeroDivisor_scalar hv, hdivz]
    simp [hzero]
  simp only [divNode, hfault, hv, Bool.false_eq_true, if_false, if_true] at hexec
  refine ⟨_, hexec, ?_⟩
  rw [node_ordinary ho]
  exact raiseFault_fired_sends hd _ _ s

end

/-- Settles O6: a division takes the fault where its divisor reads as zero and DIVZ is set, and else sends the result of its lane. -/
theorem divideRows : Obligations.DivideRows := by
  unfold Obligations.DivideRows
  intro s f ho hv _ hd w lat a b
  have hpasses := fun (i : Instr) op hexec hsound => divNode_passes (i := i) (op := op) ho hv hexec hsound
  refine ⟨fun hb => ?divides, fun hb hdivz => ?zero, fun hb hdivz => ?fault⟩
  case divides =>
    have hnonzero : readInt f.ty ((scalarArgs f s).getD 1 0) ≠ 0 := hb
    have hdiv := hpasses (.div f) _ rfl (.inl hb)
    have hrem := hpasses (.rem f) _ rfl (.inl hb)
    rw [divLane_bits, if_neg hnonzero] at hdiv
    rw [remLane_bits, if_neg hnonzero] at hrem
    exact ⟨hdiv, hrem⟩
  case zero =>
    have hzero : readInt f.ty ((scalarArgs f s).getD 1 0) = 0 := hb
    have hdiv := hpasses (.div f) _ rfl (.inr hdivz)
    have hrem := hpasses (.rem f) _ rfl (.inr hdivz)
    rw [divLane_bits, if_pos hzero] at hdiv
    rw [remLane_bits, if_pos hzero] at hrem
    exact ⟨hdiv, hrem⟩
  case fault => exact ⟨divNode_faults ho hv rfl hd hb hdivz, divNode_faults ho hv rfl hd hb hdivz⟩

end Sys2Proof.Machine

/-! ## Shifts (R136)

Operands are patterns of `w` bits. On those the model's shifts are the shifts of integers and of bit vectors, for every count. -/

namespace Sys2Proof.Machine

/-! ### Operands of lanes are patterns of the type -/

/-- Only patterns of `w` bits are put to the operation of a lane. -/
theorem evalLanes_congr {v : Bool} {w : Nat} {mask : BitVec 16} {ops : List Val} {dis : List Nat → Nat} {op op' : List Nat → Res}
    (h : ∀ xs : List Nat, (∀ k, xs.getD k 0 < 2 ^ w) → op xs = op' xs) :
    evalLanes v w mask ops dis op = evalLanes v w mask ops dis op' := by
  have hread : ∀ read : Val → Nat, (∀ o, read o < 2 ^ w) → op (ops.map read) = op' (ops.map read) := fun read hlt =>
    h _ fun k => by
      rw [List.getD_eq_getElem?_getD, List.getElem?_map]
      cases ops[k]? with
      | none => exact Nat.two_pow_pos w
      | some o => exact hlt o
  cases v with
  | false => simp only [evalLanes, hread (·.low w) fun o => Nat.mod_lt _ (Nat.two_pow_pos w), Bool.false_eq_true, if_false]
  | true =>
    have hlane : ∀ j, op (ops.map fun o => laneOf o.wide.toNat w j) = op' (ops.map fun o => laneOf o.wide.toNat w j) := fun j =>
      hread (fun o => laneOf o.wide.toNat w j) fun o => Nat.mod_lt _ (Nat.two_pow_pos w)
    simp only [evalLanes, hlane, if_true]

theorem laneResult_congr {f : CommonNode} {ops : List Val} {op op' : List Nat → Res}
    (h : ∀ xs : List Nat, (∀ k, xs.getD k 0 < 2 ^ f.ty.width) → op xs = op' xs) : laneResult f ops op = laneResult f ops op' := by
  rw [laneResult, laneResult, evalLanes_congr h]

/-! ### Left -/

theorem Ty.hi_lt (t : Ty) : Ty.hi t < 2 ^ t.width := by cases t <;> decide
theorem Ty.lt_lo (t : Ty) : -(2 ^ t.width : Int) < Ty.lo t := by cases t <;> decide
theorem Ty.zero_in_range (t : Ty) : Ty.lo t ≤ 0 ∧ 0 ≤ Ty.hi t := by cases t <;> decide

theorem reduceInt_zero (t : Ty) (sat : Bool) : reduceInt t sat 0 = ⟨0, 0⟩ := by
  obtain ⟨hlo, hhi⟩ := Ty.zero_in_range t
  cases sat <;> simp [reduceInt, wrapTo, hlo.not_gt, hhi.not_gt]

/-- An integer other than 0 leaves the range of its type when it moves left by the width or more. -/
theorem reduceInt_far (t : Ty) {a : Int} (ha : a ≠ 0) {n : Nat} (hn : t.width ≤ n) :
    reduceInt t true (a * 2 ^ n) = ⟨wrapTo t.width (if a < 0 then Ty.lo t else Ty.hi t), fSA⟩ := by
  have hpow : (2 ^ t.width : Int) ≤ 2 ^ n := pow_le_pow_right₀ (by norm_num) hn
  have hlo := Ty.lt_lo t
  have hhi := Ty.hi_lt t
  rcases lt_or_gt_of_ne ha with hneg | hpos
  · have hfar : a * 2 ^ n < Ty.lo t := by
      have := mul_le_mul_of_nonneg_right (show a ≤ -1 by omega) (show (0 : Int) ≤ 2 ^ n by positivity)
      linarith
    simp [reduceInt, hneg, hfar]
  · have hfar : Ty.hi t < a * 2 ^ n := by
      have := mul_le_mul_of_nonneg_right (show 1 ≤ a by omega) (show (0 : Int) ≤ 2 ^ n by positivity)
      linarith
    simp [reduceInt, hpos.not_gt, hfar, ((Ty.lo_le_hi t).trans hfar.le).not_gt]

/-- SHL is the exact product with a power of two, reduced (R136). -/
theorem shlLane_eq (t : Ty) (sat : Bool) (xs : List Nat) :
    shlLane t sat xs = reduceInt t sat (readInt t (xs.getD 0 0) * 2 ^ xs.getD 1 0) := by
  simp only [shlLane]
  split
  · rfl
  next hn =>
    split
    next hsat =>
      simp only [Bool.and_eq_true, bne_iff_ne] at hsat
      obtain ⟨rfl, ha⟩ := hsat
      rw [reduceInt_far t ha (Nat.le_of_not_lt hn)]
    next hsat =>
      by_cases ha : readInt t (xs.getD 0 0) = 0
      · rw [ha, zero_mul, reduceInt_zero]
      · obtain rfl : sat = false := Bool.eq_false_iff.2 fun h => hsat (Bool.and_eq_true_iff.2 ⟨h, bne_iff_ne.2 ha⟩)
        have hdvd : (2 ^ t.width : Int) ∣ readInt t (xs.getD 0 0) * 2 ^ xs.getD 1 0 :=
          (pow_dvd_pow 2 (Nat.le_of_not_lt hn)).mul_left _
        rw [reduceInt_wraps, wrapTo, Int.emod_eq_zero_of_dvd hdvd]
        rfl

/-! ### Right -/

section
variable {w a : Nat} (ha : a < 2 ^ w) (n : Nat)
include ha

theorem div_two_pow_eq_zero {n : Nat} (hn : ¬ n < w) : a / 2 ^ n = 0 :=
  Nat.div_eq_of_lt (ha.trans_le (Nat.pow_le_pow_right (by norm_num) (Nat.le_of_not_lt hn)))

/-- SHR is the quotient by a power of two (R136). -/
theorem shrBits_eq : shrBits w a n = a / 2 ^ n := by
  rw [shrBits]
  split
  · rfl
  next hn => rw [div_two_pow_eq_zero ha hn]

/-- SAR puts copies of the top bit above the quotient, for every count. -/
theorem sarBits_eq_add : sarBits w a n =
    a / 2 ^ n + if a.testBit (w - 1) then (2 ^ w - 1) - (2 ^ w - 1) / 2 ^ n else 0 := by
  simp only [sarBits]
  split
  · rfl
  next hn =>
    rw [div_two_pow_eq_zero ha hn, div_two_pow_eq_zero (Nat.sub_lt (Nat.two_pow_pos w) Nat.one_pos) hn]
    simp

/-- The complement of a quotient is the quotient of the complement, in `w` bits. -/
theorem compl_div_two_pow : (2 ^ w - 1 - a) / 2 ^ n = (2 ^ w - 1) / 2 ^ n - a / 2 ^ n := by
  by_cases hn : n < w
  · obtain ⟨m, rfl⟩ := Nat.exists_eq_add_of_le hn.le
    rw [Nat.pow_add] at ha ⊢
    have hall := Nat.mul_sub_div 0 (2 ^ n) (2 ^ m) (Nat.pos_of_ne_zero (by positivity))
    have hcompl := Nat.mul_sub_div a (2 ^ n) (2 ^ m) ha
    rw [Nat.zero_div, Nat.zero_add] at hall
    rw [Nat.sub_sub, Nat.add_comm 1 a, hcompl, hall]
    omega
  · rw [div_two_pow_eq_zero (Nat.lt_of_le_of_lt (Nat.sub_le _ _) (Nat.sub_lt (Nat.two_pow_pos w) Nat.one_pos)) hn,
      div_two_pow_eq_zero (Nat.sub_lt (Nat.two_pow_pos w) Nat.one_pos) hn, Nat.zero_sub]

/-- SAR is the arithmetic shift of bit vectors (R136). -/
theorem sarBits_eq : sarBits w a n = ((BitVec.ofNat w a).sshiftRight n).toNat := by
  have hnat : (BitVec.ofNat w a).toNat = a := by rw [BitVec.toNat_ofNat, Nat.mod_eq_of_lt ha]
  have hmsb : (BitVec.ofNat w a).msb = a.testBit (w - 1) := by
    rw [BitVec.msb_eq_getLsbD_last, BitVec.getLsbD, hnat]
  rw [sarBits_eq_add ha]
  cases htop : a.testBit (w - 1) with
  | false => rw [BitVec.toNat_sshiftRight_of_msb_false (hmsb.trans htop), hnat, Nat.shiftRight_eq_div_pow]; rfl
  | true =>
    rw [BitVec.toNat_sshiftRight_of_msb_true (hmsb.trans htop), hnat, Nat.shiftRight_eq_div_pow, compl_div_two_pow ha, if_pos rfl]
    have hle : a / 2 ^ n ≤ (2 ^ w - 1) / 2 ^ n := Nat.div_le_div_right (Nat.le_sub_one_of_lt ha)
    rw [tsub_tsub_assoc (Nat.div_le_self _ _) hle, Nat.add_comm]

/-! ### Around -/

/-- ROT is the rotation of bit vectors (R136). -/
theorem rotBits_eq (hw : 0 < w) : rotBits w a n = ((BitVec.ofNat w a).rotateLeft n).toNat := by
  have hk : n % w < w := Nat.mod_lt _ hw
  obtain ⟨m, hm⟩ := Nat.exists_eq_add_of_le hk.le
  have hpow : 2 ^ w = 2 ^ (n % w) * 2 ^ m := by rw [← Nat.pow_add, ← hm]
  have hlow : a / 2 ^ m < 2 ^ (n % w) := Nat.div_lt_of_lt_mul (by rwa [Nat.mul_comm, ← hpow])
  have hhigh : a * 2 ^ (n % w) % 2 ^ w = 2 ^ (n % w) * (a % 2 ^ m) := by rw [Nat.mul_comm, hpow, Nat.mul_mod_mul_left]
  have hsum : 2 ^ (n % w) * (a % 2 ^ m) + a / 2 ^ m < 2 ^ w := by
    calc 2 ^ (n % w) * (a % 2 ^ m) + a / 2 ^ m
      _ < 2 ^ (n % w) * (a % 2 ^ m + 1) := by rw [Nat.mul_succ]; exact Nat.add_lt_add_left hlow _
      _ ≤ 2 ^ w := hpow ▸ Nat.mul_le_mul_left _ (Nat.mod_lt _ (Nat.two_pow_pos m))
  rw [BitVec.toNat_rotateLeft, BitVec.toNat_ofNat, Nat.mod_eq_of_lt ha, Nat.shiftLeft_eq, Nat.shiftRight_eq_div_pow, rotBits,
    show w - n % w = m by omega, hhigh, ← Nat.two_pow_add_eq_or_of_lt hlow, Nat.add_mod, hhigh,
    Nat.mod_eq_of_lt (hlow.trans (Nat.pow_lt_pow_right (by norm_num) hk)), Nat.mod_eq_of_lt hsum]

end

theorem shiftRows : Claims.ShiftRows := by
  intro s f ho _ _ w two
  have hw : 0 < f.ty.width := Ty.width_pos f.ty
  refine ⟨?shl, ?shr, ?sar, ?rot⟩
  case shl =>
    rw [show two (fun xs => reduceInt f.ty f.sat (readInt f.ty (xs.getD 0 0) * 2 ^ xs.getD 1 0)) = two (shlLane f.ty f.sat) from
      laneResult_congr fun xs _ => (shlLane_eq f.ty f.sat xs).symm]
    exact intNode_computes ho rfl
  case shr =>
    rw [show two _ = two (bits2 (shrBits w)) from
      laneResult_congr fun xs hxs => congrArg (Res.mk · 0) (shrBits_eq (hxs 0) _).symm]
    exact intNode_computes ho rfl
  case sar =>
    rw [show two _ = two (bits2 (sarBits w)) from
      laneResult_congr fun xs hxs => congrArg (Res.mk · 0) (sarBits_eq (hxs 0) _).symm]
    exact intNode_computes ho rfl
  case rot =>
    rw [show two _ = two (bits2 (rotBits w)) from
      laneResult_congr fun xs hxs => congrArg (Res.mk · 0) (rotBits_eq (hxs 0) _ hw).symm]
    exact intNode_computes ho rfl

end Sys2Proof.Machine

/-! ## Counts and bit fields (R137)

Each row's pattern is described by its bits; that a pattern has `w` bits follows from the bits at and above `w` being clear. -/

namespace Sys2Proof.Machine

section
variable {w a : Nat} (ha : a < 2 ^ w)

/-! ### Counts -/

include ha in
/-- CLZ counts the clear bits above the highest that is set. -/
theorem clzBits_spec : clzBits w a ≤ w ∧ a < 2 ^ (w - clzBits w a) ∧ (clzBits w a < w → 2 ^ (w - clzBits w a - 1) ≤ a) := by
  rw [clzBits]
  split
  next hzero => simp [hzero]
  next hne =>
    have hlog : a.log2 < w := (Nat.log2_lt hne).2 ha
    rw [show w - (w - 1 - a.log2) = a.log2 + 1 by omega]
    exact ⟨by omega, Nat.lt_log2_self, fun _ => Nat.log2_self_le hne⟩

/-- CTZ counts the clear bits below the lowest that is set. -/
theorem ctzBits_spec : ctzBits w a ≤ w ∧ a % 2 ^ ctzBits w a = 0 ∧ (ctzBits w a < w → a.testBit (ctzBits w a) = true) := by
  have hclear : ∀ n, (∀ j < n, (!a.testBit j) = true) → a % 2 ^ n = 0 := fun n h => Nat.eq_of_testBit_eq fun j => by
    rw [Nat.testBit_mod_two_pow, Nat.zero_testBit]
    by_cases hj : j < n
    · simpa [hj] using h j hj
    · simp [hj]
  rw [ctzBits]
  cases hfind : (List.range w).find? fun j => a.testBit j with
  | none => exact ⟨le_rfl, hclear w (List.find?_range_eq_none.1 hfind), fun h => absurd h (lt_irrefl w)⟩
  | some n =>
    obtain ⟨hset, hmem, hbelow⟩ := List.find?_range_eq_some.1 hfind
    exact ⟨(List.mem_range.1 hmem).le, hclear n hbelow, fun _ => hset⟩

theorem popBits_eq : popBits w a = (List.range w).countP a.testBit := List.countP_eq_length_filter.symm

/-! ### Reversal -/

/-- The sum of the first `n` reversed bits. -/
def reversedBits (w a n : Nat) : Nat := ((List.range n).map fun j => if a.testBit j then 2 ^ (w - 1 - j) else 0).foldl (· + ·) 0

theorem reversedBits_succ (w a n : Nat) :
    reversedBits w a (n + 1) = reversedBits w a n + if a.testBit n then 2 ^ (w - 1 - n) else 0 := by
  simp [reversedBits, List.range_succ]

/-- The first `n` bits come from the top down, so each is added below those before it. -/
theorem reversedBits_spec {n : Nat} (hn : n ≤ w) : 2 ^ (w - n) ∣ reversedBits w a n ∧
    ∀ i, (reversedBits w a n).testBit i = (decide (w - n ≤ i ∧ i < w) && a.testBit (w - 1 - i)) := by
  induction n with
  | zero =>
    refine ⟨Nat.dvd_zero _, fun i => ?_⟩
    have : ¬ (w - 0 ≤ i ∧ i < w) := by omega
    rw [decide_eq_false this, Bool.false_and]
    exact Nat.zero_testBit i
  | succ n ih =>
    obtain ⟨⟨q, hq⟩, hbits⟩ := ih (by omega)
    let b := if a.testBit n then 2 ^ (w - 1 - n) else 0
    have hb : b < 2 ^ (w - n) := by
      simp only [b]
      split
      · exact Nat.pow_lt_pow_right (by norm_num) (by omega)
      · exact Nat.two_pow_pos _
    have hbit : ∀ i, b.testBit i = (a.testBit n && decide (w - 1 - n = i)) := fun i => by
      cases h : a.testBit n <;> simp [b, h, Nat.testBit_two_pow]
    have hor : reversedBits w a (n + 1) = reversedBits w a n ||| b := by
      rw [reversedBits_succ, hq, Nat.two_pow_add_eq_or_of_lt hb]
    refine ⟨?_, fun i => ?_⟩
    · rw [reversedBits_succ, hq]
      refine Nat.dvd_add (Nat.dvd_mul_right_of_dvd (Nat.pow_dvd_pow 2 (by omega)) q) ?_
      split
      · exact Nat.pow_dvd_pow 2 (by omega)
      · exact Nat.dvd_zero _
    · rw [hor, Nat.testBit_or, hbits, hbit]
      by_cases hi : w - 1 - n = i
      · have hold : ¬ (w - n ≤ i ∧ i < w) := by omega
        have hnew : w - (n + 1) ≤ i ∧ i < w := by omega
        rw [decide_eq_false hold, decide_eq_true hnew, decide_eq_true hi, show w - 1 - i = n by omega, Bool.false_and,
          Bool.false_or, Bool.and_true, Bool.true_and]
      · have hsame : (w - n ≤ i ∧ i < w) ↔ (w - (n + 1) ≤ i ∧ i < w) := by omega
        rw [decide_eq_decide.2 hsame, decide_eq_false hi, Bool.and_false, Bool.or_false]

/-- BREV puts bit `j` at `w - 1 - j`. -/
theorem brevBits_spec : brevBits w a < 2 ^ w ∧ ∀ j, j < w → (brevBits w a).testBit (w - 1 - j) = a.testBit j := by
  have hbits : ∀ i, (brevBits w a).testBit i = (decide (w - w ≤ i ∧ i < w) && a.testBit (w - 1 - i)) :=
    (reversedBits_spec le_rfl).2
  refine ⟨Nat.lt_pow_two_of_testBit _ fun i hi => ?_, fun j hj => ?_⟩
  · rw [hbits, decide_eq_false (by omega), Bool.false_and]
  · rw [hbits, decide_eq_true (by omega), Bool.true_and, show w - 1 - (w - 1 - j) = j by omega]

/-! ### Fields -/

/-- Position and length as R137 reads them from a specification. -/
theorem fieldSpec_eq (sp : Nat) : fieldSpec sp = (sp % 64, min (sp / 256 % 128) 64) := by
  simp [fieldSpec, natBits]

/-- BFE gives the field, with copies of its top bit above it in a signed type. -/
theorem bfeBits_spec {t : Ty} (ha : a < 2 ^ t.width) {sp pos len : Nat} (hspec : fieldSpec sp = (pos, len)) (hlen : len ≤ 64) :
    bfeBits t a sp < 2 ^ t.width ∧ ∀ j, j < t.width → (bfeBits t a sp).testBit j =
      if j < len then a.testBit (pos + j) else decide (0 < len) && t.isSigned && a.testBit (pos + len - 1) := by
  have hw : t.width ≤ 64 := by cases t <;> decide
  let x := a % 2 ^ t.width / 2 ^ pos % 2 ^ len
  have hx : x < 2 ^ len := Nat.mod_lt _ (Nat.two_pow_pos len)
  have hbit : ∀ j, x.testBit j = (decide (j < len) && a.testBit (pos + j)) := fun j => by
    simp [x, Nat.mod_eq_of_lt ha, Nat.testBit_mod_two_pow, Nat.testBit_div_two_pow, Nat.add_comm]
  simp only [bfeBits, hspec]
  split
  next hzero => exact ⟨Nat.two_pow_pos _, fun j _ => by simp [hzero]⟩
  next hne =>
    have htop : x.testBit (len - 1) = a.testBit (pos + len - 1) := by
      rw [hbit, decide_eq_true (by omega), Bool.true_and, show pos + (len - 1) = pos + len - 1 by omega]
    rw [htop]
    split
    next hsign =>
      refine ⟨Nat.mod_lt _ (Nat.two_pow_pos _), fun j hj => ?_⟩
      have hext : x + (2 ^ 64 - 2 ^ len) = 2 ^ len * (2 ^ (64 - len) - 1) + x := by
        rw [Nat.mul_sub, ← Nat.pow_add, Nat.add_sub_cancel' hlen, Nat.mul_one, Nat.add_comm]
      rw [Nat.testBit_mod_two_pow, hext, Nat.testBit_two_pow_mul_add _ hx, Nat.testBit_two_pow_sub_one, hbit, decide_eq_true hj, Bool.true_and]
      by_cases hlow : j < len
      · simp [hlow]
      · have hhigh : j - len < 64 - len := by omega
        simp only [Bool.and_eq_true] at hsign
        simp [hlow, hhigh, hsign, show 0 < len by omega]
    next hsign =>
      refine ⟨Nat.mod_lt _ (Nat.two_pow_pos _), fun j hj => ?_⟩
      rw [Nat.testBit_mod_two_pow, hbit, decide_eq_true hj, Bool.true_and]
      by_cases hlow : j < len
      · simp [hlow]
      · have hplain : (t.isSigned && a.testBit (pos + len - 1)) = false := Bool.eq_false_iff.2 hsign
        simp [hlow, Bool.and_assoc, hplain]

/-- The bits of a pattern with the low `n` bits of another in place of its own from `pos` on. -/
theorem testBit_insertField (a b pos n j : Nat) :
    (2 ^ (pos + n) * (a / 2 ^ (pos + n)) + (2 ^ pos * (b % 2 ^ n) + a % 2 ^ pos)).testBit j =
      if pos ≤ j ∧ j < pos + n then b.testBit (j - pos) else a.testBit j := by
  have hlow : a % 2 ^ pos < 2 ^ pos := Nat.mod_lt _ (Nat.two_pow_pos pos)
  have hfield : 2 ^ pos * (b % 2 ^ n) + a % 2 ^ pos < 2 ^ (pos + n) := by
    calc 2 ^ pos * (b % 2 ^ n) + a % 2 ^ pos
      _ < 2 ^ pos * (b % 2 ^ n + 1) := by rw [Nat.mul_succ]; exact Nat.add_lt_add_left hlow _
      _ ≤ 2 ^ (pos + n) := Nat.pow_add 2 pos n ▸ Nat.mul_le_mul_left _ (Nat.mod_lt _ (Nat.two_pow_pos n))
  rw [Nat.testBit_two_pow_mul_add _ hfield, Nat.testBit_two_pow_mul_add _ hlow, Nat.testBit_mod_two_pow, Nat.testBit_mod_two_pow,
    Nat.testBit_div_two_pow]
  split
  next hj =>
    split
    next hbelow => simp [hbelow, hbelow.not_ge]
    next hin => rw [if_pos ⟨Nat.le_of_not_lt hin, hj⟩, decide_eq_true (by omega), Bool.true_and]
  next hj => rw [if_neg fun h => hj h.2, Nat.sub_add_cancel (Nat.le_of_not_lt hj)]

/-- Replacing a field by subtraction and addition. -/
theorem replaceField_eq (a b pos n : Nat) : a - a / 2 ^ pos % 2 ^ n * 2 ^ pos + b * 2 ^ pos =
    2 ^ (pos + n) * (a / 2 ^ (pos + n)) + (2 ^ pos * b + a % 2 ^ pos) := by
  have hparts : 2 ^ (pos + n) * (a / 2 ^ (pos + n)) + a / 2 ^ pos % 2 ^ n * 2 ^ pos + a % 2 ^ pos = a := by
    calc 2 ^ (pos + n) * (a / 2 ^ (pos + n)) + a / 2 ^ pos % 2 ^ n * 2 ^ pos + a % 2 ^ pos
      _ = 2 ^ pos * (2 ^ n * (a / 2 ^ pos / 2 ^ n) + a / 2 ^ pos % 2 ^ n) + a % 2 ^ pos := by
        rw [Nat.div_div_eq_div_mul, Nat.pow_add]; ring
      _ = a := by rw [Nat.div_add_mod, Nat.div_add_mod]
  rw [Nat.mul_comm b]
  omega

include ha in
/-- BFI puts the low bits of b in the field and leaves the others of a. -/
theorem bfiBits_spec (b : Nat) {sp pos len : Nat} (hspec : fieldSpec sp = (pos, len)) :
    bfiBits w a b sp < 2 ^ w ∧ ∀ j, j < w → (bfiBits w a b sp).testBit j =
      if pos ≤ j ∧ j < pos + len then b.testBit (j - pos) else a.testBit j := by
  simp only [bfiBits, hspec]
  split
  next hnone =>
    refine ⟨ha, fun j hj => (if_neg ?_).symm⟩
    simp only [Bool.or_eq_true, decide_eq_true_eq] at hnone
    omega
  next hsome =>
    simp only [Bool.or_eq_true, decide_eq_true_eq, not_or] at hsome
    rw [replaceField_eq]
    refine ⟨Nat.lt_pow_two_of_testBit _ fun j hj => ?_, fun j hj => ?_⟩
    · rw [testBit_insertField, if_neg (by omega)]
      exact Nat.testBit_lt_two_pow (ha.trans_le (Nat.pow_le_pow_right (by norm_num) hj))
    · have hin : (pos ≤ j ∧ j < pos + (min (pos + len) w - pos)) ↔ (pos ≤ j ∧ j < pos + len) := by omega
      rw [testBit_insertField, if_congr hin rfl rfl]

end

/-! ### The rows -/

/-- A scalar row that is a node of the class sends what its operation makes of its operands' bits of the type. -/
theorem intNode_passes {s : State} {f : CommonNode} {i : Instr} (ho : s.cur.ordinary f.pred) (hv : f.v = false) {ops : List Val}
    {op : List Nat → Res} (hexec : exec i s = intNode i f s ops op) :
    Passes i s f.toHdr 1 (f.ty.scalarVal (op (ops.map (·.low f.ty.width))).bits) := by
  simp only [intNode, hv, evalLanes, resultVal, Bool.false_eq_true, if_false] at hexec
  exact computeFlags_passes ho hexec

theorem fieldRows : Claims.FieldRows := by
  intro s f ho hv _ w a b spec
  have hlow : ∀ v : Val, v.low f.ty.width < 2 ^ f.ty.width := fun v => Nat.mod_lt _ (Nat.two_pow_pos _)
  have hspec : ∀ v : Val, fieldSpec (v.low f.ty.width) = spec v := fun v => fieldSpec_eq _
  have hcount := fun i (op : Nat → Nat) hexec => intNode_passes (i := i) (ops := ops1 s) (op := bits1 op) ho hv hexec
  refine ⟨⟨clzBits w a, hcount _ (clzBits w) rfl, clzBits_spec (hlow _)⟩, ⟨ctzBits w a, hcount _ (ctzBits w) rfl, ctzBits_spec⟩, ?popc,
    ⟨brevBits w a, hcount _ (brevBits w) rfl, brevBits_spec⟩, ⟨bfeBits f.ty a b, ?bfe, bfeBits_spec (hlow _) (hspec _) (Nat.min_le_right _ _)⟩,
    ⟨bfiBits w a b ((orNull s.cur.c).low w), ?bfi, bfiBits_spec (hlow _) b (hspec _)⟩⟩
  case popc =>
    rw [← popBits_eq]
    exact hcount _ (popBits w) rfl
  case bfe => exact intNode_passes (ops := ops2 f s) (op := bits2 (bfeBits f.ty)) ho hv rfl
  case bfi =>
    exact intNode_passes (ops := ops3 f s)
      (op := fun xs => ⟨bfiBits f.ty.width (xs.getD 0 0) (xs.getD 1 0) (xs.getD 2 0), 0⟩) ho hv rfl

/-- Settles O7: the shifts agree with those of integers and bit vectors on patterns of the type, and the bits of each count and
field are those of the rule. -/
theorem shiftAndFieldRows : Obligations.ShiftAndFieldRows := ⟨shiftRows, fieldRows⟩

end Sys2Proof.Machine

/-! ## Tags are rewritten and read (R22, R119, R120, R124 to R127) -/

namespace Sys2Proof.Machine

/-- A level field is the six bits at its place (R22). -/
theorem tagField_eq (t : W64) (k : Nat) : tagField t k = t.toNat / 2 ^ (6 * k) % 64 := by
  rw [tagField, natBits, show 6 * k + 5 + 1 - 6 * k = 6 by omega]
  rfl

/-- The domain is what stands above bit 51. -/
theorem tagDomain_eq (t : W64) : tagDomain t = t.toNat / 2 ^ 52 := by
  have := t.isLt
  rw [tagDomain, BitVec.extractLsb'_toNat, Nat.shiftRight_eq_div_pow]
  omega

section
variable {s : State} {i : Instr} {h : Hdr} {g : Sig} {tag : W64} {v : Val}

/-- A tag row without a fault sends its value under its tag. -/
theorem tagNode_answers (ho : s.cur.ordinary h.pred) (hexec : exec i s = (tagNode s.cur h g none tag v).next s) :
    Answers i s fun t => Sends s t s.cur h 1 tag v v := by
  refine ⟨_, hexec, ?_⟩
  rw [tagNode, node_ordinary ho]
  exact (emit_sends ..).after (markFired_fab ..) (markFired_now ..)

/-- A tag row that faults sends poison of its own origin under the token's tag (R105, R326). -/
theorem tagNode_faults {cause : Nat} (ho : s.cur.ordinary h.pred) (hd : (h.d0.val || h.d1.val) = true)
    (hexec : exec i s = (tagNode s.cur h g (some cause) tag v).next s) :
    Answers i s fun t => Sends s t s.cur h 1 s.cur.tag (.poison (s.cur.origin (s.vdOfCtx s.cur.ctx) cause))
      (.poison (s.cur.origin (s.vdOfCtx s.cur.ctx) cause)) := by
  refine ⟨_, hexec, ?_⟩
  simp only [tagNode, Cmd.exec_seq, ho.1]
  exact raiseFault_fired_sends hd 1 cause s

end

/-- An ordinary firing brings neither poison nor null. -/
theorem Firing.ordinary.goes {f : Firing} {pred : Pred} (ho : f.ordinary pred) : (f.poison?.isSome || f.off pred) = false := by
  simp [ho.1, ho.2]

theorem illegalUnless_true {b : Bool} (h : b = true) : illegalUnless b = none := if_pos h
theorem illegalUnless_false {b : Bool} (h : b = false) : illegalUnless b = some causeIllegal := if_neg (Bool.eq_false_iff.1 h)

/-! ### What each row is -/

section
variable (s : State) (f : TagNode)

/-- The fault of ENTER (R119). -/
def enterFault (s : State) (f : TagNode) : Option Nat :=
  if 8 ≤ tagDepth s.cur.tag then some causeTagdepth else illegalUnless (f.lvl.toNat == tagDepth s.cur.tag)

/-- The fault of RETAG (R126). -/
def retagFault (s : State) (f : TagNode) : Option Nat :=
  let b := (orNull s.cur.b).word
  let dom := if f.sub = 0 then tagDomain s.cur.tag else tagDomain b
  let high := (List.range 8).any fun k => decide (tagDepth b ≤ k) && tagField b k != 0
  let inRange := match s.ctx? s.cur.ctx with | some x => x.cbase ≤ dom && dom < x.cbase + x.image.dcount | none => true
  if 8 < tagDepth b || high then some causeIllegal else if !inRange then some causeTagrange else none

theorem exec_enter : exec (.enter f) s = (tagNode s.cur f.toHdr (Instr.enter f).sig (enterFault s f)
    (mkTag (tagDomain s.cur.tag) (tagDepth s.cur.tag + 1) ((tagFields s.cur.tag).set (tagDepth s.cur.tag) 0))
    (f.ty.pass (orNull s.cur.a))).next s := rfl

theorem exec_exit : exec (.exit f) s = (tagNode s.cur f.toHdr (Instr.exit f).sig
    (illegalUnless (tagDepth s.cur.tag != 0 && f.lvl.toNat + 1 == tagDepth s.cur.tag))
    (cutTag s.cur.tag (tagDepth s.cur.tag - 1)) (f.ty.pass (orNull s.cur.a))).next s := rfl

variable {s f} (ho : s.cur.ordinary f.pred)
include ho

theorem exec_tagset : exec (.tagset f) s = (tagNode s.cur f.toHdr (Instr.tagset f).sig
    (illegalUnless (f.lvl.toNat < tagDepth s.cur.tag))
    (setField s.cur.tag f.lvl.toNat (natBits (litOr f.l f.lit s.cur.b).toNat 5 0)) (f.ty.pass (orNull s.cur.a))).next s := by
  change execTagset f s = _
  simp only [execTagset, ho.goes, Bool.false_eq_true, if_false]

theorem exec_retag (hsub : f.sub = 0) : exec (.retag f) s = (tagNode s.cur f.toHdr (Instr.retag f).sig (retagFault s f)
    (BitVec.ofNat 64 ((orNull s.cur.b).word.toNat % 2 ^ 52 + tagDomain s.cur.tag * 2 ^ 52)) (f.ty.pass (orNull s.cur.a))).next s := by
  change execRetag f s = _
  simp only [execRetag, ho.goes, Bool.false_eq_true, if_false, hsub, if_true, retagFault] <;> rfl

/-! ### Rewriting -/

omit ho in
/-- RETAG to a well-formed tag of the own domain takes no fault. -/
theorem retagFault_none (hsub : f.sub = 0) (hdepth : tagDepth (orNull s.cur.b).word ≤ 8)
    (hhigh : ∀ k, tagDepth (orNull s.cur.b).word ≤ k → k < 8 → tagField (orNull s.cur.b).word k = 0)
    (hdom : ∀ x, s.ctx? s.cur.ctx = some x → x.cbase ≤ tagDomain s.cur.tag ∧ tagDomain s.cur.tag < x.cbase + x.image.dcount) :
    retagFault s f = none := by
  have hclean : ((List.range 8).any fun k => decide (tagDepth (orNull s.cur.b).word ≤ k) && tagField (orNull s.cur.b).word k != 0)
      = false := by
    simp only [List.any_eq_false, List.mem_range, Bool.and_eq_true, decide_eq_true_eq, bne_iff_ne, not_and, not_not]
    exact fun k hk hle => hhigh k hle hk
  simp only [retagFault, hclean, hsub, hdepth.not_gt]
  cases hx : s.ctx? s.cur.ctx with
  | none => simp
  | some x =>
    obtain ⟨hlo, hhi⟩ := hdom x hx
    simp [hlo, hhi]

end

/-! ### Reading -/

/-- What TAGGET reads of a tag (R124). -/
def taggetVal (sub l : Nat) (t : W64) : Nat :=
  match sub with
  | 0 => if l < tagDepth t then tagField t l else 0
  | 1 => tagDepth t
  | 2 => t.toNat
  | 3 => tagDomain t
  | _ => if l + 1 < tagDepth t then tagField t l + 64 * tagField t (l + 1) else 0

/-- What TAGCMP decides of two tags (R127). -/
def tagcmpVal (sub l : Nat) (t u : W64) : Bool :=
  match sub with
  | 0 => decide (t = u)
  | 1 => decide (tagDomain t = tagDomain u ∧ l < tagDepth t ∧ l < tagDepth u ∧ ∀ k, k < l → tagField t k = tagField u k)
  | _ => decide (l < tagDepth t ∧ l < tagDepth u ∧ 1 ≤ (tagField u l + 64 - tagField t l) % 64 ∧
      (tagField u l + 64 - tagField t l) % 64 ≤ 31)

section
variable {s : State} {f : TagNode} (ho : s.cur.ordinary f.pred)
include ho

theorem tagget_passes : Passes (.tagget f) s f.toHdr 1 (f.ty.scalarVal (taggetVal f.sub.toNat f.lvl.toNat s.cur.tag)) :=
  compute_passes (g := (Instr.tagget f).sig) ho rfl

theorem tagcmp_passes :
    Passes (.tagcmp f) s f.toHdr 1 (.bit (tagcmpVal f.sub.toNat f.lvl.toNat s.cur.tag (orNull s.cur.a).word)) := by
  refine compute_passes (g := (Instr.tagcmp f).sig) ho ?_
  change execTagcmp f s = _
  simp only [execTagcmp]
  congr 3
  generalize f.sub.toNat = k
  refine Bool.eq_iff_iff.2 ?_
  rcases k with _ | _ | k <;> simp [tagcmpVal, and_assoc]

end

/-! ### The clauses -/

theorem tagRows : Claims.TagRows := by
  intro s f ho c t d l a u b sends field
  have hfield : field = fun x k => tagField x k := funext₂ fun x k => (tagField_eq x k).symm
  refine ⟨fun hdepth hlevel => ?enter, fun hdepth hlevel => ?exit, fun hlevel => ?tagset, fun hdepth hhigh hsub hdom => ?retag,
    ?tagget, ?tagcmp⟩
  case enter =>
    have hnone : enterFault s f = none := (if_neg hdepth.not_ge).trans (illegalUnless_true (beq_iff_eq.2 hlevel))
    exact tagNode_answers ho (hnone ▸ exec_enter s f)
  case exit =>
    have hnone := illegalUnless_true (b := d != 0 && l + 1 == d) (by simp [hlevel, hdepth.ne'])
    exact tagNode_answers ho (hnone ▸ exec_exit s f)
  case tagset =>
    have hnone := illegalUnless_true (b := decide (l < d)) (decide_eq_true hlevel)
    have hbits : natBits (litOr f.l f.lit c.b).toNat 5 0 = (litOr f.l f.lit c.b).toNat % 64 := by simp [natBits]
    rw [← hbits]
    exact tagNode_answers ho (hnone ▸ exec_tagset ho)
  case retag =>
    rw [hfield] at hhigh
    exact tagNode_answers ho (retagFault_none hsub hdepth hhigh hdom ▸ exec_retag ho hsub)
  case tagget =>
    rw [hfield, ← tagDomain_eq]
    exact tagget_passes ho
  case tagcmp =>
    rw [hfield]
    exact tagcmp_passes ho

theorem tagFaults : Claims.TagFaults := by
  intro s f ho hd c d l faults
  refine ⟨fun hdeep => ?depth, fun hdepth hlevel => ?enter, fun hlevel => ?exit, fun hlevel => ?tagset⟩
  case depth =>
    have hfault : enterFault s f = some causeTagdepth := if_pos hdeep
    exact tagNode_faults ho hd (hfault ▸ exec_enter s f)
  case enter =>
    have hfault : enterFault s f = some causeIllegal :=
      (if_neg hdepth.not_ge).trans (illegalUnless_false (beq_eq_false_iff_ne.2 hlevel))
    exact tagNode_faults ho hd (hfault ▸ exec_enter s f)
  case exit =>
    have hfault := illegalUnless_false (b := d != 0 && l + 1 == d) (by simp [hlevel])
    exact tagNode_faults ho hd (hfault ▸ exec_exit s f)
  case tagset =>
    have hfault := illegalUnless_false (b := decide (l < d)) (decide_eq_false hlevel.not_gt)
    exact tagNode_faults ho hd (hfault ▸ exec_tagset ho)

/-- Settles O14: each row is a `tagNode` with its fault; where the levels are right it sends its value under the new tag, and else
poison under the token's own. -/
theorem tagNodes : Obligations.TagNodes := ⟨tagRows, tagFaults⟩

end Sys2Proof.Machine

/-! ## Loop windows (R119, R121 to R123) -/

namespace Sys2Proof.Machine

/-! ### What a parked firing leaves alone -/

/-- Between two states the part `p` of every element is the same. -/
def ElemFrame {α : Type} (p : Element → α) (s t : State) : Prop := ∀ k, p (t.elem k) = p (s.elem k)

/-- The output buffers of an element, and the parked firings with their rows. -/
def Element.sentAndParked (e : Element) : List OutTok × List (Instr × Firing) := (e.outs, e.parked.map fun p => (p.i, p.f))

section
variable {α : Type} {p : Element → α}

theorem ElemFrame.chains (p : Element → α) : Chains (ElemFrame p) where
  refl _ _ := rfl
  trans a b k := (b k).trans (a k)

/-- A change of an element in fields that are not kept. -/
theorem modElem_elemFrame {k : Nat} {g : Element → Element} (hg : ∀ e, p (g e) = p e := by exact fun _ => rfl) :
    (modElem k g).Within (ElemFrame p) := fun s => (modElem_faultFrame (p := p) hg s).elem

theorem setWay_elemFrame (key k : Nat) (w : Way) : (setWay key k w).Within (ElemFrame p) := fun _ _ => rfl

theorem spill_elemFrame (ctx key : Nat) (m : MatchEntry) : (spill ctx key m).Within (ElemFrame p) := fun _ _ => rfl

theorem startFull_elemFrame (ctx : Nat) : (startFull ctx).Within (ElemFrame p) := Cmd.within_get fun s => by
  split
  · exact Cmd.within_when (ElemFrame.chains p) (fun _ _ _ => rfl) s
  · exact (ElemFrame.chains p).refl s

/-- Where the entry of a parked firing goes changes no output buffer, and no parked firing but in where its entry stands. -/
theorem placeParked_elemFrame (f : Firing) (age : Nat) : (placeParked f age).Within (ElemFrame Element.sentAndParked) := by
  have hR := ElemFrame.chains Element.sentAndParked
  have hplaced : (modParked f fun p => { p with placed := true }).Within (ElemFrame Element.sentAndParked) := by
    refine modElem_elemFrame fun e => ?_
    have : ∀ q : Parked, (fun p : Parked => (p.i, p.f)) (if q.isFiring f then { q with placed := true } else q) = (q.i, q.f) := fun q => by
      split <;> rfl
    simp only [Element.sentAndParked, List.map_map, Function.comp_def, this]
  refine Cmd.within_get fun s => ?_
  have haway : ∀ c : Cmd, c.Within (ElemFrame Element.sentAndParked) →
      (if s.canSpill f.ctx (setKeyAt f.sid f.frm f.node f.tag) then .seq c (modParked f fun p => { p with placed := true })
        else startFull f.ctx).Within (ElemFrame Element.sentAndParked) := fun c hc => by
    split
    · exact Cmd.within_seq hR hc hplaced
    · exact startFull_elemFrame _
  dsimp only
  split
  · exact Cmd.within_seq hR (setWay_elemFrame _ _ _) hplaced s
  · split
    · exact haway _ (Cmd.within_seq hR (spill_elemFrame _ _ _) (setWay_elemFrame _ _ _)) s
    · exact haway _ (spill_elemFrame _ _ _) s
  · exact haway _ (spill_elemFrame _ _ _) s

end

/-- A firing that parks sends nothing, and stands among the parked firings of its element with its row. -/
theorem park_parks (i : Instr) (f : Firing) (why : ParkWhy) (s : State) :
    (((park i f why).exec s).elem f.sid).outs = (s.elem f.sid).outs ∧
      ∃ p ∈ (((park i f why).exec s).elem f.sid).parked, p.i = i ∧ p.f = f := by
  let parked := (modElem f.sid fun e => { e with parked := e.parked ++ [⟨i, f, why, s.now, false, false⟩] }).exec s
  have helem : parked.elem f.sid = { s.elem f.sid with parked := (s.elem f.sid).parked ++ [⟨i, f, why, s.now, false, false⟩] } :=
    modElem_elem_self ..
  obtain ⟨houts, hparked⟩ := Prod.mk.inj (placeParked_elemFrame f s.now parked f.sid)
  have hmem : (i, f) ∈ (((park i f why).exec s).elem f.sid).parked.map fun p => (p.i, p.f) := by
    refine hparked ▸ ?_
    rw [helem]
    simp
  obtain ⟨p, hp, heq⟩ := List.mem_map.1 hmem
  exact ⟨houts.trans (by rw [helem]), p, hp, Prod.mk.inj heq⟩

/-! ### Sending before a command -/

/-- What has been sent stands where a command keeps the output buffers of its element and loses no due task. -/
theorem Sends.before {s t u : State} {f : Firing} {h : Hdr} {lat : Nat} {tag : W64} {v0 v1 : Val} (hs : Sends s t f h lat tag v0 v1)
    (houts : (u.elem f.sid).outs = (t.elem f.sid).outs) (hagenda : ∀ x ∈ t.agenda, x ∈ u.agenda) :
    Sends s u f h lat tag v0 v1 :=
  ⟨houts.trans hs.outs, fun hd => hagenda _ (hs.hop0 hd), fun hd => hagenda _ (hs.hop1 hd)⟩

theorem Sends.aside {α : Type} {g : Ctx → α} {s t u : State} {f : Firing} {h : Hdr} {lat : Nat} {tag : W64} {v0 v1 : Val}
    (hs : Sends s t f h lat tag v0 v1) (ha : Aside g t u) : Sends s u f h lat tag v0 v1 :=
  hs.before (by rw [ha.elem]) ha.agenda

theorem tryCommit_aside (ctx rgn frm dom : Nat) : (tryCommit ctx rgn frm dom).Within (Aside id) := after_aside 0 _

theorem emit_windows (f : Firing) (h : Hdr) (lat : Nat) (tag : W64) (v : Val) (s : State) (k : Nat) :
    (((emit f h lat tag v).exec s).elem k).windows = (s.elem k).windows :=
  ((emit_frame f h lat tag v s).comp Element.windows).elem k

/-! ### Positions in a window -/

theorem tagField_lt (t : W64) (k : Nat) : tagField t k < 64 := by
  rw [tagField_eq]
  exact Nat.mod_lt _ (by norm_num)

/-- The position of an iteration is its distance from HEAD. -/
theorem LoopWin.pos_eq {w : LoopWin} (hhead : w.head < 64) (j : Nat) : w.pos j = (j + 64 - w.head) % 64 := by
  rw [LoopWin.pos, Nat.mod_eq_of_lt hhead]

/-- Before its final iteration is known, no iteration lies after it. -/
theorem LoopWin.pastFinal_none {w : LoopWin} (hfinal : w.final = none) (i : Nat) : w.pastFinal i = false := by
  rw [LoopWin.pastFinal, hfinal]

/-! ### NEXT (R119, R122) -/

section
variable {s : State} {f : TagNode} {w : LoopWin}

theorem withWindow_found {i : Instr} {c : Firing} {n : Nat} {outer : W64} {k : LoopWin → Cmd}
    (hfind : (s.elem c.sid).windows.find? (fun x => x.isKey c.frm n outer) = some w) :
    (withWindow i c n outer k).exec s = (k w).exec s := by
  simp only [withWindow, Cmd.exec_get, hfind]

variable (ho : s.cur.ordinary f.pred) (hlevel : f.lvl.toNat + 1 = tagDepth s.cur.tag)
include hlevel

include ho

/-- NEXT goes on under the next iteration's tag where its window admits that, and else parks. -/
theorem exec_next (hfinal : w.final = none)
    (hfind : (s.elem s.cur.sid).windows.find? (fun x => x.isKey s.cur.frm (f.lit.toNat % 128) (cutTag s.cur.tag f.lvl.toNat)) = some w) :
    exec (.next f) s = (if w.pos ((tagField s.cur.tag f.lvl.toNat + 1) % 64) < w.k then
      tagNode s.cur f.toHdr (Instr.next f).sig none
        (setField s.cur.tag f.lvl.toNat ((tagField s.cur.tag f.lvl.toNat + 1) % 64)) (f.ty.pass (orNull s.cur.a))
      else park (.next f) s.cur .loopWindow).next s := by
  have hsound : ¬ (tagDepth s.cur.tag = 0 ∨ f.lvl.toNat + 1 ≠ tagDepth s.cur.tag) := by omega
  change execNext f s = _
  simp only [execNext, hsound, if_false, nextKey, Cmd.next_eq, withWindow_found hfind, ho.1, Option.isSome_none, Bool.false_eq_true,
    LoopWin.pastFinal_none hfinal]
  rfl

end

/-! ### BOUND (R119, R122, R123) -/

/-- A window in which the iteration `j` is done. -/
def LoopWin.markDone (w : LoopWin) (j : Nat) : LoopWin := { w with done := w.done ||| (1#64 <<< j) }

theorem LoopWin.markDone_done (w : LoopWin) {j : Nat} (hj : j < 64) (k : Nat) :
    (w.markDone j).done.getLsbD k = (w.done.getLsbD k || decide (k = j)) := by
  simp only [LoopWin.markDone, BitVec.getLsbD_or, BitVec.getLsbD_shiftLeft, BitVec.getLsbD_one]
  congr 1
  refine Bool.eq_iff_iff.2 ?_
  simp
  omega

/-- HEAD does not advance while its own iteration is not done. -/
theorem LoopWin.advance_stays {w : LoopWin} (h : w.done.getLsbD w.head = false) (fuel : Nat) : w.advance fuel = (false, w) := by
  cases fuel with
  | zero => rfl
  | succ fuel => simp [LoopWin.advance, h]

theorem setWindow_elem (sid : Nat) (w : LoopWin) (s : State) : ((setWindow sid w).exec s).elem sid =
    { s.elem sid with windows := (s.elem sid).windows.map fun x => if x.isKey w.frm w.node w.outer then w else x } :=
  modElem_elem_self ..

/-- Where no firing is parked and the window stays, nothing is settled. -/
theorem settleWindow_none {s : State} {sid : Nat} (hparked : (s.elem sid).parked = []) (w : LoopWin) :
    (settleWindow sid w false).exec s = s := by
  simp [settleWindow, hparked, sortBy]

section
variable {s : State} {f : TagNode} {w : LoopWin} (ho : s.cur.ordinary f.pred) (hlevel : f.lvl.toNat + 1 = tagDepth s.cur.tag)
  (hfinal : w.final = none)
  (hfind : (s.elem s.cur.sid).windows.find? (fun x => x.isKey s.cur.frm s.cur.node (cutTag s.cur.tag f.lvl.toNat)) = some w)
  (hparked : (s.elem s.cur.sid).parked = []) (hin : w.pos (tagField s.cur.tag f.lvl.toNat) < w.k)
  (hfresh : w.done.getLsbD (tagField s.cur.tag f.lvl.toNat) = false) (hhead : w.done.getLsbD w.head = false)
  (hnot : tagField s.cur.tag f.lvl.toNat ≠ w.head) (hgoes : (orNull s.cur.b).word.getLsbD 0 = true)
include ho hlevel hfinal hfind hparked hin hfresh hhead hnot hgoes

/-- BOUND of an iteration that goes on, other than HEAD's, marks it done in its window and passes a on. -/
theorem exec_bound : exec (.bound f) s = .next ((tryCommit s.cur.ctx s.cur.rgn s.cur.frm (tagDomain s.cur.tag)).exec
    ((tagNode s.cur f.toHdr (Instr.bound f).sig none s.cur.tag (f.ty.pass (orNull s.cur.a))).exec
      ((setWindow s.cur.sid (w.markDone (tagField s.cur.tag f.lvl.toNat))).exec s))) := by
  have hsound : ¬ (tagDepth s.cur.tag = 0 ∨ f.lvl.toNat + 1 ≠ tagDepth s.cur.tag) := by omega
  have hadvance : (w.markDone (tagField s.cur.tag f.lvl.toNat)).advance 65 =
      (false, w.markDone (tagField s.cur.tag f.lvl.toNat)) :=
    LoopWin.advance_stays (by
      show (w.markDone _).done.getLsbD w.head = false
      rw [LoopWin.markDone_done w (tagField_lt _ _), hhead, decide_eq_false hnot.symm, Bool.false_or]) 65
  have hmark : ({ w with done := w.done ||| (1#64 <<< tagField s.cur.tag f.lvl.toNat), final := none } : LoopWin) =
      w.markDone (tagField s.cur.tag f.lvl.toNat) := by rw [← hfinal]; rfl
  change execBound f s = _
  simp only [execBound, hsound, if_false, Cmd.next_eq, withWindow_found hfind, hfinal, hin.not_ge, hfresh, ho.1, ho.2, hgoes,
    decide_false, Bool.or_false, Bool.false_eq_true, Option.isNone_none, Bool.not_false, Bool.and_self, if_true, hmark, hadvance,
    Cmd.exec_all_cons, Cmd.exec_all_one, Cmd.exec_when_false]
  rw [settleWindow_none]
  rw [setWindow_elem]
  exact hparked

/-- So it sends a, and the window keeps its key and its HEAD. -/
theorem bound_answers : Answers (.bound f) s fun t =>
    Sends s t s.cur f.toHdr 1 s.cur.tag (f.ty.pass (orNull s.cur.a)) (f.ty.pass (orNull s.cur.a)) ∧
      ∃ v ∈ (t.elem s.cur.sid).windows, v.isKey s.cur.frm s.cur.node (cutTag s.cur.tag f.lvl.toNat) ∧
        v.done.getLsbD (tagField s.cur.tag f.lvl.toNat) = true ∧ v.head = w.head := by
  refine ⟨_, exec_bound ho hlevel hfinal hfind hparked hin hfresh hhead hnot hgoes, ?_⟩
  let marked := w.markDone (tagField s.cur.tag f.lvl.toNat)
  let u := (setWindow s.cur.sid marked).exec s
  have helem : u.elem s.cur.sid = _ := setWindow_elem s.cur.sid marked s
  have hsent : (emit s.cur f.toHdr 1 s.cur.tag (f.ty.pass (orNull s.cur.a))).exec ((markFired s.cur).exec u) =
      (tagNode s.cur f.toHdr (Instr.bound f).sig none s.cur.tag (f.ty.pass (orNull s.cur.a))).exec u := (node_ordinary ho).symm
  rw [← hsent]
  refine ⟨?sends, marked, ?window⟩
  case sends =>
    have hu := (emit_sends s.cur f.toHdr 1 s.cur.tag (f.ty.pass (orNull s.cur.a)) _).after (markFired_fab s.cur u) (markFired_now ..)
    exact (hu.of_outs (congrArg Element.outs helem :) rfl).aside (tryCommit_aside _ _ _ _ _)
  case window =>
    have hkey := List.find?_some hfind
    have hself : w.isKey marked.frm marked.node marked.outer = true := by simp [marked, LoopWin.markDone, LoopWin.isKey]
    have hdone : marked.done.getLsbD (tagField s.cur.tag f.lvl.toNat) = true := by
      rw [LoopWin.markDone_done w (tagField_lt _ _), decide_eq_true rfl, Bool.or_true]
    refine ⟨?_, hkey, hdone, rfl⟩
    rw [(tryCommit_aside _ _ _ _ _).elem, emit_windows, markFired_elem, helem]
    exact List.mem_map.2 ⟨w, List.mem_of_find?_eq_some hfind, if_pos hself⟩

end

theorem loopRows : Claims.LoopRows := by
  intro s f w ho c d l a e i ahead _ hlevel hhead
  have hpos : ∀ j, w.pos j = ahead j := LoopWin.pos_eq hhead
  refine ⟨fun hfind hfinal hin => ?goes, fun hfind hfinal hout => ?parks, fun hfind hfinal hparked hin hfresh hlow hnot hgoes => ?bound⟩
  case goes =>
    refine tagNode_answers ho (g := (Instr.next f).sig) ((exec_next ho hlevel hfinal hfind).trans ?_)
    rw [if_pos (by rwa [hpos])]
  case parks =>
    refine ⟨_, exec_next ho hlevel hfinal hfind, ?_⟩
    rw [if_neg (by rw [hpos]; exact hout.not_gt)]
    exact park_parks _ _ _ s
  case bound =>
    exact bound_answers ho hlevel hfinal hfind hparked (by rwa [hpos]) hfresh hlow hnot hgoes

end Sys2Proof.Machine

/-! ## The tag pool (R128 to R130) -/

namespace Sys2Proof.Machine

/-! ### Requests (R129, R130) -/

section
variable {s : State} {c : Ctx} {q : Firing}

theorem poolLatency_eq (hc : s.ctx? q.ctx = some c) : poolLatency s q = if c.homeDie = dieOf q.sid then 6 else 15 := by
  rw [poolLatency, hc]

/-- A request to the pool changes nothing at the elements; it is on its way to the scheduler. -/
theorem askPool_asks (i : Instr) (f : Firing) (ret : Option Nat) (s : State) :
    let t := (askPool i f ret).exec s
    t.fab = s.fab ∧ t.due (s.now + poolLatency s f) (.poolRequest s.serial) ∧
      t.run.pools.get? s.serial = some ⟨i, f, ret, none, none⟩ :=
  ⟨rfl, after_due _ _ _, Tbl.get?_set_self ..⟩

theorem exec_spawn_asks {f : TagNode} (hdepth : tagDepth s.cur.tag < 7) (hlevel : f.lvl.toNat = tagDepth s.cur.tag) :
    exec (.spawn f) s = (askPool (.spawn f) s.cur none).next s := by
  change execSpawn f s = _
  simp [execSpawn, hdepth.not_ge, hlevel, illegalUnless]

theorem exec_retire_asks {f : TagNode} (hdepth : 2 ≤ tagDepth s.cur.tag) (hlevel : f.lvl.toNat + 2 = tagDepth s.cur.tag) :
    exec (.retire f) s = (askPool (.retire f) s.cur
      (some (tagField s.cur.tag f.lvl.toNat + 64 * tagField s.cur.tag (f.lvl.toNat + 1)))).next s := by
  change execRetire f s = _
  simp [execRetire, hdepth.not_gt, hlevel]

end

theorem poolRows : Claims.PoolRows := fun s _ =>
  ⟨fun hdepth hlevel => ⟨_, exec_spawn_asks hdepth hlevel, askPool_asks _ _ _ s⟩,
    fun hdepth hlevel => ⟨_, exec_retire_asks hdepth hlevel, askPool_asks _ _ _ s⟩⟩

/-! ### The scheduler serves them (R128) -/

/-- A SPAWN request that has reached its scheduler and has no reply yet. -/
def PoolReq.waits (q : PoolReq) (ctx : Nat) : Bool := q.f.ctx == ctx && q.ret.isNone && q.reached.isSome && q.reply.isNone

section
variable {s : State} {c : Ctx} {rq : Nat} {q : PoolReq} {n : Nat}

/-- The only waiting request gets the oldest number. -/
theorem servePool_grants (hpools : s.run.pools = [(rq, q)]) (hwaits : q.waits q.f.ctx = true) (hc : s.ctx? q.f.ctx = some c)
    {rest : List Nat} (hpool : c.pool = n :: rest) : (servePool q.f.ctx 1).exec s = (grantPool rq q n).exec s := by
  have hsorted : sortBy (fun x : Nat × PoolReq => (x.2.reached).getD 0) (s.run.pools.filter fun x => x.2.waits q.f.ctx) = [(rq, q)] := by
    simp [hpools, hwaits, sortBy, insertBy]
  simp only [PoolReq.waits] at hsorted
  simp only [servePool, Cmd.exec_get, hsorted, hc, hpool]
  rfl

/-- Where no request waits nothing is granted. -/
theorem servePool_idle {ctx : Nat} (hidle : ∀ x ∈ s.run.pools, x.2.waits ctx = false) (fuel : Nat) : (servePool ctx fuel).exec s = s := by
  cases fuel with
  | zero => rfl
  | succ fuel =>
    have hnone : (s.run.pools.filter fun x => x.2.waits ctx) = [] := by simpa using hidle
    simp only [PoolReq.waits] at hnone
    simp only [servePool, Cmd.exec_get, hnone, sortBy, List.foldl_nil]
    cases s.ctx? ctx <;> rfl

theorem grantPool_grants (hc : s.ctx? q.f.ctx = some c) :
    let t := (grantPool rq q n).exec s
    (t.run.pools.get? rq).map (·.reply) = some (some (some n)) ∧ (t.ctx? q.f.ctx).map (·.pool) = some (c.pool.drop 1) ∧
      t.due (s.now + poolLatency s q.f) (.poolReply rq) := by
  refine ⟨congrArg (Option.map _) (Tbl.get?_set_self ..), ?_, after_due _ _ _⟩
  exact (congrArg (Option.map _) (modCtx_ctx_self q.f.ctx _ s)).trans (by rw [hc]; rfl)

/-- A SPAWN that reaches the scheduler is granted the oldest number of its context's pool. -/
theorem poolRequest_grants (hpools : s.run.pools = [(rq, q)]) (hreply : q.reply = none) (hret : q.ret = none)
    (hc : s.ctx? q.f.ctx = some c) {rest : List Nat} (hpool : c.pool = n :: rest) : Answers (.poolRequest rq) s fun t =>
      (t.run.pools.get? rq).map (·.reply) = some (some (some n)) ∧ (t.ctx? q.f.ctx).map (·.pool) = some rest ∧
        t.due (s.now + poolLatency s q.f) (.poolReply rq) := by
  let reached := { q with reached := some s.now }
  let u := (Cmd.prim (.blocks fun r => { r with pools := r.pools.set rq reached })).exec s
  have hfound : s.run.pools.get? rq = some q := by simp [hpools, Tbl.get?]
  have hu : u.run.pools = [(rq, reached)] := by simp [u, hpools, Tbl.set]
  have hexec : exec (.poolRequest rq) s = .next ((servePool q.f.ctx 1).exec u) := by
    change execPoolRequest rq s = _
    simp only [execPoolRequest, hfound]
    obtain ⟨i, f, ret, since, reply⟩ := q
    obtain rfl : ret = none := hret
    rfl
  have hwaits : reached.waits reached.f.ctx = true := by simp [PoolReq.waits, reached, hret, hreply]
  refine ⟨_, hexec, ?_⟩
  rw [servePool_grants (q := reached) hu hwaits hc hpool]
  have hgrant := grantPool_grants (rq := rq) (q := reached) (n := n) (s := u) hc
  rwa [hpool] at hgrant

/-! ### Numbers come back (R130, R239) -/

/-- Between two states the cycle, the requests to the pool and the contexts are the same. -/
structure PoolFrame (s t : State) : Prop where
  now : t.now = s.now
  pools : t.run.pools = s.run.pools
  ten : t.ten = s.ten

theorem PoolFrame.chains : Chains PoolFrame where
  refl _ := ⟨rfl, rfl, rfl⟩
  trans a b := ⟨b.now.trans a.now, b.pools.trans a.pools, b.ten.trans a.ten⟩

theorem returnNumber_poolFrame (ctx number : Nat) : (returnNumber ctx number).Within PoolFrame :=
  Cmd.within_get fun s => Cmd.within_each PoolFrame.chains (fun _ _ => Cmd.within_each PoolFrame.chains fun _ _ =>
    Cmd.within_each PoolFrame.chains fun _ _ => Cmd.within_seq PoolFrame.chains (fun _ => ⟨rfl, rfl, rfl⟩) fun _ => ⟨rfl, rfl, rfl⟩) s

/-- A number that is not in its context's pool goes back to it. -/
def giveBack (ctx n : Nat) : Cmd := .seq (modCtx ctx fun c => { c with pool := c.pool ++ [n] }) (returnNumber ctx n)

theorem giveBack_keeps (ctx n : Nat) (s : State) :
    ((giveBack ctx n).exec s).now = s.now ∧ ((giveBack ctx n).exec s).run.pools = s.run.pools :=
  have h := returnNumber_poolFrame ctx n ((modCtx ctx fun c => { c with pool := c.pool ++ [n] }).exec s)
  ⟨h.now, h.pools⟩

/-- A reply of the pool is recorded and sent. -/
def answerPool (s : State) (rq : Nat) (q : PoolReq) (reply : Option Nat) : Cmd := .seq
  (.prim (.blocks fun r => { r with pools := r.pools.set rq { q with reached := some s.now, reply := some reply } }))
  (after (poolLatency s q.f) (.poolReply rq))

/-- Once the only request is answered, none waits. -/
theorem answerPool_idle {u : State} (hpools : u.run.pools = [(rq, q)]) (reply : Option Nat) (fuel : Nat) :
    (servePool q.f.ctx fuel).exec ((answerPool s rq q reply).exec u) = (answerPool s rq q reply).exec u := by
  refine servePool_idle (fun x hx => ?_) fuel
  have hset : ((answerPool s rq q reply).exec u).run.pools =
      [(rq, { q with reached := some s.now, reply := some reply })] := by
    change u.run.pools.set rq _ = _
    simp [hpools, Tbl.set]
  rw [hset, List.mem_singleton] at hx
  simp [hx, PoolReq.waits]

section
variable (hpools : s.run.pools = [(rq, q)]) (hret : q.ret = some n) (hc : s.ctx? q.f.ctx = some c)
include hpools hret hc

/-- A RETIRE whose number is free already gives nothing back. -/
theorem exec_poolRequest_free (hn : n ∈ c.pool) : exec (.poolRequest rq) s = .next ((answerPool s rq q none).exec s) := by
  have hfound : s.run.pools.get? rq = some q := by simp [hpools, Tbl.get?]
  have hfree : c.pool.contains n = true := by simpa using hn
  change execPoolRequest rq s = _
  obtain ⟨i, f, ret, since, reply⟩ := q
  obtain rfl : ret = some n := hret
  simp only [execPoolRequest, hfound, hc, hfree, Bool.not_true, Cmd.next_eq, Cmd.exec_all_cons, Cmd.exec_all_one,
    Cmd.exec_when_false, if_true]
  exact congrArg Host.Outcome.next (answerPool_idle hpools none 1)

/-- Any other gives its number back. -/
theorem exec_poolRequest_back (hn : n ∉ c.pool) :
    exec (.poolRequest rq) s = .next ((answerPool s rq q (some n)).exec ((giveBack q.f.ctx n).exec s)) := by
  have hfound : s.run.pools.get? rq = some q := by simp [hpools, Tbl.get?]
  have hfree : c.pool.contains n = false := by simpa using hn
  have hback : ((giveBack q.f.ctx n).exec s).run.pools = [(rq, q)] := (giveBack_keeps _ _ s).2.trans hpools
  change execPoolRequest rq s = _
  obtain ⟨i, f, ret, since, reply⟩ := q
  obtain rfl : ret = some n := hret
  simp only [execPoolRequest, hfound, hc, hfree, Bool.not_false, Cmd.next_eq, Cmd.exec_all_cons, Cmd.exec_all_one,
    Cmd.exec_when_true, Bool.false_eq_true, if_false]
  exact congrArg Host.Outcome.next (answerPool_idle hback (some n) 1)

end

theorem answerPool_reply (u : State) (reply : Option Nat) :
    (((answerPool s rq q reply).exec u).run.pools.get? rq).map (·.reply) = some (some reply) :=
  congrArg (Option.map _) (Tbl.get?_set_self ..)

theorem answerPool_due {u : State} (hnow : u.now = s.now) (reply : Option Nat) :
    ((answerPool s rq q reply).exec u).due (s.now + poolLatency s q.f) (.poolReply rq) := hnow ▸ after_due _ _ _

/-- The pool of the context after its scheduler has given back a number. -/
theorem giveBack_pool (hc : s.ctx? q.f.ctx = some c) :
    (((giveBack q.f.ctx n).exec s).ctx? q.f.ctx).map (·.pool) = some (c.pool ++ [n]) := by
  have hten := (returnNumber_poolFrame q.f.ctx n ((modCtx q.f.ctx fun c => { c with pool := c.pool ++ [n] }).exec s)).ten
  rw [State.ctx?, giveBack, Cmd.exec_seq, hten]
  exact (congrArg (Option.map _) (modCtx_ctx_self q.f.ctx _ s)).trans (by rw [hc]; rfl)

/-- A RETIRE that reaches the scheduler is answered after the way back, with its number unless that is free already. -/
theorem poolRequest_takes (hpools : s.run.pools = [(rq, q)]) (hret : q.ret = some n) (hc : s.ctx? q.f.ctx = some c) :
    Answers (.poolRequest rq) s fun t => t.due (s.now + poolLatency s q.f) (.poolReply rq) ∧
      (n ∉ c.pool → (t.run.pools.get? rq).map (·.reply) = some (some (some n)) ∧
        (t.ctx? q.f.ctx).map (·.pool) = some (c.pool ++ [n])) ∧
      (n ∈ c.pool → (t.run.pools.get? rq).map (·.reply) = some (some none) ∧ (t.ctx? q.f.ctx).map (·.pool) = some c.pool) := by
  by_cases hn : n ∈ c.pool
  · exact ⟨_, exec_poolRequest_free hpools hret hc hn, answerPool_due rfl none, fun h => absurd hn h,
      fun _ => ⟨answerPool_reply s none, congrArg (Option.map _) hc⟩⟩
  · exact ⟨_, exec_poolRequest_back hpools hret hc hn, answerPool_due (giveBack_keeps _ _ s).1 (some n),
      fun _ => ⟨answerPool_reply _ (some n), giveBack_pool hc⟩, fun h => absurd h hn⟩

end

/-! ### Replies (R129, R130) -/

/-- Nothing of a context but that it is there: what `Aside` keeps of contexts where no part of them matters. -/
def Ctx.blank (_ : Ctx) : Unit := ()

theorem modRegion_aside (ctx rgn : Nat) (f : Region → Region) : (modRegion ctx rgn f).Within (Aside id) := blocksPrim_aside _

theorem beginPts_aside (ctx rgn die : Nat) (act : W64) : (beginPts ctx rgn die act).Within (Aside Ctx.blank) :=
  Cmd.within_get fun s => Cmd.within_seq (Aside.chains _) modCtx_aside (fun t => (bumpHzn_aside die _ t).part _) s

theorem endActs_aside (ctx rgn : Nat) (gone : W64 → Bool) : (endActs ctx rgn gone).Within (Aside Ctx.blank) :=
  Cmd.within_seq (Aside.chains _) modCtx_aside fun t => (modRegion_aside ctx rgn _ t).part _

theorem freeHitches_aside (ctx rgn : Nat) : (freeHitches ctx rgn).Within (Aside id) :=
  Cmd.within_get fun s => modRegion_aside ctx rgn _ s

/-- A request that has been answered leaves the scheduler. -/
def dropRequest (rq : Nat) : Cmd := .prim (.blocks fun r => { r with pools := r.pools.del rq })

/-- What ends with the activation that a RETIRE of a tag leaves: its timestamps, hitches and chain. -/
def endRetired (c : Firing) : Cmd := .all [
  endActs c.ctx c.rgn fun a => a == c.tag,
  freeHitches c.ctx c.rgn,
  modInst c.ctx c.rgn c.frm (tagDomain c.tag) fun n => { n with chain := n.chain.filter fun (a, _) => a != c.tag }]

theorem dropRequest_aside (rq : Nat) : (dropRequest rq).Within (Aside Ctx.blank) := fun s => (blocksPrim_aside _ s).part _

theorem endRetired_aside (c : Firing) : (endRetired c).Within (Aside Ctx.blank) :=
  Cmd.within_seq (Aside.chains _) (endActs_aside _ _ _)
    (Cmd.within_seq (Aside.chains _) (fun s => (freeHitches_aside _ _ s).part _) fun s => (modRegion_aside _ _ _ s).part _)

/-- What a firing sends between commands that leave the fabric alone. -/
theorem Sends.between {s t u v : State} {g : Firing} {h : Hdr} {lat : Nat} {tag : W64} {v0 v1 : Val}
    (hs : Sends t u g h lat tag v0 v1) (hbefore : Aside Ctx.blank s t) (hafter : Aside id u v) : Sends s v g h lat tag v0 v1 :=
  (hs.after hbefore.fab hbefore.now).aside hafter

section
variable {s : State} {rq n : Nat} {q : PoolReq} {f : TagNode} (hq : s.run.pools.get? rq = some q) (ho : q.f.ordinary f.pred)
  (hreply : q.reply = some (some n))
include hq ho hreply

/-- A granted SPAWN sends its results under the tag that the number opens. -/
theorem poolReply_spawns (hi : q.i = .spawn f) : Answers (.poolReply rq) s fun t =>
    Sends s t q.f f.toHdr 1 (mkTag (tagDomain q.f.tag) (tagDepth q.f.tag + 2)
        (((tagFields q.f.tag).set (tagDepth q.f.tag) (n % 64)).set (tagDepth q.f.tag + 1) (n / 64 % 64)))
      (f.ty.pass (orNull q.f.a)) (if f.l then f.ty.literalVal f.v f.lit else f.ty.pass (orNull q.f.b)) := by
  refine ⟨_, rfl, ?_⟩
  simp only [hq, hreply, hi, Option.getD_some, Cmd.exec_all_cons, Cmd.exec_all_one, Cmd.exec_seq, node_ordinary ho]
  exact ((emit2_sends ..).after (markFired_fab ..) (markFired_now ..)).between
    ((Aside.chains _).trans (dropRequest_aside rq s) (beginPts_aside _ _ _ _ _)) (tryCommit_aside _ _ _ _ _)

/-- An answered RETIRE sends a under its activation's outer tag. -/
theorem poolReply_retires (hi : q.i = .retire f) : Answers (.poolReply rq) s fun t =>
    Sends s t q.f f.toHdr 1 (mkTag (tagDomain q.f.tag) (tagDepth q.f.tag - 2) (tagFields q.f.tag))
      (f.ty.pass (orNull q.f.a)) (f.ty.pass (orNull q.f.a)) := by
  have hexec : exec (.poolReply rq) s = .next ((tryCommit q.f.ctx q.f.rgn q.f.frm (tagDomain q.f.tag)).exec
      ((tagNode q.f f.toHdr (Instr.retire f).sig none (cutTag q.f.tag (tagDepth q.f.tag - 2)) (f.ty.pass (orNull q.f.a))).exec
        ((endRetired q.f).exec ((dropRequest rq).exec s)))) := by
    change execPoolReply rq s = _
    simp only [execPoolReply, hq, hreply, hi, Option.getD_some]
    rfl
  refine ⟨_, hexec, ?_⟩
  rw [tagNode, node_ordinary ho]
  exact ((emit_sends ..).after (markFired_fab ..) (markFired_now ..)).between
    ((Aside.chains _).trans (dropRequest_aside rq s) (endRetired_aside _ _)) (tryCommit_aside _ _ _ _ _)

end

theorem poolServes : Claims.PoolServes := by
  intro s rq q c hc lat d reply
  refine ⟨fun hpools hreply => ⟨fun n rest hret hpool => ?grants, fun n hret => ?takes⟩, fun f n hq ho hreply =>
    ⟨poolReply_spawns hq ho hreply, poolReply_retires hq ho hreply⟩⟩
  case grants =>
    have := poolRequest_grants hpools hreply hret hc hpool
    rwa [poolLatency_eq hc] at this
  case takes =>
    have := poolRequest_takes hpools hret hc
    rwa [poolLatency_eq hc] at this

/-- Settles O15: a window that admits an iteration lets its NEXT go on, and the scheduler of the home die answers requests from the
pool of their context. -/
theorem loopsAndPools : Obligations.LoopsAndPools := ⟨loopRows, poolRows, poolServes⟩

end Sys2Proof.Machine

/-! ## A firing whose predicate has not come (R33, R74, R111, R112)

MERGE and STEER give null for themselves where their predicate is null or missing; a firing is ordinary as long as no operand is null
and the predicate matches. A missing predicate is no null operand and reads as false, so a node that fires on false can be ordinary
without one. The match stage never brings such a firing, as a node with PRED requires port p (R24). -/

namespace Sys2Proof.Machine

/-- The values of what a firing sends on a valid D0 are determined. -/
theorem Sends.value_unique {s t : State} {f : Firing} {h : Hdr} {lat : Nat} {tag : W64} {v v' : Val} (hd0 : h.d0.val = true)
    (hs : Sends s t f h lat tag v v) (hs' : Sends s t f h lat tag v' v') : v = v' := by
  have hresults := List.append_cancel_left (hs.outs.symm.trans hs'.outs)
  simp only [Firing.results, hd0, if_true, List.cons_append, List.nil_append, List.cons.injEq, OutTok.mk.injEq] at hresults
  exact congrArg Token.val hresults.1.2.1

/-- MERGE without its predicate sends null (R112). -/
theorem merge_of_no_predicate {s : State} {f : PlumbNode} (hp : s.cur.p = none) (hpoison : s.cur.poison? = none)
    (hpred : f.pred ≠ .always) : Passes (.merge f) s f.toHdr 1 (.null f.v) := by
  refine ⟨_, rfl, ?_⟩
  have hmissing : (orNull s.cur.p).isNull = true := by rw [hp]; rfl
  simp only [Cmd.exec_seq, hpoison, hmissing, bne_iff_ne.2 hpred, Bool.and_self, Bool.or_true, if_true]
  exact (emit_sends ..).after (markFired_fab ..) (markFired_now ..)

/-- A MERGE.i32 that fires on false, with its result to port a of node 9. -/
def mergeOnFalse : PlumbNode :=
  { sub := 0, pred := .ifFalse, ty := .i32, d0 := ⟨true, 9, .a⟩, d1 := ⟨false, 0, .a⟩, lit := 0, l := false, v := false, greg := 0 }

/-- After reset, a firing with a scalar on port a and nothing on the others. -/
def firesUnpredicated : State := { State.reset with cur := { Firing.zero with a := some (.scalar 1) } }

/-- Refutes O11: the firing above is ordinary for a MERGE that fires on false, and its a is not null; the rows' clause would send a,
and MERGE sends null. Its clause in `Claims.MergeTakesTheOther` asks for a predicate that is not null, the one refuted here does not. -/
theorem not_plumbingNodes : ¬ Obligations.PlumbingNodes := by
  rintro ⟨hrows, -, -⟩
  have hordinary : firesUnpredicated.cur.ordinary mergeOnFalse.pred := ⟨rfl, rfl⟩
  obtain ⟨-, -, -, -, hmerge, -⟩ := hrows firesUnpredicated mergeOnFalse hordinary
  obtain ⟨t, hexec, hsends⟩ := hmerge rfl
  obtain ⟨t', hexec', hnull⟩ := merge_of_no_predicate (s := firesUnpredicated) (f := mergeOnFalse) rfl rfl (by decide)
  obtain rfl : t = t' := Host.Outcome.next.inj (hexec.symm.trans hexec')
  exact absurd (hsends.value_unique rfl hnull) (by decide)

end Sys2Proof.Machine

/-! ## Branches (R108, R116 to R118, R238) -/

namespace Sys2Proof.Machine

/-! ### What an instance keeps while firings are recorded -/

/-- The uncommitted instance of a domain in a frame of a region. -/
def Region.inst? (r : Region) (frm dom : Nat) : Option Inst := (r.frames[frm]?).bind fun fr => fr.insts.find? fun i => i.dom == dom

theorem State.inst?_eq (s : State) (ctx rgn frm dom : Nat) : s.inst? ctx rgn frm dom = (s.region? ctx rgn).bind (·.inst? frm dom) := by
  rw [State.inst?]
  cases s.region? ctx rgn with
  | none => rfl
  | some r =>
    dsimp only [Option.bind_some, Region.inst?]
    cases r.frames[frm]? <;> rfl

theorem State.frameBlock_eq (s : State) (ctx rgn frm : Nat) :
    s.frameBlock ctx rgn frm = (s.region? ctx rgn).bind fun r => (r.frames[frm]?).bind (·.block) := by
  rw [State.frameBlock]
  cases s.region? ctx rgn with
  | none => rfl
  | some r =>
    dsimp only [Option.bind_some]
    cases r.frames[frm]? <;> rfl

theorem Region.inst?_still (r : Region) (frm dom : Nat) : r.still.inst? frm dom = (r.inst? frm dom).map Inst.unfired := by
  simp only [Region.inst?, Region.still_eq, List.getElem?_map]
  cases r.frames[frm]? with
  | none => rfl
  | some fr => simp [List.find?_map, Function.comp_def, Inst.unfired]

section
variable {s t : State} {ctx rgn : Nat} (h : (t.region? ctx rgn).map Region.still = (s.region? ctx rgn).map Region.still)
include h

/-- What the quiet part of a region tells is kept with it. -/
theorem still_part {α : Type} (k : Region → α) : (t.region? ctx rgn).map (k ∘ Region.still) = (s.region? ctx rgn).map (k ∘ Region.still) := by
  rw [← Option.map_map, h, Option.map_map]

theorem inst?_unfired_of_still (frm dom : Nat) :
    (t.inst? ctx rgn frm dom).map Inst.unfired = (s.inst? ctx rgn frm dom).map Inst.unfired := by
  have hmap : ∀ u : State, (u.inst? ctx rgn frm dom).map Inst.unfired =
      ((u.region? ctx rgn).map Region.still).bind (·.inst? frm dom) := fun u => by
    rw [State.inst?_eq]
    cases u.region? ctx rgn with
    | none => rfl
    | some r => exact (r.inst?_still frm dom).symm
  rw [hmap, hmap, h]

theorem inst?_branch_of_still (frm dom : Nat) : (t.inst? ctx rgn frm dom).map (·.branch) = (s.inst? ctx rgn frm dom).map (·.branch) := by
  have hmap := congrArg (Option.map Inst.branch) (inst?_unfired_of_still h frm dom)
  simpa [Option.map_map, Function.comp_def, Inst.unfired] using hmap

theorem starts_of_still : (t.region? ctx rgn).map (·.starts) = (s.region? ctx rgn).map (·.starts) := still_part h Region.starts

theorem frameBlock_of_still (frm : Nat) : t.frameBlock ctx rgn frm = s.frameBlock ctx rgn frm := by
  have hmap : ∀ u : State, u.frameBlock ctx rgn frm =
      ((u.region? ctx rgn).map Region.still).bind fun r => (r.frames[frm]?).bind (·.block) := fun u => by
    rw [State.frameBlock_eq]
    cases u.region? ctx rgn with
    | none => rfl
    | some r =>
      simp only [Option.map_some, Option.bind_some, Region.still_eq, List.getElem?_map]
      cases r.frames[frm]? <;> rfl
  rw [hmap, hmap, h]

end

/-! ### Changes of an instance -/

/-- A change of an instance that keeps its domain is what is found under the domain. -/
theorem find?_map_dom (insts : List Inst) (dom : Nat) {g : Inst → Inst} (hg : ∀ i, (g i).dom = i.dom) :
    (insts.map fun i => if i.dom = dom then g i else i).find? (fun i => i.dom == dom) =
      (insts.find? fun i => i.dom == dom).map g := by
  have hkeep : ∀ i : Inst, (if i.dom = dom then g i else i).dom = i.dom := fun i => by
    split
    · exact hg i
    · rfl
  rw [List.find?_map]
  simp only [Function.comp_def, hkeep]
  cases hfind : insts.find? fun i => i.dom == dom with
  | none => rfl
  | some i => simp [show i.dom = dom by simpa using List.find?_some hfind]

theorem modInst_inst {g : Inst → Inst} (hg : ∀ i, (g i).dom = i.dom) (ctx rgn frm dom : Nat) (s : State) :
    ((modInst ctx rgn frm dom g).exec s).inst? ctx rgn frm dom = (s.inst? ctx rgn frm dom).map g := by
  rw [State.inst?_eq, State.inst?_eq, modInst, modFrame_region]
  cases s.region? ctx rgn with
  | none => rfl
  | some r =>
    simp only [Option.map_some, Option.bind_some, Region.inst?, List.getElem?_modify_eq]
    cases r.frames[frm]? with
    | none => rfl
    | some fr => exact find?_map_dom fr.insts dom hg

theorem modInst_starts (g : Inst → Inst) (ctx rgn frm dom : Nat) (s : State) :
    (((modInst ctx rgn frm dom g).exec s).region? ctx rgn).map (·.starts) = (s.region? ctx rgn).map (·.starts) := by
  rw [modInst, modFrame_region, Option.map_map]
  rfl

/-! ### Taking a branch (R116, R238, R242) -/

section
variable {u : State} {f : Firing}

/-- The branch of a firing's instance. -/
def State.branch? (t : State) (f : Firing) : Option Branch := (t.inst? f.ctx f.rgn f.frm (tagDomain f.tag)).map (·.branch)

/-- The start requests that wait at the sequencer of a firing's region. -/
def State.starts? (t : State) (f : Firing) : Option (List StartReq) := (t.region? f.ctx f.rgn).map (·.starts)

theorem modInst_branch (b : Branch) : ((modInst f.ctx f.rgn f.frm (tagDomain f.tag) fun i => { i with branch := b }).exec u).branch? f =
    (u.branch? f).map fun _ => b := by
  rw [State.branch?, modInst_inst (g := fun i => { i with branch := b }) (fun _ => rfl), State.branch?, Option.map_map, Option.map_map]
  rfl

variable {b : Branch} (hbranch : u.branch? f = some b)
include hbranch

/-- A branch that ends the activation has no successor. -/
theorem takeBranch_ends : ((takeBranch f none).exec u).branch? f = some (.taken none) ∧
    ((takeBranch f none).exec u).starts? f = u.starts? f :=
  ⟨(modInst_branch _).trans (by rw [hbranch]; rfl), modInst_starts ..⟩

/-- Any other asks for the start of its successor, two cycles later. -/
theorem takeBranch_goes {l : List StartReq} (hstarts : u.starts? f = some l) (dst : Nat) :
    let t := (takeBranch f (some dst)).exec u
    t.branch? f = some (.taken (some dst)) ∧
      t.starts? f = some (l ++ [⟨u.now + 2, dst, tagDomain f.tag, u.serial, some f, []⟩]) ∧
      t.due (u.now + 2) (.blockStart f.ctx f.rgn) := by
  let marked := (modInst f.ctx f.rgn f.frm (tagDomain f.tag) fun i => { i with branch := .taken (some dst) }).exec u
  let req : StartReq := ⟨u.now + 2, dst, tagDomain f.tag, u.serial, some f, []⟩
  let asked := (modRegion f.ctx f.rgn fun r => { r with starts := r.starts ++ [req] }).exec marked
  have hregion : asked.region? f.ctx f.rgn = (marked.region? f.ctx f.rgn).map fun r => { r with starts := r.starts ++ [req] } :=
    modRegion_region_self ..
  refine ⟨?branch, ?starts, after_due _ _ _⟩
  case branch =>
    have hmarked : marked.branch? f = some (.taken (some dst)) := (modInst_branch _).trans (by rw [hbranch]; rfl)
    rw [← hmarked]
    change (asked.inst? ..).map _ = (marked.inst? ..).map _
    rw [State.inst?_eq, State.inst?_eq, hregion]
    cases marked.region? f.ctx f.rgn <;> rfl
  case starts =>
    change (asked.region? ..).map _ = _
    obtain ⟨x, hx, hxs⟩ := Option.map_eq_some_iff.1 ((modInst_starts ..).trans hstarts : marked.starts? f = some l)
    rw [hregion, hx]
    exact congrArg (fun l => some (l ++ [req])) hxs

end

/-! ### Branch nodes -/

section
variable {s : State} {f : Firing} {h : Hdr} {k : Nat → Cmd} (ho : f.ordinary h.pred)

theorem markFired_region_still (f : Firing) (s : State) (ctx rgn : Nat) :
    (((markFired f).exec s).region? ctx rgn).map Region.still = (s.region? ctx rgn).map Region.still :=
  (markFired_nodeFrame f s).regions ctx rgn

theorem markFired_branch? : ((markFired f).exec s).branch? f = s.branch? f := inst?_branch_of_still (markFired_region_still ..) ..

theorem markFired_starts? : ((markFired f).exec s).starts? f = s.starts? f := starts_of_still (markFired_region_still ..)

theorem markFired_blockOf : ((markFired f).exec s).blockOf f = s.blockOf f := frameBlock_of_still (markFired_region_still ..) _

theorem markFired_act? (dom : Nat) : ((markFired f).exec s).act? f.ctx dom = s.act? f.ctx dom := by
  rw [State.act?_eq, markFired_ctx, State.act?_eq]
  cases s.ctx? f.ctx <;> rfl

include ho

/-- The first branch of an instance, under its instance tag, runs with the block's base. -/
theorem branchNode_first {b : Block} (htag : f.tag = instTag (tagDomain f.tag)) (hbranch : s.branch? f = some .none)
    (hblock : s.blockOf f = some b) : (branchNode f h k).exec s = (k b.addr).exec ((markFired f).exec s) := by
  have hfired : { f with tag := instTag (tagDomain f.tag) } = f := by rw [← htag]
  have hsame : (f.tag != instTag (tagDomain f.tag)) = false := by rw [bne_eq_false_iff_eq]; exact htag
  obtain ⟨i, hi, hib⟩ := Option.map_eq_some_iff.1 (markFired_branch?.trans hbranch)
  simp only [branchNode, sinkNode, Cmd.exec_seq, hfired, if_true, ho.1, ho.2, hsame, Bool.and_false, Bool.false_eq_true, if_false,
    Cmd.exec_get, hi, hib, markFired_blockOf.trans hblock, bne_self_eq_false]

/-- A branch under another tag, or of an instance that has branched, is fault ILLEGAL. -/
theorem branchNode_faults (hbad : f.tag ≠ instTag (tagDomain f.tag) ∨ ∃ b, s.branch? f = some b ∧ b ≠ .none) :
    (branchNode f h k).exec s = (sinkFault f causeIllegal).exec ((markFired { f with tag := instTag (tagDomain f.tag) }).exec s) := by
  by_cases htag : f.tag = instTag (tagDomain f.tag)
  · obtain ⟨b, hbranch, hb⟩ := hbad.resolve_left (not_not.2 htag)
    have hfired : { f with tag := instTag (tagDomain f.tag) } = f := by rw [← htag]
    have hsame : (f.tag != instTag (tagDomain f.tag)) = false := by rw [bne_eq_false_iff_eq]; exact htag
    obtain ⟨i, hi, rfl⟩ := Option.map_eq_some_iff.1 (markFired_branch?.trans hbranch)
    simp only [branchNode, sinkNode, Cmd.exec_seq, hfired, if_true, ho.1, ho.2, hsame, Bool.and_false, Bool.false_eq_true, if_false,
      Cmd.exec_get, hi, bne_iff_ne.2 hb]
  · have hother : (f.tag != instTag (tagDomain f.tag)) = true := bne_iff_ne.2 htag
    simp only [branchNode, sinkNode, Cmd.exec_seq, if_true, ho.1, hother, Bool.and_self]

end

/-! ### Faults of a node without destinations (R108) -/

theorem sinkFault_blockFrame (f : Firing) (cause : Nat) : (sinkFault f cause).Within (BlockFrame id Ctx.unrecorded) :=
  Cmd.within_get fun s => Cmd.within_seq (BlockFrame.chains _ _) (modElem_blockFrame _ _) (writeRecord_blockFrame _) s

theorem sinkFault_frame (f : Firing) (cause : Nat) : (sinkFault f cause).Within (FaultFrame Element.uncaptured) :=
  Cmd.within_get fun s => Cmd.within_seq (FaultFrame.chains _) (foldCapture_frame _) (fun t => (writeRecord_aside _ t).faultFrame _) s

/-- The record of the fault stands in the ring of the firing's context. -/
theorem sinkFault_records {s : State} {f : Firing} {x : Ctx} (cause : Nat) (hx : s.ctx? f.ctx = some x) (hroom : x.ring.length < 64) :
    s.recordAt f cause ∈ ((((sinkFault f cause).exec s).ctx? f.ctx).map (·.ring)).getD [] :=
  writeRecord_mem_ring (s := (foldCapture f.sid).exec s) rfl hx hroom

theorem branchFaults : Claims.BranchFaults := by
  intro s f x ho hx hroom c dom hbad j hj
  obtain ⟨k, hk⟩ : ∃ k, exec j s = (branchNode c f.toHdr k).next s := by
    simp only [List.mem_cons, List.not_mem_nil, or_false] at hj
    rcases hj with rfl | rfl | rfl | rfl <;> exact ⟨_, rfl⟩
  let c' : Firing := { c with tag := instTag dom }
  let u := (markFired c').exec s
  have hu : u.ctx? c.ctx = some { x with lastProgress := s.now } := markFired_ctx_some (f := c') hx
  refine ⟨_, hk, ?_⟩
  rw [branchNode_faults ho (hbad.imp_right fun ⟨i, hi, hb⟩ => ⟨_, congrArg (Option.map Inst.branch) hi, hb⟩)]
  refine ⟨fun e => ?outs, ?branch, u.recordAt c causeIllegal, sinkFault_records causeIllegal hu hroom, rfl, rfl, rfl⟩
  case outs =>
    have := ((sinkFault_frame c causeIllegal u).comp Element.outs).elem e
    exact this
  case branch =>
    rw [State.inst?_eq, (sinkFault_blockFrame c causeIllegal u).region_eq, ← State.inst?_eq]
    exact inst?_branch_of_still (markFired_region_still c' s c.ctx c.rgn) c.frm dom

/-! ### The rows -/

section
variable {s : State} {f : PlumbNode} {b : Block} {a : Act} {l : List StartReq} (ho : s.cur.ordinary f.pred)
  (htag : s.cur.tag = instTag (tagDomain s.cur.tag)) (hbranch : s.branch? s.cur = some .none) (hblock : s.blockOf s.cur = some b)
  (hstarts : s.starts? s.cur = some l) (hact : s.act? s.cur.ctx (tagDomain s.cur.tag) = some a)

/-- A branch to `dst`: the instance's successor, the request for its start, and the link stack of its activation. -/
structure BranchesTo (s t : State) (f : Firing) (l : List StartReq) (dst : Nat) (link : List Nat) : Prop where
  branch : t.branch? f = some (.taken (some dst))
  starts : t.starts? f = some (l ++ [⟨s.now + 2, dst, tagDomain f.tag, s.serial, some f, []⟩])
  due : t.due (s.now + 2) (.blockStart f.ctx f.rgn)
  link : (t.act? f.ctx (tagDomain f.tag)).map (·.link) = some link

/-- A branch once the firing is recorded, after a change of the link stack. -/
theorem takeBranch_branchesTo {u : State} {link : List Nat} (hu : u.branch? s.cur = some .none) (hl : u.starts? s.cur = some l)
    (hnow : u.now = s.now) (hserial : u.serial = s.serial)
    (hlink : (u.act? s.cur.ctx (tagDomain s.cur.tag)).map (·.link) = some link) (dst : Nat) :
    BranchesTo s ((takeBranch s.cur (some dst)).exec u) s.cur l dst link := by
  obtain ⟨hb, hs, hd⟩ := takeBranch_goes hu hl dst
  rw [hnow] at hs hd
  rw [hserial] at hs
  exact ⟨hb, hs, hd, hlink⟩

include ho htag hbranch hblock in
theorem branch_answers {i : Instr} {k : Nat → Cmd} (hexec : exec i s = (branchNode s.cur f.toHdr k).next s) {P : State → Prop}
    (hP : P ((k b.addr).exec ((markFired s.cur).exec s))) : Answers i s P :=
  ⟨_, hexec, by rwa [branchNode_first ho htag hbranch hblock]⟩

include ho htag hbranch hblock hstarts hact

/-- A branch that leaves the link stack alone. -/
theorem branch_goes {i : Instr} {k : Nat → Cmd} {dst : Nat} (hexec : exec i s = (branchNode s.cur f.toHdr k).next s)
    (hk : k b.addr = takeBranch s.cur (some dst)) : Answers i s fun t => BranchesTo s t s.cur l dst a.link :=
  branch_answers ho htag hbranch hblock hexec (hk ▸ takeBranch_branchesTo (markFired_branch?.trans hbranch)
    (markFired_starts?.trans hstarts) (markFired_now ..) (markFired_serial ..) (by rw [markFired_act?, hact]; rfl) dst)

omit ho htag hblock in
/-- A branch after a change of the link stack. -/
theorem modAct_branchesTo (g : Act → Act) (dst : Nat) :
    BranchesTo s ((takeBranch s.cur (some dst)).exec ((modAct s.cur.ctx (tagDomain s.cur.tag) g).exec ((markFired s.cur).exec s)))
      s.cur l dst (g a).link := by
  let u := (modAct s.cur.ctx (tagDomain s.cur.tag) g).exec ((markFired s.cur).exec s)
  have hlink : (u.act? s.cur.ctx (tagDomain s.cur.tag)).map (·.link) = some (g a).link := by
    rw [modAct_act, markFired_act?, hact]
    rfl
  exact takeBranch_branchesTo (u := u) (markFired_branch?.trans hbranch) (markFired_starts?.trans hstarts) (markFired_now s.cur s)
    (markFired_serial s.cur s) hlink dst

/-- CALLB pushes the address of the block after the current one (R118). -/
theorem callb_goes (hdepth : a.link.length < 8) : Answers (.callb f) s fun t =>
    BranchesTo s t s.cur l (blockTarget b.addr f.lit.toInt) (blockAfter b.addr b.nodes.length :: a.link) := by
  refine branch_answers ho htag hbranch hblock rfl ?_
  simp only [Cmd.exec_get, (markFired_act? _).trans hact, markFired_blockOf.trans hblock, hdepth.not_ge, if_false, Cmd.exec_seq]
  exact modAct_branchesTo hbranch hstarts hact _ _

/-- RETB pops the address that it branches to (R118). -/
theorem retb_goes {top : Nat} {rest : List Nat} (hlink : a.link = top :: rest) : Answers (.retb f) s fun t =>
    BranchesTo s t s.cur l top rest := by
  refine branch_answers ho htag hbranch hblock rfl ?_
  simp only [Cmd.exec_get, (markFired_act? _).trans hact, hlink, Cmd.exec_seq]
  exact modAct_branchesTo hbranch hstarts hact _ _

omit hstarts in
/-- RETB of an empty link stack ends the chain (R118). -/
theorem retb_ends (hlink : a.link = []) : Answers (.retb f) s fun t => t.branch? s.cur = some (.taken none) := by
  refine branch_answers ho htag hbranch hblock rfl ?_
  simp only [Cmd.exec_get, (markFired_act? _).trans hact, hlink, Cmd.exec_seq]
  have hregions := sinkFault_blockFrame s.cur causeIllegal ((markFired s.cur).exec s)
  have hkept : ((sinkFault s.cur causeIllegal).exec ((markFired s.cur).exec s)).branch? s.cur = some .none := by
    rw [← markFired_branch?.trans hbranch, State.branch?, State.branch?, State.inst?_eq, State.inst?_eq, hregions.region_eq]
  exact (takeBranch_ends hkept).1

end

theorem branchRows : Claims.BranchRows := by
  intro s f i b a r ho c dom inst link starts goes at_ htag hi hib hblock hr hact
  have hbranch : s.branch? c = some .none := (congrArg (Option.map Inst.branch) hi).trans (congrArg some hib)
  have hstarts : s.starts? c = some r.starts := congrArg (Option.map Region.starts) hr
  have hgoes : ∀ {t dst stack}, BranchesTo s t c r.starts dst stack → goes t dst ∧ link t = some stack :=
    fun h => ⟨⟨h.branch, h.starts, h.due⟩, h.link⟩
  have hto : ∀ {j dst stack}, (Answers j s fun t => BranchesTo s t c r.starts dst stack) →
      Answers j s fun t => goes t dst ∧ link t = some stack := fun ⟨t, hexec, h⟩ => ⟨t, hexec, hgoes h⟩
  refine ⟨fun hsub => hto (branch_goes ho htag hbranch hblock hstarts hact rfl ?br), fun hsub => ?brEnds,
    hto (branch_goes ho htag hbranch hblock hstarts hact rfl rfl),
    fun hdepth => hto (callb_goes ho htag hbranch hblock hstarts hact hdepth),
    fun top rest hlink => hto (retb_goes ho htag hbranch hblock hstarts hact hlink),
    fun hlink => retb_ends ho htag hbranch hblock hact hlink⟩
  case br => exact congrArg (takeBranch c) (if_neg hsub)
  case brEnds =>
    refine branch_answers ho htag hbranch hblock rfl ?_
    rw [if_pos hsub]
    obtain ⟨hends, hkeeps⟩ := takeBranch_ends (markFired_branch?.trans hbranch)
    exact ⟨hends, hkeeps.trans (markFired_starts?.trans hstarts)⟩

/-- Settles O12: the first branch of an instance runs with its block's base and takes its successor; a branch under another tag or a
second one is a fault of the node, which changes no instance. -/
theorem branchNodes : Obligations.BranchNodes := ⟨branchRows, branchFaults⟩

end Sys2Proof.Machine

/-! ## Commits and the global file (R114, R115, R239 to R241, R254) -/

namespace Sys2Proof.Machine

/-! ### What ends with an instance -/

/-- The global file of a context. -/
def Ctx.file (c : Ctx) : Tbl W64 × Tbl W512 := (c.globals, c.vglobals)

/-- Between two states the fabric, the cycle, the global files and the frames of every region are the same, and no due task is
lost. -/
structure CommitFrame (s t : State) : Prop extends Aside Ctx.file s t where
  frames : ∀ c r, (t.region? c r).map (·.frames) = (s.region? c r).map (·.frames)

theorem CommitFrame.chains : Chains CommitFrame where
  refl s := ⟨(Aside.chains _).refl s, fun _ _ => rfl⟩
  trans a b := ⟨(Aside.chains _).trans a.toAside b.toAside, fun c r => (b.frames c r).trans (a.frames c r)⟩

theorem after_commitFrame (n : Nat) (i : Instr) : (after n i).Within CommitFrame := fun s =>
  ⟨(after_aside n i s).part _, fun _ _ => rfl⟩

theorem modCtx_commitFrame {c : Nat} {f : Ctx → Ctx} (hf : ∀ x, (f x).file = x.file := by exact fun _ => rfl) :
    (modCtx c f).Within CommitFrame := fun s => ⟨modCtx_aside hf s, fun _ _ => rfl⟩

theorem modRegion_commitFrame {ctx rgn : Nat} {f : Region → Region} (hf : ∀ r, (f r).frames = r.frames := by exact fun _ => rfl) :
    (modRegion ctx rgn f).Within CommitFrame := fun s =>
  ⟨(modRegion_aside ctx rgn f s).part _, (modRegion_blockFrame (g := Ctx.blank) hf s).region⟩

theorem freeHitches_commitFrame (ctx rgn : Nat) : (freeHitches ctx rgn).Within CommitFrame :=
  Cmd.within_get fun s => modRegion_commitFrame (s := s)

theorem endActs_commitFrame (ctx rgn : Nat) (gone : W64 → Bool) : (endActs ctx rgn gone).Within CommitFrame :=
  Cmd.within_seq CommitFrame.chains modCtx_commitFrame modRegion_commitFrame

/-- The end of an activation (R233) touches neither the global file nor a frame. -/
theorem endActivation_commitFrame (ctx rgn dom : Nat) : (endActivation ctx rgn dom).Within CommitFrame := by
  refine Cmd.within_all CommitFrame.chains ?_
  simp only [List.forall_mem_cons, List.not_mem_nil, false_imp_iff, implies_true, and_true]
  exact ⟨modCtx_commitFrame, endActs_commitFrame _ _ _, freeHitches_commitFrame _ _, after_commitFrame _ _, after_commitFrame _ _⟩

/-- Its domain returns to the pool at once. -/
theorem endActivation_due (ctx rgn dom : Nat) (s : State) : ((endActivation ctx rgn dom).exec s).due s.now (.domainFree ctx dom) := by
  let freed := Cmd.seq (modCtx ctx fun c => { c with acts := c.acts.del dom })
    (.seq (endActs ctx rgn fun a => tagDomain a == dom) (freeHitches ctx rgn))
  have hfreed : freed.Within CommitFrame := Cmd.within_seq CommitFrame.chains modCtx_commitFrame
    (Cmd.within_seq CommitFrame.chains (endActs_commitFrame _ _ _) (freeHitches_commitFrame _ _))
  have hdue := after_due 0 (.domainFree ctx dom) (freed.exec s)
  rw [(hfreed s).now] at hdue
  exact (after_aside 0 (.replicaGone ctx rgn) _).agenda _ hdue

/-! ### INSTANCE_COMMIT (R239 to R241) -/

section
variable (ctx rgn frm dom : Nat)

/-- An instance leaves its frame. -/
def leaveFrame : Cmd := modFrame ctx rgn frm fun f => { f with insts := f.insts.filter fun m => m.dom != dom }

/-- Whether the activation of an instance ends with it. -/
def Inst.isLast (i : Inst) : Bool := match i.branch with | .none | .taken none => true | .taken (some _) => false

/-- What a commit leaves to others: the end of the activation, the other instances of the activation, and what waits for a frame. -/
def announceCommit (r : Region) (i : Inst) : Cmd := .all [
  .when i.isLast (endActivation ctx rgn dom),
  Cmd.each (r.frames.zipIdx.filter fun (f, k) => k != frm && f.insts.any fun m => m.dom == dom) fun (_, k) => tryCommit ctx rgn k dom,
  after 0 (.blockStart ctx rgn),
  after 0 (.replicaGone ctx rgn)]

variable {ctx rgn frm dom}

theorem announceCommit_commitFrame (r : Region) (i : Inst) : (announceCommit ctx rgn frm dom r i).Within CommitFrame := by
  refine Cmd.within_all CommitFrame.chains ?_
  simp only [List.forall_mem_cons, List.not_mem_nil, false_imp_iff, implies_true, and_true]
  exact ⟨Cmd.within_when CommitFrame.chains fun _ => endActivation_commitFrame _ _ _,
    Cmd.within_each CommitFrame.chains fun _ _ => after_commitFrame _ _, after_commitFrame _ _, after_commitFrame _ _⟩

theorem announceCommit_blockStart (r : Region) (i : Inst) (s : State) :
    ((announceCommit ctx rgn frm dom r i).exec s).due s.now (.blockStart ctx rgn) := by
  let told := Cmd.seq (.when i.isLast (endActivation ctx rgn dom))
    (Cmd.each (r.frames.zipIdx.filter fun (f, k) => k != frm && f.insts.any fun m => m.dom == dom) fun (_, k) => tryCommit ctx rgn k dom)
  have htold : told.Within CommitFrame := Cmd.within_seq CommitFrame.chains
    (Cmd.within_when CommitFrame.chains fun _ => endActivation_commitFrame _ _ _)
    (Cmd.within_each CommitFrame.chains fun _ _ => after_commitFrame _ _)
  have hdue := after_due 0 (.blockStart ctx rgn) (told.exec s)
  rw [(htold s).now] at hdue
  exact (after_aside 0 (.replicaGone ctx rgn) _).agenda _ hdue

theorem announceCommit_domainFree (r : Region) {i : Inst} (hlast : i.isLast = true) (s : State) :
    ((announceCommit ctx rgn frm dom r i).exec s).due s.now (.domainFree ctx dom) := by
  have hrest : (Cmd.seq (Cmd.each (r.frames.zipIdx.filter fun (f, k) => k != frm && f.insts.any fun m => m.dom == dom)
      fun (_, k) => tryCommit ctx rgn k dom) (.seq (after 0 (.blockStart ctx rgn)) (after 0 (.replicaGone ctx rgn)))).Within
      CommitFrame := Cmd.within_seq CommitFrame.chains (Cmd.within_each CommitFrame.chains fun _ _ => after_commitFrame _ _)
    (Cmd.within_seq CommitFrame.chains (after_commitFrame _ _) (after_commitFrame _ _))
  have hdue := endActivation_due ctx rgn dom s
  rw [← Cmd.exec_when_true (endActivation ctx rgn dom), ← hlast] at hdue
  exact (hrest _).agenda _ hdue

/-- An instance that has left its frame is found there no more. -/
theorem leaveFrame_inst (s : State) : ((leaveFrame ctx rgn frm dom).exec s).inst? ctx rgn frm dom = none := by
  rw [State.inst?_eq, leaveFrame, modFrame_region]
  cases s.region? ctx rgn with
  | none => rfl
  | some r =>
    simp only [Option.map_some, Option.bind_some, Region.inst?, List.getElem?_modify_eq]
    cases r.frames[frm]? with
    | none => rfl
    | some fr => simp [List.find?_eq_none]

/-- The instance of a domain depends on the frames of its region alone. -/
theorem CommitFrame.inst {s t : State} (h : CommitFrame s t) : t.inst? ctx rgn frm dom = s.inst? ctx rgn frm dom := by
  have hmap : ∀ u : State, u.inst? ctx rgn frm dom =
      ((u.region? ctx rgn).map (·.frames)).bind fun fs => (fs[frm]?).bind fun fr => fr.insts.find? fun i => i.dom == dom := fun u => by
    rw [State.inst?_eq]
    cases u.region? ctx rgn <;> rfl
  rw [hmap, hmap, h.frames]

end

section
variable {s : State} {ctx rgn frm dom : Nat} {r : Region} {i : Inst} {f : Frame} {b : Block}
  (hr : s.region? ctx rgn = some r) (hi : s.inst? ctx rgn frm dom = some i) (hf : r.frames[frm]? = some f) (hb : f.block = some b)
  (hstopped : r.stopped = false) (hready : s.commitReady ctx rgn frm dom r b i = true)
include hr hi hf hb hstopped hready

/-- An instance that is ready to commit applies its WRITEs, leaves its frame and is announced. -/
theorem exec_instanceCommit : exec (.instanceCommit ctx rgn frm dom) s = .next ((announceCommit ctx rgn frm dom r i).exec
    ((leaveFrame ctx rgn frm dom).exec ((Cmd.each (i.writes.foldl insertWrite []) (applyWrite ctx)).exec s))) := by
  change execInstanceCommit ctx rgn frm dom s = _
  simp only [execInstanceCommit, hr, hi, frames_getD_of_getElem? hf, hb, hstopped, hready]
  rfl

/-- What holds of the state that the announcement leaves holds of the answer. -/
theorem instanceCommit_answers {P : State → Prop}
    (h : P ((announceCommit ctx rgn frm dom r i).exec
      ((leaveFrame ctx rgn frm dom).exec ((Cmd.each (i.writes.foldl insertWrite []) (applyWrite ctx)).exec s)))) :
    Answers (.instanceCommit ctx rgn frm dom) s P :=
  ⟨_, exec_instanceCommit hr hi hf hb hstopped hready, h⟩

end

/-! ### What a commit leaves in the global file (R115, R240) -/

theorem applyWrites_now (ctx : Nat) (ws : List WriteHold) (s : State) : ((Cmd.each ws (applyWrite ctx)).exec s).now = s.now :=
  Cmd.keep_each (fun _ s => Cmd.keep_when (fun _ => rfl) s) s

section
variable {s : State} {ctx rgn frm dom : Nat} {r : Region} {i : Inst}

/-- The commit leaves the global file as the WRITEs made it. -/
theorem commit_file :
    (((announceCommit ctx rgn frm dom r i).exec ((leaveFrame ctx rgn frm dom).exec s)).ctx? ctx).map Ctx.file =
      (s.ctx? ctx).map Ctx.file :=
  (announceCommit_commitFrame r i _).ctx ctx

/-- What a WRITE's register holds, as 512 bits. -/
def WriteHold.held (w : WriteHold) (file : Tbl W64 × Tbl W512) : W512 :=
  if w.vec then file.2.getD (w.reg % 32) 0 else (file.1.getD w.reg 0).setWidth 512

/-- A WRITE of a value that is not null leaves it in its register. -/
theorem applyWrite_held {w : WriteHold} {c : Ctx} (hc : s.ctx? ctx = some c) (hw : w.val.isNull = false) :
    ((((applyWrite ctx w).exec s).ctx? ctx).map Ctx.file).map w.held =
      some (if w.vec then w.val.wide else w.val.word.setWidth 512) := by
  rw [applyWrite, hw, Bool.not_false, Cmd.exec_when_true, modCtx_ctx_self, hc]
  cases hv : w.vec <;> simp [hv, Ctx.file, WriteHold.held]

end

/-- An instance that is ready to commit applies its WRITEs, leaves its frame and, without a successor, ends its activation. -/
theorem instanceCommit_commits {s : State} {ctx rgn frm dom : Nat} {c : Ctx} {r : Region} {i : Inst} {f : Frame} {b : Block}
    (hc : s.ctx? ctx = some c) (hr : s.region? ctx rgn = some r) (hi : s.inst? ctx rgn frm dom = some i)
    (hf : r.frames[frm]? = some f) (hb : f.block = some b) (hstopped : r.stopped = false)
    (hready : s.commitReady ctx rgn frm dom r b i = true) :
    Answers (.instanceCommit ctx rgn frm dom) s fun t => t.inst? ctx rgn frm dom = none ∧ t.due s.now (.blockStart ctx rgn) ∧
      (∀ w, i.writes = [w] → w.val.isNull = false →
        ((t.ctx? ctx).map Ctx.file).map w.held = some (if w.vec then w.val.wide else w.val.word.setWidth 512)) ∧
      (i.writes = [] → (t.ctx? ctx).map Ctx.file = some c.file) ∧
      ((i.branch = .none ∨ i.branch = .taken none) → t.due s.now (.domainFree ctx dom)) := by
  let u := (leaveFrame ctx rgn frm dom).exec ((Cmd.each (i.writes.foldl insertWrite []) (applyWrite ctx)).exec s)
  have hnow : u.now = s.now := applyWrites_now ctx _ s
  refine instanceCommit_answers hr hi hf hb hstopped hready ⟨?_, ?_, fun w hone hw => ?_, fun hnone => ?_, fun hlast => ?_⟩
  · rw [(announceCommit_commitFrame r i u).inst]
    exact leaveFrame_inst _
  · exact hnow ▸ announceCommit_blockStart r i u
  · rw [commit_file, hone]
    exact applyWrite_held hc hw
  · rw [commit_file, hnone]
    exact congrArg (Option.map Ctx.file) hc
  · have hends : i.isLast = true := by rcases hlast with h | h <;> simp [Inst.isLast, h]
    exact hnow ▸ announceCommit_domainFree r hends u

/-! ### READ (R114, R254) -/

section
variable {s : State} {rq : Nat} {q : GlobalRead} {c : Ctx} (hq : s.run.reads.get? rq = some q) (hc : s.ctx? q.f.ctx = some c)
include hq hc

/-- A READ that no earlier WRITE holds up sends the register. -/
theorem globalReadServe_sends (hpending : s.writePending q.f q.reg q.vec = false) :
    Answers (.globalReadServe rq) s fun t => Sends s t q.f q.h (if dieOf q.f.sid = c.homeDie then 4 else 30) q.f.tag
      (c.globalVal q.h.ty q.reg q.vec) (c.globalVal q.h.ty q.reg q.vec) := by
  refine ⟨_, show execGlobalReadServe rq s = _ from ?_, (emit_sends q.f q.h _ _ _ _).after (t :=
    (markFired q.f).exec ((Cmd.prim (.blocks fun r => { r with reads := r.reads.del rq })).exec s)) rfl rfl⟩
  simp only [execGlobalReadServe, hq, hc, hpending]
  rfl

/-- A READ that an earlier WRITE holds up looks again one cycle later. -/
theorem globalReadServe_waits (hpending : s.writePending q.f q.reg q.vec = true) :
    exec (.globalReadServe rq) s = .next ((after 1 (.globalReadServe rq)).exec s) := by
  change execGlobalReadServe rq s = _
  simp only [execGlobalReadServe, hq, hc, hpending]
  rfl

end

/-- Settles O30: what follows the WRITEs in a commit keeps the global file and loses no due task, so the WRITEs and the announcement
are read off separately. -/
theorem commitsAndReads : Obligations.CommitsAndReads := by
  refine ⟨fun s ctx rgn frm dom c r i f b hc hr hi hf hb hstopped hready => ?_, fun s rq q c hq hc => ⟨fun hp => ?_, fun hp => ?_⟩⟩
  · obtain ⟨t, ht, hgone, hstart, hone, hnone, hlast⟩ := instanceCommit_commits hc hr hi hf hb hstopped hready
    refine ⟨t, ht, hgone, hstart, fun w hw hv => ?_, hnone, hlast⟩
    rw [← hone w hw hv, Option.map_map]
    rfl
  · exact globalReadServe_sends hq hc hp
  · exact ⟨_, globalReadServe_waits hq hc hp, after_due 1 _ s, rfl, rfl⟩

end Sys2Proof.Machine

/-! ## Float rows (R138, R141 to R148) -/

namespace Sys2Proof.Machine

/-! ### The rows -/

section
variable {s : State} {f : CommonNode} {i : Instr} (ho : s.cur.ordinary f.pred)
include ho

/-- A row of the common overlay that is a node with flags computes its result. -/
theorem computeFlags_computes {g : Sig} {lat : Nat} {r : Val × Nat}
    (hexec : exec i s = (computeFlags s.cur f.toHdr g lat r).next s) : Computes i s f.toHdr lat r :=
  ⟨_, hexec, computeFlags_ordinary ho⟩

/-- A float row computes lane by lane under the context's FPCM and its own rounding mode. -/
theorem floatNode_computes {lat : Nat} {ops : List Val} {op : List Nat → Res}
    (hexec : exec i s = floatNode i f s lat ops fun _ _ _ => op) : Computes i s f.toHdr lat (laneResult f ops op) :=
  computeFlags_computes ho hexec

end

theorem floatRows : Claims.FloatRows := by
  intro s f ho m c r lat row a b k
  exact ⟨floatNode_computes ho rfl, floatNode_computes ho rfl, floatNode_computes ho rfl, floatNode_computes ho rfl,
    floatNode_computes ho rfl, floatNode_computes ho rfl, floatNode_computes ho rfl, floatNode_computes ho rfl,
    floatNode_computes ho rfl, floatNode_computes ho rfl, floatNode_computes ho rfl, floatNode_computes ho rfl,
    floatNode_computes ho rfl, floatNode_computes ho rfl, floatNode_computes ho rfl, floatNode_computes ho rfl,
    floatNode_computes ho rfl, floatNode_computes ho rfl, floatNode_computes ho rfl, floatNode_computes ho rfl,
    floatNode_computes ho rfl⟩

/-! ### FCMP (R138, R145) -/

/-- What FCMP decides of a lane. -/
def fcmpLane (f : CommonNode) (s : State) (xs : List Nat) : Bool × Nat :=
  fpCmp (Fmt.ofTy f.ty) (s.fpcm s.cur.ctx) f.rm.toNat (xs.getD 0 0) (xs.getD 1 0)

theorem exec_fcmp (f : CommonNode) (s : State) : exec (.fcmp f) s = compareNode (.fcmp f) f s 4 (fcmpLane f s) := rfl

/-- A lane that fits into 512 bits is in the vector what it is in the number. -/
theorem laneOf_ofNat {x w j : Nat} (hj : j < 512 / w) : laneOf (BitVec.ofNat 512 x).toNat w j = laneOf x w j := by
  have hfit : w * j + w ≤ 512 := by
    calc w * j + w = w * (j + 1) := rfl
      _ ≤ w * (512 / w) := Nat.mul_le_mul_left w hj
      _ ≤ 512 := Nat.mul_div_le 512 w
  refine Nat.eq_of_testBit_eq fun k => ?_
  simp only [laneOf, BitVec.toNat_ofNat, Nat.testBit_mod_two_pow, Nat.testBit_div_two_pow]
  by_cases hk : k < w
  · rw [decide_eq_true (show k + w * j < 512 by omega), Bool.true_and]
  · rw [decide_eq_false hk, Bool.false_and, Bool.false_and]

/-- A lane of a comparison is its mask, or 0 where it is disabled. -/
theorem laneMask_mod (w : Nat) (on b : Bool) : (if on then laneMask w b else 0) % 2 ^ w = if on && b then 2 ^ w - 1 else 0 := by
  have hall : (2 ^ w - 1) % 2 ^ w = 2 ^ w - 1 := Nat.mod_eq_of_lt (Nat.sub_lt (Nat.two_pow_pos w) Nat.one_pos)
  cases on <;> cases b <;> simp [laneMask, hall]

theorem floatCompareRow : Claims.FloatCompareRow := by
  intro s f ho w cmp a b
  refine ⟨fun hv => ?scalar, fun hv => ?vector⟩
  case scalar => exact computeFlags_computes ho ((exec_fcmp f s).trans (compareNode_scalar _ _ _ hv))
  case vector =>
    refine ⟨_, _, computeFlags_computes ho ((exec_fcmp f s).trans (compareNode_vector _ _ _ hv)), fun j hj => ?_⟩
    refine (laneOf_ofNat hj).trans ((evalLanes_lane hj).trans ?_)
    rw [laneRes_bits]
    exact laneMask_mod w _ _

/-! ### Encodings as numbers (R49) -/

/-- The mantissa of a finite encoding. -/
def Fmt.mant (f : Fmt) (a : Nat) : Nat := a % 2 ^ f.fbits + if a / 2 ^ f.fbits % 2 ^ f.ebits = 0 then 0 else 2 ^ f.fbits

/-- The exponent of a finite encoding's last place. -/
def Fmt.expo (f : Fmt) (a : Nat) : Int := (max (a / 2 ^ f.fbits % 2 ^ f.ebits) 1 : Nat) - f.bias - f.fbits

/-- An encoding without its sign is a finite magnitude. -/
def Fmt.isFinite (f : Fmt) (a : Nat) : Prop := a % 2 ^ (f.ebits + f.fbits) < f.infBits false

section
variable {f : Fmt} {a : Nat}

theorem Fmt.infBits_false (f : Fmt) : f.infBits false = f.expMax * 2 ^ f.fbits := by simp [Fmt.infBits, Fmt.signBit]

/-- The exponent field of an encoding lies below its sign. -/
theorem Fmt.exponent_eq (f : Fmt) (a : Nat) :
    a % 2 ^ (f.ebits + f.fbits) / 2 ^ f.fbits = a / 2 ^ f.fbits % 2 ^ f.ebits := by
  rw [Nat.add_comm, Nat.pow_add, Nat.mod_mul_right_div_self]

theorem Fmt.isFinite_iff : f.isFinite a ↔ a / 2 ^ f.fbits % 2 ^ f.ebits < f.expMax := by
  rw [Fmt.isFinite, Fmt.infBits_false, ← Nat.div_lt_iff_lt_mul (Nat.two_pow_pos _), Fmt.exponent_eq]

variable (ha : a < 2 ^ f.width)
include ha

/-- A finite encoding decodes to its sign, mantissa and exponent. -/
theorem Fmt.decode_of_finite (hfin : f.isFinite a) : f.decode a = .num (f.neg a) (f.mant a) (f.expo a) := by
  have hex := (Fmt.isFinite_iff.1 hfin).ne
  simp only [Fmt.decode, Nat.mod_eq_of_lt ha, hex, if_false, Fmt.mant, Fmt.expo, Fmt.neg]
  split
  next h0 => simp [h0, Fmt.emin]
  next h0 => rw [max_eq_left (Nat.one_le_iff_ne_zero.2 h0)]

/-- An encoding that is neither finite nor a NaN is an infinity. -/
theorem Fmt.decode_of_infinite (hfin : ¬ f.isFinite a) (hnan : f.isNan a = false) : f.decode a = .inf (f.neg a) := by
  have hlt : a / 2 ^ f.fbits % 2 ^ f.ebits < 2 ^ f.ebits := Nat.mod_lt _ (Nat.two_pow_pos _)
  have hex : a / 2 ^ f.fbits % 2 ^ f.ebits = f.expMax := by
    have hge := mt Fmt.isFinite_iff.2 hfin
    rw [Fmt.expMax] at hge ⊢
    omega
  simp only [Fmt.isNan, Fmt.decode, Nat.mod_eq_of_lt ha, hex, if_true] at hnan ⊢
  split
  next hfr => rfl
  next hfr => simp [hfr] at hnan

end

/-! ### Exact results are not changed by rounding (R51, R52) -/

/-- A mode whose random value, if it has one, is one of 32 bits (R52). -/
def Rm.inRange (r : Rm) : Prop := ∀ x, r = .sr x → x < 2 ^ 32

/-- A magnitude without a rest is not rounded up. -/
theorem roundUp_exact {r : Rm} (hr : r.inRange) (neg : Bool) (q : Nat) {den : Nat} (hden : 0 < den) : roundUp r neg q 0 den false = false := by
  cases r with
  | sr x =>
    have := hr x rfl
    simp [roundUp]
    omega
  | rne => simp [roundUp, hden.ne]
  | rna => simp [roundUp]; omega
  | rz | ru | rd => simp [roundUp]

/-- A multiple of 2^k is cut to an integer without a rest. -/
theorem shiftExp_exact (m k : Nat) : shiftExp (m * 2 ^ k) (-(k : Int)) = (m, 0, 2 ^ k) := by
  cases k with
  | zero => simp [shiftExp]
  | succ k =>
    have hneg : -((k + 1 : Nat) : Int) = Int.negSucc k := rfl
    rw [hneg]
    simp [shiftExp]

theorem log2_mul_two_pow {m : Nat} (hm : m ≠ 0) (k : Nat) : Nat.log2 (m * 2 ^ k) = Nat.log2 m + k := by
  induction k with
  | zero => simp
  | succ k ih =>
    rw [Nat.pow_succ, ← Nat.mul_assoc, Nat.mul_comm _ 2, Nat.log2_two_mul (Nat.mul_ne_zero hm (Nat.two_pow_pos k).ne'), ih]
    rfl

section
variable {f : Fmt} {a : Nat}

/-- The magnitude of an encoding, from its fields. -/
theorem Fmt.magnitude_eq (f : Fmt) (a : Nat) :
    a % 2 ^ (f.ebits + f.fbits) = a / 2 ^ f.fbits % 2 ^ f.ebits * 2 ^ f.fbits + a % 2 ^ f.fbits := by
  rw [← Fmt.exponent_eq, ← Nat.mod_mod_of_dvd a (Nat.pow_dvd_pow 2 (Nat.le_add_left f.fbits f.ebits)), Nat.div_add_mod']

theorem Fmt.mant_eq_zero_iff : f.mant a = 0 ↔ a % 2 ^ (f.ebits + f.fbits) = 0 := by
  rw [Fmt.magnitude_eq, Fmt.mant]
  split
  next h0 => simp [h0]
  next h0 => simp [h0]

/-- An encoding is its sign and its magnitude. -/
theorem Fmt.sign_add_magnitude (ha : a < 2 ^ f.width) : f.signBit (f.neg a) + a % 2 ^ (f.ebits + f.fbits) = a := by
  have hwidth : 2 ^ f.width = 2 * 2 ^ (f.ebits + f.fbits) := by rw [Fmt.width, Nat.add_assoc, Nat.pow_add, pow_one]
  have hlt : a / 2 ^ (f.ebits + f.fbits) < 2 := Nat.div_lt_of_lt_mul (by rwa [Nat.mul_comm, ← hwidth])
  have hneg : f.neg a = decide (a / 2 ^ (f.ebits + f.fbits) = 1) := by
    rw [Fmt.neg, Nat.testBit_eq_decide_div_mod_eq, Nat.mod_eq_of_lt hlt]
  have hdiv := Nat.div_add_mod' a (2 ^ (f.ebits + f.fbits))
  rcases Nat.le_one_iff_eq_zero_or_eq_one.1 (Nat.le_of_lt_succ hlt) with h | h <;> simpa [hneg, h, Fmt.signBit] using hdiv

/-- No place of a finite encoding lies below the last place of the smallest. -/
theorem Fmt.emin_sub_le_expo (f : Fmt) (a : Nat) : f.emin - f.fbits ≤ f.expo a := by
  rw [Fmt.emin, Fmt.expo]
  omega

/-- The leading bit of a finite encoding's value stands at the place that its exponent's last place leaves it (R49). -/
theorem Fmt.max_lead (h0 : f.mant a ≠ 0) : max (f.expo a + Nat.log2 (f.mant a)) f.emin - f.fbits = f.expo a := by
  have hfr : a % 2 ^ f.fbits < 2 ^ f.fbits := Nat.mod_lt _ (Nat.two_pow_pos _)
  by_cases hex : a / 2 ^ f.fbits % 2 ^ f.ebits = 0
  · have hlog : Nat.log2 (f.mant a) < f.fbits := (Nat.log2_lt h0).2 (by simpa [Fmt.mant, hex] using hfr)
    have hexpo : f.expo a = f.emin - f.fbits := by simp [Fmt.expo, hex, Fmt.emin]
    omega
  · have hlog : Nat.log2 (f.mant a) = f.fbits := by
      rw [Nat.log2_eq_iff h0, Fmt.mant, if_neg hex, Nat.pow_succ]
      omega
    have hexpo := f.emin_sub_le_expo a
    omega

/-- From the mantissa at its own exponent rounding puts the magnitude together again. -/
theorem Fmt.restore : (if f.mant a < 2 ^ f.fbits then f.mant a
    else (f.expo a - f.emin + f.fbits).toNat * 2 ^ f.fbits + f.mant a) = a % 2 ^ (f.ebits + f.fbits) := by
  have hfr : a % 2 ^ f.fbits < 2 ^ f.fbits := Nat.mod_lt _ (Nat.two_pow_pos _)
  rw [Fmt.magnitude_eq]
  by_cases hex : a / 2 ^ f.fbits % 2 ^ f.ebits = 0
  · simp [Fmt.mant, hex, hfr]
  · have hexpo : (f.expo a - f.emin + f.fbits).toNat + 1 = a / 2 ^ f.fbits % 2 ^ f.ebits := by
      rw [Fmt.expo, Fmt.emin]
      omega
    rw [Fmt.mant, if_neg hex, if_neg (by omega), ← hexpo, Nat.succ_mul]
    omega

/-- Rounding gives back a finite encoding from its own value, however far its mantissa is shifted. -/
theorem Fmt.round_self {r : Rm} (hr : r.inRange) (ha : a < 2 ^ f.width) (hfin : f.isFinite a) (k : Nat) :
    f.round r false (f.neg a) (f.mant a * 2 ^ k) (f.expo a - k) false = ⟨a, 0⟩ := by
  by_cases h0 : f.mant a = 0
  · have hsign := Fmt.sign_add_magnitude ha
    rw [Fmt.mant_eq_zero_iff.1 h0, Nat.add_zero] at hsign
    simp [Fmt.round, h0, hsign]
  · have hlead : max (f.expo a - k + Nat.log2 (f.mant a * 2 ^ k)) f.emin - f.fbits = f.expo a := by
      rw [log2_mul_two_pow h0, Nat.cast_add, show f.expo a - k + (Nat.log2 (f.mant a) + k) = f.expo a + Nat.log2 (f.mant a) by ring,
        f.max_lead h0]
    have hcut : f.expo a - k - f.expo a = -(k : Int) := by ring
    have hmag : ¬ f.expMax * 2 ^ f.fbits ≤ a % 2 ^ (f.ebits + f.fbits) := by
      rw [← Fmt.infBits_false]
      exact Nat.not_le.2 hfin
    have hpos : f.mant a * 2 ^ k ≠ 0 := Nat.mul_ne_zero h0 (Nat.two_pow_pos k).ne'
    simp only [Fmt.round, hpos, hlead, hcut, shiftExp_exact, roundUp_exact hr _ _ (Nat.two_pow_pos k), Bool.false_eq_true, if_false, Fmt.restore,
      hmag, false_and, Bool.and_false]
    simp [Fmt.sign_add_magnitude ha]

end

/-! ### What the arithmetic gives (R61 to R67, R143, R146) -/

theorem exactAdd_comm (s t : Bool) (m n : Nat) (e g : Int) : exactAdd s m e t n g = exactAdd t n g s m e := by
  simp only [exactAdd, min_comm e g, Int.add_comm]

/-- A rounded sum does not depend on the order of its terms; an exact zero takes the common sign, or that of the mode. -/
theorem roundSum_comm (f : Fmt) (r : Rm) (flush s t : Bool) (m n : Nat) (e g : Int) :
    roundSum f r flush s m e t n g = roundSum f r flush t n g s m e := by
  have hsign : (if s = t then s else decide (r = .rd)) = if t = s then t else decide (r = .rd) := by cases s <;> cases t <;> rfl
  simp only [roundSum, exactAdd_comm s t, hsign]

theorem Res.or_zero (r : Res) : r.or 0 = r := by simp [Res.or]

section
variable {f : Fmt} {c : Fpcm} {r : Rm} {a b : Nat} (hc : c.denorm = 0)
include hc

/-- With subnormals kept, operands are taken as they are and no result is flushed (R62). -/
theorem flushIn_kept (ha : a < 2 ^ f.width) : flushIn f c a = (a, 0) := by
  simp [flushIn, hc, Nat.mod_eq_of_lt ha]

theorem flushOut_kept : c.flushOut = false := by simp [Fpcm.flushOut, hc]

variable (ha : a < 2 ^ f.width) (hb : b < 2 ^ f.width)
include ha hb

theorem fpAdd_comm (hna : f.isNan a = false) (hnb : f.isNan b = false) : fpAdd f c r a b = fpAdd f c r b a := by
  simp only [Fmt.isNan] at hna hnb
  simp only [fpAdd, flushIn_kept hc ha, flushIn_kept hc hb]
  cases hda : f.decode a with
  | nan x => simp [hda] at hna
  | inf s =>
    cases hdb : f.decode b with
    | nan x => simp [hdb] at hnb
    | inf t => by_cases h : s = t <;> simp [h, eq_comm]
    | num t n g => rfl
  | num s m e =>
    cases hdb : f.decode b with
    | nan x => simp [hdb] at hnb
    | inf t => rfl
    | num t n g => simp only [roundSum_comm f r _ s t]

theorem fpMul_comm (hmulz : c.mulz = false) (hna : f.isNan a = false) (hnb : f.isNan b = false) :
    fpMul f c r a b = fpMul f c r b a := by
  have hsign : (f.neg b != f.neg a) = (f.neg a != f.neg b) := bne_comm
  simp only [Fmt.isNan] at hna hnb
  simp only [fpMul, flushIn_kept hc ha, flushIn_kept hc hb, exactMul, hmulz, Bool.false_and, hsign]
  cases hda : f.decode a with
  | nan x => simp [hda] at hna
  | inf s =>
    cases hdb : f.decode b with
    | nan x => simp [hdb] at hnb
    | inf t => rfl
    | num t n g => by_cases h : n = 0 <;> simp [h]
  | num s m e =>
    cases hdb : f.decode b with
    | nan x => simp [hdb] at hnb
    | inf t => by_cases h : m = 0 <;> simp [h]
    | num t n g => simp only [Nat.mul_comm m, Int.add_comm e, Bool.false_eq_true, if_false]

end

section
variable {f : Fmt} (hf : 2 ≤ f.ebits)

/-- The encoding of 1. -/
def Fmt.one (f : Fmt) : Nat := f.bias * 2 ^ f.fbits

include hf

/-- The exponent field of 1 is the bias, which is neither 0 nor the largest. -/
theorem Fmt.bias_bounds : 1 ≤ f.bias ∧ f.bias < f.expMax ∧ f.bias < 2 ^ f.ebits := by
  obtain ⟨n, hn⟩ := Nat.exists_eq_add_of_le hf
  have hpos := Nat.two_pow_pos n
  rw [Fmt.bias, Fmt.expMax, hn, show 2 + n - 1 = n + 1 by omega, show 2 + n = n + 2 by omega, Nat.pow_succ, Nat.pow_succ]
  omega

theorem Fmt.one_lt : f.one < 2 ^ (f.ebits + f.fbits) := by
  obtain ⟨-, -, hlt⟩ := Fmt.bias_bounds hf
  rw [Nat.pow_add]
  exact Nat.mul_lt_mul_of_pos_right hlt (Nat.two_pow_pos _)

theorem Fmt.decode_one : f.one < 2 ^ f.width ∧ f.neg f.one = false ∧ f.decode f.one = .num false (2 ^ f.fbits) (-f.fbits) := by
  obtain ⟨hpos, hmax, hlt⟩ := Fmt.bias_bounds hf
  have hone := Fmt.one_lt hf
  have hwidth : f.one < 2 ^ f.width := hone.trans_le (Nat.pow_le_pow_right (by norm_num) (by rw [Fmt.width]; omega))
  have hex : f.one / 2 ^ f.fbits % 2 ^ f.ebits = f.bias := by
    rw [Fmt.one, Nat.mul_div_cancel _ (Nat.two_pow_pos _), Nat.mod_eq_of_lt hlt]
  have hneg : f.neg f.one = false := Nat.testBit_lt_two_pow hone
  have hmant : f.mant f.one = 2 ^ f.fbits := by
    rw [Fmt.mant, hex, if_neg (by omega), Fmt.one, Nat.mul_mod_left, Nat.zero_add]
  have hexpo : f.expo f.one = -f.fbits := by
    rw [Fmt.expo, hex, max_eq_left hpos]
    ring
  refine ⟨hwidth, hneg, ?_⟩
  rw [Fmt.decode_of_finite hwidth (Fmt.isFinite_iff.2 (hex ▸ hmax)), hneg, hmant, hexpo]

end

section
variable {f : Fmt} {a : Nat}

/-- A zero is finite. -/
theorem Fmt.isFinite_of_mant (hf : 2 ≤ f.ebits) (h0 : f.mant a = 0) : f.isFinite a := by
  obtain ⟨-, hmax, -⟩ := Fmt.bias_bounds hf
  rw [Fmt.isFinite, Fmt.mant_eq_zero_iff.1 h0, Fmt.infBits_false]
  exact Nat.mul_pos (by omega) (Nat.two_pow_pos _)

theorem Fmt.decode_zero (hf : 2 ≤ f.ebits) : f.decode 0 = .num false 0 (f.emin - f.fbits) := by
  have hmant : f.mant 0 = 0 := Fmt.mant_eq_zero_iff.2 (Nat.zero_mod _)
  rw [Fmt.decode_of_finite (Nat.two_pow_pos _) (Fmt.isFinite_of_mant hf hmant), hmant]
  simp [Fmt.neg, Fmt.expo, Fmt.emin]

/-- The sum of a nonzero number, at a higher place, and a zero rounds as the number does. -/
theorem roundSum_zero {r : Rm} {flush s : Bool} {m : Nat} (hm : m ≠ 0) (e : Int) (k : Nat) :
    roundSum f r flush s m e false 0 (e - k) = f.round r flush s (m * 2 ^ k) (e - k) false := by
  have hpos : 0 < (m * 2 ^ k : Int) := by positivity
  cases s
  · simp [roundSum, exactAdd, hpos.ne', hpos.not_gt, Int.natAbs_mul, Int.natAbs_pow]
  · simp [roundSum, exactAdd, hpos, hpos.ne', Int.natAbs_mul, Int.natAbs_pow]

end

section
variable {f : Fmt} {c : Fpcm} {r : Rm} {a b : Nat} (hc : c.denorm = 0) (hr : r.inRange) (ha : a < 2 ^ f.width) (hfin : f.isFinite a)
include hc ha hfin

section
variable (hf : 2 ≤ f.ebits)
include hr hf

/-- A product by 1 is exact. -/
theorem fpMul_one (hmulz : c.mulz = false) : fpMul f c r a f.one = ⟨a, 0⟩ := by
  obtain ⟨hwidth, hneg, hdecode⟩ := Fmt.decode_one hf
  simp only [fpMul, flushIn_kept hc ha, flushIn_kept hc hwidth, exactMul, hmulz, Fmt.decode_of_finite ha hfin, hdecode, hneg,
    flushOut_kept hc, Bool.false_and, Bool.false_eq_true, if_false, Bool.bne_false, ← sub_eq_add_neg, Fmt.round_self hr ha hfin,
    Nat.or_self, Res.or_zero]

/-- A quotient by 1 is exact. -/
theorem fpDiv_one : fpDiv f c r a f.one = ⟨a, 0⟩ := by
  obtain ⟨hwidth, hneg, hdecode⟩ := Fmt.decode_one hf
  have hround : roundQuot f r false (f.neg a) (f.mant a) (f.expo a) (2 ^ f.fbits) (-f.fbits) = ⟨a, 0⟩ := by
    have hshift : f.mant a * 2 ^ (f.fbits + 4 + f.fbits) = f.mant a * 2 ^ (f.fbits + 4) * 2 ^ f.fbits := by rw [Nat.mul_assoc, ← Nat.pow_add]
    have hexpo : f.expo a - -f.fbits - (f.fbits + 4 + f.fbits : Nat) = f.expo a - (f.fbits + 4 : Nat) := by push_cast; ring
    simp only [roundQuot, Nat.log2_two_pow, hshift, Nat.mul_div_cancel _ (Nat.two_pow_pos _), Nat.mul_mod_left, hexpo, ne_eq,
      not_true_eq_false, decide_false, Fmt.round_self hr ha hfin]
  simp only [fpDiv, flushIn_kept hc ha, flushIn_kept hc hwidth, Fmt.decode_of_finite ha hfin, hdecode, hneg, flushOut_kept hc,
    Bool.bne_false, hround, (Nat.two_pow_pos f.fbits).ne', if_false, Nat.or_self, Res.or_zero]

end

/-- A sum with +0 is exact. -/
theorem fpAdd_zero (hr : r.inRange) (hf : 2 ≤ f.ebits) (hnz : f.mant a ≠ 0) : fpAdd f c r a 0 = ⟨a, 0⟩ := by
  obtain ⟨k, hk⟩ := Int.le.dest (f.emin_sub_le_expo a)
  have hlast : f.emin - f.fbits = f.expo a - k := by omega
  simp only [fpAdd, flushIn_kept hc ha, flushIn_kept hc (Nat.two_pow_pos f.width), Fmt.decode_of_finite ha hfin, Fmt.decode_zero hf,
    hlast, roundSum_zero hnz, flushOut_kept hc, Fmt.round_self hr ha hfin, Nat.or_self, Res.or_zero]

variable (hb : b < 2 ^ f.width)
include hb

/-- A nonzero number over zero is infinite, with DZ. -/
theorem fpDiv_by_zero (hbfin : f.isFinite b) (hnz : f.mant a ≠ 0) (hz : f.mant b = 0) :
    fpDiv f c r a b = ⟨f.infBits (f.neg a != f.neg b), fDZ⟩ := by
  simp only [fpDiv, flushIn_kept hc ha, flushIn_kept hc hb, Fmt.decode_of_finite ha hfin, Fmt.decode_of_finite hb hbfin, hz, hnz,
    if_true, if_false, Nat.or_self, Res.or_zero]

/-- 0 / 0 is invalid. -/
theorem fpDiv_zero_zero (hbfin : f.isFinite b) (hz : f.mant a = 0) (hzb : f.mant b = 0) : fpDiv f c r a b = ⟨f.qnan, fIV⟩ := by
  simp only [fpDiv, flushIn_kept hc ha, flushIn_kept hc hb, Fmt.decode_of_finite ha hfin, Fmt.decode_of_finite hb hbfin, hz, hzb,
    if_true, Nat.or_self, Res.or_zero, invalid]

end

section
variable {f : Fmt} {c : Fpcm} {r : Rm} {a b : Nat} (hc : c.denorm = 0) (ha : a < 2 ^ f.width) (hna : f.isNan a = false)
include hc ha hna

/-- ∞ / ∞ is invalid. -/
theorem fpDiv_inf_inf (hb : b < 2 ^ f.width) (hnb : f.isNan b = false) (hfin : ¬ f.isFinite a) (hbfin : ¬ f.isFinite b) :
    fpDiv f c r a b = ⟨f.qnan, fIV⟩ := by
  simp only [fpDiv, flushIn_kept hc ha, flushIn_kept hc hb, Fmt.decode_of_infinite ha hfin hna, Fmt.decode_of_infinite hb hbfin hnb,
    Nat.or_self, Res.or_zero, invalid]

/-- The root of a negative number is invalid. -/
theorem fpSqrt_negative (hnz : f.mant a ≠ 0) (hneg : f.neg a = true) : fpSqrt f c r a = ⟨f.qnan, fIV⟩ := by
  by_cases hfin : f.isFinite a
  · simp only [fpSqrt, flushIn_kept hc ha, Fmt.decode_of_finite ha hfin, hneg, hnz, if_true, if_false, Res.or_zero, invalid]
  · simp only [fpSqrt, flushIn_kept hc ha, Fmt.decode_of_infinite ha hfin hna, hneg, if_true, Res.or_zero, invalid]

end

/-- The formats of floats have at least two exponent bits. -/
theorem two_le_ebits {m : Fmt} (hm : m ∈ [Fmt.f16, .bf16, .f32, .f64]) : 2 ≤ m.ebits := by
  simp only [List.mem_cons, List.not_mem_nil, or_false] at hm
  rcases hm with rfl | rfl | rfl | rfl <;> decide

theorem floatFacts : Claims.FloatFacts := by
  intro m c r a b hm hc hmulz ha hb hna hnb hr one finite zero
  have hf := two_le_ebits hm
  have hzero : ∀ x, zero x ↔ m.mant x = 0 := fun x => Fmt.mant_eq_zero_iff.symm
  refine ⟨fpAdd_comm hc ha hb hna hnb, fpMul_comm hc ha hb hmulz hna hnb, fun hfin hnz => ?_, fun hfin => ?_, fun hfin hnz hz => ?_,
    fun hz hzb => ?_, fun hfin hbfin => ?_, fun hnz hneg => ?_⟩
  · exact fpAdd_zero hc ha hfin hr hf (mt (hzero a).2 hnz)
  · exact ⟨fpMul_one hc hr ha hfin hf hmulz, fpDiv_one hc hr ha hfin hf⟩
  · exact fpDiv_by_zero hc ha hfin hb (Fmt.isFinite_of_mant hf ((hzero b).1 hz)) (mt (hzero a).2 hnz) ((hzero b).1 hz)
  · exact fpDiv_zero_zero hc ha (Fmt.isFinite_of_mant hf ((hzero a).1 hz)) hb (Fmt.isFinite_of_mant hf ((hzero b).1 hzb))
      ((hzero a).1 hz) ((hzero b).1 hzb)
  · exact fpDiv_inf_inf hc ha hna hb hnb hfin hbfin
  · exact fpSqrt_negative hc ha hna (mt (hzero a).2 hnz) hneg

/-- Settles O8: the rows are float nodes of the class, and the arithmetic's facts rest on one: rounding gives back a finite
encoding from its own value. -/
theorem floatingRows : Obligations.FloatingRows := ⟨floatRows, floatCompareRow, floatFacts⟩

end Sys2Proof.Machine

/-! ## Conversion rows (R53, R149 to R156) -/

namespace Sys2Proof.Machine

/-! ### Sending after a node's firing is recorded -/

section
variable {s : State} {i : Instr} {h : Hdr} {g : Sig} {lat : Nat} {tag : W64} {k : Cmd} {P : State → Prop}

/-- What a node's computation answers on ordinary operands. -/
theorem node_answers (ho : s.cur.ordinary h.pred) (hexec : exec i s = (node s.cur h g lat tag k).next s)
    (hk : P (k.exec ((markFired s.cur).exec s))) : Answers i s P :=
  ⟨_, hexec, (node_ordinary ho).symm ▸ hk⟩

/-- A firing that is recorded and then sends two results. -/
theorem emit2_fired_sends (f : Firing) (h : Hdr) (lat : Nat) (tag : W64) (v0 v1 : Val) (s : State) :
    Sends s ((emit2 f h lat tag v0 v1).exec ((markFired f).exec s)) f h lat tag v0 v1 :=
  (emit2_sends ..).after (markFired_fab ..) (markFired_now ..)

/-- A node with two results sends one on each destination. -/
theorem node_emit2_answers {v0 v1 : Val} (ho : s.cur.ordinary h.pred)
    (hexec : exec i s = (node s.cur h g lat tag (emit2 s.cur h lat tag v0 v1)).next s) :
    Answers i s fun t => Sends s t s.cur h lat tag v0 v1 :=
  node_answers ho hexec (emit2_fired_sends ..)

end

theorem emit2_ctx (f : Firing) (h : Hdr) (lat : Nat) (tag : W64) (v0 v1 : Val) (s : State) (c : Nat) :
    ((emit2 f h lat tag v0 v1).exec s).ctx? c = s.ctx? c := by
  simp only [emit2, emitOn, Cmd.exec_seq]
  rw [Cmd.keep_when (g := fun s => s.ctx? c) (fun _ => rfl), Cmd.keep_when (g := fun s => s.ctx? c) (fun _ => rfl)]

/-! ### Stochastic rounding (R53) -/

/-- What an LFSR table holds after a list of entries has been set. -/
theorem getD_foldl_set {α : Type} (g : Nat → α) (lanes : List Nat) (t : Tbl α) (k : Nat) (d : α) :
    (lanes.foldl (fun t j => t.set j (g j)) t).getD k d = if k ∈ lanes then g k else t.getD k d := by
  induction lanes generalizing t with
  | nil => rfl
  | cons j lanes ih =>
    rw [List.foldl_cons, ih]
    by_cases hk : k = j
    · subst hk
      simp
    · simp [hk, Tbl.getD_set_ne t _ d hk]

/-- The LFSRs of the output lanes of a stochastic row have stepped once. -/
def Stepped (s t : State) (lanes : List Nat) : Prop :=
  ∀ j, (t.elem s.cur.sid).lfsrs.getD j 1 = if j ∈ lanes then lfsrStep ((s.elem s.cur.sid).lfsr j) else (s.elem s.cur.sid).lfsr j

/-- Flags of a firing that is recorded before. -/
theorem orFlags_fired (f : Firing) (fl : Nat) (s : State) : FlagsOr s ((orFlags f.ctx fl).exec ((markFired f).exec s)) f.ctx fl := by
  have hflags := orFlags_fpstat f.ctx fl ((markFired f).exec s)
  rw [FlagsOr, markFired_ctx, Option.map_map] at hflags
  exact hflags

theorem emit2_lfsrs (f : Firing) (h : Hdr) (lat : Nat) (tag : W64) (v0 v1 : Val) (s : State) :
    (((emit2 f h lat tag v0 v1).exec s).elem f.sid).lfsrs = (s.elem f.sid).lfsrs :=
  (congrArg Element.lfsrs (emit2_nodeFrame f h lat tag v0 v1 s).own :)

theorem stepLfsrs_steps (sid : Nat) (lanes : List Nat) (s : State) (j : Nat) :
    (((stepLfsrs sid lanes).exec s).elem sid).lfsrs.getD j 1 =
      if j ∈ lanes then lfsrStep ((s.elem sid).lfsr j) else (s.elem sid).lfsr j := by
  rw [stepLfsrs, modElem_elem_self]
  exact getD_foldl_set (fun j => lfsrStep ((s.elem sid).lfsr j)) lanes (s.elem sid).lfsrs j 1

section
variable {s : State} {f : CommonNode} {i : Instr} {g : Sig} {lanes : List Nat} {fl : Nat} {v0 v1 : Val}

/-- A conversion's command sends its results, ORs its flags and, under SR, steps the LFSRs of its output lanes. -/
theorem convEmit_answers {rm : BitVec 4} (ho : s.cur.ordinary f.pred)
    (hexec : exec i s = (node s.cur f.toHdr g 4 s.cur.tag (convEmit s rm f.toHdr lanes fl v0 v1)).next s) :
    Answers i s fun t => Sends s t s.cur f.toHdr 4 s.cur.tag v0 v1 ∧ FlagsOr s t s.cur.ctx fl ∧ (rm = 5 → Stepped s t lanes) := by
  let flagged := (orFlags s.cur.ctx fl).exec ((markFired s.cur).exec s)
  let stepped := (Cmd.when (rm == 5) (stepLfsrs s.cur.sid lanes)).exec flagged
  have helem : ∀ k, flagged.elem k = s.elem k := fun k => by rw [State.elem, orFlags_fab, markFired_fab]; rfl
  have houts : (stepped.elem s.cur.sid).outs = (s.elem s.cur.sid).outs :=
    (Cmd.within_when (ElemFrame.chains Element.outs) (fun _ => modElem_elemFrame) flagged s.cur.sid).trans
      (congrArg Element.outs (helem _))
  have hnow : stepped.now = s.now := (Cmd.keep_when (g := State.now) (fun _ => rfl) flagged).trans (orFlags_now ..)
  have hctx : stepped.ctx? s.cur.ctx = flagged.ctx? s.cur.ctx := Cmd.keep_when (g := (·.ctx? s.cur.ctx)) (fun _ => rfl) flagged
  refine node_answers ho hexec ⟨(emit2_sends ..).of_outs houts hnow, ?flags, fun hrm j => ?steps⟩
  case flags =>
    rw [FlagsOr, convEmit, Cmd.exec_all_cons, Cmd.exec_all_cons, Cmd.exec_all_one, emit2_ctx]
    exact (congrArg (Option.map Ctx.fpstat) hctx).trans (orFlags_fired s.cur fl s)
  case steps =>
    rw [convEmit, Cmd.exec_all_cons, Cmd.exec_all_cons, Cmd.exec_all_one, emit2_lfsrs, hrm, beq_self_eq_true, Cmd.exec_when_true,
      stepLfsrs_steps]
    rw [show ((orFlags s.cur.ctx fl).exec ((markFired s.cur).exec s)).elem s.cur.sid = s.elem s.cur.sid from helem _]

end

/-! ### The rows with one mode for each lane -/

theorem Answers.imp {i : Instr} {s : State} {P Q : State → Prop} (h : Answers i s P) (hPQ : ∀ t, P t → Q t) : Answers i s Q :=
  let ⟨t, hexec, hP⟩ := h
  ⟨t, hexec, hPQ t hP⟩

section
variable {s : State} {f : CommonNode}

theorem exec_cvt_scalar (hv : f.v = false) :
    let r := cvtOne (s.fpcm s.cur.ctx) (laneMode s f.rm 0) f.sty f.ty ((orNull s.cur.a).low f.sty.width)
    exec (.cvt f) s = (node s.cur f.toHdr (Instr.cvt f).sig 4 s.cur.tag
      (convEmit s f.rm f.toHdr [0] r.flags (f.ty.scalarVal r.bits) (f.ty.scalarVal r.bits))).next s := by
  change execCvt f s = _
  simp only [execCvt, hv]
  rfl

/-- The number of fraction bits that SRND keeps, and the parameters of QNT: operand b or LIT in 32 bits. -/
def convParam (f : CommonNode) (s : State) : Nat := (litOr f.l f.lit s.cur.b).toNat % 2 ^ 32

theorem convParam_eq (f : CommonNode) (s : State) :
    convParam f s = (if f.l then f.lit.toNat else (orNull s.cur.b).word.toNat) % 2 ^ 32 := by
  cases hl : f.l <;> simp [convParam, litOr, hl]

theorem exec_srnd_scalar (hv : f.v = false) (hp : convParam f s ≤ if f.ty = .f32 then 23 else 52) :
    let r := fpSrnd (Fmt.ofTy f.ty) (s.fpcm s.cur.ctx) (laneMode s f.rm 0) (convParam f s) ((orNull s.cur.a).low f.ty.width)
    exec (.srnd f) s = (node s.cur f.toHdr (Instr.srnd f).sig 4 s.cur.tag
      (convEmit s f.rm f.toHdr [0] r.flags (f.ty.scalarVal r.bits) (f.ty.scalarVal r.bits))).next s := by
  change execSrnd f s = _
  have hparam : (litOr f.l f.lit s.cur.b).toNat % 2 ^ 32 = convParam f s := rfl
  simp only [execSrnd, hv, hparam, if_neg hp.not_gt]
  rfl

/-- The source values of QNT (R152). -/
def qntSource (f : CommonNode) (s : State) : List Nat :=
  if f.sty = .f32 then (orNull s.cur.a).lanes 32 ++ ((orNull s.cur.c).lanes 32).take 8 else ((orNull s.cur.a).lanes f.sty.width).take 24

theorem exec_qnt (hp : convParam f s < 64) (hslot : convParam f s / 16 < packedBlocks f.ty) :
    let b := quantise f.ty (convParam f s % 16) ((qntSource f s).map (Fmt.ofTy f.sty).decode) ((List.range 24).map (laneMode s f.rm))
    let v := Val.vector (BitVec.ofNat 512 (packBlock f.ty (convParam f s / 16) b))
    exec (.qnt f) s = (node s.cur f.toHdr (Instr.qnt f).sig 4 s.cur.tag
      (convEmit s f.rm f.toHdr (List.range 24) b.flags v v)).next s := by
  have hlow : natBits (convParam f s) 3 0 = convParam f s % 16 := by simp [natBits]
  have hhigh : natBits (convParam f s) 5 4 = convParam f s / 16 := by simp only [natBits]; omega
  have hsound : (decide (64 ≤ convParam f s) || decide (packedBlocks f.ty ≤ convParam f s / 16)) = false := by simp [hp, hslot]
  have hparam : (litOr f.l f.lit s.cur.b).toNat % 2 ^ 32 = convParam f s := rfl
  change execQnt f s = _
  simp only [execQnt, hparam, hlow, hhigh, hsound, Bool.false_eq_true, if_false]
  rfl

/-! ### Blocks -/

/-- The elements of a block rounded into a float type (R55, R153). -/
def dqntRes (f : CommonNode) (s : State) : List Res :=
  let b := unpackBlock f.sty f.part (orNull s.cur.a).wide.toNat
  b.1.map fun e => elemTo (Fmt.ofTy f.ty) (Rm.ofCode f.rm.toNat 0) (elemValue f.sty b.2.1 b.2.2 e)

/-- DQNT sends the first 16 elements and the others in f32, and else all of them twice. -/
theorem exec_dqnt (f : CommonNode) (s : State) :
    let bits := (dqntRes f s).map (·.bits)
    let wide := f.ty == .f32
    exec (.dqnt f) s = (node s.cur f.toHdr (Instr.dqnt f).sig 4 s.cur.tag
      (convEmit s 0 f.toHdr [] ((dqntRes f s).foldl (fun a r => a ||| r.flags) 0)
        (vecVal f.ty.width (if wide then bits.take 16 else bits)) (vecVal f.ty.width (if wide then bits.drop 16 else bits)))).next s := by
  change execDqnt f s = _
  by_cases hwide : f.ty = .f32
  · simp only [execDqnt, hwide, if_true, beq_self_eq_true]
    simp only [dqntRes, hwide]
  · simp only [execDqnt, hwide, if_false, beq_false_of_ne hwide, Bool.false_eq_true]
    rfl

/-- A scale byte that moves (R154). -/
theorem moveScale_byte {x : Nat} (hx : x < 256) (k : Int) : (moveScale x k).1 % 256 =
    if x = 0 ∨ x = 255 then x else if (x : Int) + k < 1 then 0 else if 254 < (x : Int) + k then 255 else ((x : Int) + k).toNat := by
  unfold moveScale
  split
  next h => exact Nat.mod_eq_of_lt hx
  next h =>
    split
    next h => rfl
    next h =>
      split
      next h => rfl
      next h => exact Nat.mod_eq_of_lt (by omega)

section
variable {n : Nat} (x y : Nat)

/-- Byte `i` above the `n` data bits of a packed vector. -/
theorem packed_scale {i : Nat} (hi : n + 8 * i + 8 ≤ 512) :
    (BitVec.ofNat 512 (x % 2 ^ n + y * 2 ^ n)).toNat / 2 ^ (n + 8 * i) % 256 = laneOf y 8 i := by
  have hlow : x % 2 ^ n < 2 ^ n := Nat.mod_lt _ (Nat.two_pow_pos _)
  rw [laneOf, show 256 = 2 ^ 8 from rfl, Nat.add_comm, Nat.mul_comm]
  refine Nat.eq_of_testBit_eq fun k => ?_
  simp only [BitVec.toNat_ofNat, Nat.testBit_mod_two_pow, Nat.testBit_div_two_pow, Nat.testBit_two_pow_mul_add _ hlow]
  by_cases hk : k < 8
  · rw [decide_eq_true (show k + (n + 8 * i) < 512 by omega), if_neg (by omega), Bool.true_and,
      show k + (n + 8 * i) - n = k + 8 * i by omega]
  · rw [decide_eq_false hk, Bool.false_and, Bool.false_and]

theorem packed_data (hn : n ≤ 512) : (BitVec.ofNat 512 (x % 2 ^ n + y * 2 ^ n)).toNat % 2 ^ n = x % 2 ^ n := by
  rw [BitVec.toNat_ofNat, Nat.mod_mod_of_dvd _ (Nat.pow_dvd_pow 2 hn), Nat.add_mul_mod_self_right, Nat.mod_mod]

end

/-- What BSCL adds to the scale bytes. -/
def bsclStep (f : CommonNode) (s : State) : Int := if f.l then f.lit.toInt else ((orNull s.cur.b).word.setWidth 32).toInt

theorem bscl_passes (ho : s.cur.ordinary f.pred) : ∃ v, Passes (.bscl f) s f.toHdr 4 (.vector v) ∧
    v.toNat % 2 ^ 384 = (orNull s.cur.a).wide.toNat % 2 ^ 384 ∧ ∀ i, i < 2 * packedBlocks f.ty →
      v.toNat / 2 ^ (384 + 8 * i) % 256 = (moveScale ((orNull s.cur.a).wide.toNat / 2 ^ (384 + 8 * i) % 256) (bsclStep f s)).1 % 256 := by
  have hblocks : packedBlocks f.ty ≤ 4 := by
    unfold packedBlocks
    split <;> omega
  refine ⟨_, (convEmit_answers (rm := 0) (lanes := []) (g := (Instr.bscl f).sig) ho rfl).imp fun t h => h.1,
    packed_data _ _ (by decide), fun i hi => ?_⟩
  rw [packed_scale _ _ (by omega), laneOf_packLanes]
  simp [hi, bsclStep]

end

/-- Settles O9: each row is a node whose command sends its results, ORs its flags and steps the LFSRs of its output lanes; what is left
is the value of its one lane, block or scale byte. -/
theorem conversionRows : Obligations.ConversionRows := by
  unfold Obligations.ConversionRows
  intro s f ho c a x lfsr mode param stepped
  have hstep : ∀ {lanes t}, 0 ∈ lanes → (f.rm = 5 → Stepped s t lanes) → stepped t := fun h0 h hrm => (h hrm 0).trans (if_pos h0)
  have hparam : param = convParam f s := (convParam_eq f s).symm
  refine ⟨fun hv => ?cvt, fun hv hp => ?srnd, fun hp hslot => ?qnt, ?dqnt, ?bscl, ?pack, ?unpack⟩
  case cvt =>
    exact (convEmit_answers ho (exec_cvt_scalar hv)).imp fun t ⟨hs, hfl, hst⟩ => ⟨hs, hfl, hstep (by simp) hst⟩
  case srnd =>
    rw [hparam] at hp ⊢
    exact (convEmit_answers ho (exec_srnd_scalar hv hp)).imp fun t ⟨hs, hfl, hst⟩ => ⟨hs, hfl, hstep (by simp) hst⟩
  case qnt =>
    rw [hparam] at hp hslot ⊢
    exact (convEmit_answers ho (exec_qnt hp hslot)).imp fun t ⟨hs, hfl, hst⟩ => ⟨hs, hfl, hstep (by simp) hst⟩
  case dqnt => exact (convEmit_answers ho (exec_dqnt f s)).imp fun t h => h.1
  case bscl =>
    obtain ⟨v, hpass, hdata, hscales⟩ := bscl_passes ho
    refine ⟨v, hpass, hdata, fun i hi => ?_⟩
    rw [hscales i hi, moveScale_byte (Nat.mod_lt _ (by norm_num))]
    rfl
  case pack => exact compute_passes ho rfl
  case unpack => exact node_emit2_answers ho rfl

end Sys2Proof.Machine

/-! ## A contribution without a value (R162, R163)

REDA folds what its value port brings; where that port holds nothing, it counts the position like a null and its accumulator stays
empty. The match stage never brings such a firing, as REDA requires port a (R24), but a firing without it is ordinary. -/

namespace Sys2Proof.Machine

/-- A REDA.sum.i32 with its result to port a of node 9. -/
def sumNode : CommonNode :=
  { sub := 0, pred := .always, ty := .i32, d0 := ⟨true, 9, .a⟩, d1 := ⟨false, 0, .a⟩, lit := 0, l := false, v := false, sat := false,
    rm := 0, mask := 0xFFFF }

/-- After reset, a firing in iteration 0 of one loop, with nothing on any port. -/
def contributesNothing : State := { State.reset with cur := { Firing.zero with tag := 0x0001000000000000 } }

/-- What the REDA leaves at its element: an accumulator that has counted the position and holds no value. -/
theorem reda_without_value : Answers (.reda sumNode) contributesNothing fun t =>
    (t.elem 0).accums = [⟨0, 0, 0, 1, 1, 0, none, none, none, [], none⟩] := ⟨_, rfl, rfl⟩

/-- Refutes O10: in the state above every hypothesis of the first clause about REDA holds, and LAST is false; the clause would have the
accumulator hold a value, and it holds none. The statement does not ask that the firing brings an operand a. -/
theorem not_vectorAndReductionRows : ¬ Obligations.VectorAndReductionRows := by
  rintro ⟨-, -, hrows⟩
  obtain ⟨hreda, -⟩ := hrows contributesNothing sumNode rfl rfl rfl rfl rfl (by decide) (by decide) (by decide) rfl (by decide)
    (fun a ha => absurd ha List.not_mem_nil)
  obtain ⟨t, hexec, -, a, ha, -, hacc, -⟩ := hreda rfl
  obtain ⟨t', hexec', haccums⟩ := reda_without_value
  obtain rfl : t = t' := Host.Outcome.next.inj (hexec.symm.trans hexec')
  obtain rfl := List.mem_singleton.1 (haccums ▸ ha)
  exact absurd hacc nofun

end Sys2Proof.Machine

/-! ## Edges of triangles (R165, R167) -/

namespace Sys2Proof.Machine

/-! ### Masks put together bit by bit -/

/-- The mask of the numbers below `n` that a condition picks. -/
def maskOf (n : Nat) (c : Nat → Bool) : Nat := (List.range n).foldl (fun m i => if c i then m + 2 ^ i else m) 0

section
variable (n : Nat) (c : Nat → Bool)

theorem maskOf_succ : maskOf (n + 1) c = if c n then maskOf n c + 2 ^ n else maskOf n c := by
  simp [maskOf, List.range_succ]

theorem maskOf_lt : maskOf n c < 2 ^ n := by
  induction n with
  | zero => exact Nat.one_pos
  | succ n ih =>
    rw [maskOf_succ, Nat.pow_succ]
    split <;> omega

theorem maskOf_testBit (k : Nat) : (maskOf n c).testBit k = (decide (k < n) && c k) := by
  induction n with
  | zero => simp [maskOf]
  | succ n ih =>
    rcases Nat.lt_trichotomy k n with hk | rfl | hk
    · have hlow : (maskOf (n + 1) c).testBit k = (maskOf n c).testBit k := by
        rw [maskOf_succ]
        split
        · rw [Nat.add_comm, Nat.testBit_two_pow_add_gt hk]
        · rfl
      rw [hlow, ih, decide_eq_true hk, decide_eq_true (Nat.lt_succ_of_lt hk)]
    · have hnone := Nat.testBit_lt_two_pow (maskOf_lt k c)
      rw [maskOf_succ, decide_eq_true k.lt_succ_self, Bool.true_and]
      split
      next h => rw [Nat.add_comm, Nat.testBit_two_pow_add_eq, hnone, h, Bool.not_false]
      next h => rw [hnone, Bool.eq_false_iff.2 h]
    · rw [Nat.testBit_lt_two_pow ((maskOf_lt (n + 1) c).trans_le (Nat.pow_le_pow_right (by norm_num) hk)),
        decide_eq_false (by omega), Bool.false_and]

/-- The bits of a mask that is sent as a scalar. -/
theorem maskOf_getLsbD {k : Nat} (hk : k < 64) : (BitVec.ofNat 64 (maskOf n c)).getLsbD k = (decide (k < n) && c k) := by
  rw [BitVec.getLsbD_ofNat, maskOf_testBit, decide_eq_true hk, Bool.true_and]

end

/-! ### Coverage of samples -/

/-- An edge covers a sample where its function is positive, or zero under the top-left rule. -/
theorem edgeCovers_iff (a b c px py : Int) : edgeCovers a b c px py = true ↔
    0 < a * px + b * py + c * 2 ^ 149 ∨ (a * px + b * py + c * 2 ^ 149 = 0 ∧ (0 < a ∨ (a = 0 ∧ 0 < b))) := by
  simp [edgeCovers]

/-- Lane `k` of an operand as an exact multiple of 2^-149, if it is finite. -/
def exactLane32 (l : List Nat) (k : Nat) : Option Int := exact32 (l.getD k 0)

/-- Whether the three edges of the lanes cover the sample of pixel `p`. -/
def edgesCover (l : List Nat) (p : Nat) : Bool :=
  let v := fun (k : Nat) => (exactLane32 l k).getD 0
  (List.range 3).all fun k => edgeCovers (v (3 * k)) (v (3 * k + 1)) (v (3 * k + 2))
    (v 9 + (2 * (p % 4) + 1 : Nat) * 2 ^ 148) (v 10 + (2 * (p / 4) + 1 : Nat) * 2 ^ 148)

section
variable {l : List Nat}

/-- An input that is a NaN or infinite clears every bit. -/
theorem edgeMask_of_unsound {k : Nat} (hk : k < 11) (hnone : exactLane32 l k = none) : edgeMask l = 0 := by
  have hany : (((List.range 11).map (exactLane32 l)).any (·.isNone)) = true :=
    List.any_eq_true.2 ⟨none, List.mem_map.2 ⟨k, List.mem_range.2 hk, hnone⟩, rfl⟩
  exact if_pos hany

/-- Else the mask has the bits of the covered pixels. -/
theorem edgeMask_of_sound (hall : ∀ k, k < 11 → (exactLane32 l k).isSome = true) : edgeMask l = maskOf 16 (edgesCover l) := by
  have hany : (((List.range 11).map (exactLane32 l)).any (·.isNone)) = false := by
    simpa [List.any_eq_false, Option.isSome_iff_ne_none] using hall
  exact if_neg (Bool.eq_false_iff.1 hany)

theorem edgesCover_iff (p : Nat) : edgesCover l p = true ↔ ∀ k, k < 3 →
    let v := fun (k : Nat) => (exactLane32 l k).getD 0
    let e := v (3 * k) * (v 9 + (2 * (p % 4 : Nat) + 1) * 2 ^ 148) + v (3 * k + 1) * (v 10 + (2 * (p / 4 : Nat) + 1) * 2 ^ 148) +
      v (3 * k + 2) * 2 ^ 149
    0 < e ∨ (e = 0 ∧ (0 < v (3 * k) ∨ (v (3 * k) = 0 ∧ 0 < v (3 * k + 1)))) := by
  simp only [edgesCover, List.all_eq_true, List.mem_range, edgeCovers_iff]
  push_cast
  rfl

end

/-- Settles O23: the mask is put together from the conditions of its pixels, each the sign of its edge functions. -/
theorem edgeCoverage : Obligations.EdgeCoverage := by
  unfold Obligations.EdgeCoverage
  intro s f ho x v
  refine ⟨_, rfl, _, compute_ordinary ho, fun p hp => ?_⟩
  by_cases hall : ∀ k, k < 11 → (x k).isSome = true
  · rw [edgeMask_of_sound hall, maskOf_getLsbD _ _ hp, Bool.and_eq_true, decide_eq_true_eq, edgesCover_iff]
    exact and_congr_right fun _ => (and_iff_right hall).symm
  · obtain ⟨k, hk, hnone⟩ : ∃ k, k < 11 ∧ x k = none := by simpa [Option.isSome_iff_ne_none] using hall
    rw [edgeMask_of_unsound hk hnone]
    simp [hall]

end Sys2Proof.Machine

/-! ## Graphics rows (R166, R168 to R170, R173) -/

namespace Sys2Proof.Machine

/-! ### SEQT (R173) -/

theorem State.seqtKey_eq (s : State) (f : Firing) : s.seqtKey f = 128 * ((s.blockOf f).map (·.addr)).getD 0 + f.node := by
  rw [State.seqtKey]
  cases s.blockOf f <;> rfl

theorem State.seqtOf_eq (s : State) (f : Firing) :
    s.seqtOf f = ((s.region? f.ctx f.rgn).map (·.seqt)).elim [] (·.getD (s.seqtKey f) []) := by
  rw [State.seqtOf]
  cases s.region? f.ctx f.rgn <;> rfl

/-- The counters of the node that fires are replaced. -/
def setCounters (f : Firing) (key : Nat) (new : Tbl Nat) : Cmd :=
  modRegion f.ctx f.rgn fun r => { r with seqt := r.seqt.set key new }

section
variable {s t : State} {f : Firing}

section
variable (h : (t.region? f.ctx f.rgn).map Region.still = (s.region? f.ctx f.rgn).map Region.still)
include h

/-- A node's number and its counters are no part of what a firing records in its region. -/
theorem seqtKey_of_still : t.seqtKey f = s.seqtKey f := by
  rw [State.seqtKey_eq, State.seqtKey_eq]
  exact congrArg (fun b => 128 * ((Option.map Block.addr b).getD 0) + f.node) (frameBlock_of_still h f.frm)

theorem seqtOf_of_still : t.seqtOf f = s.seqtOf f := by
  rw [State.seqtOf_eq, State.seqtOf_eq, seqtKey_of_still h]
  exact congrArg (fun o => Option.elim o [] (·.getD (s.seqtKey f) [])) (still_part h Region.seqt)

end

theorem setCounters_region (key : Nat) (new : Tbl Nat) : ((setCounters f key new).exec s).region? f.ctx f.rgn =
    (s.region? f.ctx f.rgn).map fun r => { r with seqt := r.seqt.set key new } := modRegion_region_self ..

theorem setCounters_seqtKey (key : Nat) (new : Tbl Nat) : ((setCounters f key new).exec s).seqtKey f = s.seqtKey f := by
  rw [State.seqtKey_eq, State.seqtKey_eq, State.blockOf, State.blockOf, State.frameBlock_eq, State.frameBlock_eq, setCounters_region]
  cases s.region? f.ctx f.rgn <;> rfl

/-- A node of a region that is there has the counters that it is given. -/
theorem setCounters_seqtOf (new : Tbl Nat) {r : Region} (hr : s.region? f.ctx f.rgn = some r) :
    ((setCounters f (s.seqtKey f) new).exec s).seqtOf f = new := by
  rw [State.seqtOf_eq, setCounters_seqtKey, setCounters_region, hr]
  exact Tbl.getD_set_self ..

end

section
variable {s : State} {f : GfxNode}

/-- The number of the tile that SEQT names, and the tile's counter. -/
def seqtTile (s : State) : Nat := (orNull s.cur.a).word.toNat % 2 ^ 32
def seqtCounter (s : State) : Nat := (s.seqtOf s.cur).getD (seqtTile s) 0

/-- What SEQT leaves in the counter. -/
def seqtNext (f : GfxNode) (s : State) : Nat := if f.gmode = 0 then (seqtCounter s + 1) % 2 ^ 32 else 0

theorem exec_seqt : exec (.seqt f) s = (node s.cur f.toHdr (Instr.seqt f).sig 1 s.cur.tag
    (if 255 < seqtTile s then raiseFault s.cur f.toHdr 1 causeIllegal
    else .seq (setCounters s.cur (s.seqtKey s.cur) ((s.seqtOf s.cur).set (seqtTile s) (seqtNext f s)))
      (emit s.cur f.toHdr 1 s.cur.tag (.scalar (BitVec.ofNat 64 (seqtCounter s)))))).next s := rfl

/-- SEQT sends its counter and replaces it. -/
theorem seqt_counts (ho : s.cur.ordinary f.pred) (hn : seqtTile s ≤ 255) : Answers (.seqt f) s fun t =>
    Emits s t f.toHdr 1 (.scalar (BitVec.ofNat 64 (seqtCounter s))) ∧
      ((s.region? s.cur.ctx s.cur.rgn).isSome = true → (t.seqtOf s.cur).getD (seqtTile s) 0 = seqtNext f s) := by
  let u := (markFired s.cur).exec s
  let counted := (setCounters s.cur (s.seqtKey s.cur) ((s.seqtOf s.cur).set (seqtTile s) (seqtNext f s))).exec u
  let sent := Val.scalar (BitVec.ofNat 64 (seqtCounter s))
  have hstill : (u.region? s.cur.ctx s.cur.rgn).map Region.still = _ := markFired_region_still s.cur s s.cur.ctx s.cur.rgn
  refine node_answers ho exec_seqt ?_
  rw [if_neg hn.not_gt]
  refine ⟨(emit_sends ..).after (t := counted) rfl rfl, fun hr => ?_⟩
  obtain ⟨r, hr⟩ : ∃ r, u.region? s.cur.ctx s.cur.rgn = some r := by
    rw [← Option.isSome_iff_exists, ← Option.isSome_map (f := Region.still), hstill, Option.isSome_map]
    exact hr
  have hcounted : counted.seqtOf s.cur = (s.seqtOf s.cur).set (seqtTile s) (seqtNext f s) := by
    rw [← setCounters_seqtOf (s := u) ((s.seqtOf s.cur).set (seqtTile s) (seqtNext f s)) hr, seqtKey_of_still hstill]
  have hsent : ((emit s.cur f.toHdr 1 s.cur.tag sent).exec counted).seqtOf s.cur = counted.seqtOf s.cur :=
    seqtOf_of_still ((emit2_nodeFrame s.cur f.toHdr 1 s.cur.tag sent sent counted).regions s.cur.ctx s.cur.rgn)
  exact (congrArg (Tbl.getD · (seqtTile s) 0) (hsent.trans hcounted)).trans (Tbl.getD_set_self ..)

/-- A tile number above 255 is a fault of the node. -/
theorem seqt_faults (ho : s.cur.ordinary f.pred) (hd : (f.d0.val || f.d1.val) = true) (hn : 255 < seqtTile s) :
    Passes (.seqt f) s f.toHdr 1 (.poison (s.cur.origin (s.vdOfCtx s.cur.ctx) causeIllegal)) := by
  refine node_answers ho exec_seqt ?_
  rw [if_pos hn]
  exact raiseFault_fired_sends hd 1 causeIllegal s

/-! ### TXQ (R170) -/

theorem withFreeVector_exec (k : W512 → Cmd) (s : State) :
    (withFreeVector k).exec s = (k (Config.freeVector s.free)).exec (Prim.takeFree.run s) := rfl

section
variable (ho : s.cur.ordinary f.pred)
include ho

/-- A bad descriptor is a fault of the node. -/
theorem txq_faults (hd : (f.d0.val || f.d1.val) = true) (hbad : texOk (orNull s.cur.b).word.toNat = false) :
    Passes (.txq f) s f.toHdr 8 (.poison (s.cur.origin (s.vdOfCtx s.cur.ctx) causeIllegal)) := by
  refine node_answers ho rfl ?_
  rw [hbad, Bool.not_false, if_pos rfl]
  exact raiseFault_fired_sends hd 8 causeIllegal s

variable (hok : texOk (orNull s.cur.b).word.toNat = true)
include hok

/-- With a sound descriptor TXQ sends the offsets and weights. -/
theorem txq_sends {offs wts : List Nat} (htex : texels (Rm.ofCode f.rm.toNat 0) (orNull s.cur.b).word.toNat
    (((orNull s.cur.a).lanes 32).getD 0 0) (((orNull s.cur.a).lanes 32).getD 1 0) = some (offs, wts)) :
    Answers (.txq f) s fun t => Sends s t s.cur f.toHdr 8 s.cur.tag (vecVal 32 offs) (vecVal 32 wts) := by
  refine node_answers ho rfl ?_
  rw [hok, Bool.not_true, if_neg Bool.false_ne_true, htex]
  exact emit2_fired_sends ..

/-- And it always sends something (log 35). -/
theorem txq_sends_some : Answers (.txq f) s fun t => ∃ v w, Sends s t s.cur f.toHdr 8 s.cur.tag v w := by
  cases htex : texels (Rm.ofCode f.rm.toNat 0) (orNull s.cur.b).word.toNat
    (((orNull s.cur.a).lanes 32).getD 0 0) (((orNull s.cur.a).lanes 32).getD 1 0) with
  | some x => exact (txq_sends ho hok htex).imp fun t ht => ⟨_, _, ht⟩
  | none =>
    refine node_answers ho rfl ?_
    rw [hok, Bool.not_true, if_neg Bool.false_ne_true, htex]
    exact ⟨_, _, (emit2_sends ..).after rfl rfl⟩

end

end

/-! ### BOX4 and TRI1 (R168, R169) -/

/-- The hit mask of four boxes. -/
theorem boxMask_eq (x0 x1 x2 x3 : Nat × Bool) :
    [x0, x1, x2, x3].zipIdx.foldl (fun m (x, i) => if x.2 then m + 2 ^ i else m) 0 =
      maskOf 4 fun i => ([x0, x1, x2, x3].map (·.2)).getD i false := rfl

theorem boxMask_getLsbD (x0 x1 x2 x3 : Nat × Bool) {k : Nat} (hk : k < 64) :
    (BitVec.ofNat 64 ([x0, x1, x2, x3].zipIdx.foldl (fun m (x, i) => if x.2 then m + 2 ^ i else m) 0)).getLsbD k =
      ([x0, x1, x2, x3].map (·.2)).getD k false := by
  rw [boxMask_eq, maskOf_getLsbD _ _ hk]
  by_cases h : k < 4
  · rw [decide_eq_true h, Bool.true_and]
  · simp [h]

theorem graphicsRows : Claims.GraphicsRows := by
  intro s f ho c r la lb lc boxes tri d n old faults
  refine ⟨?box4, ?tri1, fun offs wts hok htex => txq_sends ho hok htex, fun hok => txq_sends_some ho hok,
    fun hn => (seqt_counts ho hn).imp fun t ⟨hs, hc⟩ => ⟨hs.outs, hc⟩, fun hd => ⟨txq_faults ho hd, seqt_faults ho hd⟩⟩
  case box4 => exact (node_emit2_answers ho rfl).imp fun t ht => ⟨_, ht, fun k hk => boxMask_getLsbD _ _ _ _ hk⟩
  case tri1 => exact node_emit2_answers ho rfl

end Sys2Proof.Machine

/-! ## Ordered blending (R171, R172)

A fragment's distance from NEXTSEQ decides what becomes of it. An application ends with firings of the die's BLND nodes that look
again; `WakeFrame` says what that leaves alone. -/

namespace Sys2Proof.Machine

/-! ### Releasing parked firings -/

/-- Between two states the output buffers of every element and all bytes are the same, and no due task is lost. -/
structure WakeFrame (s t : State) : Prop where
  outs : ∀ k, (t.elem k).outs = (s.elem k).outs
  bytes : t.bytes = s.bytes
  agenda : ∀ x ∈ s.agenda, x ∈ t.agenda

theorem WakeFrame.chains : Chains WakeFrame where
  refl _ := ⟨fun _ => rfl, rfl, fun _ h => h⟩
  trans a b := ⟨fun k => (b.outs k).trans (a.outs k), b.bytes.trans a.bytes, fun x h => b.agenda x (a.agenda x h)⟩

theorem modElem_wakeFrame {k : Nat} {g : Element → Element} (hg : ∀ e, (g e).outs = e.outs := by exact fun _ => rfl) :
    (modElem k g).Within WakeFrame := fun s => ⟨modElem_elemFrame hg s, rfl, fun _ h => h⟩

theorem setWay_wakeFrame (key k : Nat) (w : Way) : (setWay key k w).Within WakeFrame := fun _ =>
  ⟨fun _ => rfl, rfl, fun _ h => h⟩

theorem modCtx_wakeFrame (c : Nat) (g : Ctx → Ctx) : (modCtx c g).Within WakeFrame := fun _ =>
  ⟨fun _ => rfl, rfl, fun _ h => h⟩

theorem afterTask_wakeFrame (n : Nat) (t : Task) : (afterTask n t).Within WakeFrame := fun _ =>
  ⟨fun _ => rfl, rfl, fun _ h => mem_agendaInsert.2 (.inr h)⟩

theorem after_wakeFrame (n : Nat) (i : Instr) : (after n i).Within WakeFrame := afterTask_wakeFrame n _

theorem afterOnce_wakeFrame (n : Nat) (i : Instr) : (afterOnce n i).Within WakeFrame :=
  Cmd.within_get fun s => Cmd.within_when WakeFrame.chains (fun _ => after_wakeFrame n i) s

theorem wakeSet_wakeFrame (key : Nat) : (wakeSet key).Within WakeFrame :=
  Cmd.within_get fun s => Cmd.within_each WakeFrame.chains (fun _ _ => afterOnce_wakeFrame _ _) s

theorem freeWayOf_wakeFrame (key k : Nat) : (freeWayOf key k).Within WakeFrame := Cmd.within_get fun s => by
  have hseq : ∀ w c, c.Within WakeFrame → (Cmd.seq (setWay key k w) c).Within WakeFrame := fun w c =>
    Cmd.within_seq WakeFrame.chains (setWay_wakeFrame key k w)
  split
  · exact hseq _ _ (wakeSet_wakeFrame key) s
  · exact hseq _ _ (after_wakeFrame _ _) s

theorem askRefill_wakeFrame (f : Firing) (k : Nat) : (askRefill f k).Within WakeFrame := by
  refine Cmd.within_get fun s => Cmd.within_seq WakeFrame.chains (modCtx_wakeFrame _ _) ?_ s
  split
  · exact Cmd.within_seq WakeFrame.chains (setWay_wakeFrame _ _ _) (after_wakeFrame _ _)
  · exact Cmd.within_skip WakeFrame.chains

theorem leaveParked_wakeFrame (p : Parked) {c : Cmd} (hc : c.Within WakeFrame) : (leaveParked p c).Within WakeFrame :=
  Cmd.within_seq WakeFrame.chains modElem_wakeFrame
    (Cmd.within_seq WakeFrame.chains (Cmd.within_when WakeFrame.chains fun _ => afterOnce_wakeFrame _ _) hc)

/-- A parked firing that is released fires anew, or asks for its entry first (R251). -/
theorem release_wakeFrame (p : Parked) : (release p).Within WakeFrame := by
  have hR := WakeFrame.chains
  have hleave := leaveParked_wakeFrame p (afterTask_wakeFrame 0 (.refire p.i p.f))
  have hmark : (modParked p.f fun q => { q with released := true }).Within WakeFrame := modElem_wakeFrame
  refine Cmd.within_when hR fun _ => Cmd.within_get fun s => ?_
  split
  · exact Cmd.within_seq hR hleave (freeWayOf_wakeFrame _ _) s
  · exact Cmd.within_seq hR hmark (askRefill_wakeFrame _ _) s
  · exact hmark s
  · exact hleave s

theorem wakeBlends_wakeFrame (die : Nat) : (wakeBlends die).Within WakeFrame :=
  Cmd.within_get fun s => Cmd.within_each WakeFrame.chains
    (fun _ _ => Cmd.within_get fun t => Cmd.within_each WakeFrame.chains (fun p _ => release_wakeFrame p) t) s

/-! ### Applying a fragment (R172) -/

theorem vaultWrite_aside (die va : Nat) (bs : List Byte) : (vaultWrite die va bs).Within (Aside id) := fun _ =>
  ⟨rfl, rfl, fun _ => rfl, fun _ h => h⟩

theorem vaultWrite_bytes (die va : Nat) (bs : List Byte) (s : State) :
    ((vaultWrite die va bs).exec s).bytes = { s.bytes with vault := s.bytes.vault.write (vaultByte die va) bs } := rfl

/-- A fragment's pixel is written where the fragment passes. -/
def writePixel (die : Nat) (store : Option (Nat × List Byte)) : Cmd := Cmd.opt store fun (a, bs) => vaultWrite die a bs

theorem writePixel_aside (die : Nat) (store : Option (Nat × List Byte)) : (writePixel die store).Within (Aside id) :=
  Cmd.within_opt (Aside.chains id) fun _ => vaultWrite_aside _ _ _

/-- The head of a tile whose window closes: NEXTSEQ after the window's last fragment, and OWNER cleared. -/
def closedHead (w : BlndWin) : List Byte := leBytes ((w.next + 1) % 2 ^ 32) 4 ++ leBytes 0 4

/-- A window with nothing held closes when its fragment is applied. -/
theorem applyAll_alone {f : GfxNode} {c : Firing} {die lat : Nat} {w : BlndWin} {g : Fragment} {s : State}
    {store : Option (Nat × List Byte)} {written : Bool} (hfrags : w.frags = [])
    (happ : applyFragment f s die w.addr g.a = (store, written, none)) (n : Nat) :
    (applyAll f c die lat w g (n + 1)).exec s = (Cmd.all [writePixel die store,
      emit { c with tag := g.tag } f.toHdr lat g.tag (.bit written), vaultWrite die w.addr (closedHead w), dropBlnd c w.addr,
      wakeBlends die]).exec s := by
  simp only [applyAll, Cmd.exec_get, happ, hfrags]
  rfl

/-- What an application depends on is no part of the record of a firing. -/
theorem applyFragment_fired (f : GfxNode) (c : Firing) (s : State) :
    applyFragment f ((markFired c).exec s) = applyFragment f s := rfl

/-! ### The row BLND -/

/-- The tile that a fragment names. -/
def blndTile (s : State) : Nat := (orNull s.cur.b).word.toNat % 2 ^ 32

/-- The sequence number of a fragment. -/
def blndSeq (s : State) : Nat := (orNull s.cur.c).word.toNat % 2 ^ 32

/-- The fragment as a window holds it. -/
def blndFragment (s : State) : Fragment := ⟨blndSeq s, (orNull s.cur.a).wide, s.cur.tag⟩

/-- Cycles of an access to a tile (R186). -/
def blndLat (s : State) : Nat := 16 + vaultHops (vaultAbove s.cur.sid) (blndTile s / 2 ^ 24) + eSlotWait s.now

/-- A fragment's distance from NEXTSEQ. -/
def BlndWin.ahead (w : BlndWin) (seq : Nat) : Nat := (seq + 2 ^ 32 - w.next) % 2 ^ 32

/-- What becomes of a fragment whose tile has an open window. -/
def takeFragment (f : GfxNode) (s : State) (w : BlndWin) : Cmd :=
  if w.ahead (blndSeq s) = 0 then .seq (markFired s.cur) (applyAll f s.cur (dieOf s.cur.sid) (blndLat s) w (blndFragment s) 18)
  else if 2 ^ 31 ≤ w.ahead (blndSeq s) || w.frags.any fun (k, _) => k == blndSeq s then
    .seq (markFired s.cur) (raiseFault s.cur f.toHdr (blndLat s) causeIllegal)
  else if w.ahead (blndSeq s) ≤ 15 then .all [
    markFired s.cur,
    vaultWrite (dieOf s.cur.sid) (blndTile s + 4) (leBytes (ownerWord s.cur) 4),
    setBlnd s.cur { w with frags := w.frags ++ [(blndSeq s, blndFragment s)] }]
  else park (.blnd f) s.cur .blend

/-- A fragment whose number is not held already, and that is not behind, is no fault. -/
theorem takeFragment_sound {s : State} {f : GfxNode} {w : BlndWin} (hfree : ∀ x ∈ w.frags, x.1 ≠ blndSeq s)
    (hpos : 0 < w.ahead (blndSeq s)) (hlt : w.ahead (blndSeq s) < 2 ^ 31) : takeFragment f s w =
      if w.ahead (blndSeq s) ≤ 15 then .all [
      markFired s.cur,
      vaultWrite (dieOf s.cur.sid) (blndTile s + 4) (leBytes (ownerWord s.cur) 4),
      setBlnd s.cur { w with frags := w.frags ++ [(blndSeq s, blndFragment s)] }]
    else park (.blnd f) s.cur .blend := by
  have hheld : (w.frags.any fun (k, _) => k == blndSeq s) = false := by simpa using hfree
  rw [takeFragment, if_neg hpos.ne', hheld, decide_eq_false (by omega), Bool.or_self, if_neg Bool.false_ne_true]

section
variable {s : State} {f : GfxNode} {w : BlndWin} (ho : s.cur.ordinary f.pred) (halign : blndTile s % 64 = 0)
  (hallowed : s.vaultAllowed s.cur.ctx (blndTile s) tileBytes = true)
  (hfind : ((s.elem s.cur.sid).blnds.filter (fun x => x.frm == s.cur.frm && x.node == s.cur.node)).find?
    (fun x => x.addr == blndTile s) = some w)
include ho halign hallowed hfind

theorem exec_blnd : exec (.blnd f) s = (takeFragment f s w).next s := by
  change execBlnd f s = _
  have htile : (orNull s.cur.b).word.toNat % 2 ^ 32 = blndTile s := rfl
  have hgoes : (s.cur.poison?.isSome || s.cur.off f.toHdr.pred) = false := ho.goes
  simp only [execBlnd, hgoes, htile, halign, hallowed, hfind, Bool.false_eq_true, if_false, bne_self_eq_false, Bool.not_true]
  rfl

/-- A fragment whose turn has come, with nothing held. -/
theorem blnd_applies {store : Option (Nat × List Byte)} {written : Bool} (hseq : blndSeq s = w.next % 2 ^ 32)
    (hnext : w.next < 2 ^ 32) (hfrags : w.frags = [])
    (happ : applyFragment f s (dieOf s.cur.sid) (blndTile s) (orNull s.cur.a).wide = (store, written, none)) :
    Answers (.blnd f) s fun t => Sends s t s.cur f.toHdr (blndLat s) s.cur.tag (.bit written) (.bit written) ∧
      t.bytes = ((vaultWrite (dieOf s.cur.sid) (blndTile s) (closedHead w)).exec
        ((writePixel (dieOf s.cur.sid) store).exec s)).bytes := by
  have haddr : w.addr = blndTile s := by simpa using List.find?_some hfind
  have hahead : w.ahead (blndSeq s) = 0 := by
    rw [BlndWin.ahead, hseq, Nat.mod_eq_of_lt hnext, Nat.add_sub_cancel_left, Nat.mod_self]
  let fired := (markFired s.cur).exec s
  let stored := (writePixel (dieOf s.cur.sid) store).exec fired
  let sent := (emit s.cur f.toHdr (blndLat s) s.cur.tag (.bit written)).exec stored
  let closed := (vaultWrite (dieOf s.cur.sid) (blndTile s) (closedHead w)).exec sent
  let opened := (Cmd.seq (dropBlnd s.cur (blndTile s)) (wakeBlends (dieOf s.cur.sid))).exec closed
  have happlied : (applyAll f s.cur (dieOf s.cur.sid) (blndLat s) w (blndFragment s) 18).exec fired = opened := by
    rw [applyAll_alone hfrags (by rw [haddr, applyFragment_fired]; exact happ), haddr]
    rfl
  have hend : WakeFrame closed opened :=
    Cmd.within_seq WakeFrame.chains modElem_wakeFrame (wakeBlends_wakeFrame _) closed
  have hstored : Aside id fired stored := writePixel_aside _ store fired
  have hsent : Sends s sent s.cur f.toHdr (blndLat s) s.cur.tag (.bit written) (.bit written) :=
    ((emit_sends ..).of_outs (by rw [hstored.elem]) hstored.now).after rfl rfl
  have hclosed : closed.bytes = ((vaultWrite (dieOf s.cur.sid) (blndTile s) (closedHead w)).exec
      ((writePixel (dieOf s.cur.sid) store).exec s)).bytes := by
    have hbytes : sent.bytes = stored.bytes := (emit2_nodeFrame ..).bytes
    rw [vaultWrite_bytes, vaultWrite_bytes, hbytes]
    cases store <;> rfl
  refine ⟨opened, ?_, (hsent.aside (vaultWrite_aside _ _ _ sent)).before (hend.outs _) hend.agenda, hend.bytes.trans hclosed⟩
  rw [exec_blnd ho halign hallowed hfind, takeFragment, if_pos hahead]
  exact congrArg _ happlied

section
variable (hfree : ∀ x ∈ w.frags, x.1 ≠ blndSeq s)
include hfree

/-- A fragment up to 15 ahead is held in the window. -/
theorem blnd_holds (hpos : 1 ≤ w.ahead (blndSeq s)) (hle : w.ahead (blndSeq s) ≤ 15) : Answers (.blnd f) s fun t =>
    (t.elem s.cur.sid).outs = (s.elem s.cur.sid).outs ∧ (t.elem s.cur.sid).parked = (s.elem s.cur.sid).parked ∧
      ∃ v ∈ (t.elem s.cur.sid).blnds, v.addr = blndTile s ∧ v.next = w.next ∧
        v.frags = w.frags ++ [(blndSeq s, blndFragment s)] := by
  have haddr : w.addr = blndTile s := by simpa using List.find?_some hfind
  let v : BlndWin := { w with frags := w.frags ++ [(blndSeq s, blndFragment s)] }
  let claimed := (vaultWrite (dieOf s.cur.sid) (blndTile s + 4) (leBytes (ownerWord s.cur) 4)).exec ((markFired s.cur).exec s)
  have helem : ((setBlnd s.cur v).exec claimed).elem s.cur.sid = _ := modElem_elem_self ..
  refine ⟨(setBlnd s.cur v).exec claimed, ?_, by rw [helem]; rfl, by rw [helem]; rfl, v, ?_, haddr, rfl, rfl⟩
  · rw [exec_blnd ho halign hallowed hfind, takeFragment_sound hfree hpos (by omega), if_pos hle]
    rfl
  · rw [helem]
    exact List.mem_append_right _ (List.mem_singleton_self v)

/-- A fragment further ahead parks. -/
theorem blnd_parks (hgt : 16 ≤ w.ahead (blndSeq s)) (hlt : w.ahead (blndSeq s) < 2 ^ 31) : Answers (.blnd f) s fun t =>
    (t.elem s.cur.sid).outs = (s.elem s.cur.sid).outs ∧ ∃ p ∈ (t.elem s.cur.sid).parked, p.i = .blnd f ∧ p.f = s.cur := by
  refine ⟨_, exec_blnd ho halign hallowed hfind, ?_⟩
  rw [takeFragment_sound hfree (by omega) hlt, if_neg (by omega)]
  exact park_parks ..

end

end

theorem blendRow : Claims.BlendRow := by
  intro s f w ho c e die addr seq lat pixel halign hallowed hfind
  refine ⟨fun store written hseq hnext hfrags happ => ?_, fun _ hfree =>
    ⟨blnd_holds ho halign hallowed hfind hfree, blnd_parks ho halign hallowed hfind hfree⟩⟩
  refine (blnd_applies ho halign hallowed hfind hseq hnext hfrags happ).imp fun t ⟨hsends, hbytes⟩ => ⟨hsends, ?_⟩
  have hhead : (w.next + 1) % 2 ^ 32 = (seq + 1) % 2 ^ 32 := by omega
  rw [hbytes, vaultWrite_bytes, closedHead, hhead]
  cases store <;> exact ⟨rfl, rfl⟩

end Sys2Proof.Machine

/-! ## Routing to a queue (R174, R313)

A granted firing writes its slot before it sends; `qinst` lemmas say what the write leaves in the instance and that the sending
does not touch it. One without a grant leaves its reservation and parks; parking changes nothing in the run state. -/

namespace Sys2Proof.Machine

/-! ### Queue instances -/

/-- The queue instances of a region replica, or the engine queues of a context. -/
def State.qinsts (s : State) (ctx : Nat) : Option Nat → Option (List QInst)
  | some r => (s.region? ctx r).map (·.queues)
  | none => (s.ctx? ctx).map (·.equeues)

theorem State.qinst_eq (s : State) (ctx q : Nat) (rgn : Option Nat) :
    s.qinst ctx q rgn = (s.qinsts ctx rgn).bind (·.find? fun i => i.queue == q) := by
  cases rgn with
  | none =>
    rw [State.qinst, State.qinsts]
    cases s.ctx? ctx <;> rfl
  | some r =>
    rw [State.qinst, State.qinsts]
    cases s.region? ctx r <;> rfl

/-- A computing node touches no queue instance. -/
theorem NodeFrame.qinst {s t : State} {f : Firing} (h : NodeFrame s t f) (ctx q : Nat) (rgn : Option Nat) :
    t.qinst ctx q rgn = s.qinst ctx q rgn := by
  have hqinsts : t.qinsts ctx rgn = s.qinsts ctx rgn := by
    cases rgn with
    | some r => exact still_part (h.regions ctx r) Region.queues
    | none =>
      by_cases hc : ctx = f.ctx
      · have hq := congrArg (Option.map Ctx.equeues) h.ctx
        rw [Option.map_map, Option.map_map] at hq
        exact hc ▸ hq
      · exact congrArg (Option.map Ctx.equeues) (h.otherCtxs ctx hc)
  rw [State.qinst_eq, State.qinst_eq, hqinsts]

/-- An instance of a queue is changed in place. -/
def changeQueue (q : Nat) (g : QInst → QInst) (i : QInst) : QInst := if i.queue = q then g i else i

theorem modQinst_qinsts (ctx q : Nat) (rgn : Option Nat) (g : QInst → QInst) (s : State) :
    ((modQinst ctx q rgn g).exec s).qinsts ctx rgn = (s.qinsts ctx rgn).map (List.map (changeQueue q g)) := by
  cases rgn with
  | some r =>
    rw [modQinst, State.qinsts, modRegion_region_self, Option.map_map, State.qinsts, Option.map_map]
    rfl
  | none =>
    rw [modQinst, State.qinsts, modCtx_ctx_self, Option.map_map, State.qinsts, Option.map_map]
    rfl

/-- A change that keeps an instance's queue changes the instance that is found. -/
theorem modQinst_qinst {g : QInst → QInst} (hg : ∀ i, (g i).queue = i.queue) (ctx q : Nat) (rgn : Option Nat) (s : State) :
    ((modQinst ctx q rgn g).exec s).qinst ctx q rgn = (s.qinst ctx q rgn).map g := by
  have hqueue : (fun i => i.queue == q) ∘ changeQueue q g = fun i => i.queue == q := by
    funext i
    rw [Function.comp_apply, changeQueue]
    split
    · rw [hg]
    · rfl
  have hfind : ∀ l : List QInst, (l.map (changeQueue q g)).find? (fun i => i.queue == q) =
      (l.find? fun i => i.queue == q).map g := fun l => by
    rw [List.find?_map, hqueue]
    refine Option.map_congr fun i hi => if_pos ?_
    simpa using List.find?_some hi
  rw [State.qinst_eq, State.qinst_eq, modQinst_qinsts]
  cases s.qinsts ctx rgn with
  | none => rfl
  | some l => exact hfind l

theorem modQinst_aside (ctx q : Nat) (rgn : Option Nat) (g : QInst → QInst) : (modQinst ctx q rgn g).Within (Aside Ctx.blank) := by
  cases rgn with
  | some r => exact fun s => (modRegion_aside _ _ _ s).part _
  | none => exact modCtx_aside

/-! ### Writing a slot (R313 step 3) -/

/-- Whoever consumes the queue of a reservation looks again. -/
def tellConsumer (r : Reservation) : Cmd := match r.rgn with
  | some g => after 0 (.delivery r.ctx g)
  | none => .get fun s => Cmd.each (s.eng.jobs.filter fun (_, j) => j.ctx == r.ctx && j.state == .running && j.target == 64 + r.queue)
      fun (id, _) => after 0 (.engineQueueTakeUp id)

/-- The slot of a reservation takes its value. -/
def fillSlot (r : Reservation) (k : Nat) : Cmd :=
  modQinst r.ctx r.queue r.rgn fun x => { x with slots := x.slots.set k (.written r.val) }

theorem writeSlot_exec (n : Nat) (r : Reservation) (k : Nat) (s : State) :
    (writeSlot n r k).exec s = (tellConsumer r).exec ((dropResv n).exec ((fillSlot r k).exec s)) := rfl

/-- Tasks that become due, alone or one for each job. -/
theorem tellConsumer_within {R : State → State → Prop} (hR : Chains R) (hafter : ∀ n i, (after n i).Within R) (r : Reservation) :
    (tellConsumer r).Within R := by
  rw [tellConsumer]
  split
  · exact hafter _ _
  · exact Cmd.within_get fun s => Cmd.within_each hR (fun _ _ => hafter _ _) s

theorem writeSlot_aside (n : Nat) (r : Reservation) (k : Nat) : (writeSlot n r k).Within (Aside Ctx.blank) :=
  Cmd.within_seq (Aside.chains _) (modQinst_aside _ _ _ _) <| Cmd.within_seq (Aside.chains _) (fun s => (blocksPrim_aside _ s).part _)
    (tellConsumer_within (Aside.chains _) (fun n i s => (after_aside n i s).part _) r)

theorem writeSlot_qinst (n : Nat) (r : Reservation) (k : Nat) (s : State) :
    ((writeSlot n r k).exec s).qinst r.ctx r.queue r.rgn =
      (s.qinst r.ctx r.queue r.rgn).map fun x => { x with slots := x.slots.set k (.written r.val) } := by
  have htold := tellConsumer_within (NodeFrame.chains s.cur) (after_nodeFrame s.cur) r ((dropResv n).exec ((fillSlot r k).exec s))
  have hdropped : ((dropResv n).exec ((fillSlot r k).exec s)).qinst r.ctx r.queue r.rgn =
      ((fillSlot r k).exec s).qinst r.ctx r.queue r.rgn := rfl
  rw [writeSlot_exec, htold.qinst, hdropped]
  exact modQinst_qinst (g := fun x => { x with slots := x.slots.set k (.written r.val) }) (fun _ => rfl) ..

/-! ### Parking changes nothing in the run state -/

/-- Between two states the run state and the cycle are the same. -/
def SameRun (s t : State) : Prop := t.run = s.run ∧ t.now = s.now

theorem SameRun.chains : Chains SameRun where
  refl _ := ⟨rfl, rfl⟩
  trans a b := ⟨b.1.trans a.1, b.2.trans a.2⟩

theorem startFull_sameRun (ctx : Nat) : (startFull ctx).Within SameRun := Cmd.within_get fun s => by
  split
  · exact Cmd.within_when SameRun.chains (fun _ _ => ⟨rfl, rfl⟩) s
  · exact SameRun.chains.refl s

theorem placeParked_sameRun (f : Firing) (age : Nat) : (placeParked f age).Within SameRun := by
  have hR := SameRun.chains
  have hset : ∀ key k w, (setWay key k w).Within SameRun := fun _ _ _ _ => ⟨rfl, rfl⟩
  have hspill : ∀ key m, (spill f.ctx key m).Within SameRun := fun _ _ _ => ⟨rfl, rfl⟩
  have hplaced : (modParked f fun p => { p with placed := true }).Within SameRun := fun _ => ⟨rfl, rfl⟩
  refine Cmd.within_get fun s => ?_
  have haway : ∀ c : Cmd, c.Within SameRun →
      (if s.canSpill f.ctx (setKeyAt f.sid f.frm f.node f.tag) then .seq c (modParked f fun p => { p with placed := true })
        else startFull f.ctx).Within SameRun := fun c hc => by
    split
    · exact Cmd.within_seq hR hc hplaced
    · exact startFull_sameRun _
  dsimp only
  split
  · exact Cmd.within_seq hR (hset _ _ _) hplaced s
  · split
    · exact haway _ (Cmd.within_seq hR (hspill _ _) (hset _ _ _)) s
    · exact haway _ (hspill _ _) s
  · exact haway _ (hspill _ _) s

theorem park_sameRun (i : Instr) (f : Firing) (why : ParkWhy) : (park i f why).Within SameRun := Cmd.within_get fun s =>
  Cmd.within_seq SameRun.chains (fun _ => ⟨rfl, rfl⟩) (placeParked_sameRun f s.now) s

/-! ### The row ROUTE -/

section
variable {s : State} {f : GfxNode}

/-- The queue that a ROUTE names. -/
def routeQueue (f : GfxNode) (s : State) : Nat := if f.l then f.lit.toNat else (orNull s.cur.b).word.toNat % 2 ^ 32

/-- The key of a ROUTE, by which its queue's owner is chosen. -/
def routeKey (s : State) : W64 := (orNull s.cur.c).word

/-- The value that a ROUTE puts into its slot. -/
def routeVal (f : GfxNode) (s : State) : Val :=
  if f.v then .vector (orNull s.cur.a).wide else .scalar (f.ty.pass (orNull s.cur.a)).word

/-- A firing that is recorded and sends a pr. -/
def sayBit (f : GfxNode) (c : Firing) (lat : Nat) (b : Bool) : Cmd := .seq (markFired c) (emit c f.toHdr lat c.tag (.bit b))

theorem sayBit_nodeFrame (f : GfxNode) (c : Firing) (lat : Nat) (b : Bool) : (sayBit f c lat b).Within (NodeFrame · · c) :=
  Cmd.within_seq (NodeFrame.chains c) (markFired_nodeFrame c) (emit2_nodeFrame c _ _ _ _ _)

theorem sayBit_sends (f : GfxNode) (c : Firing) (lat : Nat) (b : Bool) (s : State) :
    Sends s ((sayBit f c lat b).exec s) c f.toHdr lat c.tag (.bit b) (.bit b) := emit2_fired_sends ..

theorem exec_route_granted {n : Nat} {r : Reservation} (hgrant : s.grantOf s.cur = some (n, r)) : exec (.route f) s =
    (Cmd.seq (writeSlot n { r with val := routeVal f s } (r.slot.getD 0))
      (sayBit f s.cur (s.queueWay (dieOf s.cur.sid) s.cur.ctx r.rgn) true)).next s := by
  change execRoute f s = _
  simp only [execRoute, hgrant]
  rfl

/-- A granted ROUTE writes its value into its slot and sends pr 1. -/
theorem route_granted {n k : Nat} {r : Reservation} {g : QInst} (hgrant : s.grantOf s.cur = some (n, r)) (hslot : r.slot = some k)
    (hinst : s.qinst r.ctx r.queue r.rgn = some g) : Answers (.route f) s fun t =>
      Sends s t s.cur f.toHdr (s.queueWay (dieOf s.cur.sid) s.cur.ctx r.rgn) s.cur.tag (.bit true) (.bit true) ∧
        (t.qinst r.ctx r.queue r.rgn).map (fun x => (x.slot k, x.resv, x.head)) = some (.written (routeVal f s), g.resv, g.head) := by
  let r' : Reservation := { r with val := routeVal f s }
  let lat := s.queueWay (dieOf s.cur.sid) s.cur.ctx r.rgn
  let written := (writeSlot n r' k).exec s
  have haside : Aside Ctx.blank s written := writeSlot_aside n r' k s
  have hframe : NodeFrame written ((sayBit f s.cur lat true).exec written) s.cur := sayBit_nodeFrame ..
  refine ⟨(sayBit f s.cur lat true).exec written, ?_, (sayBit_sends ..).after haside.fab haside.now, ?_⟩
  · rw [exec_route_granted hgrant, hslot]
    rfl
  · rw [hframe.qinst]
    refine (congrArg (Option.map _) (writeSlot_qinst n r' k s)).trans ?_
    simp only [r', hinst, Option.map_some, QInst.slot, Tbl.getD_set_self]

section
variable (hgrant : s.grantOf s.cur = none) (ho : s.cur.ordinary f.pred)
include hgrant ho

/-- What a ROUTE without a grant does. -/
theorem exec_route_ungranted : exec (.route f) s = (
    if !s.routeOk s.cur f.v (routeQueue f s) then .seq (markFired s.cur) (raiseFault s.cur f.toHdr 1 causeQueuefmt)
    else match s.ownerOf s.cur.ctx (routeQueue f s) (routeKey s) with
      | none => sayBit f s.cur 1 false
      | some rgn => withSerial fun n => .all [
          setResv n ⟨some s.cur, s.cur.ctx, routeQueue f s, routeKey s, routeVal f s, rgn, none, 0⟩,
          park (.route f) s.cur .reservation,
          after (s.queueWay (dieOf s.cur.sid) s.cur.ctx rgn) (.queueReserve n)] : Cmd).next s := by
  change execRoute f s = _
  have hgoes : (s.cur.poison?.isSome || s.cur.off f.toHdr.pred) = false := ho.goes
  simp only [execRoute, hgrant, hgoes, Bool.false_eq_true, if_false]
  rfl

theorem route_faults (hd : (f.d0.val || f.d1.val) = true) (hbad : s.routeOk s.cur f.v (routeQueue f s) = false) :
    Passes (.route f) s f.toHdr 1 (.poison (s.cur.origin (s.vdOfCtx s.cur.ctx) causeQueuefmt)) := by
  refine ⟨_, exec_route_ungranted hgrant ho, ?_⟩
  rw [hbad, Bool.not_false, if_pos rfl]
  exact raiseFault_fired_sends hd 1 causeQueuefmt s

variable (hok : s.routeOk s.cur f.v (routeQueue f s) = true)
include hok

theorem route_ownerless (howner : s.ownerOf s.cur.ctx (routeQueue f s) (routeKey s) = none) :
    Passes (.route f) s f.toHdr 1 (.bit false) := by
  refine ⟨_, exec_route_ungranted hgrant ho, ?_⟩
  rw [hok, Bool.not_true, if_neg Bool.false_ne_true, howner]
  exact sayBit_sends ..

/-- A ROUTE whose key has an owner asks for a slot and parks. -/
theorem route_asks {rgn : Option Nat} (howner : s.ownerOf s.cur.ctx (routeQueue f s) (routeKey s) = some rgn) :
    Answers (.route f) s fun t => (t.elem s.cur.sid).outs = (s.elem s.cur.sid).outs ∧
      t.run.reservations.get? s.serial = some ⟨some s.cur, s.cur.ctx, routeQueue f s, routeKey s, routeVal f s, rgn, none, 0⟩ ∧
      t.due (s.now + s.queueWay (dieOf s.cur.sid) s.cur.ctx rgn) (.queueReserve s.serial) ∧
      ∃ p ∈ (t.elem s.cur.sid).parked, p.i = .route f ∧ p.f = s.cur := by
  let resv : Reservation := ⟨some s.cur, s.cur.ctx, routeQueue f s, routeKey s, routeVal f s, rgn, none, 0⟩
  let asked := (setResv s.serial resv).exec (Prim.takeSerial.run s)
  let parked := (park (.route f) s.cur .reservation).exec asked
  obtain ⟨hrun, hnow⟩ := park_sameRun (.route f) s.cur .reservation asked
  obtain ⟨houts, hparked⟩ := park_parks (.route f) s.cur .reservation asked
  let way := s.queueWay (dieOf s.cur.sid) s.cur.ctx rgn
  have hdue : ((after way (.queueReserve s.serial)).exec parked).due (parked.now + way) (.queueReserve s.serial) := after_due ..
  refine ⟨(after way (.queueReserve s.serial)).exec parked, ?_, houts, ?_, hnow ▸ hdue, hparked⟩
  · rw [exec_route_ungranted hgrant ho, hok, Bool.not_true, if_neg Bool.false_ne_true, howner]
    rfl
  · exact (congrArg (fun r : RunState => r.reservations.get? s.serial) hrun).trans (Tbl.get?_set_self ..)

end

end

theorem routeRow : Claims.RouteRow := by
  intro s f c q key val
  exact ⟨fun n r k g hgrant hslot hinst => route_granted hgrant hslot hinst, fun hgrant ho =>
    ⟨fun rgn hok howner => route_asks hgrant ho hok howner, fun hok howner => route_ownerless hgrant ho hok howner,
      fun hbad hd => route_faults hgrant ho hd hbad⟩⟩

/-- Settles O24: the rows that send values, the window of BLND, and the reservation of ROUTE. -/
theorem graphicsNodes : Obligations.GraphicsNodes := ⟨graphicsRows, blendRow, routeRow⟩

end Sys2Proof.Machine

/-! ## An operation of a stopped element (R45, R181, R191)

A stopped element keeps what it has not begun: its store buffer looks again each cycle and orders nothing. The clauses on the order
of accesses do not ask that the element of the operation runs. -/

namespace Sys2Proof.Machine

/-- The store buffer of a stopped element lets no operation that waits be ordered. -/
theorem exec_storeResolve_stopped {s : State} {op : Nat} {o : MemOp} (ho : s.op? op = some o)
    (hstop : (s.elem o.f.sid).stopped = true) (hphase : o.phase = .resolving) :
    exec (.storeResolve op) s = .next ((after 1 (.storeResolve op)).exec s) := by
  change execStoreResolve op s = _
  simp only [execStoreResolve, ho, hstop, hphase, Cmd.next_eq]
  rfl

/-- A FENCE with a destination. -/
def fenceNode : MemNode :=
  { sub := 0, pred := .always, ty := .n64, d0 := ⟨true, 9, .a⟩, d1 := ⟨false, 0, .a⟩, lit := 0, l := false, v := false, lsid := 0,
    g := false, ord := 0, scope := 0, prv := 31, nxt := 31, last := true }

/-- The operation that the FENCE's firing after reset becomes. -/
def fenceOp : MemOp := newOp (.fence fenceNode) Firing.zero State.reset

/-- After reset, the FENCE is the only operation, and its element is stopped. -/
def fenceAtStoppedElement : State :=
  { State.reset with
    fab := { State.reset.fab with elements := [(0, { Element.empty with stopped := true })] }
    mem := { State.reset.mem with ops := [(7, fenceOp)] } }

/-- Refutes O17: in the state above every hypothesis about the FENCE holds, so its clause would have the element send the operand;
the element is stopped and sends nothing. The statement does not ask that the element runs. -/
theorem not_orderAndHome : ¬ Obligations.OrderAndHome := by
  rintro ⟨hordered, -⟩
  obtain ⟨hfence, -⟩ := hordered fenceAtStoppedElement 7 fenceOp rfl rfl rfl rfl rfl (by decide) (by decide)
  obtain ⟨t, hexec, hsends⟩ := hfence fenceNode rfl rfl
  have hwaits : exec (.storeResolve 7) fenceAtStoppedElement = _ := exec_storeResolve_stopped (o := fenceOp) rfl rfl rfl
  obtain rfl := Host.Outcome.next.inj (hexec.symm.trans hwaits)
  exact absurd hsends.outs (by decide)

end Sys2Proof.Machine

/-! ## Operations complete and reply (R74, R181, R198, R272) -/

namespace Sys2Proof.Machine

/-! ### What lies beside the fabric and the bytes -/

/-- Between two states the fabric, the cycle, the contexts and all bytes are the same, and no due task is lost. -/
structure QuietFrame (s t : State) : Prop extends Aside id s t where
  bytes : t.bytes = s.bytes

theorem QuietFrame.chains : Chains QuietFrame where
  refl s := ⟨(Aside.chains id).refl s, rfl⟩
  trans a b := ⟨(Aside.chains id).trans a.toAside b.toAside, b.bytes.trans a.bytes⟩

theorem memPrim_quiet (f : MemSys → MemSys) : (Cmd.prim (.mem f)).Within QuietFrame := fun s => ⟨memPrim_aside f s, rfl⟩

theorem modOp_quiet (n : Nat) (f : MemOp → MemOp) : (modOp n f).Within QuietFrame := memPrim_quiet _

theorem after_quiet (n : Nat) (i : Instr) : (after n i).Within QuietFrame := fun s => ⟨after_aside n i s, rfl⟩

theorem count_quiet (die vd number n : Nat) : (count die vd number n).Within QuietFrame := fun s => ⟨count_aside die vd number n s, rfl⟩

theorem finishOp_quiet (n : Nat) : (finishOp n).Within QuietFrame := Cmd.within_get fun s => by
  have hR := QuietFrame.chains
  split
  · exact hR.refl s
  · exact Cmd.within_seq hR (modOp_quiet _ _)
      (Cmd.within_seq hR (Cmd.within_when hR fun _ => after_quiet 0 _) (memPrim_quiet _)) s

theorem nullOp_quiet (n : Nat) : (nullOp n).Within QuietFrame :=
  Cmd.within_seq QuietFrame.chains (modOp_quiet _ _) (after_quiet 0 _)

/-! ### Replies -/

/-- A reply's tokens are put out, and copied into the snapshots that wait for them (R380, R381). -/
theorem emitReply_within {R : State → State → Prop} (hR : Chains R) {o : MemOp} {lat : Nat} {v0 v1 : Val}
    (hemit : (emit2 o.f o.i.hdr lat o.f.tag v0 v1).Within R)
    (hsnaps : ∀ g : TenState → Tbl Snap, (Cmd.prim (.ten fun t => { t with snaps := g t })).Within R) : (emitReply o lat v0 v1).Within R :=
  Cmd.within_seq hR hemit (Cmd.within_get fun s => Cmd.within_each hR (fun ⟨_, _⟩ _ => hsnaps _) s)

theorem emitReply_sends (o : MemOp) (lat : Nat) (v0 v1 : Val) (s : State) :
    Sends s ((emitReply o lat v0 v1).exec s) o.f o.i.hdr lat o.f.tag v0 v1 := by
  refine (emit2_sends o.f o.i.hdr lat o.f.tag v0 v1 s).aside (g := id) ?_
  exact Cmd.within_get (fun u => Cmd.within_each (Aside.chains id) (fun ⟨_, _⟩ _ _ => ⟨rfl, rfl, fun _ => rfl, fun _ h => h⟩) u) _

theorem emitReply_nodeFrame (o : MemOp) (lat : Nat) (v0 v1 : Val) : (emitReply o lat v0 v1).Within (NodeFrame · · o.f) :=
  emitReply_within (NodeFrame.chains o.f) (emit2_nodeFrame _ _ _ _ _ _) fun _ s => { (NodeFrame.chains o.f).refl s with }

/-- A load that has bound its lanes sends its value. -/
theorem finishLoad_sends {s : State} {n lat : Nat} {o : MemOp} (ho : s.op? n = some o) (hpref : o.isPref = false) :
    Sends s ((finishLoad n lat).exec s) o.f o.i.hdr lat o.f.tag o.value o.value := by
  simp only [finishLoad, Cmd.exec_get, ho, hpref, Bool.not_false, Cmd.exec_seq, Cmd.exec_when_true]
  exact (emitReply_sends ..).aside (finishOp_quiet _ _).toAside

end Sys2Proof.Machine

/-! ## Vault accesses (R177, R186, R257, R258) -/

namespace Sys2Proof.Machine

/-! ### A request waits at its bank (R257) -/

section
variable {s : State} {op : Nat} {o : MemOp} {l : Lane} {b : VaultBank} (ho : s.op? op = some o) (hlanes : o.lanes = [l])
include ho hlanes

theorem vaultRequestArrive_waits (hb : s.mem.banks.get? (bankKey (dieOf o.f.sid) (bankOf l.pa)) = some b) :
    Answers (.vaultRequestArrive op) s fun t =>
      (t.mem.banks.get? (bankKey (dieOf o.f.sid) (bankOf l.pa))).map (·.waiting) = some (b.waiting ++ [op]) ∧
      (b.waiting = [] → t.due (s.now + toESlot s.now b.free) (.vaultSlotServe (dieOf o.f.sid) (bankOf l.pa))) := by
  let key := bankKey (dieOf o.f.sid) (bankOf l.pa)
  let u := (Cmd.prim (.mem fun m => { m with banks := m.banks.set key { b with waiting := b.waiting ++ [op] } })).exec s
  have hexec : exec (.vaultRequestArrive op) s = .next ((Cmd.when b.waiting.isEmpty
      (after (toESlot s.now b.free) (.vaultSlotServe (dieOf o.f.sid) (bankOf l.pa)))).exec u) := by
    change execVaultRequestArrive op s = _
    simp only [execVaultRequestArrive, ho, hlanes, Tbl.getD, hb, Option.getD_some]
    rfl
  have hmem : ∀ c n i, ((Cmd.when c (after n i)).exec u).mem = u.mem := fun c n i =>
    Cmd.keep_when (g := State.mem) (fun _ => rfl) u
  refine ⟨_, hexec, ?_, fun hnone => ?_⟩
  · rw [hmem]
    exact congrArg (Option.map _) (Tbl.get?_set_self ..)
  · rw [hnone]
    exact after_due _ _ u

/-! ### The bank serves the site that is next (R186, R258) -/

/-- A bank takes up the access of an operation: the slot is used, and the bank looks again if others wait. -/
def bankTakes (s : State) (die bank : Nat) (b : VaultBank) (op : Nat) (o : MemOp) : Cmd :=
  let b' : VaultBank := ⟨b.waiting.filter fun x => x != op, o.f.sid % 1536, s.now + 1⟩
  .seq (.prim (.mem fun m => { m with banks := m.banks.set (bankKey die bank) b' }))
    (.when (!b'.waiting.isEmpty) (after (toESlot s.now (s.now + 1)) (.vaultSlotServe die bank)))

omit ho hlanes in
theorem bankTakes_quiet (s : State) (die bank : Nat) (b : VaultBank) (op : Nat) (o : MemOp) :
    (bankTakes s die bank b op o).Within QuietFrame :=
  Cmd.within_seq QuietFrame.chains (memPrim_quiet _) (Cmd.within_when QuietFrame.chains fun _ => after_quiet _ _)

omit ho hlanes in
theorem bankTakes_ops (s : State) (die bank : Nat) (b : VaultBank) (op : Nat) (o : MemOp) (u : State) :
    ((bankTakes s die bank b op o).exec u).mem.ops = u.mem.ops := by
  rw [bankTakes, Cmd.exec_seq, Cmd.keep_when (g := fun s => s.mem.ops) (fun _ => rfl)]
  rfl

section
variable {die bank : Nat} (hb : s.mem.banks.get? (bankKey die bank) = some b) (hnext : s.nextAtBank b = some (op, o))
  (hslot : toESlot s.now b.free = 0)
include hb hnext hslot

omit ho in
theorem exec_vaultSlotServe_store (hstore : o.isStore = true) : exec (.vaultSlotServe die bank) s =
    .next ((Cmd.all [vaultWrite die l.pa l.data, finishOp op, wakeBlends die]).exec ((bankTakes s die bank b op o).exec s)) := by
  change execVaultSlotServe die bank s = _
  simp only [execVaultSlotServe, hb, hnext, hslot, hlanes, hstore]
  rfl

omit ho in
theorem exec_vaultSlotServe_load (hload : o.isStore = false) (hgood : s.vaultBad die l.pa l.size = false) :
    exec (.vaultSlotServe die bank) s = .next ((finishLoad op 10).exec ((modOp op fun x =>
      { x with lanes := [{ l with data := s.vaultRead die l.pa l.size, bound := true }] }).exec ((bankTakes s die bank b op o).exec s))) := by
  change execVaultSlotServe die bank s = _
  simp only [execVaultSlotServe, hb, hnext, hslot, hlanes, hload, hgood]
  rfl

omit ho in
theorem vaultSlotServe_stores (hwf : s.bytes.wf = true) (hstore : o.isStore = true) : Answers (.vaultSlotServe die bank) s fun t =>
    (∀ j, (hj : j < l.data.length) → t.bytes.vault.byte (2 ^ 31 * die + l.pa + j) = l.data[j]) ∧ t.bytes.dram = s.bytes.dram ∧
    ∀ a, a < 2 ^ 31 * die + l.pa ∨ 2 ^ 31 * die + l.pa + l.data.length ≤ a → t.bytes.vault.byte a = s.bytes.vault.byte a := by
  have hvault : s.bytes.vault.wf = true := (Bool.and_eq_true_iff.1 hwf).2
  refine ⟨_, exec_vaultSlotServe_store hlanes hb hnext hslot hstore, ?_⟩
  simp only [Cmd.exec_all_cons, Cmd.exec_all_one]
  rw [(wakeBlends_wakeFrame die _).bytes, (finishOp_quiet op _).bytes, vaultWrite_bytes, (bankTakes_quiet s die bank b op o s).bytes]
  exact ⟨fun j hj => Mem.byte_write _ l.data hvault j hj, rfl, fun a ha => Mem.byte_write_ne l.data hvault ha⟩

theorem vaultSlotServe_loads {f : MemNode} (hi : o.i = .vld f) (hv : f.v = false) (hload : o.isStore = false)
    (hgood : s.vaultBad die l.pa l.size = false) : Answers (.vaultSlotServe die bank) s fun t =>
      let v := Val.scalar (BitVec.ofNat 64 (leNat (s.bytes.vault.read (2 ^ 31 * die + l.pa) l.size)))
      Sends s t o.f f.toHdr 10 o.f.tag v v := by
  let taken := (bankTakes s die bank b op o).exec s
  let read : MemOp := { o with lanes := [{ l with data := s.vaultRead die l.pa l.size, bound := true }] }
  let u := (modOp op fun x => { x with lanes := [{ l with data := s.vaultRead die l.pa l.size, bound := true }] }).exec taken
  have htaken := bankTakes_quiet s die bank b op o s
  have hop : u.op? op = some read := by
    have : taken.mem.ops.get? op = some o := (congrArg (·.get? op) (bankTakes_ops ..)).trans ho
    exact (modOp_op_self ..).trans (by rw [this]; rfl)
  have hvalue : read.value = .scalar (BitVec.ofNat 64 (leNat (s.bytes.vault.read (2 ^ 31 * die + l.pa) l.size))) := by
    simp only [MemOp.value, read, hi, hv, Bool.false_eq_true, if_false]
    rfl
  have hhdr : read.i.hdr = f.toHdr := by rw [show read.i = .vld f from hi]; rfl
  have hsends := finishLoad_sends (lat := 10) hop (by simp only [MemOp.isPref, read, hi])
  rw [hvalue, hhdr] at hsends
  exact ⟨_, exec_vaultSlotServe_load hlanes hb hnext hslot hload hgood, hsends.after htaken.fab htaken.now⟩

end

end

theorem vaultAccesses : Claims.VaultAccesses := by
  intro s op o l hwf ho hlanes die bank key
  exact ⟨fun b hb => vaultRequestArrive_waits ho hlanes hb, fun b hb hnext hslot =>
    ⟨vaultSlotServe_stores hlanes hb hnext hslot hwf, fun f hi hv hload hgood =>
      vaultSlotServe_loads ho hlanes hb hnext hslot hi hv hload hgood⟩⟩

end Sys2Proof.Machine

/-! ## Page walks, held accesses and the dirty bit (R198, R199, R391 to R393)

After its walk an operation is translated and checked. Whatever the checks say, the translation stays in the TLB and no miss comes
back; `CheckFrame` says so. -/

namespace Sys2Proof.Machine

theorem Cmd.within_ite {R : State → State → Prop} {p : Prop} [Decidable p] {a b : Cmd} (ha : a.Within R) (hb : b.Within R) :
    (if p then a else b).Within R := by
  split
  · exact ha
  · exact hb

/-! ### What a record leaves alone -/

/-- Between two states the fabric, the memory system and the bytes of DRAM and of the vaults are the same. -/
structure RecordFrame (s t : State) : Prop where
  fab : t.fab = s.fab
  mem : t.mem = s.mem
  dram : t.bytes.dram = s.bytes.dram
  vault : t.bytes.vault = s.bytes.vault

theorem RecordFrame.chains : Chains RecordFrame where
  refl _ := ⟨rfl, rfl, rfl, rfl⟩
  trans a b := ⟨b.fab.trans a.fab, b.mem.trans a.mem, b.dram.trans a.dram, b.vault.trans a.vault⟩

theorem modCtx_recordFrame (c : Nat) (f : Ctx → Ctx) : (modCtx c f).Within RecordFrame := fun _ => ⟨rfl, rfl, rfl, rfl⟩

theorem sendInterrupt_recordFrame (vd src : Nat) : (sendInterrupt vd src).Within RecordFrame :=
  Cmd.within_get fun s => Cmd.within_when RecordFrame.chains (fun _ _ => ⟨rfl, rfl, rfl, rfl⟩) s

theorem noticeAppend_recordFrame (ctx : Nat) (v : W64) : (noticeAppend ctx v).Within RecordFrame := fun _ => ⟨rfl, rfl, rfl, rfl⟩

/-- A record goes to a ring, and a notice of it to a queue or as a message to host memory (R327, R328). -/
theorem writeRecord_recordFrame (r : FaultRec) : (writeRecord r).Within RecordFrame := by
  refine Cmd.within_get fun s => ?_
  split
  · exact ⟨rfl, rfl, rfl, rfl⟩
  · split
    · refine Cmd.within_seq RecordFrame.chains (modCtx_recordFrame _ _) ?_ s
      dsimp only
      split
      · exact noticeAppend_recordFrame _ _
      · split
        · split
          · split
            · exact noticeAppend_recordFrame _ _
            · exact sendInterrupt_recordFrame _ _
          · exact sendInterrupt_recordFrame _ _
        · exact sendInterrupt_recordFrame _ _
    · exact modCtx_recordFrame _ _ s

/-! ### What the checks of a translated operation leave alone (R198, R391, R392) -/

/-- A translation but for its last use. -/
def TlbEntry.untimed (e : TlbEntry) : TlbEntry := { e with used := 0 }

/-- Between two states the bytes of DRAM and of the vaults, the misses, and every TLB but for the last uses are the same. -/
structure CheckFrame (s t : State) : Prop where
  dram : t.bytes.dram = s.bytes.dram
  vault : t.bytes.vault = s.bytes.vault
  misses : t.mem.misses = s.mem.misses
  tlb : ElemFrame (fun e => e.tlb.map TlbEntry.untimed) s t

theorem CheckFrame.chains : Chains CheckFrame where
  refl s := ⟨rfl, rfl, rfl, (ElemFrame.chains _).refl s⟩
  trans a b := ⟨b.dram.trans a.dram, b.vault.trans a.vault, b.misses.trans a.misses, (ElemFrame.chains _).trans a.tlb b.tlb⟩

/-- What an element can translate does not depend on the last uses of its translations. -/
theorem CheckFrame.tlbFind {s t : State} (h : CheckFrame s t) (sid vd : Nat) (va : W64) :
    (t.tlbFind sid vd va).isSome = (s.tlbFind sid vd va).isSome := by
  have huntimed : ∀ es : List TlbEntry, (es.find? fun e => e.covers vd va).isSome =
      (es.map TlbEntry.untimed).any fun e => e.covers vd va := fun es => by
    rw [List.any_map, List.isSome_find?]
    rfl
  rw [State.tlbFind, State.tlbFind, huntimed, huntimed]
  exact congrArg (List.any · _) (h.tlb sid)

theorem RecordFrame.checkFrame {s t : State} (h : RecordFrame s t) : CheckFrame s t :=
  ⟨h.dram, h.vault, by rw [h.mem], fun k => by rw [State.elem, h.fab]; rfl⟩

theorem NodeFrame.checkFrame {s t : State} {f : Firing} (h : NodeFrame s t f) : CheckFrame s t where
  dram := by rw [h.bytes]
  vault := by rw [h.bytes]
  misses := by rw [h.mem]
  tlb k := by
    by_cases hk : k = f.sid
    · rw [hk]
      exact (congrArg (fun e : Element => e.tlb.map TlbEntry.untimed) h.own :)
    · rw [h.others k hk]

theorem modElem_checkFrame {k : Nat} {g : Element → Element}
    (hg : ∀ e, (g e).tlb.map TlbEntry.untimed = e.tlb.map TlbEntry.untimed := by exact fun _ => rfl) :
    (modElem k g).Within CheckFrame := fun s => ⟨rfl, rfl, rfl, modElem_elemFrame hg s⟩

theorem modOp_checkFrame (n : Nat) (f : MemOp → MemOp) : (modOp n f).Within CheckFrame := fun _ => ⟨rfl, rfl, rfl, fun _ => rfl⟩

theorem after_checkFrame (n : Nat) (i : Instr) : (after n i).Within CheckFrame := fun _ => ⟨rfl, rfl, rfl, fun _ => rfl⟩

theorem nullOp_checkFrame (n : Nat) : (nullOp n).Within CheckFrame :=
  Cmd.within_seq CheckFrame.chains (modOp_checkFrame _ _) (after_checkFrame _ _)

theorem faultOp_checkFrame (n : Nat) (o : MemOp) (cause detail : Nat) (addr : W64) : (faultOp n o cause detail addr).Within CheckFrame := by
  have hR := CheckFrame.chains
  exact Cmd.within_get fun s => Cmd.within_seq hR
    (Cmd.within_seq hR modElem_checkFrame fun s => (writeRecord_recordFrame _ s).checkFrame)
    (Cmd.within_seq hR (fun s => (emitReply_nodeFrame _ _ _ _ s).checkFrame) (nullOp_checkFrame n)) s

theorem checkedOp_checkFrame (n : Nat) : (checkedOp n).Within CheckFrame := by
  have hR := CheckFrame.chains
  refine Cmd.within_get fun s => ?_
  split
  · exact hR.refl s
  · dsimp only
    split
    · split
      · exact nullOp_checkFrame n s
      · exact faultOp_checkFrame _ _ _ _ _ s
    · split
      · exact after_checkFrame _ _ s
      · exact Cmd.within_seq hR (modOp_checkFrame _ _) (after_checkFrame _ _) s

theorem touchTlb_checkFrame (sid vd : Nat) (va : W64) : (touchTlb sid vd va).Within CheckFrame :=
  Cmd.within_get fun s => modElem_checkFrame (fun e => by
    rw [List.map_map]
    refine List.map_congr_left fun x _ => ?_
    rw [Function.comp_apply]
    split <;> rfl) s

/-- Every lane is in the TLB: the operation goes on to its checks (R393). -/
theorem translateOp_found {s : State} {n : Nat} {o : MemOp} (ho : s.op? n = some o)
    (hfound : ∀ l ∈ o.lanes, (s.tlbFind o.f.sid (s.vdOfCtx o.f.ctx) l.va).isSome = true) :
    CheckFrame s ((translateOp n).exec s) := by
  have hR := CheckFrame.chains
  simp only [translateOp, Cmd.exec_get, ho]
  split
  · exact Cmd.within_seq hR (Cmd.within_each hR fun _ _ => touchTlb_checkFrame _ _ _)
      (Cmd.within_seq hR (modOp_checkFrame _ _) (checkedOp_checkFrame n)) s
  next x hx =>
    exfalso
    obtain ⟨l, hl, rfl⟩ := List.mem_map.1 (List.mem_of_find?_eq_some hx)
    obtain ⟨e, he⟩ := Option.isSome_iff_exists.1 (hfound l hl)
    have hbad := List.find?_some hx
    rw [he] at hbad
    exact absurd hbad (by simp [State.laneUnder])

/-! ### TLB_MISS_WALK (R391, R393) -/

/-- A translation goes into a TLB with room. -/
theorem installTlb_find {s : State} {sid vd : Nat} {va : W64} {e : TlbEntry} (hcovers : e.covers vd va = true)
    (hroom : (s.elem sid).tlb.length < 64) : (((installTlb sid e).exec s).tlbFind sid vd va).isSome = true := by
  let kept := (s.elem sid).tlb.filter fun o => !(o.vd == e.vd && o.page == e.page && o.size == e.size)
  have hlen : (kept ++ [e]).length ≤ 64 := by
    have : kept.length ≤ (s.elem sid).tlb.length := List.length_filter_le ..
    rw [List.length_append, List.length_singleton]
    omega
  have htlb : (((installTlb sid e).exec s).elem sid).tlb = kept ++ [e] := by
    rw [installTlb, modElem_elem_self]
    exact if_pos hlen
  rw [State.tlbFind, htlb, List.isSome_find?, List.any_append]
  simp [hcovers]

theorem startWalk_idle {s : State} (hmisses : s.mem.misses = []) (die : Nat) : (startWalk die).exec s = s := by
  have hnone : ∀ vds : List Nat, (vds.findSome? fun vd => ([] : List Miss).find? fun m => m.vd == vd) = none := fun vds => by
    induction vds with
    | nil => rfl
    | cons _ _ ih => exact ih
  simp only [startWalk, Cmd.exec_get, hmisses, List.filter_nil, List.take_nil, hnone, Cmd.exec_opt_none]

/-- TRANSLATION_HOLD: a request that fails at a port that holds none stands at its head (R199). -/
theorem holdOp_holds {s : State} {op : Nat} {o : MemOp} (ho : s.op? op = some o) (hport : (s.elem o.f.sid).portHold = none)
    (cause detail : Nat) (va : W64) :
    let t := (holdOp op o cause detail va).exec s
    t.mem.misses = s.mem.misses ∧ (t.elem o.f.sid).portHold = some op ∧ (t.op? op).map (·.phase) = some .held := by
  have hexec : ∃ record : Cmd, record.Within RecordFrame ∧ (holdOp op o cause detail va).exec s =
      (modElem o.f.sid fun e => { e with portHold := some op }).exec ((modOp op fun o => { o with phase := .held, tries := o.tries + 1 }).exec
        (record.exec ((foldCapture o.f.sid).exec s))) := by
    simp only [holdOp, Cmd.exec_get, hport, Option.isSome_none, Bool.false_eq_true, if_false, Cmd.exec_all_cons, Cmd.exec_all_one]
    exact ⟨_, Cmd.within_ite (writeRecord_recordFrame _) (modCtx_recordFrame _ _), rfl⟩
  obtain ⟨record, hrecord, hexec⟩ := hexec
  have hmem := (hrecord ((foldCapture o.f.sid).exec s)).mem
  rw [hexec]
  have hop : (record.exec ((foldCapture o.f.sid).exec s)).op? op = some o := (congrArg (fun m : MemSys => m.ops.get? op) hmem).trans ho
  exact ⟨(congrArg MemSys.misses hmem :), by rw [modElem_elem_self],
    congrArg (Option.map (·.phase)) ((modOp_op_self ..).trans (congrArg (Option.map _) hop))⟩

/-- The end of a walk for an operation that misses: the leaf goes into its TLB, or the request is held (R199, R393). -/
theorem walked_of_miss {s : State} {op : Nat} {o : MemOp} {l : Lane} {w : Walk} (ho : s.op? op = some o) (hlanes : o.lanes = [l])
    (hmiss : s.tlbFind o.f.sid (s.vdOfCtx o.f.ctx) l.va = none) :
    (∀ e a, w.finish = .leaf e a →
      (walked w (l.va.toNat / 65536) op).exec s = (translateOp op).exec ((installTlb o.f.sid e).exec s)) ∧
    (∀ detail, w.finish = .fails causeXlate detail → o.isPref = false →
      (walked w (l.va.toNat / 65536) op).exec s = (holdOp op o causeXlate detail l.va).exec s) := by
  refine ⟨fun e a hleaf => ?_, fun detail hfails hpref => ?_⟩
  · simp [walked, ho, hlanes, hmiss, hleaf]
  · simp [walked, ho, hlanes, hmiss, hfails, hpref]

/-- The state in which the operation of a served miss goes on: the walkers keep what the walk read, and the miss is gone. -/
def State.walkDone (s : State) (die : Nat) (w : Walk) : State :=
  (Cmd.prim (.mem fun x => { x with misses := [] })).exec ((cacheWalk die w.read).exec s)

section
variable {s : State} {op : Nat} {o : MemOp} {l : Lane} (ho : s.op? op = some o) (hlanes : o.lanes = [l]) (hpref : o.isPref = false)
  {w : Walk} (hw : s.walk (dieOf o.f.sid) (s.vdOfCtx o.f.ctx) (BitVec.ofNat 64 (65536 * (l.va.toNat / 65536))) = w)
  (hmisses : s.mem.misses = [⟨dieOf o.f.sid, s.vdOfCtx o.f.ctx, l.va.toNat / 65536, [op], true⟩])
  (hmiss : s.tlbFind o.f.sid (s.vdOfCtx o.f.ctx) l.va = none) (hfree : s.walkLocked w = false)
include hw hmisses hfree

theorem exec_tlbMissWalk : exec (.tlbMissWalk op) s = .next ((startWalk (dieOf o.f.sid)).exec
    ((walked w (l.va.toNat / 65536) op).exec (s.walkDone (dieOf o.f.sid) w))) := by
  have hserved : s.missOf op = some ⟨dieOf o.f.sid, s.vdOfCtx o.f.ctx, l.va.toNat / 65536, [op], true⟩ := by
    simp [State.missOf, hmisses]
  change execTlbMissWalk op s = _
  simp only [execTlbMissWalk, hserved, hw, hfree, Bool.false_eq_true, if_false, Cmd.next_eq, Cmd.exec_all_cons, Cmd.exec_all_one,
    Cmd.exec_each_cons, Cmd.exec_each_nil]
  have hgone : (Cmd.prim (.mem fun x => { x with misses := x.misses.filter fun y =>
      !(y = ⟨dieOf o.f.sid, s.vdOfCtx o.f.ctx, l.va.toNat / 65536, [op], true⟩) })).exec ((cacheWalk (dieOf o.f.sid) w.read).exec s) =
      s.walkDone (dieOf o.f.sid) w := by
    simp [State.walkDone, cacheWalk, Prim.run, hmisses]
  rw [hgone]

include ho hlanes hmiss

theorem tlbMissWalk_translates {e : TlbEntry} {a : Nat} (hleaf : w.finish = .leaf e a)
    (hcovers : e.covers (s.vdOfCtx o.f.ctx) l.va = true) (hroom : (s.elem o.f.sid).tlb.length < 64) :
    Answers (.tlbMissWalk op) s fun t => (t.tlbFind o.f.sid (s.vdOfCtx o.f.ctx) l.va).isSome = true ∧ t.mem.misses = [] := by
  let u := (installTlb o.f.sid e).exec (s.walkDone (dieOf o.f.sid) w)
  have hfound : (u.tlbFind o.f.sid (s.vdOfCtx o.f.ctx) l.va).isSome = true := installTlb_find hcovers hroom
  have hcheck := translateOp_found (s := u) (n := op) ho (by rw [hlanes]; exact List.forall_mem_singleton.2 hfound)
  have hidle := startWalk_idle (hcheck.misses.trans rfl) (dieOf o.f.sid)
  refine ⟨_, exec_tlbMissWalk hw hmisses hfree, ?_⟩
  rw [(walked_of_miss (s := s.walkDone (dieOf o.f.sid) w) ho hlanes hmiss).1 e a hleaf, hidle]
  exact ⟨(hcheck.tlbFind ..).trans hfound, hcheck.misses⟩

include hpref

theorem tlbMissWalk_holds {detail : Nat} (hfails : w.finish = .fails causeXlate detail) (hport : (s.elem o.f.sid).portHold = none) :
    Answers (.tlbMissWalk op) s fun t => t.mem.misses = [] ∧
      (t.elem o.f.sid).portHold = some op ∧ (t.op? op).map (·.phase) = some .held := by
  obtain ⟨hnone, hheld⟩ := holdOp_holds (s := s.walkDone (dieOf o.f.sid) w) ho hport causeXlate detail l.va
  refine ⟨_, exec_tlbMissWalk hw hmisses hfree, ?_⟩
  rw [(walked_of_miss (s := s.walkDone (dieOf o.f.sid) w) ho hlanes hmiss).2 detail hfails hpref, startWalk_idle hnone]
  exact ⟨hnone, hheld⟩

end

/-! ### Bytes at home (R264, R265, R396) -/

/-- The plaintext of a line depends on its key at home, its key in HBM and its bytes. -/
theorem homeBytes_congr {s t : State} {line : Nat} (hhome : (t.mem.homes.get? line).map (·.key) = (s.mem.homes.get? line).map (·.key))
    (hkeys : t.mem.hbmKeys = s.mem.hbmKeys) (hdram : t.bytes.dram = s.bytes.dram) : t.homeBytes line = s.homeBytes line := by
  simp only [State.homeBytes, hkeys, hdram]
  cases hs : s.mem.homes.get? line <;> cases ht : t.mem.homes.get? line <;> cases s.mem.hbmKeys.get? line <;> simp_all

/-- Between two states the memory system and all bytes are the same. -/
structure MemoryFrame (s t : State) : Prop where
  mem : t.mem = s.mem
  bytes : t.bytes = s.bytes

theorem MemoryFrame.chains : Chains MemoryFrame where
  refl _ := ⟨rfl, rfl⟩
  trans a b := ⟨b.mem.trans a.mem, b.bytes.trans a.bytes⟩

theorem count_memoryFrame (die vd number n : Nat) : (count die vd number n).Within MemoryFrame := fun _ => ⟨rfl, rfl⟩

theorem after_memoryFrame (n : Nat) (i : Instr) : (after n i).Within MemoryFrame := fun _ => ⟨rfl, rfl⟩

theorem trimSet_memoryFrame (die line vd : Nat) : (trimSet die line vd).Within MemoryFrame :=
  Cmd.within_get fun s => Cmd.within_when MemoryFrame.chains (fun _ => by
    split
    · exact after_memoryFrame _ _
    · exact Cmd.within_skip MemoryFrame.chains) s

/-- The plaintext of a line is what stands in HBM: it is held under the key under which it was written (R396). -/
def State.plain (s : State) (line : Nat) : Prop := s.homeBytes line = s.bytes.dram.read (128 * line) 128

/-- Between two states a line whose plaintext stands in HBM stays one, and all bytes are the same. -/
structure PlainFrame (line : Nat) (s t : State) : Prop where
  plain : s.plain line → t.plain line
  bytes : t.bytes = s.bytes

section
variable {line : Nat}

theorem PlainFrame.chains (line : Nat) : Chains (PlainFrame line) where
  refl _ := ⟨fun h => h, rfl⟩
  trans a b := ⟨fun h => b.plain (a.plain h), b.bytes.trans a.bytes⟩

theorem PlainFrame.of_keys {s t : State} (hhome : (t.mem.homes.get? line).map (·.key) = (s.mem.homes.get? line).map (·.key))
    (hkeys : t.mem.hbmKeys = s.mem.hbmKeys) (hbytes : t.bytes = s.bytes) : PlainFrame line s t :=
  ⟨fun h => (homeBytes_congr hhome hkeys (by rw [hbytes])).trans (by rw [hbytes]; exact h), hbytes⟩

theorem MemoryFrame.plainFrame {s t : State} (h : MemoryFrame s t) : PlainFrame line s t :=
  .of_keys (by rw [h.mem]) (by rw [h.mem]) h.bytes

/-- A change of a home line that keeps its key. -/
theorem modHome_plainFrame {f : HomeLine → HomeLine} (hf : ∀ h, (f h).key = h.key := by exact fun _ => rfl) :
    (Cmd.prim (.mem fun m => { m with homes := m.homes.mod line f })).Within (PlainFrame line) := fun s => by
  refine .of_keys ((congrArg (Option.map _) (Tbl.get?_mod_self ..)).trans ?_) rfl rfl
  rw [Option.map_map]
  exact congrArg (Option.map · _) (funext hf)

theorem bumpHzn_plainFrame (die : Nat) (w : Stamp) : (bumpHzn die w).Within (PlainFrame line) :=
  Cmd.within_get fun s => Cmd.within_when (PlainFrame.chains line) (fun _ _ => .of_keys rfl rfl rfl) s

theorem stampHome_plainFrame (die : Nat) (w : Stamp) : (stampHome die line w).Within (PlainFrame line) :=
  Cmd.within_seq (PlainFrame.chains line) modHome_plainFrame (bumpHzn_plainFrame die w)

/-- A line that home fills under the key that it has in HBM decrypts as it stands there. -/
theorem fillHome_plainFrame (die vd : Nat) (s : State) :
    PlainFrame line s ((fillHome die line vd (s.mem.hbmKeys.getD line 0)).exec s) := by
  have hR := MemoryFrame.chains
  cases hs : s.mem.homes.get? line with
  | some h =>
    simp only [fillHome, Cmd.exec_get, hs]
    exact Cmd.within_seq (PlainFrame.chains line) modHome_plainFrame (fun s => (count_memoryFrame die vd 6 1 s).plainFrame) s
  | none =>
    let filled := (Cmd.prim (.mem fun m => { m with homes := m.homes.set line (HomeLine.fresh die
      (s.stamps die (homeSlice (128 * line))).mts (s.mem.hbmKeys.getD line 0) vd s.now) })).exec s
    have hfilled : filled.plain line := by
      have hhome : filled.mem.homes.get? line = some _ := Tbl.get?_set_self ..
      have hkeys : filled.mem.hbmKeys = s.mem.hbmKeys := rfl
      simp only [State.plain, State.homeBytes, hhome, hkeys, HomeLine.fresh, Tbl.getD]
      cases s.mem.hbmKeys.get? line <;> simp
    have hrest : MemoryFrame filled ((fillHome die line vd (s.mem.hbmKeys.getD line 0)).exec s) := by
      simp only [fillHome, Cmd.exec_get, hs]
      exact Cmd.within_seq hR (count_memoryFrame _ _ _ _) (Cmd.within_seq hR (count_memoryFrame _ _ _ _) (trimSet_memoryFrame _ _ _)) filled
    exact ⟨fun _ => hrest.plainFrame.plain hfilled, hrest.bytes⟩

end

/-- A write at home to a line whose plaintext stands in HBM changes the bytes written alone. -/
theorem homeWrite_bytes {s : State} {pa : Nat} (hplain : s.plain (pa / 128)) (bs : List Byte) :
    ((homeWrite pa bs).exec s).bytes = { s.bytes with dram := s.bytes.dram.write pa bs } := by
  have hsame : (s.homeBytes (pa / 128) != s.bytes.dram.read (128 * (pa / 128)) 128) = false := bne_eq_false_iff_eq.2 hplain
  simp only [homeWrite, Cmd.exec_get, Cmd.exec_all_cons, Cmd.exec_all_one, hsame, Cmd.exec_when_false, cleanUnits]
  exact Cmd.keep_when (g := State.bytes) (fun _ => rfl) _

/-- The walker's CAS writes the entry, and nothing else (R392). -/
theorem writePte_bytes {s : State} {a : Nat} (hwin : paWindow a = 0) (hplain : s.plain (a / 128)) (vd : Nat) (p : W64) :
    ((writePte vd a p).exec s).bytes = { s.bytes with dram := s.bytes.dram.write a (leBytes p.toNat 8) } := by
  have hhost : ¬ paWindow a = 2 := by omega
  simp only [writePte, Cmd.exec_get, hhost, if_false, Cmd.exec_all_cons, Cmd.exec_all_one]
  have hready := fun w => (PlainFrame.chains (a / 128)).trans (fillHome_plainFrame (s.homeDie a) vd s)
    (stampHome_plainFrame (s.homeDie a) w _)
  rw [homeWrite_bytes ((hready _).plain hplain), (hready _).bytes]

/-! ### DIRTY_BIT_SET (R392) -/

theorem dirtyBitSet_writes {s : State} {op a : Nat} {o : MemOp} {l : Lane} {e now : TlbEntry} (ho : s.op? op = some o)
    (hlanes : o.lanes = [l]) (hfind : s.tlbFind o.f.sid (s.vdOfCtx o.f.ctx) l.va = some e) (hclean : pteD e.pte = false)
    (hleaf : (s.walk (dieOf o.f.sid) (s.vdOfCtx o.f.ctx) l.va).finish = .leaf now a) (hsame : now.pte ||| 32 = e.pte ||| 32)
    (hwin : paWindow a = 0) (hfree : s.lockedLine (a / 128) = false) (hplain : s.plain (a / 128)) :
    Answers (.dirtyBitSet op) s fun t =>
      t.bytes.dram = s.bytes.dram.write a (leBytes (now.pte ||| 32).toNat 8) ∧ t.bytes.vault = s.bytes.vault := by
  let written := (writePte (s.vdOfCtx o.f.ctx) a (now.pte ||| 32)).exec s
  let u := (installTlb o.f.sid { now with pte := now.pte ||| 32 }).exec written
  have hexec : exec (.dirtyBitSet op) s = .next ((checkedOp op).exec u) := by
    change execDirtyBitSet op s = _
    simp only [execDirtyBitSet, ho, hlanes, List.find?_cons, hfind, hclean, hleaf, hfree, hsame, Bool.not_false, Bool.false_eq_true,
      if_false, if_true, Cmd.next_eq, Cmd.exec_all_cons, Cmd.exec_all_one]
    simp only [u, written, hsame]
  have hu : u.bytes = { s.bytes with dram := s.bytes.dram.write a (leBytes (now.pte ||| 32).toNat 8) } := writePte_bytes hwin hplain _ _
  have hcheck := checkedOp_checkFrame op u
  exact ⟨_, hexec, by rw [hcheck.dram, hu], by rw [hcheck.vault, hu]⟩

theorem walksAndHolds : Claims.WalksAndHolds := by
  intro s op o l ho hlanes hpref vd die page
  exact ⟨fun hmisses hmiss hfree =>
      ⟨fun e a hleaf hcovers hroom => tlbMissWalk_translates ho hlanes rfl hmisses hmiss hfree hleaf hcovers hroom,
        fun detail hfails hport => tlbMissWalk_holds ho hlanes hpref rfl hmisses hmiss hfree hfails hport⟩,
    fun e now a hfind hclean hleaf hsame hwin hfree hplain =>
      dirtyBitSet_writes ho hlanes hfind hclean hleaf hsame hwin hfree hplain⟩

/-- Settles O20: a bank takes up the request that is next and performs it; a walk's end is followed by the checks of the operation,
which leave the translation and the misses; the walker's CAS writes the leaf alone. -/
theorem vaultsAndWalks : Obligations.VaultsAndWalks := ⟨vaultAccesses, walksAndHolds⟩

end Sys2Proof.Machine

/-! ## Memory rows fire (R175 to R196, R198, R393)

A memory row takes a number and records its firing; `State.started` is the state in which it goes on. What it does there is one of four
things: it asks for a translation, for its place in program order, it resolves as a null access, or it takes ALIGN. -/

namespace Sys2Proof.Machine

/-! ### The course of a memory row -/

/-- The state in which a memory row goes on: its number is taken and its firing recorded. -/
def State.started (s : State) : State := (markFired s.cur).exec (Prim.takeSerial.run s)

/-- The operation that the firing becomes, before what its row asks for. -/
def State.startedOp (s : State) (i : Instr) : MemOp := newOp i s.cur s.started

section
variable {s : State} {i : Instr} {k : Nat → MemOp → Cmd}

theorem started_vdOfCtx (c : Nat) : s.started.vdOfCtx c = s.vdOfCtx c := markFired_vdOfCtx ..

theorem started_fab : s.started.fab = s.fab := rfl

theorem started_bytes : s.started.bytes = s.bytes := (markFired_nodeFrame s.cur (Prim.takeSerial.run s)).bytes

theorem started_now : s.started.now = s.now := (markFired_nodeFrame s.cur (Prim.takeSerial.run s)).now

theorem memNode_ordinary (ho : s.cur.ordinary i.hdr.pred) :
    (memNode i s.cur k).exec s = (k s.serial (s.startedOp i)).exec s.started := by
  simp only [memNode, Cmd.exec_withSerial, Cmd.exec_seq, Cmd.exec_get, ho.1, ho.2, Bool.false_eq_true, if_false]
  rfl

theorem memNode_null (hp : s.cur.poison? = none) (hoff : s.cur.off i.hdr.pred = true) : (memNode i s.cur k).exec s =
    (nullOp s.serial).exec ((nullResult (s.startedOp i)).exec ((addOp s.serial (s.startedOp i)).exec s.started)) := by
  simp only [memNode, Cmd.exec_withSerial, Cmd.exec_seq, Cmd.exec_get, hp, hoff, if_true]
  rfl

theorem exec_memRow (hexec : exec i s = (memNode i s.cur k).next s) (ho : s.cur.ordinary i.hdr.pred) :
    exec i s = .next ((k s.serial (s.startedOp i)).exec s.started) := by
  rw [hexec, Cmd.next_eq, memNode_ordinary ho]

end

theorem addOp_op_self (n : Nat) (o : MemOp) (s : State) : ((addOp n o).exec s).op? n = some o := Tbl.get?_set_self ..

theorem addOp_op_ne {n k : Nat} (hk : k ≠ n) (o : MemOp) (s : State) : ((addOp n o).exec s).op? k = s.op? k := Tbl.get?_set_ne _ _ hk

theorem addOp_quiet (n : Nat) (o : MemOp) : (addOp n o).Within QuietFrame := memPrim_quiet _

theorem plainOp_quiet (n : Nat) (o : MemOp) : (plainOp n o).Within QuietFrame :=
  Cmd.within_seq QuietFrame.chains (addOp_quiet n o) (after_quiet 0 _)

theorem plainOp_op_self (n : Nat) (o : MemOp) (s : State) : ((plainOp n o).exec s).op? n = some o := addOp_op_self n o s

theorem plainOp_due (n : Nat) (o : MemOp) (s : State) : ((plainOp n o).exec s).due s.now (.storeResolve n) :=
  after_due 0 _ ((addOp n o).exec s)

/-! ### Misses ask the walkers (R393) -/

/-- Between two states what is beside the fabric and the bytes, the operations, and those that wait for each miss are the same. -/
structure WalkFrame (s t : State) : Prop extends QuietFrame s t where
  ops : t.mem.ops = s.mem.ops
  waits : t.mem.misses.map (·.ops) = s.mem.misses.map (·.ops)

theorem WalkFrame.chains : Chains WalkFrame where
  refl s := ⟨QuietFrame.chains.refl s, rfl, rfl⟩
  trans a b := ⟨QuietFrame.chains.trans a.toQuietFrame b.toQuietFrame, b.ops.trans a.ops, b.waits.trans a.waits⟩

theorem startWalk_walkFrame (die : Nat) : (startWalk die).Within WalkFrame := by
  have hR := WalkFrame.chains
  refine Cmd.within_get fun s => Cmd.within_opt hR (fun m => Cmd.within_when hR fun _ => Cmd.within_seq hR (fun u => ?_)
    (Cmd.within_opt hR fun op => fun u => ⟨after_quiet _ _ u, rfl, rfl⟩)) s
  refine ⟨memPrim_quiet _ u, rfl, ?_⟩
  rw [Cmd.exec_prim, Prim.mem_mem, List.map_map]
  refine List.map_congr_left fun y _ => ?_
  rw [Function.comp_apply]
  split <;> rfl

theorem findSome?_of_mem {m : Miss} : ∀ {vds : List Nat}, m.vd ∈ vds →
    (vds.findSome? fun vd => [m].find? fun x => x.vd == vd) = some m := by
  intro vds hmem
  induction vds with
  | nil => exact absurd hmem List.not_mem_nil
  | cons vd vds ih =>
    rw [List.findSome?_cons, List.find?_singleton]
    by_cases hvd : m.vd = vd
    · simp [hvd]
    · have hne : (m.vd == vd) = false := beq_false_of_ne hvd
      simpa [hne] using ih ((List.mem_cons.1 hmem).resolve_left hvd)

/-- The only miss of a die is walked at once. -/
theorem startWalk_first {s : State} {m : Miss} {n : Nat} (hmisses : s.mem.misses = [m]) (hidle : m.walking = false) (hops : m.ops = [n])
    (hvd : m.vd < 64) : ∃ k, ((startWalk m.die).exec s).due k (.tlbMissWalk n) := by
  have hturn : m.vd ∈ (List.range 64).map fun k => (s.mem.walkTurn.getD m.die 63 + 1 + k) % 64 :=
    List.mem_map.2 ⟨(m.vd + 64 - (s.mem.walkTurn.getD m.die 63 + 1) % 64) % 64, List.mem_range.2 (Nat.mod_lt _ (by norm_num)), by omega⟩
  have hnext := findSome?_of_mem hturn
  refine ⟨s.now + s.walkCycles m.die m.vd (BitVec.ofNat 64 (65536 * m.page)), ?_⟩
  simp only [startWalk, Cmd.exec_get, hmisses, List.filter_singleton, beq_self_eq_true, hidle, Bool.not_false, cond_true, cond_false,
    List.take_succ_cons, List.take_nil, hnext, Cmd.exec_opt_some, List.length_nil]
  rw [hops]
  exact after_due ..

/-- A miss joins the walk for its page, or stands in the queue of the walkers. -/
theorem askWalk_asks (n die vd page : Nat) (s : State) :
    let t := (askWalk n die vd page).exec s
    QuietFrame s t ∧ t.mem.ops = s.mem.ops ∧ (∃ m ∈ t.mem.misses, n ∈ m.ops) ∧
      (s.mem.misses = [] → vd < 64 → ∃ k, t.due k (.tlbMissWalk n)) := by
  let same := fun m : Miss => m.die == die && m.vd == vd && m.page == page
  cases hsame : s.mem.misses.any same with
  | true =>
    have hexec : (askWalk n die vd page).exec s = (Cmd.prim (.mem fun x => { x with
        misses := x.misses.map fun m => if same m then { m with ops := m.ops ++ [n] } else m })).exec s := by
      rw [askWalk, Cmd.exec_get, if_pos hsame]
    obtain ⟨m, hm, hpage⟩ := List.any_eq_true.1 hsame
    rw [hexec]
    refine ⟨memPrim_quiet _ s, rfl, ⟨_, List.mem_map.2 ⟨m, hm, if_pos hpage⟩, List.mem_append_right _ (List.mem_singleton_self n)⟩,
      fun hnone => ?_⟩
    rw [hnone] at hm
    exact absurd hm List.not_mem_nil
  | false =>
    let new : Miss := ⟨die, vd, page, [n], false⟩
    let queued := (Cmd.prim (.mem fun x => { x with misses := x.misses ++ [new] })).exec s
    have hexec : (askWalk n die vd page).exec s = (startWalk die).exec queued := by
      rw [askWalk, Cmd.exec_get, if_neg (by rw [hsame]; exact Bool.false_ne_true)]
      rfl
    have hwalk := startWalk_walkFrame die queued
    have hwaits : [n] ∈ ((startWalk die).exec queued).mem.misses.map (·.ops) := by
      rw [hwalk.waits]
      exact List.mem_map.2 ⟨new, List.mem_append_right _ (List.mem_singleton_self _), rfl⟩
    obtain ⟨m, hm, hops⟩ := List.mem_map.1 hwaits
    rw [hexec]
    refine ⟨QuietFrame.chains.trans (memPrim_quiet _ s) hwalk.toQuietFrame, hwalk.ops,
      ⟨m, hm, by rw [hops]; exact List.mem_singleton_self n⟩, fun hnone hvd => ?_⟩
    exact startWalk_first (m := new) (show s.mem.misses ++ [new] = [new] by rw [hnone]; rfl) rfl rfl hvd

/-! ### An operation asks for its translations (R393) -/

/-- Operation `n` has become `o` and waits: for a walk, or, where it has no lane, for its place in program order. -/
structure Requests (s t : State) (n : Nat) (o : MemOp) : Prop where
  quiet : QuietFrame s t
  op : ∃ p, t.op? n = some { o with phase := p }
  others : ∀ k, k ≠ n → t.op? k = s.op? k
  goes : ∃ k, if o.lanes.isEmpty then t.due k (.storeResolve n)
    else (∃ m ∈ t.mem.misses, n ∈ m.ops) ∧ (s.mem.misses = [] → s.vdOfCtx o.f.ctx < 64 → t.due k (.tlbMissWalk n))

theorem translateOp_requests {s : State} {n : Nat} {o : MemOp} (ho : s.op? n = some o) (htlb : (s.elem o.f.sid).tlb = [])
    (hnew : ∀ l ∈ o.lanes, l.ok = false) : Requests s ((translateOp n).exec s) n o := by
  let v := (modOp n fun x => { x with lanes := o.lanes, phase := .translating }).exec s
  have hop : v.op? n = some { o with phase := .translating } := (modOp_op_self ..).trans (congrArg (Option.map _) ho)
  have hothers : ∀ k, k ≠ n → v.op? k = s.op? k := fun k hk => Tbl.get?_mod_ne _ _ hk
  have hmiss : ∀ va, s.tlbFind o.f.sid (s.vdOfCtx o.f.ctx) va = none := fun va => by rw [State.tlbFind, htlb, List.find?_nil]
  have hlanes : o.lanes.map (fun l => { l with ok := false }) = o.lanes := by
    refine (List.map_congr_left fun l hl => ?_).trans (List.map_id _)
    rw [← hnew l hl]
    rfl
  have hnone : o.lanes.filter (fun l => l.ok) = [] := List.filter_eq_nil_iff.2 fun l hl => by rw [hnew l hl]; exact Bool.false_ne_true
  cases hl : o.lanes with
  | nil =>
    let w := (modOp n fun x => { x with phase := .resolving }).exec v
    have hexec : (translateOp n).exec s = (after 0 (.storeResolve n)).exec w := by
      have hchecked : (checkedOp n).exec v = (after 0 (.storeResolve n)).exec w := by
        simp only [checkedOp, Cmd.exec_get, hop, hl, List.find?_nil, List.any_nil, Bool.and_false, Bool.false_eq_true, if_false,
          Cmd.exec_seq]
        rfl
      have hfind : (o.lanes.find? fun l => !l.ok) = none := by rw [hl]; rfl
      rw [← hchecked]
      simp only [translateOp, Cmd.exec_get, ho, hmiss, hlanes, hnone, hfind, Cmd.exec_all_cons, Cmd.exec_all_one, Cmd.exec_each_nil]
      rfl
    rw [hexec]
    refine ⟨QuietFrame.chains.trans (QuietFrame.chains.trans (modOp_quiet _ _ s) (modOp_quiet _ _ v)) (after_quiet _ _ w),
      ⟨.resolving, (modOp_op_self ..).trans (congrArg (Option.map _) hop)⟩,
      fun k hk => (Tbl.get?_mod_ne _ _ hk).trans (hothers k hk), s.now, ?_⟩
    rw [hl]
    exact after_due ..
  | cons l ls =>
    let w := (count (dieOf o.f.sid) (s.vdOfCtx o.f.ctx) 5 1).exec v
    have hexec : (translateOp n).exec s =
        (askWalk n (dieOf o.f.sid) (s.vdOfCtx o.f.ctx) (l.va.toNat / 65536)).exec w := by
      have hfind : (o.lanes.find? fun l => !l.ok) = some l := by
        rw [hl, List.find?_cons, hnew l (by rw [hl]; exact List.mem_cons_self)]
        rfl
      simp only [translateOp, Cmd.exec_get, ho, hmiss, hlanes, hnone, hfind, Cmd.exec_all_cons, Cmd.exec_all_one, Cmd.exec_each_nil]
      rfl
    obtain ⟨hquiet, hops, hwaits, hdue⟩ := askWalk_asks n (dieOf o.f.sid) (s.vdOfCtx o.f.ctx) (l.va.toNat / 65536) w
    rw [hexec]
    refine ⟨QuietFrame.chains.trans (QuietFrame.chains.trans (modOp_quiet _ _ s) (count_quiet _ _ _ _ v)) hquiet,
      ⟨.translating, (congrArg (·.get? n) hops).trans hop⟩, fun k hk => (congrArg (·.get? k) hops).trans (hothers k hk), ?_⟩
    rw [hl]
    by_cases hfirst : s.mem.misses = [] ∧ s.vdOfCtx o.f.ctx < 64
    · obtain ⟨k, hk⟩ := hdue hfirst.1 hfirst.2
      exact ⟨k, hwaits, fun _ _ => hk⟩
    · exact ⟨0, hwaits, fun hmisses hvd => absurd ⟨hmisses, hvd⟩ hfirst⟩

/-! ### Rows with virtual addresses (R176, R184, R185, R187, R189, R190, R194) -/

/-- What a lane accesses: its number, its virtual address, its size and the bytes that it stores. -/
def Lane.asked (l : Lane) : Nat × W64 × Nat × List Byte := (l.idx, l.va, l.size, l.data)

/-- An operation that makes an access on virtual addresses. -/
def MemOp.access (o : MemOp) (load store : Bool) (lanes : List Lane) : MemOp := { o with isLoad := load, isStore := store, lanes := lanes }

/-- The row becomes an operation on lanes, and waits for a walk or, without a lane, for its place in program order. -/
def Opens (s : State) (i : Instr) (load store : Bool) (lanes : List (Nat × W64 × Nat × List Byte)) : Prop :=
  Answers i s fun t => t.bytes = s.bytes ∧ ∃ o k, t.op? s.serial = some o ∧ o.i = i ∧ o.f = s.cur ∧ o.isLoad = load ∧
    o.isStore = store ∧ o.lanes.map Lane.asked = lanes ∧
    (if lanes.isEmpty then t.due k (.storeResolve s.serial)
     else (∃ m ∈ t.mem.misses, s.serial ∈ m.ops) ∧
       (s.mem.misses = [] → s.vdOfCtx s.cur.ctx < 64 → t.due k (.tlbMissWalk s.serial)))

theorem opens_of_aligned {s : State} {i : Instr} {load store : Bool} {ls : List Lane} {base : W64} {align : Nat}
    (htlb : (s.elem s.cur.sid).tlb = []) (halign : base.toNat % align = 0)
    (hexec : exec i s = .next ((addressOp s.serial ((s.startedOp i).access load store ls) base align).exec s.started))
    (hnew : ∀ l ∈ ls, l.ok = false) : Opens s i load store (ls.map Lane.asked) := by
  have hop := addOp_op_self s.serial ((s.startedOp i).access load store ls) s.started
  have haligned : (base.toNat % align != 0) = false := bne_eq_false_iff_eq.2 halign
  obtain ⟨hquiet, ⟨p, hp⟩, -, k, hgoes⟩ := translateOp_requests hop htlb hnew
  refine ⟨_, hexec, ?_⟩
  rw [addressOp, Cmd.exec_seq, haligned, if_neg Bool.false_ne_true]
  refine ⟨hquiet.bytes, _, k, hp, rfl, rfl, rfl, rfl, rfl, ?_⟩
  rw [List.isEmpty_map, ← started_vdOfCtx]
  exact hgoes

/-! ### Lanes of LDG and STS (R185) -/

/-- The index of a lane. -/
def gatherIndex (f : MemNode) (c : Firing) (j : Nat) : Nat := (orNull c.b).wide.toNat / 2 ^ (f.ty.width * j) % 2 ^ f.ty.width

/-- The lanes that make an access: with sub 1, an index of all ones makes none. -/
def takenLanes (f : MemNode) (c : Firing) : List Nat :=
  (List.range (512 / f.ty.width)).filter fun j => !(decide (f.sub = 1) && gatherIndex f c j == 2 ^ f.ty.width - 1)

theorem gatherIndexes_eq (f : MemNode) (c : Firing) : gatherIndexes f c = (takenLanes f c).map fun j => (j, gatherIndex f c j) := by
  have hindexed : (((orNull c.b).lanes f.ty.width).zipIdx.map fun (k, j) => (j, k)) =
      (List.range (512 / f.ty.width)).map fun j => (j, gatherIndex f c j) :=
    List.ext_getElem (by simp [Val.lanes]) fun j _ _ => by simp [Val.lanes, laneOf, gatherIndex]
  rw [gatherIndexes]
  dsimp only
  rw [hindexed, List.filter_map]
  rfl

theorem gatherLanes_asked (f : MemNode) (c : Firing) (data : List (List Byte)) : (gatherLanes f c data).map Lane.asked =
    (takenLanes f c).map fun j => (j, gatherEA f c (gatherIndex f c j), f.ty.width / 8, data.getD j []) := by
  rw [gatherLanes, gatherIndexes_eq, List.map_map, List.map_map]
  rfl

theorem gatherLanes_new (f : MemNode) (c : Firing) (data : List (List Byte)) : ∀ l ∈ gatherLanes f c data, l.ok = false := by
  intro l hl
  obtain ⟨x, -, rfl⟩ := List.mem_map.1 hl
  rfl

/-- The bytes that a lane of STS stores. -/
theorem lanes_getD_of_taken {f : MemNode} {c : Firing} {j : Nat} (hj : j ∈ takenLanes f c) (v : Val) (g : Nat → List Byte) :
    ((v.lanes f.ty.width).map g).getD j [] = g (v.wide.toNat / 2 ^ (f.ty.width * j) % 2 ^ f.ty.width) := by
  have hlt : j < 512 / f.ty.width := List.mem_range.1 (List.mem_of_mem_filter hj)
  simp [Val.lanes, laneOf, hlt]

theorem accessRows : Claims.AccessRows := by
  intro s f ho htlb c ea n data opens index taken at_
  have single (i : Instr) (load store : Bool) (size align : Nat) (bs : List Byte) (halign : ea.toNat % align = 0)
      (hexec : exec i s = (memNode i s.cur fun id o => addressOp id (o.access load store [newLane 0 ea size bs]) ea align).next s)
      (hpred : i.hdr.pred = f.pred) : opens i load store [(0, ea, size, bs)] :=
    opens_of_aligned htlb halign (exec_memRow hexec (hpred ▸ ho)) (List.forall_mem_singleton.2 rfl)
  refine ⟨fun h => ⟨single _ _ _ _ _ _ h rfl rfl, single _ _ _ _ _ _ h rfl rfl, single _ _ _ _ _ _ h rfl rfl,
      single _ _ _ _ _ _ h rfl rfl, single _ _ _ _ _ _ h rfl rfl, ?_, ?_⟩,
    fun h => ⟨single _ _ _ _ _ _ h rfl rfl, single _ _ _ _ _ _ h rfl rfl⟩, fun h => single _ _ _ _ _ _ h rfl rfl⟩
  · have hexec : exec (.ldg f) s = (memNode (.ldg f) s.cur fun id o =>
        addressOp id (o.access true false (gatherLanes f s.cur [])) ea n).next s := rfl
    have hopens := opens_of_aligned htlb h (exec_memRow hexec ho) (gatherLanes_new f c [])
    rw [gatherLanes_asked] at hopens
    exact hopens
  · have hexec : exec (.sts f) s = (memNode (.sts f) s.cur fun id o => addressOp id (o.access false true (gatherLanes f s.cur
        (((orNull s.cur.c).lanes f.ty.width).map fun x => leBytes x n))) ea n).next s := rfl
    have hopens := opens_of_aligned htlb h (exec_memRow hexec ho) (gatherLanes_new f c _)
    rw [gatherLanes_asked, List.map_congr_left fun j hj => by rw [lanes_getD_of_taken hj]] at hopens
    exact hopens

/-! ### Rows that ask for their place at once (R177, R181, R186, R191 to R193, R195, R196) -/

/-- The row becomes an operation of its firing with `P`, and asks the store buffer for its place in this cycle. -/
def Asks (s : State) (i : Instr) (P : MemOp → Prop) : Prop :=
  Answers i s fun t => t.bytes = s.bytes ∧
    ∃ o, t.op? s.serial = some o ∧ o.i = i ∧ o.f = s.cur ∧ P o ∧ t.due s.now (.storeResolve s.serial)

theorem asks_of_plain {s : State} {i : Instr} {o : MemOp} {P : MemOp → Prop}
    (hexec : exec i s = .next ((plainOp s.serial o).exec s.started)) (hi : o.i = i) (hf : o.f = s.cur) (hP : P o) : Asks s i P :=
  ⟨_, hexec, (plainOp_quiet _ o _).bytes.trans started_bytes, o, plainOp_op_self .., hi, hf, hP, plainOp_due ..⟩

theorem asks_of_plainNode {s : State} {i : Instr} {P : MemOp → Prop} (hexec : exec i s = (memNode i s.cur plainOp).next s)
    (ho : s.cur.ordinary i.hdr.pred) (hP : P (s.startedOp i)) : Asks s i P :=
  asks_of_plain (exec_memRow hexec ho) rfl rfl hP

theorem started_vaultAllowed (s : State) (va n : Nat) : s.started.vaultAllowed s.cur.ctx va n = s.vaultAllowed s.cur.ctx va n := by
  have hctx : s.started.ctx? s.cur.ctx = (s.ctx? s.cur.ctx).map fun c => { c with lastProgress := s.now } := markFired_ctx ..
  rw [State.vaultAllowed, hctx, State.vaultAllowed]
  cases s.ctx? s.cur.ctx <;> rfl

/-- An operation on the bytes at a vault address. -/
def MemOp.onVault (o : MemOp) (va size : Nat) (data : List Byte) : MemOp :=
  { o with isVault := true, lanes := [{ newLane 0 (BitVec.ofNat 64 va) size data with pa := va, prim := va, ok := true }] }

theorem vaultOp_allowed {u : State} {n size : Nat} {o : MemOp} {f : Firing} {l : Bool} {lit : BitVec 32} {data : List Byte}
    (hword : (orNull f.a).word.toNat < 2 ^ 32) (halign : (vaultAddr f l lit).toNat % size = 0)
    (hallowed : u.vaultAllowed f.ctx (vaultAddr f l lit).toNat size = true) :
    (vaultOp n o f l lit size data).exec u = (plainOp n (o.onVault (vaultAddr f l lit).toNat size data)).exec u := by
  have haligned : ((vaultAddr f l lit).toNat % size != 0) = false := bne_eq_false_iff_eq.2 halign
  simp only [vaultOp, Cmd.exec_get, haligned, hallowed, Nat.not_le.2 hword, decide_false, Bool.not_true, Bool.or_self,
    Bool.false_eq_true, if_false]
  rfl

theorem exec_bnd {s : State} {f : MemNode} (ho : s.cur.ordinary f.pred) :
    exec (.bnd f) s = .next ((plainOp s.serial (s.startedOp (.bnd f))).exec s.started) := by
  change execBnd f s = _
  rw [execBnd]
  split
  · rfl
  · rw [Cmd.next_eq, memNode_ordinary ho]

/-- The request that PREF makes beside itself. -/
def State.prefetch (s : State) (f : MemNode) : MemOp :=
  { s.startedOp (.pref f) with isLoad := true, resolved := true, lanes := [newLane 0 (baseEA s.cur (.ld f)) 1 []] }

theorem exec_pref {s : State} {f : MemNode} (ho : s.cur.ordinary f.pred) :
    exec (.pref f) s = .next ((translateOp (s.serial + 1)).exec ((addOp (s.serial + 1) (s.prefetch f)).exec
      (Prim.takeSerial.run ((plainOp s.serial (s.startedOp (.pref f))).exec s.started)))) := by
  have hcourse : exec (.pref f) s = (memNode (.pref f) s.cur fun id o => .all [plainOp id o, withSerial fun own =>
      .seq (addOp own { o with isLoad := true, resolved := true, lanes := [newLane 0 (baseEA s.cur (.ld f)) 1 []] })
        (translateOp own)]).next s := rfl
  rw [exec_memRow hcourse ho]
  rfl

/-- PREF resolves as it fires, beside the request that it makes under the next number. -/
theorem pref_requests {s : State} {f : MemNode} (ho : s.cur.ordinary f.pred) (htlb : (s.elem s.cur.sid).tlb = []) :
    Answers (.pref f) s fun t => t.bytes = s.bytes ∧ t.op? s.serial = some (s.startedOp (.pref f)) ∧
      t.due s.now (.storeResolve s.serial) ∧ ∃ p, t.op? (s.serial + 1) = some { s.prefetch f with phase := p } := by
  let asked := (plainOp s.serial (s.startedOp (.pref f))).exec s.started
  let u := (addOp (s.serial + 1) (s.prefetch f)).exec (Prim.takeSerial.run asked)
  have hne : s.serial ≠ s.serial + 1 := Nat.ne_of_lt (Nat.lt_succ_self _)
  have hasked : QuietFrame s.started asked := plainOp_quiet ..
  have hadded : QuietFrame (Prim.takeSerial.run asked) u := addOp_quiet ..
  have hfab : u.fab = s.fab := hadded.fab.trans hasked.fab
  have hbytes : u.bytes = s.bytes := (hadded.bytes.trans hasked.bytes).trans started_bytes
  have hop : u.op? s.serial = some (s.startedOp (.pref f)) := (addOp_op_ne hne _ _).trans (plainOp_op_self ..)
  obtain ⟨hquiet, hrequest, hothers, -⟩ := translateOp_requests (n := s.serial + 1) (addOp_op_self _ (s.prefetch f) _)
    (show (u.elem s.cur.sid).tlb = [] by rw [State.elem, hfab]; exact htlb) (List.forall_mem_singleton.2 rfl)
  exact ⟨_, exec_pref ho, hquiet.bytes.trans hbytes, (hothers _ hne).trans hop,
    hquiet.agenda _ (hadded.agenda _ (plainOp_due ..)), hrequest⟩

theorem untranslatedRows : Claims.UntranslatedRows := by
  intro s f ho htlb c ea va n asks vault
  have hpref := pref_requests ho htlb
  refine ⟨fun hword halign hallowed => ?_, asks_of_plainNode rfl ho rfl, asks_of_plainNode rfl ho rfl, asks_of_plainNode rfl ho rfl,
    asks_of_plain (exec_bnd ho) rfl rfl rfl, hpref.imp fun t ⟨hbytes, hop, hdue, _⟩ => ⟨hbytes, _, hop, rfl, rfl, rfl, hdue⟩,
    hpref.imp fun t ⟨_, _, _, p, hp⟩ => ⟨_, hp, rfl, rfl, rfl⟩⟩
  have hstarted := (started_vaultAllowed s va n).trans hallowed
  have hvld : exec (.vld f) s = (memNode (.vld f) s.cur fun id o =>
    vaultOp id (o.access true false []) s.cur f.l f.lit n []).next s := rfl
  have hvst : exec (.vst f) s = (memNode (.vst f) s.cur fun id o =>
    vaultOp id (o.access false true []) s.cur f.l f.lit n (leBytes (orNull s.cur.b).wide.toNat n)).next s := rfl
  exact ⟨asks_of_plain ((exec_memRow hvld ho).trans (congrArg _ (vaultOp_allowed hword halign hstarted))) rfl rfl ⟨rfl, rfl, rfl, rfl⟩,
    asks_of_plain ((exec_memRow hvst ho).trans (congrArg _ (vaultOp_allowed hword halign hstarted))) rfl rfl ⟨rfl, rfl, rfl, rfl⟩⟩

/-! ### Null firings and misaligned addresses (R33, R181, R198) -/

theorem nullResult_sends (n : Nat) (o : MemOp) (u : State) : Sends u ((nullOp n).exec ((nullResult o).exec u)) o.f o.i.hdr 1 o.f.tag
    (.null o.i.sig.r0) (.null o.i.sig.r1) :=
  (emitReply_sends o 1 _ _ u).aside (nullOp_quiet n _).toAside

theorem nullOp_op {n : Nat} {o : MemOp} {u : State} (ho : u.op? n = some o) :
    ∃ x, ((nullOp n).exec u).op? n = some x ∧ x.null = true ∧ x.isStore = false :=
  ⟨_, (modOp_op_self ..).trans (congrArg (Option.map _) ho), rfl, rfl⟩

theorem nullOp_due (n : Nat) (u : State) : ((nullOp n).exec u).due u.now (.storeResolve n) := after_due 0 _ _

theorem nullRow_resolves {s : State} {i : Instr} {h : Hdr} {k : Nat → MemOp → Cmd} (hexec : exec i s = (memNode i s.cur k).next s)
    (hh : i.hdr = h) (hp : s.cur.poison? = none) (hoff : s.cur.off h.pred = true) : Answers i s fun t => t.bytes = s.bytes ∧
      Sends s t s.cur h 1 s.cur.tag (.null i.sig.r0) (.null i.sig.r1) ∧
      ∃ o, t.op? s.serial = some o ∧ o.null = true ∧ o.isStore = false ∧ t.due s.now (.storeResolve s.serial) := by
  subst hh
  let u := (addOp s.serial (s.startedOp i)).exec s.started
  let v := (nullResult (s.startedOp i)).exec u
  have hadded : QuietFrame s.started u := addOp_quiet ..
  have hsent : NodeFrame u v s.cur := emitReply_nodeFrame ..
  have hop : v.op? s.serial = some (s.startedOp i) :=
    (congrArg (fun m : MemSys => m.ops.get? s.serial) hsent.mem).trans (addOp_op_self ..)
  have hnow : v.now = s.now := (hsent.now.trans hadded.now).trans started_now
  have hbytes : v.bytes = s.bytes := (hsent.bytes.trans hadded.bytes).trans started_bytes
  have hexec : exec i s = .next ((nullOp s.serial).exec v) := by rw [hexec, Cmd.next_eq, memNode_null hp hoff]
  obtain ⟨o, ho, hnull, hstore⟩ := nullOp_op hop
  exact ⟨_, hexec, (nullOp_quiet _ v).bytes.trans hbytes,
    (nullResult_sends s.serial (s.startedOp i) u).after (hadded.fab.trans started_fab) (hadded.now.trans started_now),
    o, ho, hnull, hstore, hnow ▸ nullOp_due s.serial v⟩

theorem nullRows {s : State} {f : MemNode} : ∀ i ∈ [Instr.ld f, .st f, .ldv f, .stv f, .ldg f, .sts f, .vld f, .vst f, .atom f, .cas f,
    .stmc f, .fence f, .xfi f, .xfw f, .mwait f, .pref f], i.hdr = f.toHdr ∧ ∃ k, exec i s = (memNode i s.cur k).next s := by
  simp only [List.forall_mem_cons, List.not_mem_nil, false_imp_iff, implies_true, and_true]
  exact ⟨⟨rfl, _, rfl⟩, ⟨rfl, _, rfl⟩, ⟨rfl, _, rfl⟩, ⟨rfl, _, rfl⟩, ⟨rfl, _, rfl⟩, ⟨rfl, _, rfl⟩, ⟨rfl, _, rfl⟩, ⟨rfl, _, rfl⟩,
    ⟨rfl, _, rfl⟩, ⟨rfl, _, rfl⟩, ⟨rfl, _, rfl⟩, ⟨rfl, _, rfl⟩, ⟨rfl, _, rfl⟩, ⟨rfl, _, rfl⟩, ⟨rfl, _, rfl⟩, ⟨rfl, _, rfl⟩⟩

/-- The rows whose address is aligned to their type. -/
theorem typedRows {s : State} {f : MemNode} : ∀ i ∈ [Instr.ld f, .st f, .atom f, .cas f, .stmc f, .ldg f, .sts f], i.hdr = f.toHdr ∧
    ∃ load store lanes, exec i s = (memNode i s.cur fun id o =>
      addressOp id (o.access load store lanes) (baseEA s.cur (.ld f)) (f.ty.width / 8)).next s := by
  simp only [List.forall_mem_cons, List.not_mem_nil, false_imp_iff, implies_true, and_true]
  exact ⟨⟨rfl, true, false, _, rfl⟩, ⟨rfl, false, true, _, rfl⟩, ⟨rfl, true, true, _, rfl⟩, ⟨rfl, true, true, _, rfl⟩,
    ⟨rfl, false, true, _, rfl⟩, ⟨rfl, true, false, _, rfl⟩, ⟨rfl, false, true, _, rfl⟩⟩

theorem ring_of_still {s t : State} {c : Nat} (h : (t.ctx? c).map Ctx.still = (s.ctx? c).map Ctx.still) :
    (t.ctx? c).map (·.ring) = (s.ctx? c).map (·.ring) := by
  have hstill : ∀ o : Option Ctx, (o.map Ctx.still).map (·.ring) = o.map (·.ring) := fun o => by cases o <;> rfl
  rw [← hstill, h, hstill]

/-- A fault at a memory node sends null and stands in the ring of its context. -/
theorem faultOp_records {u : State} {n cause detail : Nat} {o : MemOp} {addr : W64} {x : Ctx} (hctx : u.ctx? o.f.ctx = some x)
    (hroom : x.ring.length < 64) :
    let t := (faultOp n o cause detail addr).exec u
    Sends u t o.f o.i.hdr 1 o.f.tag (.null o.i.sig.r0) (.null o.i.sig.r1) ∧
      { u.recordAt o.f cause with addr := addr, detail := detail } ∈ ((t.ctx? o.f.ctx).map (·.ring)).getD [] := by
  let r : FaultRec := { u.recordAt o.f cause with addr := addr, detail := detail }
  let folded := (foldCapture o.f.sid).exec u
  let recorded := (writeRecord r).exec folded
  let sent := (nullResult o).exec recorded
  have hfold : FaultFrame Element.uncaptured u folded := foldCapture_frame o.f.sid u
  have hrec : Aside Ctx.unrecorded folded recorded := writeRecord_aside r folded
  have houts : (recorded.elem o.f.sid).outs = (u.elem o.f.sid).outs :=
    (congrArg Element.outs (hrec.elem o.f.sid)).trans (congrArg Element.outs (hfold.elem o.f.sid) :)
  have hring : ((((nullOp n).exec sent).ctx? o.f.ctx).map (·.ring)) = (recorded.ctx? o.f.ctx).map (·.ring) := by
    rw [(nullOp_quiet n sent).toAside.ctx_eq]
    exact ring_of_still (emitReply_nodeFrame o 1 _ _ recorded).ctx
  refine ⟨(nullResult_sends n o recorded).of_outs houts (hrec.now.trans hfold.now), ?_⟩
  exact hring ▸ writeRecord_mem_ring (s := folded) (r := r) rfl hctx hroom

theorem memoryNullAndAlign : Claims.MemoryNullAndAlign := by
  intro s f hp c ea
  refine ⟨fun hoff i hi => ?_, fun hon x hx hroom hmisaligned i hi => ?_⟩
  · obtain ⟨hh, k, hexec⟩ := nullRows (s := s) i hi
    exact nullRow_resolves hexec hh hp hoff
  · obtain ⟨hh, load, store, lanes, hexec⟩ := typedRows (s := s) i hi
    let o := (s.startedOp i).access load store lanes
    let u := (addOp s.serial o).exec s.started
    have hctx : u.ctx? s.cur.ctx = some { x with lastProgress := s.now } := markFired_ctx_some hx
    have hrow : exec i s = .next ((faultOp s.serial o causeAlign 0 ea).exec u) := by
      have haddr : ((baseEA s.cur (.ld f)).toNat % (f.ty.width / 8) != 0) = true := bne_iff_ne.2 hmisaligned
      rw [exec_memRow hexec (hh ▸ ⟨hp, hon⟩), addressOp, Cmd.exec_seq, if_pos haddr]
      rfl
    obtain ⟨hsends, hring⟩ := faultOp_records (o := o) hctx hroom
    exact ⟨_, hrow, hh ▸ hsends.after rfl rfl, _, hring, rfl, rfl, rfl, rfl⟩

/-- Settles O16: a row that fires goes on in one of four ways: its lanes wait for the walkers, it asks for its place in program
order, it resolves as a null access, or its misaligned address is recorded and null goes out. -/
theorem memoryNodes : Obligations.MemoryNodes := ⟨accessRows, untranslatedRows, memoryNullAndAlign⟩

end Sys2Proof.Machine

/-! ## Engine and system M rows make their requests (R200 to R204, R211 to R219, R227 to R229)

A row of either class takes a number and records its firing; then it makes a request, which asks for its place in program order, or it
is refused: its own record, and null on its destinations. -/

namespace Sys2Proof.Machine

/-! ### A request and a refusal -/

/-- The row becomes a request of its firing with `P`, which asks for its place in program order; no byte and no element changes. -/
def Requested (s : State) (i : Instr) (P : MemOp → Prop) : Prop :=
  Answers i s fun t => t.bytes = s.bytes ∧ t.fab = s.fab ∧
    ∃ o, t.op? s.serial = some o ∧ o.i = i ∧ o.f = s.cur ∧ o.null = false ∧ P o ∧ t.due s.now (.storeResolve s.serial)

/-- The row sends null, and its record with a cause stands in the ring of its context; DRAM is as before. -/
def Refused (s : State) (i : Instr) (h : Hdr) (cause : Nat) : Prop :=
  Answers i s fun t => t.bytes.dram = s.bytes.dram ∧
    Sends s t s.cur h 1 s.cur.tag (.null i.sig.r0) (.null i.sig.r1) ∧
    ∃ rec ∈ ((t.ctx? s.cur.ctx).map (·.ring)).getD [],
      rec.cause = cause ∧ rec.onode = s.cur.node ∧ rec.tag = s.cur.tag ∧ rec.via = false

section
variable {s : State} {i : Instr}

theorem requested_of_plain {o : MemOp} {P : MemOp → Prop} (hexec : exec i s = .next ((plainOp s.serial o).exec s.started))
    (hi : o.i = i) (hf : o.f = s.cur) (hnull : o.null = false) (hP : P o) : Requested s i P :=
  ⟨_, hexec, (plainOp_quiet _ o _).bytes.trans started_bytes, (plainOp_quiet _ o _).fab, o, plainOp_op_self .., hi, hf, hnull, hP,
    plainOp_due ..⟩

theorem refused_of_fault {h : Hdr} {cause detail : Nat} {addr : W64} {x : Ctx} (hexec : exec i s =
      .next ((faultOp s.serial (s.startedOp i) cause detail addr).exec ((addOp s.serial (s.startedOp i)).exec s.started)))
    (hh : i.hdr = h) (hx : s.ctx? s.cur.ctx = some x) (hroom : x.ring.length < 64) : Refused s i h cause := by
  subst hh
  let u := (addOp s.serial (s.startedOp i)).exec s.started
  have hctx : u.ctx? s.cur.ctx = some { x with lastProgress := s.now } := markFired_ctx_some hx
  obtain ⟨hsends, hring⟩ := faultOp_records (u := u) (n := s.serial) (o := s.startedOp i) (cause := cause) (detail := detail)
    (addr := addr) hctx hroom
  have hdram := (faultOp_checkFrame s.serial (s.startedOp i) cause detail addr u).dram
  exact ⟨_, hexec, hdram.trans (congrArg Memory.dram started_bytes), hsends.after rfl started_now, _, hring, rfl, rfl, rfl, rfl⟩

/-! ### Rows of the engine class (R203, R204, R211, R218) -/

variable {f : EngNode}

/-- A request of the engine class carries the release of its row (R203). -/
theorem requested_of_request (hexec : exec i s = .next ((plainOp s.serial (s.startedOp i).request).exec s.started)) :
    Requested s i fun o => ∀ sc, i.dispatchScope = some sc → o.ord = 2 ∧ o.scope = sc := by
  have hshape : ∀ o : MemOp, o.request.i = o.i ∧ o.request.f = o.f ∧ o.request.null = o.null ∧
      ∀ sc, o.i.dispatchScope = some sc → o.request.ord = 2 ∧ o.request.scope = sc := fun o => by
    unfold MemOp.request
    cases o.i.dispatchScope with
    | none => exact ⟨rfl, rfl, rfl, fun _ h => nomatch h⟩
    | some sc => exact ⟨rfl, rfl, rfl, fun _ h => ⟨rfl, Option.some.inj h⟩⟩
  obtain ⟨hi, hf, hnull, hrel⟩ := hshape (s.startedOp i)
  exact requested_of_plain hexec hi hf hnull hrel

/-- The rows of a matrix unit, all of which check the grant as they fire. -/
theorem mxRows : ∀ i ∈ [Instr.mxw f, .mxa f, .mxd f, .mxsStat f, .mxsClr f, .mxsSync f],
    i.hdr = f.toHdr ∧ ∀ s, exec i s = mxNode i f s := by
  simp only [List.forall_mem_cons, List.not_mem_nil, false_imp_iff, implies_true, and_true]
  exact ⟨⟨rfl, fun _ => rfl⟩, ⟨rfl, fun _ => rfl⟩, ⟨rfl, fun _ => rfl⟩, ⟨rfl, fun _ => rfl⟩, ⟨rfl, fun _ => rfl⟩, rfl, fun _ => rfl⟩

/-- A matrix row goes on when the half that it names is granted to the VD of its context, and is refused otherwise (R204, R370). -/
theorem exec_mxRow {k vd : Nat} {granted : Bool} (ho : s.cur.ordinary f.pred)
    (htarget : s.mxTarget (dieOf s.cur.sid) f.unit.toNat (if f.half then 1 else 0) = (k, vd, granted))
    (hi : i ∈ [Instr.mxw f, .mxa f, .mxd f, .mxsStat f, .mxsClr f, .mxsSync f]) :
    exec i s = .next ((if !granted || vd != s.vdOfCtx s.cur.ctx then
      Cmd.seq (addOp s.serial (s.startedOp i)) (faultOp s.serial (s.startedOp i) causeProt 0 0)
      else plainOp s.serial (s.startedOp i).request).exec s.started) := by
  obtain ⟨hh, hexec⟩ := mxRows i hi
  have hsame : s.started.mxTarget (dieOf s.cur.sid) f.unit.toNat (if f.half then 1 else 0) = (k, vd, granted) := htarget
  have hcur : s.started.cur = s.cur := rfl
  rw [exec_memRow (hexec s) (hh ▸ ho)]
  simp only [Cmd.exec_get, hcur, hsame, started_vdOfCtx]

theorem exec_packetRow {ok : Bool} (hexec : exec i s = (memNode i s.cur fun id o =>
      if ok then plainOp id o.request else .seq (addOp id o) (faultOp id o causeQueuefmt 0 0)).next s)
    (hh : i.hdr = f.toHdr) (ho : s.cur.ordinary f.pred) : exec i s = .next ((if ok then plainOp s.serial (s.startedOp i).request
      else Cmd.seq (addOp s.serial (s.startedOp i)) (faultOp s.serial (s.startedOp i) causeQueuefmt 0 0)).exec s.started) :=
  exec_memRow hexec (hh ▸ ho)

end

theorem engineRows : Claims.EngineRows := by
  intro s f ho c asks
  have hasks : ∀ {i release}, i.dispatchScope = release → exec i s = .next ((plainOp s.serial (s.startedOp i).request).exec s.started) →
      asks i release := fun hrel hexec => by
    obtain ⟨t, hrun, hbytes, hfab, o, hop, hi, hf, hnull, hscope, hdue⟩ := requested_of_request hexec
    exact ⟨t, hrun, hbytes, hfab, o, hop, hi, hf, hnull, hrel ▸ hscope, hdue⟩
  have hplain : ∀ {i}, exec i s = (memNode i s.cur fun id o => plainOp id o.request).next s → i.hdr = f.toHdr →
      exec i s = .next ((plainOp s.serial (s.startedOp i).request).exec s.started) := fun hexec hh => exec_memRow hexec (hh ▸ ho)
  refine ⟨fun k hk => ?_, fun hok => ?_, fun hok => ?_, hasks rfl (hplain rfl rfl), hasks rfl (hplain rfl rfl),
    hasks rfl (hplain rfl rfl), hasks rfl (hplain rfl rfl)⟩
  · have hrow : ∀ i ∈ [Instr.mxw f, .mxa f, .mxd f, .mxsStat f, .mxsClr f, .mxsSync f],
        exec i s = .next ((plainOp s.serial (s.startedOp i).request).exec s.started) := fun i hi => by
      rw [exec_mxRow ho hk hi, if_neg (by simp [c])]
    simp only [List.forall_mem_cons, List.not_mem_nil, false_imp_iff, implies_true, and_true] at hrow
    obtain ⟨hw, ha, hd, hstat, hclr, hsync⟩ := hrow
    exact ⟨hasks rfl hw, hasks rfl ha, hasks rfl hd, hasks rfl hstat, hasks rfl hclr, hasks rfl hsync⟩
  · exact hasks rfl ((exec_packetRow rfl rfl ho).trans (by rw [hok]; rfl))
  · exact hasks rfl ((exec_packetRow rfl rfl ho).trans (by rw [hok]; rfl))

theorem engineFaults : Claims.EngineFaults := by
  intro s f x ho hx hroom c faults
  refine ⟨fun k vd granted htarget hbad i hi => ?_, fun hbad => ?_, fun hbad => ?_⟩
  · have hrefuse : (!granted || vd != s.vdOfCtx s.cur.ctx) = true := by
      rcases hbad with rfl | hvd
      · rfl
      · rw [bne_iff_ne.2 hvd, Bool.or_true]
    exact refused_of_fault ((exec_mxRow ho htarget hi).trans (by rw [hrefuse]; rfl)) (mxRows i hi).1 hx hroom
  · exact refused_of_fault ((exec_packetRow rfl rfl ho).trans (by rw [hbad]; rfl)) rfl hx hroom
  · exact refused_of_fault ((exec_packetRow rfl rfl ho).trans (by rw [hbad]; rfl)) rfl hx hroom

/-- Settles O21: a row that fires makes its request when its grant or packet is right, and is refused otherwise. -/
theorem engineNodes : Obligations.EngineNodes := ⟨engineRows, engineFaults⟩

end Sys2Proof.Machine

/-! ## What an engine's write leaves alone (R264, R281, R287, R392)

An engine writes bytes of DRAM or of host memory, and with them the homes, the dirty bits and the counters of its VD. The run, the
engines, the service state, the operations and the vaults are as before. -/

namespace Sys2Proof.Machine

/-- The tenancy state but for dirty bits and counters. -/
def TenState.unwritten (t : TenState) : TenState := { t with vds := [], counters := [] }

/-- Between two states no more differs than bytes of DRAM and host memory, homes, copies, dirty bits, counters and new tasks. -/
structure WriteFrame (s t : State) : Prop extends Aside id s t where
  power : t.power = s.power
  cur : t.cur = s.cur
  run : t.run = s.run
  eng : t.eng = s.eng
  svc : t.svc = s.svc
  ops : t.mem.ops = s.mem.ops
  vault : t.bytes.vault = s.bytes.vault
  ten : t.ten.unwritten = s.ten.unwritten

theorem WriteFrame.chains : Chains WriteFrame where
  refl s := ⟨(Aside.chains id).refl s, rfl, rfl, rfl, rfl, rfl, rfl, rfl, rfl⟩
  trans a b := ⟨(Aside.chains id).trans a.toAside b.toAside, b.power.trans a.power, b.cur.trans a.cur, b.run.trans a.run,
    b.eng.trans a.eng, b.svc.trans a.svc, b.ops.trans a.ops, b.vault.trans a.vault, b.ten.trans a.ten⟩

section
variable {s t : State}

theorem WriteFrame.launches (h : WriteFrame s t) : t.ten.launches = s.ten.launches := (congrArg TenState.launches h.ten :)
theorem WriteFrame.saves (h : WriteFrame s t) : t.ten.saves = s.ten.saves := (congrArg TenState.saves h.ten :)
theorem WriteFrame.snaps (h : WriteFrame s t) : t.ten.snaps = s.ten.snaps := (congrArg TenState.snaps h.ten :)
theorem WriteFrame.ctxs (h : WriteFrame s t) : t.ten.ctxs = s.ten.ctxs := (congrArg TenState.ctxs h.ten :)
theorem WriteFrame.buckets (h : WriteFrame s t) : t.ten.buckets = s.ten.buckets := (congrArg TenState.buckets h.ten :)
theorem WriteFrame.op (h : WriteFrame s t) (n : Nat) : t.op? n = s.op? n := by rw [State.op?, h.ops]; rfl
theorem WriteFrame.job (h : WriteFrame s t) (n : Nat) : t.job? n = s.job? n := by rw [State.job?, h.eng]; rfl

end

/-! ### Homes and bytes -/

theorem after_write (n : Nat) (i : Instr) : (after n i).Within WriteFrame := fun s =>
  ⟨after_aside n i s, rfl, rfl, rfl, rfl, rfl, rfl, rfl, rfl⟩

theorem count_write (die vd number n : Nat) : (count die vd number n).Within WriteFrame := fun s =>
  ⟨count_aside die vd number n s, rfl, rfl, rfl, rfl, rfl, rfl, rfl, rfl⟩

theorem modVd_write (n : Nat) (f : Vd → Vd) : (modVd n f).Within WriteFrame := fun s =>
  ⟨modVd_aside n f s, rfl, rfl, rfl, rfl, rfl, rfl, rfl, rfl⟩

theorem dramPrim_write (a : Nat) (bs : List Byte) : (Cmd.prim (.dram a bs)).Within WriteFrame := fun s =>
  ⟨dramPrim_aside a bs s, rfl, rfl, rfl, rfl, rfl, rfl, rfl, rfl⟩

/-- A change of the memory system that keeps the operations. -/
theorem memPrim_write {f : MemSys → MemSys} (hops : ∀ m, (f m).ops = m.ops := by exact fun _ => rfl) :
    (Cmd.prim (.mem f)).Within WriteFrame := fun s => ⟨memPrim_aside f s, rfl, rfl, rfl, rfl, rfl, hops _, rfl, rfl⟩

theorem setHzn_write (die : Nat) (v : Stamp) : (setHzn die v).Within WriteFrame := fun s => by
  exact (memPrim_write : (Cmd.prim _).Within WriteFrame) s

theorem lockHome_write (n line : Nat) : (lockHome n line).Within WriteFrame := fun s => by
  exact (memPrim_write : (Cmd.prim _).Within WriteFrame) s

theorem takeSerial_write : (Cmd.prim .takeSerial).Within WriteFrame := fun _ =>
  ⟨⟨rfl, rfl, fun _ => rfl, fun _ h => h⟩, rfl, rfl, rfl, rfl, rfl, rfl, rfl, rfl⟩

theorem physWrite_write (pa : Nat) (bs : List Byte) : (physWrite pa bs).Within WriteFrame := by
  unfold physWrite
  split
  · exact fun s => ⟨hostPrim_aside _ _ s, rfl, rfl, rfl, rfl, rfl, rfl, rfl, rfl⟩
  · exact dramPrim_write _ _

theorem trimSet_write (die line vd : Nat) : (trimSet die line vd).Within WriteFrame :=
  Cmd.within_get fun s => Cmd.within_when WriteFrame.chains (fun _ => by
    split
    · exact after_write _ _
    · exact Cmd.within_skip WriteFrame.chains) s

theorem fillHome_write (die line vd key : Nat) : (fillHome die line vd key).Within WriteFrame := by
  have hR := WriteFrame.chains
  refine Cmd.within_get fun s => ?_
  split
  · exact Cmd.within_seq hR memPrim_write (count_write _ _ _ _) s
  · exact Cmd.within_seq hR memPrim_write (Cmd.within_seq hR (count_write _ _ _ _)
      (Cmd.within_seq hR (count_write _ _ _ _) (trimSet_write _ _ _))) s

theorem bumpHzn_write (die : Nat) (w : Stamp) : (bumpHzn die w).Within WriteFrame :=
  Cmd.within_get fun s => Cmd.within_when WriteFrame.chains (fun _ => setHzn_write _ _) s

theorem stampHome_write (die line : Nat) (w : Stamp) : (stampHome die line w).Within WriteFrame :=
  Cmd.within_seq WriteFrame.chains memPrim_write (bumpHzn_write _ _)

theorem homeWrite_write (pa : Nat) (bs : List Byte) : (homeWrite pa bs).Within WriteFrame := by
  have hR := WriteFrame.chains
  exact Cmd.within_get fun s => Cmd.within_seq hR (Cmd.within_when hR fun _ => dramPrim_write _ _)
    (Cmd.within_seq hR (dramPrim_write _ _) (Cmd.within_seq hR memPrim_write (Cmd.within_when hR fun _ => memPrim_write))) s

theorem setDirty_write (die vd : Nat) (va : W64) : (setDirty die vd va).Within WriteFrame := by
  have hR := WriteFrame.chains
  have hpte : ∀ at_ p, (writePte vd at_ p).Within WriteFrame := fun at_ p => Cmd.within_get fun s => by
    by_cases h : paWindow at_ = 2
    · simp only [h, if_true]
      exact physWrite_write _ _ s
    · simp only [h, if_false]
      exact Cmd.within_seq hR (fillHome_write _ _ _ _) (Cmd.within_seq hR (Cmd.within_get fun t => stampHome_write _ _ _ t)
        (homeWrite_write _ _)) s
  refine Cmd.within_get fun s => ?_
  split
  · exact Cmd.within_when hR (fun _ => hpte _ _) s
  · exact hR.refl s

theorem markDirty_write (pa : Nat) (big : Bool) : (markDirty pa big).Within WriteFrame := by
  have hR := WriteFrame.chains
  have hframe : ∀ fr, (dirtyFrame fr).Within WriteFrame := fun fr =>
    Cmd.within_opt hR fun _ => Cmd.within_get fun s => Cmd.within_when hR (fun _ => modVd_write _ _) s
  exact Cmd.within_get fun s => Cmd.within_when hR (fun _ => Cmd.within_each hR fun _ _ => hframe _) s

theorem notifyLine_write (line : Nat) : (notifyLine line).Within WriteFrame :=
  Cmd.within_get fun s => Cmd.within_when WriteFrame.chains (fun _ => after_write _ _) s

theorem lockAway_write (die home line : Nat) : (lockAway die home line).Within WriteFrame := by
  have hR := WriteFrame.chains
  exact Cmd.within_get fun s => Cmd.within_when hR (fun _ => Cmd.within_get fun t => Cmd.within_seq hR takeSerial_write
    (Cmd.within_seq hR (lockHome_write _ _) (after_write _ _)) t) s

/-! ### The writes of an engine -/

section
variable {R : State → State → Prop}

/-- An engine's write stays within what writes of homes and bytes, and the raising of its timestamps, stay within. -/
theorem engWriteAs_within (hR : Chains R) (hwrite : ∀ s t, WriteFrame s t → R s t) {u : Use} {die vd va : Nat} {bs : List Byte} {p : Stamp}
    {raise : Stamp → Cmd} (hraise : ∀ w, (raise w).Within R) : (engWriteAs u die vd va bs p raise).Within R := by
  have lift : ∀ {c : Cmd}, c.Within WriteFrame → c.Within R := fun h s => hwrite _ _ (h s)
  refine Cmd.within_each hR fun x _ => Cmd.within_get fun s => ?_
  dsimp only
  split
  · exact hR.refl s
  · refine Cmd.within_seq hR (lift (setDirty_write _ _ _)) (Cmd.within_seq hR ?_
      (Cmd.within_seq hR (lift (markDirty_write _ _)) (lift (notifyLine_write _)))) s
    split
    · exact lift (physWrite_write _ _)
    · exact Cmd.within_seq hR (lift (fillHome_write _ _ _ _)) (Cmd.within_get fun t => Cmd.within_seq hR (lift (lockAway_write _ _ _))
        (Cmd.within_seq hR (lift (stampHome_write _ _ _)) (Cmd.within_seq hR (lift (homeWrite_write _ _)) (hraise _))) t)

end

theorem engWriteAs_write (u : Use) (die vd va : Nat) (bs : List Byte) (p : Stamp) :
    (engWriteAs u die vd va bs p fun _ => .skip).Within WriteFrame :=
  engWriteAs_within WriteFrame.chains (fun _ _ h => h) fun _ => Cmd.within_skip WriteFrame.chains

theorem engWrite_write (die vd va : Nat) (bs : List Byte) (p : Stamp) : (engWrite die vd va bs p fun _ => .skip).Within WriteFrame :=
  engWriteAs_write .write die vd va bs p

theorem engTouch_write (die vd va n : Nat) (p : Stamp) (lease : Option Nat) : (engTouch die vd va n p lease).Within WriteFrame := by
  have hR := WriteFrame.chains
  refine Cmd.within_each hR fun x _ => Cmd.within_get fun s => ?_
  dsimp only
  split
  · exact hR.refl s
  · refine Cmd.within_when hR (fun _ => Cmd.within_seq hR (fillHome_write _ _ _ _) ?_) s
    split
    · exact Cmd.within_skip hR
    · refine Cmd.within_when hR fun _ => Cmd.within_get fun t => ?_
      split
      · exact hR.refl t
      · exact Cmd.within_when hR (fun _ => Cmd.within_seq hR memPrim_write (Cmd.within_seq hR (bumpHzn_write _ _)
          (Cmd.within_when hR fun _ => Cmd.within_seq hR memPrim_write (trimSet_write _ _ _)))) t

/-- A word and a stamp are written and what follows comes, or the failure comes (R307). -/
theorem writeStamp_within {R : State → State → Prop} (hR : Chains R) (hwrite : ∀ s t, WriteFrame s t → R s t) {die vd stamp : Nat}
    {word : Option Nat} {sval : Nat} {p : Stamp} {fail : Nat → Nat → Cmd} {written : Cmd} (hfail : ∀ c a, (fail c a).Within R)
    (hwritten : written.Within R) : (writeStamp die vd stamp word sval p fail written).Within R := by
  have lift : ∀ {c : Cmd}, c.Within WriteFrame → c.Within R := fun h s => hwrite _ _ (h s)
  refine Cmd.within_get fun s => ?_
  dsimp only
  split
  · exact hfail _ _ s
  · refine Cmd.within_seq hR (lift ?_) (Cmd.within_seq hR (lift (Cmd.within_get fun t => engWrite_write _ _ _ _ _ t)) hwritten) s
    split
    · exact engWrite_write _ _ _ _ _
    · exact Cmd.within_skip WriteFrame.chains

/-- What was claimed in a queue is voided with a byte of its slot (R211, R300). -/
theorem voidClaim_write (o : MemOp) : (voidClaim o).Within WriteFrame := by
  have hR := WriteFrame.chains
  refine Cmd.within_get fun s => ?_
  dsimp only
  exact Cmd.within_opt hR (fun _ => Cmd.within_when hR fun _ => engWriteAs_write _ _ _ _ _ _) s

end Sys2Proof.Machine

/-! ## The rows of records, held requests and registers (R102, R220 to R224, R226, R327)

A system S row fires as a node of its own. What it changes beside its output is a ring, a held port or a register; the emission
that ends it leaves those alone. -/

namespace Sys2Proof.Machine

/-! ### A node that emits -/

section
variable {s : State} {i : Instr} {h : Hdr} {g : Sig} {lat : Nat} {v : Val} {k : Cmd}

/-- A node sends its value after what it does first, where that keeps the output buffers and the cycle. -/
theorem emits_after {u : State} (houts : (u.elem s.cur.sid).outs = (s.elem s.cur.sid).outs) (hnow : u.now = s.now) :
    Emits s ((emit s.cur h lat s.cur.tag v).exec u) h lat v :=
  (emit_sends ..).of_outs houts hnow

theorem node_passes (ho : s.cur.ordinary h.pred)
    (hexec : exec i s = (node s.cur h g lat s.cur.tag (emit s.cur h lat s.cur.tag v)).next s) : Passes i s h lat v :=
  node_answers ho hexec (emits_after (by rw [markFired_elem]) (markFired_now ..))

/-- A node that takes a fault passes poison of its own origin. -/
theorem node_faults {cause : Nat} (ho : s.cur.ordinary h.pred) (hd : (h.d0.val || h.d1.val) = true)
    (hexec : exec i s = (node s.cur h g lat s.cur.tag (raiseFault s.cur h lat cause)).next s) :
    Passes i s h lat (.poison (s.cur.origin (s.vdOfCtx s.cur.ctx) cause)) :=
  node_answers ho hexec (raiseFault_fired_sends hd lat cause s)

theorem vdOfCtx_of_some {c : Nat} {x : Ctx} (hx : s.ctx? c = some x) : s.vdOfCtx c = x.vd := by rw [State.vdOfCtx, hx]

theorem emit_ctx (f : Firing) (h : Hdr) (lat : Nat) (tag : W64) (v : Val) (s : State) (c : Nat) :
    ((emit f h lat tag v).exec s).ctx? c = s.ctx? c := emit2_ctx f h lat tag v v s c

theorem emit_op (f : Firing) (h : Hdr) (lat : Nat) (tag : W64) (v : Val) (s : State) (n : Nat) :
    ((emit f h lat tag v).exec s).op? n = s.op? n :=
  congrArg (fun m : MemSys => m.ops.get? n) (emit2_nodeFrame f h lat tag v v s).mem

theorem emit_portHold (f : Firing) (h : Hdr) (lat : Nat) (tag : W64) (v : Val) (s : State) (k : Nat) :
    (((emit f h lat tag v).exec s).elem k).portHold = (s.elem k).portHold :=
  ((emit_frame f h lat tag v s).comp Element.portHold).elem k

theorem emit_portQueue (f : Firing) (h : Hdr) (lat : Nat) (tag : W64) (v : Val) (s : State) (k : Nat) :
    (((emit f h lat tag v).exec s).elem k).portQueue = (s.elem k).portQueue :=
  ((emit_frame f h lat tag v s).comp Element.portQueue).elem k

theorem emit_due {f : Firing} {h : Hdr} {lat n : Nat} {tag : W64} {v : Val} {s : State} {i : Instr} (hdue : s.due n i) :
    ((emit f h lat tag v).exec s).due n i := (emit_frame f h lat tag v s).agenda _ hdue

end

/-! ### TRAP and FREC (R221, R223) -/

section
variable {s : State} {f : SysSNode} {x : Ctx}

/-- A fault that a node records itself stands at the end of a ring with room, and nothing is sent. -/
theorem writeFault_records {u : State} {sid : Nat} {r : FaultRec} (hx : u.ctx? r.ctx = some x) (hroom : x.ring.length < 64) :
    (∀ k, (((writeFault sid r).exec u).elem k).outs = (u.elem k).outs) ∧
      (((writeFault sid r).exec u).ctx? r.ctx).map (·.ring) = some (x.ring ++ [r]) := by
  let folded := (foldCapture sid).exec u
  have hfold : FaultFrame Element.uncaptured u folded := foldCapture_frame sid u
  have hrec : Aside Ctx.unrecorded folded ((writeRecord r).exec folded) := writeRecord_aside r folded
  refine ⟨fun k => (congrArg Element.outs (hrec.elem k)).trans ((hfold.comp Element.outs).elem k), ?_⟩
  rw [writeFault, Cmd.exec_seq, writeRecord_ctx (show folded.ctx? r.ctx = some x from hx) hroom]
  rfl

theorem trap_records (ho : s.cur.ordinary f.pred) (hx : s.ctx? s.cur.ctx = some x) (hroom : x.ring.length < 64) :
    Answers (.trap f) s fun t => (∀ k, (t.elem k).outs = (s.elem k).outs) ∧
      ∃ rec, (t.ctx? s.cur.ctx).map (·.ring) = some (x.ring ++ [rec]) ∧ rec.cause = 0x12 ∧ rec.vala = (orNull s.cur.a).word ∧
        rec.detail = f.lit.toNat % 65536 ∧ rec.onode = s.cur.node ∧ rec.tag = s.cur.tag := by
  let m := (markFired s.cur).exec s
  let r : FaultRec := { m.recordAt s.cur causeTrap with vala := (orNull s.cur.a).word, detail := f.lit.toNat % 65536 }
  have hexec : exec (.trap f) s = .next ((writeFault s.cur.sid r).exec m) := by
    change (sinkNode s.cur f.toHdr false _).next s = _
    simp only [sinkNode, Cmd.next_eq, Cmd.exec_seq, Bool.false_and, Bool.false_eq_true, if_false, ho.1, ho.2]
    rfl
  obtain ⟨houts, hring⟩ := writeFault_records (u := m) (sid := s.cur.sid) (r := r) (markFired_ctx_some hx) hroom
  exact ⟨_, hexec, houts, r, hring, rfl, rfl, rfl, rfl, rfl⟩

/-- The context whose ring FREC names. -/
def frecCtx (s : State) : Nat :=
  if (orNull s.cur.a).word.toNat % 65536 = 65535 then s.cur.ctx else (orNull s.cur.a).word.toNat % 65536

/-- FREC's work where it may handle the ring. -/
def takeRecord (s : State) (f : SysSNode) : Cmd :=
  let out := fun (x : W512) => emit s.cur f.toHdr 8 s.cur.tag (.vector x)
  match s.ctx? (frecCtx s) with
  | none => out 0
  | some x => match x.ring with
    | [] => out 0
    | r :: rest => .seq (modCtx (frecCtx s) fun x => { x with ring := rest }) (out r.bits)

theorem exec_frec : exec (.frec f) s = (guarded s.cur f.toHdr (Instr.frec f).sig 8 (s.mayHandle s.cur (frecCtx s)) (takeRecord s f)).next s :=
  rfl

theorem frec_takes (ho : s.cur.ordinary f.pred) (hmay : s.mayHandle s.cur (frecCtx s) = true) (hx : s.ctx? (frecCtx s) = some x) :
    (x.ring = [] → Passes (.frec f) s f.toHdr 8 (.vector 0)) ∧
      ∀ r rest, x.ring = r :: rest → Answers (.frec f) s fun t => Emits s t f.toHdr 8 (.vector r.bits) ∧
        (t.ctx? (frecCtx s)).map (·.ring) = some rest := by
  have hexec : exec (.frec f) s = (node s.cur f.toHdr (Instr.frec f).sig 8 s.cur.tag (takeRecord s f)).next s := by
    rw [exec_frec, guarded, hmay, if_pos rfl]
  refine ⟨fun hring => node_passes (g := (Instr.frec f).sig) ho (hexec.trans ?_), fun r rest hring => node_answers ho hexec ?_⟩
  · simp only [takeRecord, hx, hring]
  · let m := (markFired s.cur).exec s
    have hmem : ∃ y, m.ctx? (frecCtx s) = some y := by
      by_cases hk : frecCtx s = s.cur.ctx
      · exact ⟨_, hk ▸ markFired_ctx_some (hk ▸ hx)⟩
      · exact ⟨x, ((markFired_nodeFrame s.cur s).otherCtxs _ hk).trans hx⟩
    obtain ⟨y, hy⟩ := hmem
    simp only [takeRecord, hx, hring, Cmd.exec_seq]
    refine ⟨emits_after rfl rfl, ?_⟩
    rw [emit_ctx, modCtx_ctx_self, show ((markFired s.cur).exec s).ctx? (frecCtx s) = some y from hy]
    rfl

end

/-! ### RETRY (R199, R223) -/

section
variable {s : State} {n : Nat} {o : MemOp}

/-- A held request is one of the table of operations. -/
theorem heldPort_op {w0 w8 : W64} (h : s.heldPort w0 w8 = some (n, o)) : s.op? n = some o := by
  unfold State.heldPort at h
  dsimp only at h
  split at h
  · exact nomatch h
  · split at h
    next x hx =>
      obtain ⟨-, hsome⟩ := Option.ite_none_right_eq_some.1 h
      obtain ⟨rfl, rfl⟩ := Prod.mk.inj (Option.some.inj hsome)
      exact hx
    · exact nomatch h

/-- A request of an engine that is held asks for its place again. -/
theorem againOp_engine (ho : s.op? n = some o) (hengine : o.isMemory = false) :
    let t := (againOp n).exec s
    QuietFrame s t ∧ (t.op? n).map (·.phase) = some .ordered ∧ t.due s.now (.storeResolve n) ∧ ∀ k, k ≠ n → t.op? k = s.op? k := by
  have hexec : (againOp n).exec s = (after 0 (.storeResolve n)).exec ((modOp n fun x => { x with phase := .ordered }).exec s) := by
    simp only [againOp, Cmd.exec_get, ho, Cmd.exec_opt_some, hengine, Bool.false_eq_true, if_false, Cmd.exec_seq]
  rw [hexec]
  refine ⟨QuietFrame.chains.trans (modOp_quiet _ _ _) (after_quiet _ _ _), ?_, after_due 0 _ _, fun k hk => Tbl.get?_mod_ne _ _ hk⟩
  exact (congrArg (Option.map _) ((modOp_op_self ..).trans (congrArg _ ho)) :)

variable {i : Instr} {f : SysSNode} {act : Nat → MemOp → Cmd}

/-- The element whose hold has ended: its port is free, and the queue behind it moves up. -/
def portFreed (sid : Nat) : Cmd := modElem sid fun e => { e with portHold := none, portQueue := e.portQueue.drop 1 }

theorem endHold_exec (sid : Nat) (s : State) :
    (endHold sid).exec s = (Cmd.opt (s.elem sid).portQueue.head? againOp).exec ((portFreed sid).exec s) := rfl

theorem portFreed_outs (sid k : Nat) (s : State) : (((portFreed sid).exec s).elem k).outs = (s.elem k).outs :=
  (modElem_elemFrame (fun _ => rfl) : (portFreed sid).Within (ElemFrame Element.outs)) s k

theorem portFreed_self (sid : Nat) (s : State) : ((portFreed sid).exec s).elem sid =
    { s.elem sid with portHold := none, portQueue := (s.elem sid).portQueue.drop 1 } := modElem_elem_self ..

theorem exec_retry_held (ho : s.cur.ordinary f.pred) (hexec : exec i s = retryNode i f.toHdr act s)
    (hmay : s.mayHandle s.cur (natBits (orNull s.cur.a).word.toNat 31 16) = true)
    (hheld : s.heldPort (orNull s.cur.a).word (orNull s.cur.b).word = some (n, o)) : exec i s =
      .next ((emit s.cur f.toHdr 1 s.cur.tag (.bit true)).exec ((act n o).exec ((markFired s.cur).exec s))) := by
  rw [hexec]
  simp only [retryNode, hmay, hheld, guarded, if_true, Cmd.next_eq, node_ordinary (h := f.toHdr) ho, Cmd.exec_seq]

theorem retry_free (ho : s.cur.ordinary f.pred) (hexec : exec i s = retryNode i f.toHdr act s)
    (hmay : s.mayHandle s.cur (natBits (orNull s.cur.a).word.toNat 31 16) = true)
    (hheld : s.heldPort (orNull s.cur.a).word (orNull s.cur.b).word = none) : Passes i s f.toHdr 1 (.bit false) := by
  refine node_passes (g := i.sig) ho (hexec.trans ?_)
  simp only [retryNode, hmay, hheld, guarded, if_true]

section
variable (ho : s.cur.ordinary f.pred) (hmay : s.mayHandle s.cur (natBits (orNull s.cur.a).word.toNat 31 16) = true)
  (hheld : s.heldPort (orNull s.cur.a).word (orNull s.cur.b).word = some (n, o))
include ho hmay hheld

/-- A held request of an engine that nothing waits behind goes on. -/
theorem resume_goes (hengine : o.isMemory = false) (hqueue : (s.elem o.f.sid).portQueue = []) :
    Answers (.retryResume f) s fun t => Emits s t f.toHdr 1 (.bit true) ∧ (t.elem o.f.sid).portHold = none ∧
      (t.op? n).map (·.phase) = some .ordered ∧ t.due s.now (.storeResolve n) := by
  let m := (markFired s.cur).exec s
  let u := (againOp n).exec m
  obtain ⟨hquiet, hphase, hdue, -⟩ := againOp_engine (s := m) (show s.op? n = some o from heldPort_op hheld) hengine
  have helem : ∀ k, u.elem k = s.elem k := fun k => (hquiet.elem k).trans (markFired_elem ..)
  have hexec := exec_retry_held (i := .retryResume f) (act := resumeHold) ho rfl hmay hheld
  simp only [resumeHold, Cmd.exec_seq, endHold_exec] at hexec
  rw [show ((againOp n).exec ((markFired s.cur).exec s)).elem o.f.sid = _ from helem _, hqueue, List.head?_nil, Cmd.exec_opt_none] at hexec
  refine ⟨_, hexec, emits_after ?_ hquiet.now, ?_, ?_, emit_due hdue⟩
  · exact (portFreed_outs ..).trans (congrArg Element.outs (helem _))
  · rw [emit_portHold, portFreed_self]
  · rw [emit_op]
    exact hphase

/-- The request that failed behind a held one goes on with it. -/
theorem resume_frees {k : Nat} {x : MemOp} (hengine : o.isMemory = false) (hqueue : (s.elem o.f.sid).portQueue = [k]) (hk : k ≠ n)
    (hx : s.op? k = some x) (hnext : x.isMemory = false) : Answers (.retryResume f) s fun t => (t.elem o.f.sid).portQueue = [] ∧
      (t.op? k).map (·.phase) = some .ordered ∧ t.due s.now (.storeResolve k) := by
  let m := (markFired s.cur).exec s
  let u := (againOp n).exec m
  let v := (portFreed o.f.sid).exec u
  obtain ⟨hquiet, -, -, hothers⟩ := againOp_engine (s := m) (show s.op? n = some o from heldPort_op hheld) hengine
  have helem : u.elem o.f.sid = s.elem o.f.sid := (hquiet.elem _).trans (markFired_elem ..)
  obtain ⟨hfreed, hphase, hdue, -⟩ := againOp_engine (s := v) (show v.op? k = some x from (hothers k hk).trans hx) hnext
  have hexec := exec_retry_held (i := .retryResume f) (act := resumeHold) ho rfl hmay hheld
  simp only [resumeHold, Cmd.exec_seq, endHold_exec] at hexec
  rw [show ((againOp n).exec ((markFired s.cur).exec s)).elem o.f.sid = _ from helem, hqueue, List.head?_cons, Cmd.exec_opt_some] at hexec
  refine ⟨_, hexec, ?_, ?_, emit_due (hquiet.now ▸ hdue)⟩
  · rw [emit_portQueue, hfreed.elem, portFreed_self, helem, hqueue]
    rfl
  · rw [emit_op]
    exact hphase

/-- A held access of another element that nothing waits behind resolves as null. -/
theorem skip_resolves (hother : o.f.sid ≠ s.cur.sid) (hqueue : (s.elem o.f.sid).portQueue = []) :
    Answers (.retrySkip f) s fun t => Emits s t f.toHdr 1 (.bit true) ∧ (t.elem o.f.sid).portHold = none ∧
      (t.op? n).map (·.null) = some true ∧ t.due s.now (.storeResolve n) := by
  let m := (markFired s.cur).exec s
  let u := (portFreed o.f.sid).exec m
  let v := (voidClaim o).exec u
  let w := (nullResult o).exec v
  have hvoid : WriteFrame u v := voidClaim_write o u
  have hnull : NodeFrame v w o.f := emitReply_nodeFrame ..
  have hquiet : QuietFrame w ((nullOp n).exec w) := nullOp_quiet n w
  have hop : w.op? n = some o :=
    (congrArg (fun m : MemSys => m.ops.get? n) hnull.mem).trans ((hvoid.op n).trans (show s.op? n = some o from heldPort_op hheld))
  have hexec := exec_retry_held (i := .retrySkip f) (act := skipHold) ho rfl hmay hheld
  simp only [skipHold, Cmd.exec_all_cons, Cmd.exec_all_one, endHold_exec] at hexec
  rw [markFired_elem, hqueue, List.head?_nil, Cmd.exec_opt_none] at hexec
  refine ⟨_, hexec, emits_after ?outs ?now, ?hold, ?null, emit_due ?due⟩
  case outs =>
    rw [hquiet.elem, hnull.others _ hother.symm, hvoid.elem]
    exact portFreed_outs ..
  case now => exact hquiet.now.trans (hnull.now.trans (hvoid.now.trans (markFired_now s.cur s)))
  case hold =>
    rw [emit_portHold, hquiet.elem]
    have hstill : (w.elem o.f.sid).portHold = (v.elem o.f.sid).portHold := (congrArg Element.portHold hnull.own :)
    rw [hstill, hvoid.elem, portFreed_self]
  case null =>
    obtain ⟨y, hy, hyes, -⟩ := nullOp_op hop
    rw [emit_op, hy, Option.map_some, hyes]
  case due =>
    have hnow : w.now = s.now := hnull.now.trans (hvoid.now.trans (markFired_now s.cur s))
    exact hnow ▸ nullOp_due n w

end
end

theorem recordRows : Claims.RecordRows := by
  intro s f ho c n ctx w0 w8
  refine ⟨fun x hx hroom => trap_records ho hx hroom, fun x hmay hx => frec_takes ho hmay hx, fun hmay hd => ?_, fun hmay => ?_⟩
  · refine node_faults (g := (Instr.frec f).sig) (cause := causeProt) ho hd ?_
    rw [exec_frec, guarded, show s.mayHandle s.cur (frecCtx s) = false from hmay]
    rfl
  · exact ⟨fun hfree => ⟨retry_free ho rfl hmay hfree, retry_free ho rfl hmay hfree⟩,
      fun id o hheld hengine hqueue => resume_goes ho hmay hheld hengine hqueue,
      fun id o k x hheld hengine hqueue hk hx hnext => resume_frees ho hmay hheld hengine hqueue hk hx hnext,
      fun id o hheld hother hqueue => skip_resolves ho hmay hheld hother hqueue⟩

end Sys2Proof.Machine

/-! ## Special registers, poison tests, counters and breakpoints (R102, R221, R222, R224 to R226) -/

namespace Sys2Proof.Machine

/-! ### POIS (R222) -/

section
variable {s : State} {f : SysSNode} {x : Ctx}

theorem poisMake_sends (ho : s.cur.ordinary f.pred) (hx : s.ctx? s.cur.ctx = some x) (hd : (f.d0.val || f.d1.val) = true) :
    Passes (.poisMake f) s f.toHdr 1 (.poison (s.cur.origin x.vd (f.lit.toNat % 256))) := by
  let o := s.cur.origin (s.vdOfCtx s.cur.ctx) (f.lit.toNat % 256)
  have hfresh := freshFault_aside s.cur o ((markFired s.cur).exec s)
  refine node_answers (h := f.toHdr) (g := (Instr.poisMake f).sig) (lat := 1) (tag := s.cur.tag)
    (k := .seq (freshFault s.cur o) (emitPoison s.cur f.toHdr 1 s.cur.tag o)) ho rfl ?_
  rw [Cmd.exec_seq, emitPoison_of_dest hd, ← vdOfCtx_of_some hx]
  exact emits_after (by rw [hfresh.elem, markFired_elem]) (hfresh.now.trans (markFired_now ..))

/-- An ordinary firing brings no poison on a or p. -/
theorem Firing.ordinary.unpoisoned {c : Firing} {pred : Pred} (ho : c.ordinary pred) :
    (∀ o, c.a ≠ some (.poison o)) ∧ ∀ o, c.p ≠ some (.poison o) := by
  have hnone := List.findSome?_eq_none_iff.1 ho.1
  refine ⟨fun o ha => ?_, fun o hp => ?_⟩
  · simpa [ha] using hnone c.a (by simp)
  · simpa [hp] using hnone c.p (by simp)

/-- POIS.test on a value that is no poison sends 0 and the value. -/
theorem poisTest_passes (ho : s.cur.ordinary f.pred) : Answers (.poisTest f) s fun t =>
    Sends s t s.cur f.toHdr 1 s.cur.tag (.bit false) (f.toHdr.ty.pass (orNull s.cur.a)) := by
  obtain ⟨ha, hp⟩ := ho.unpoisoned
  refine node_emit2_answers (h := f.toHdr) (g := (Instr.poisTest f).sig) ho ?_
  change execPoisTest f s = _
  unfold execPoisTest
  dsimp only
  split
  · exact absurd ‹s.cur.p = _› (hp _)
  · exact absurd ‹s.cur.a = _› (ha _)
  · rfl

/-- POIS.test on a poison consumes it. -/
theorem poisonTestConsumes : Claims.PoisonTestConsumes := by
  intro s f o ha hp
  have hexec : exec (.poisTest f) s =
      .next ((emit2 s.cur f.toHdr 1 s.cur.tag (.bit true) (.scalar o)).exec ((markFired s.cur).exec s)) := by
    change execPoisTest f s = _
    unfold execPoisTest
    dsimp only
    rw [ha]
    split
    · exact absurd ‹s.cur.p = _› (hp _)
    next heq _ =>
      cases heq
      rfl
    next hno _ => exact absurd rfl (hno o)
  exact ⟨_, hexec, emit2_fired_sends ..⟩

/-! ### RDSR and WRSR (R102, R224) -/

variable (hx : s.ctx? s.cur.ctx = some x)

theorem captureTo_aside (k : Nat) (r : CapRec) : (captureTo k r).Within (Aside id) := Cmd.within_get fun s => by
  have hR := Aside.chains (id : Ctx → Ctx)
  dsimp only
  split
  · exact hR.refl s
  · split
    · exact svcPrim_aside _ s
    · exact Cmd.within_seq hR (Cmd.within_seq hR (dramPrim_aside _ _) (memPrim_aside _)) (svcPrim_aside _) s

theorem capture_aside (ctx : Nat) (r : CapRec) : (capture ctx r).Within (Aside id) :=
  Cmd.within_get fun s => Cmd.within_each (Aside.chains id) (fun _ _ => captureTo_aside _ _) s

/-- A clock value goes out as read where no ring is replayed (R225, R425). -/
theorem emitClock_sends {i : Instr} {c : Firing} {h : Hdr} {v : W64} {u : State} (hlive : u.replaying c.ctx = false) :
    Sends u ((emitClock i c h v).exec u) c h 1 c.tag (.scalar v) (.scalar v) := by
  simp only [emitClock, Cmd.exec_get, hlive, Bool.false_eq_true, if_false, Cmd.exec_seq]
  have hcapture := capture_aside c.ctx ⟨3, c.rgn, BitVec.ofNat 32 (c.destA 0 h.d0), c.tag, (Val.scalar v).payload⟩ u
  exact (emit_sends ..).of_outs (by rw [hcapture.elem]) hcapture.now

theorem sreg_ne_clock {k : Nat} (hn : f.sreg.toNat = k) (hk : k ≠ 0x20) : ¬ f.sreg = 0x020 := fun h => hk (hn ▸ h ▸ rfl)

theorem rdsr_reads {k : Nat} (ho : s.cur.ordinary f.pred) (hk : s.sreg s.cur f.sreg.toNat = some k) (hclock : ¬ f.sreg = 0x020) :
    Passes (.rdsr f) s f.toHdr 1 (.scalar (BitVec.ofNat 64 k)) := by
  refine node_passes (g := (Instr.rdsr f).sig) (h := f.toHdr) ho ?_
  change execRdsr f s = _
  simp only [execRdsr, hk, hclock, if_false]

theorem rdsr_refuses (ho : s.cur.ordinary f.pred) (hd : (f.d0.val || f.d1.val) = true) (hk : s.sreg s.cur f.sreg.toNat = none) :
    Passes (.rdsr f) s f.toHdr 1 (.poison (s.cur.origin (s.vdOfCtx s.cur.ctx) causeIllegal)) := by
  refine node_faults (g := (Instr.rdsr f).sig) (h := f.toHdr) ho hd ?_
  change execRdsr f s = _
  simp only [execRdsr, hk]

theorem wrsr_refuses (ho : s.cur.ordinary f.pred) (hd : (f.d0.val || f.d1.val) = true) (hk : s.sreg s.cur f.sreg.toNat = none) :
    Passes (.wrsr f) s f.toHdr 1 (.poison (s.cur.origin (s.vdOfCtx s.cur.ctx) causeIllegal)) := by
  refine node_faults (g := (Instr.wrsr f).sig) (h := f.toHdr) ho hd ?_
  change execWrsr f s = _
  simp only [execWrsr, hk]

include hx

/-- TICKS goes out as read where no ring is replayed. -/
theorem rdsr_ticks (ho : s.cur.ordinary f.pred) (hn : f.sreg.toNat = 0x20) (hlive : s.replaying s.cur.ctx = false) :
    Passes (.rdsr f) s f.toHdr 1 (.scalar s.ticks) := by
  have hsreg : f.sreg = 0x020 := BitVec.eq_of_toNat_eq hn
  have hticks : BitVec.ofNat 64 s.ticks.toNat = s.ticks := by rw [BitVec.ofNat_toNat, BitVec.setWidth_eq]
  have hsends := emitClock_sends (i := .rdsr f) (h := f.toHdr) (v := s.ticks)
    (show ((markFired s.cur).exec s).replaying s.cur.ctx = false from hlive)
  refine node_answers (h := f.toHdr) (g := (Instr.rdsr f).sig) (lat := 1) (tag := s.cur.tag) ho ?_ (hsends.after (markFired_fab ..) (markFired_now ..))
  change execRdsr f s = _
  simp only [execRdsr, hsreg]
  simp [State.sreg, hx, hticks]

omit hx in
/-- What a WRSR of an assigned register makes of a context (R224). -/
def Ctx.wrsr (x : Ctx) (n v : Nat) : Ctx :=
  if n = 1 then { x with fpstat := clearFpstat x.fpstat v }
  else if n = 2 then { x with lease := x.lease.map fun _ => leaseWrite v } else x

/-- A WRSR of an assigned register passes a, once its context has taken the write. -/
theorem wrsr_writes {k : Nat} (ho : s.cur.ordinary f.pred) (hk : s.sreg s.cur f.sreg.toNat = some k) :
    Answers (.wrsr f) s fun t => Emits s t f.toHdr 1 (f.toHdr.ty.pass (orNull s.cur.a)) ∧
      t.ctx? s.cur.ctx = some (Ctx.wrsr { x with lastProgress := s.now } f.sreg.toNat (litOr f.l f.lit s.cur.b).toNat) := by
  let m := (markFired s.cur).exec s
  have hm : m.ctx? s.cur.ctx = some { x with lastProgress := s.now } := markFired_ctx_some hx
  have hcourse : ∀ {write : Cmd} {g : Sig}, execWrsr f s = (node s.cur f.toHdr g 1 s.cur.tag
      (.seq write (emit s.cur f.toHdr 1 s.cur.tag (f.toHdr.ty.pass (orNull s.cur.a))))).next s →
      (write.exec m).fab = m.fab → (write.exec m).now = m.now →
      (write.exec m).ctx? s.cur.ctx = some (Ctx.wrsr { x with lastProgress := s.now } f.sreg.toNat (litOr f.l f.lit s.cur.b).toNat) →
      Answers (.wrsr f) s fun t => Emits s t f.toHdr 1 (f.toHdr.ty.pass (orNull s.cur.a)) ∧
        t.ctx? s.cur.ctx = some (Ctx.wrsr { x with lastProgress := s.now } f.sreg.toNat (litOr f.l f.lit s.cur.b).toNat) :=
    fun hexec hfab hnow hctx => node_answers (h := f.toHdr) ho hexec
      ⟨(emit_sends ..).after (hfab.trans (markFired_fab ..)) (hnow.trans (markFired_now ..)), (emit_ctx ..).trans hctx⟩
  by_cases h1 : f.sreg.toNat = 1
  · refine hcourse (write := modCtx s.cur.ctx fun x => { x with fpstat := clearFpstat x.fpstat (litOr f.l f.lit s.cur.b).toNat })
      (g := (Instr.wrsr f).sig) ?_ rfl rfl ?_
    · simp only [execWrsr, h1, h1 ▸ hk]
    · rw [modCtx_ctx_self, hm, Ctx.wrsr, if_pos h1]
      rfl
  · by_cases h2 : f.sreg.toNat = 2
    · refine hcourse (write := modCtx s.cur.ctx fun x => { x with lease := x.lease.map fun _ => leaseWrite (litOr f.l f.lit s.cur.b).toNat })
        (g := (Instr.wrsr f).sig) ?_ rfl rfl ?_
      · simp only [execWrsr, h2, h2 ▸ hk]
      · rw [modCtx_ctx_self, hm, Ctx.wrsr, if_neg h1, if_pos h2]
        rfl
    · have hexec : execWrsr f s = (node s.cur f.toHdr (Instr.wrsr f).sig 1 s.cur.tag
          (emit s.cur f.toHdr 1 s.cur.tag (f.toHdr.ty.pass (orNull s.cur.a)))).next s := by
        simp only [execWrsr, hk]
      refine node_answers (h := f.toHdr) ho hexec ⟨emits_after rfl rfl, ?_⟩
      rw [emit_ctx, Ctx.wrsr, if_neg h1, if_neg h2]
      exact hm

/-- The special registers that are assigned, but for TICKS, with their values (R102). -/
theorem sreg_assigned : ∀ p ∈ [(0x000, x.fpcm), (0x001, x.fpstat), (0x002, x.lease.getD (dieOf s.cur.sid) 0), (0x010, s.cur.ctx),
      (0x011, x.vd), (0x012, dieOf s.cur.sid), (0x013, s.cur.rgn), (0x014, s.cur.tag.toNat), (0x021, (s.thermal (dieOf s.cur.sid)).allow),
      (0x030, x.siding.base.toNat), (0x031, x.siding.size), (0x032, x.siding.use), (0x040, x.pool.length), (0x041, x.fcount)],
    s.sreg s.cur p.1 = some p.2 ∧ p.1 ≠ 0x20 := by
  simp [State.sreg, hx]

theorem sreg_unassigned {n : Nat} (hn : n ∉ [0, 1, 2, 0x10, 0x11, 0x12, 0x13, 0x14, 0x20, 0x21, 0x30, 0x31, 0x32, 0x40, 0x41]) :
    s.sreg s.cur n = none := by
  unfold State.sreg
  rw [hx]
  dsimp only
  split <;> first | rfl | exact absurd (by decide) hn

end

/-! ### What a write leaves of FPSTAT and LEASE (R102) -/

theorem mod_two_and (a w : Nat) : (a &&& w) % 2 = 1 ↔ a % 2 = 1 ∧ w % 2 = 1 := by
  simp

/-- Taking away the bits that a number shares with a mask clears the bits of the mask. -/
theorem testBit_sub_and (a w j : Nat) : (a - (a &&& w)).testBit j = (a.testBit j && !w.testBit j) := by
  induction j generalizing a w with
  | zero =>
    have hle : a &&& w ≤ a := Nat.and_le_left
    have hlow := mod_two_and a w
    rw [Bool.eq_iff_iff]
    simp only [Nat.testBit_zero, Bool.and_eq_true, Bool.not_eq_true', decide_eq_true_eq, decide_eq_false_iff_not]
    omega
  | succ j ih =>
    have hle : a / 2 &&& w / 2 ≤ a / 2 := Nat.and_le_left
    have hhalf : (a &&& w) / 2 = a / 2 &&& w / 2 := Nat.and_div_two ..
    have hlow := mod_two_and a w
    have hsub : (a - (a &&& w)) / 2 = a / 2 - (a / 2 &&& w / 2) := by omega
    rw [Nat.testBit_succ, hsub, ih, ← Nat.testBit_succ, ← Nat.testBit_succ]

theorem clearFpstat_testBit (old v j : Nat) :
    (clearFpstat old v).testBit j = (old.testBit j && !(decide (j < 16) && v.testBit j)) := by
  rw [clearFpstat, testBit_sub_and, show (65536 : Nat) = 2 ^ 16 from rfl, Nat.testBit_mod_two_pow]

theorem Ctx.wrsr_keeps (x : Ctx) (n v : Nat) : (x.wrsr n v).fpcm = x.fpcm ∧
    (if n = 2 then (x.wrsr n v).lease = x.lease.map fun _ => if v % 1024 = 0 then 1 else v % 1024 else (x.wrsr n v).lease = x.lease) ∧
    ∀ j, (x.wrsr n v).fpstat.testBit j = (x.fpstat.testBit j && !(decide (n = 1 ∧ j < 16) && v.testBit j)) := by
  by_cases h1 : n = 1
  · subst h1
    exact ⟨rfl, rfl, fun j => (clearFpstat_testBit ..).trans (by simp)⟩
  · by_cases h2 : n = 2
    · subst h2
      exact ⟨rfl, rfl, fun j => by simp [Ctx.wrsr]⟩
    · rw [if_neg h2, Ctx.wrsr, if_neg h1, if_neg h2]
      exact ⟨rfl, rfl, fun j => by simp [h1]⟩

/-! ### CNTR (R226) -/

section
variable {s : State} {f : SysSNode}

theorem cntr_reads (ho : s.cur.ordinary f.pred) (ha : counterAssigned f.sreg.toNat = true) :
    Passes (.cntr f) s f.toHdr 1 (.scalar (BitVec.ofNat 64 (s.cntr s.cur f.sreg.toNat))) := by
  refine node_passes (g := (Instr.cntr f).sig) (h := f.toHdr) ho ?_
  change execCntr f s = _
  simp only [execCntr, ha, if_true]

theorem cntr_refuses (ho : s.cur.ordinary f.pred) (hd : (f.d0.val || f.d1.val) = true) (ha : counterAssigned f.sreg.toNat = false) :
    Passes (.cntr f) s f.toHdr 1 (.poison (s.cur.origin (s.vdOfCtx s.cur.ctx) causeIllegal)) := by
  refine node_faults (g := (Instr.cntr f).sig) (h := f.toHdr) ho hd ?_
  change execCntr f s = _
  simp only [execCntr, ha, Bool.false_eq_true, if_false]

/-! ### BKPT (R221) -/

/-- Between two states the cycle and the ring of every context are the same. -/
def RingFrame (s t : State) : Prop := ∀ c, (t.ctx? c).map (·.ring) = (s.ctx? c).map (·.ring)

theorem RingFrame.chains : Chains RingFrame where
  refl _ _ := rfl
  trans a b c := (b c).trans (a c)

theorem park_ringFrame (i : Instr) (f : Firing) (why : ParkWhy) : (park i f why).Within RingFrame := by
  have hR := RingFrame.chains
  have hset : ∀ key k w, (setWay key k w).Within RingFrame := fun _ _ _ _ _ => rfl
  have hspill : ∀ key m, (spill f.ctx key m).Within RingFrame := fun _ _ _ _ => rfl
  have hplaced : (modParked f fun p => { p with placed := true }).Within RingFrame := fun _ _ => rfl
  have hfull : (startFull f.ctx).Within RingFrame := Cmd.within_get fun s => by
    split
    · refine Cmd.within_when hR (fun _ => Cmd.within_seq hR (fun s c => ?_) fun _ _ => rfl) s
      exact (modCtx_aside (s := s) (g := Ctx.ring)).ctx c
    · exact hR.refl s
  refine Cmd.within_get fun s => Cmd.within_seq hR (fun _ _ => rfl) (Cmd.within_get fun t => ?_) s
  have haway : ∀ c : Cmd, c.Within RingFrame →
      (if t.canSpill f.ctx (setKeyAt f.sid f.frm f.node f.tag) then .seq c (modParked f fun p => { p with placed := true })
        else startFull f.ctx).Within RingFrame := fun c hc => Cmd.within_ite (Cmd.within_seq hR hc hplaced) hfull
  dsimp only
  split
  · exact Cmd.within_seq hR (hset _ _ _) hplaced t
  · split
    · exact haway _ (Cmd.within_seq hR (hspill _ _) (hset _ _ _)) t
    · exact haway _ (hspill _ _) t
  · exact haway _ (hspill _ _) t

theorem bkpt_passes (ho : s.cur.ordinary f.pred) (hdebug : s.debugOn s.cur.ctx = false) :
    Passes (.bkpt f) s f.toHdr 1 (f.toHdr.ty.pass (orNull s.cur.a)) := by
  refine node_passes (g := (Instr.bkpt f).sig) (h := f.toHdr) ho ?_
  change execBkpt f s = _
  simp only [execBkpt, hdebug, Bool.false_eq_true, if_false]

/-- A BKPT of a context under debug records and waits. -/
theorem bkpt_waits {x : Ctx} (ho : s.cur.ordinary f.pred) (hx : s.ctx? s.cur.ctx = some x) (hdebug : s.debugOn s.cur.ctx = true)
    (hroom : x.ring.length < 64) : Answers (.bkpt f) s fun t => (t.elem s.cur.sid).outs = (s.elem s.cur.sid).outs ∧
      (∃ p ∈ (t.elem s.cur.sid).parked, p.i = .bkpt f ∧ p.f = s.cur) ∧
      ∃ rec ∈ ((t.ctx? s.cur.ctx).map (·.ring)).getD [], rec.cause = 0x11 ∧ rec.vala = (orNull s.cur.a).word ∧
        rec.detail = f.lit.toNat % 65536 := by
  let m := (markFired s.cur).exec s
  let r : FaultRec := { s.recordAt s.cur causeBkpt with detail := f.lit.toNat % 65536, vala := (orNull s.cur.a).word }
  let u := (writeRecord r).exec m
  have hexec : exec (.bkpt f) s = (node s.cur f.toHdr (Instr.bkpt f).sig 1 s.cur.tag
      (.seq (writeRecord r) (park (.bkpt f) s.cur .debug))).next s := by
    change execBkpt f s = _
    simp only [execBkpt, hdebug, if_true]
    rfl
  obtain ⟨houts, hparked⟩ := park_parks (.bkpt f) s.cur .debug u
  have hring : r ∈ ((u.ctx? s.cur.ctx).map (·.ring)).getD [] :=
    writeRecord_mem_ring (s := m) rfl (markFired_ctx_some hx) hroom
  refine node_answers (h := f.toHdr) ho hexec ⟨houts.trans ?_, hparked, r, ?_, rfl, rfl, rfl⟩
  · exact congrArg Element.outs ((writeRecord_aside r m).elem s.cur.sid)
  · rw [Cmd.exec_seq, park_ringFrame (.bkpt f) s.cur .debug u]
    exact hring

end

theorem registerRows : Claims.RegisterRows := by
  intro s f x ho hx c h a n v word die bad
  have hvd : s.vdOfCtx s.cur.ctx = x.vd := vdOfCtx_of_some hx
  refine ⟨poisMake_sends ho hx, poisTest_passes ho, fun m k hmem hn => ?assigned, rdsr_ticks hx ho, fun hn => ?unassigned, fun hn => ?counter,
    fun hn => ?power, fun hn => ⟨_, cntr_reads ho (by rw [show f.sreg.toNat = 0x102 from hn]; rfl)⟩, fun hn => ?none, bkpt_passes ho,
    bkpt_waits ho hx⟩
  case assigned =>
    obtain ⟨hk, hclock⟩ := sreg_assigned hx _ hmem
    subst hn
    refine ⟨rdsr_reads ho hk (sreg_ne_clock rfl hclock), (wrsr_writes hx ho hk).imp fun t ⟨hsends, hctx⟩ => ⟨hsends, _, hctx, ?_⟩⟩
    exact Ctx.wrsr_keeps { x with lastProgress := s.now } n v
  case unassigned =>
    have hnone := sreg_unassigned hx hn
    exact ⟨fun hd => hvd ▸ rdsr_refuses ho hd hnone, fun hd => hvd ▸ wrsr_refuses ho hd hnone⟩
  case counter =>
    have hread := cntr_reads ho (show counterAssigned n = true by simp [counterAssigned]; omega)
    rwa [State.cntr, if_pos (show f.sreg.toNat < 0x100 by omega), hvd] at hread
  case power =>
    have hread := cntr_reads ho (show counterAssigned n = true by simp [counterAssigned]; omega)
    have hplain : ¬ f.sreg.toNat = 0x102 := by omega
    rw [State.cntr, if_neg (show ¬ f.sreg.toNat < 0x100 by omega), State.priv, hx] at hread
    simpa [hplain] using hread
  case none =>
    exact fun hd => hvd ▸ cntr_refuses ho hd (show counterAssigned n = false by simp [counterAssigned]; omega)

/-- Settles O25: each row is a node of its own; what it records, frees or writes is read off the commands before its emission. -/
theorem systemNodes : Obligations.SystemNodes := ⟨recordRows, registerRows, poisonTestConsumes⟩

end Sys2Proof.Machine

/-! ## A parked firing of another element (R251)

The clause of TIME.until about a spilled entry speaks of the parked firing that the element's table gives for the firing at hand. That
firing's own element need not be the one whose table holds it. -/

namespace Sys2Proof.Machine

/-- A TIME.until without destinations. -/
def untilNode : SysSNode :=
  { sub := 0, pred := .always, ty := .i64, d0 := ⟨false, 0, .a⟩, d1 := ⟨false, 0, .a⟩, lit := 0, l := false, sreg := 0 }

/-- A firing of element (1, 0) that waits for a cycle, with its entry placed. -/
def strayParked : Parked := ⟨.timeUntil untilNode, { Firing.zero with sid := 1 }, .time, 0, true, false⟩

/-- Its entry in the Siding of context 0. -/
def strayEntry : SidEntry := ⟨{ strayParked.f.parkedEntry 0 with seen := [] }, 0, 1, 0, 0, 0, false, false, 0, 0, 0⟩

/-- After reset, the table of element (0, 0) holds the firing above, and the Siding its entry. -/
def strayWait : State :=
  { State.reset with
    fab := { State.reset.fab with elements := [(0, { Element.empty with parked := [strayParked] })] }
    run := { State.reset.run with regions := [(0, Region.bare)] }
    ten := { State.reset.ten with ctxs := [(0, { Ctx.bare with siding := { Siding.bare with entries := [(4, strayEntry)] } })] }
    cur := Firing.zero }

/-- The release of the firing marks no entry of the table of element (0, 0). -/
theorem parked_strayWait : (((waitUntil (.timeUntil untilNode) Firing.zero untilNode.toHdr (Instr.timeUntil untilNode).sig fun _ => 0).exec
    strayWait).elem 0).parked = [strayParked] := by
  decide

/-- Refutes O26: in the state above the firing at element (0, 0) finds its key in the table of its element, with an entry in the Siding.
The entry is asked for, but the mark of the release goes to the table of the element that the parked firing names, (1, 0). -/
theorem not_timeDoneAndJobs : ¬ Obligations.TimeDoneAndJobs := by
  rintro ⟨htime, -⟩
  obtain ⟨-, -, hspilled, -⟩ := htime strayWait untilNode ⟨rfl, rfl⟩
  obtain ⟨t, hexec, -, q, hq, -, hreleased⟩ := hspilled strayParked 4 (by decide) (by decide) (by decide)
  have hrun : exec (.timeUntil untilNode) strayWait = .next ((waitUntil (.timeUntil untilNode) Firing.zero untilNode.toHdr
    (Instr.timeUntil untilNode).sig fun _ => 0).exec strayWait) := rfl
  obtain rfl := Host.Outcome.next.inj (hexec.symm.trans hrun)
  rw [show strayWait.cur.sid = 0 from rfl, parked_strayWait, List.mem_singleton] at hq
  subst hq
  exact absurd hreleased (by decide)

end Sys2Proof.Machine

/-! ## What the device's own writes and records leave alone (R202, R307, R327, R439)

A job or a launch that ends writes words and stamps, or a record where it cannot. Either way the fabric, the engines, the operations,
the regions and the vaults are as before, and of the tenancy state the launches, saves and snapshots. -/

namespace Sys2Proof.Machine

/-- Between two states the fabric, the engines, the operations, the regions, the vaults, and the launches, saves, snapshots and credits are
the same; contexts differ at most in their records, and no due task is lost. -/
structure DeviceFrame (s t : State) : Prop extends Aside Ctx.unrecorded s t where
  eng : t.eng = s.eng
  ops : t.mem.ops = s.mem.ops
  vault : t.bytes.vault = s.bytes.vault
  regions : t.run.regions = s.run.regions
  launches : t.ten.launches = s.ten.launches
  saves : t.ten.saves = s.ten.saves
  snaps : t.ten.snaps = s.ten.snaps
  buckets : t.ten.buckets = s.ten.buckets

theorem DeviceFrame.chains : Chains DeviceFrame where
  refl s := ⟨(Aside.chains _).refl s, rfl, rfl, rfl, rfl, rfl, rfl, rfl, rfl⟩
  trans a b := ⟨(Aside.chains _).trans a.toAside b.toAside, b.eng.trans a.eng, b.ops.trans a.ops, b.vault.trans a.vault,
    b.regions.trans a.regions, b.launches.trans a.launches, b.saves.trans a.saves, b.snaps.trans a.snaps, b.buckets.trans a.buckets⟩

theorem WriteFrame.device {s t : State} (h : WriteFrame s t) : DeviceFrame s t :=
  ⟨h.toAside.part _, h.eng, h.ops, h.vault, by rw [h.run], h.launches, h.saves, h.snaps, h.buckets⟩

theorem sendInterrupt_device (vd src : Nat) : (sendInterrupt vd src).Within DeviceFrame :=
  Cmd.within_get fun s => Cmd.within_when DeviceFrame.chains
    (fun _ t => ⟨(hostPrim_aside _ _ t).part _, rfl, rfl, rfl, rfl, rfl, rfl, rfl, rfl⟩) s

theorem noticeAppend_device (ctx : Nat) (v : W64) : (noticeAppend ctx v).Within DeviceFrame := fun s =>
  ⟨(noticeAppend_aside ctx v s).part _, rfl, rfl, rfl, rfl, rfl, rfl, rfl, rfl⟩

theorem modCtx_device (c : Nat) {f : Ctx → Ctx} (hf : ∀ x, (f x).unrecorded = x.unrecorded) : (modCtx c f).Within DeviceFrame := fun s =>
  ⟨modCtx_aside hf s, rfl, rfl, rfl, rfl, rfl, rfl, rfl, rfl⟩

theorem writeRecord_device (r : FaultRec) : (writeRecord r).Within DeviceFrame := by
  refine Cmd.within_get fun s => ?_
  split
  · exact ⟨(svcPrim_aside _ s).part _, rfl, rfl, rfl, rfl, rfl, rfl, rfl, rfl⟩
  · split
    · refine Cmd.within_seq DeviceFrame.chains (modCtx_device _ ?keeps) ?_ s
      case keeps => exact fun _ => rfl
      dsimp only
      split
      · exact noticeAppend_device _ _
      · split
        · split
          · exact Cmd.within_ite (noticeAppend_device _ _) (sendInterrupt_device _ _)
          · exact sendInterrupt_device _ _
        · exact sendInterrupt_device _ _
    · refine modCtx_device _ ?keeps s
      case keeps => exact fun _ => rfl

theorem writeToSupervisor_device (vd : Nat) (r : FaultRec) : (writeToSupervisor vd r).Within DeviceFrame :=
  Cmd.within_get fun s => by
    split
    · exact writeRecord_device _ s
    · exact sendInterrupt_device _ _ s

theorem engFault_device (ctx die cause addr detail : Nat) : (engFault ctx die cause addr detail).Within DeviceFrame :=
  Cmd.within_get fun s => writeRecord_device _ s

theorem supervisorFault_device (vd die cause addr : Nat) : (supervisorFault vd die cause addr).Within DeviceFrame :=
  Cmd.within_get fun s => writeToSupervisor_device _ _ s

/-- A task that one part of a sequence of new tasks makes due is due after it. -/
theorem each_after_due {α : Type} {xs : List α} {n : α → Nat} {i : α → Instr} {x : α} (hx : x ∈ xs) (s : State) :
    ((Cmd.each xs fun x => after (n x) (i x)).exec s).due (s.now + n x) (i x) :=
  each_agenda (fun _ _ => after_aside _ _) hx fun t ht => ht ▸ after_due (n x) (i x) t

end Sys2Proof.Machine

/-! ## Contexts end (R45, R218, R230, R346, R365, R366)

TEARDOWN waits, freezes, or discards and returns everything; the launch is then as its context left it, and LAUNCH_EXIT ends it. -/

namespace Sys2Proof.Machine

/-! ### Freezing (R45) -/

/-- Between two states no region of a context is gone, and none that has stopped goes on. -/
def StopFrame (ctx : Nat) (s t : State) : Prop :=
  ∀ n x, s.region? ctx n = some x → ∃ y, t.region? ctx n = some y ∧ (x.stopped = true → y.stopped = true)

theorem StopFrame.chains (ctx : Nat) : Chains (StopFrame ctx) where
  refl _ _ x h := ⟨x, h, id⟩
  trans a b n x h := by
    obtain ⟨y, hy, hxy⟩ := a n x h
    obtain ⟨z, hz, hyz⟩ := b n y hy
    exact ⟨z, hz, hyz ∘ hxy⟩

/-- The stop of one region: it is marked, and its wave sets out. -/
def stopRegion (ctx : Nat) (r : Region) : Cmd := .seq
  (modRegion ctx r.rgn fun r => { r with stopped := true })
  (Cmd.each r.sites fun sid => after (1 + (xOf sid - r.x0) + (yOf sid - r.y0)) (.stopWave sid))

theorem stopRegion_aside (ctx : Nat) (r : Region) : (stopRegion ctx r).Within (Aside id) :=
  Cmd.within_seq (Aside.chains id) (modRegion_aside _ _ _) (Cmd.within_each (Aside.chains id) fun _ _ => after_aside _ _)

theorem stopRegion_region (ctx n : Nat) (r : Region) (s : State) : ((stopRegion ctx r).exec s).region? ctx n =
    ((modRegion ctx r.rgn fun r => { r with stopped := true }).exec s).region? ctx n := by
  rw [stopRegion, Cmd.exec_seq, State.region?, State.region?]
  have hwave : (Cmd.each r.sites fun sid => after (1 + (xOf sid - r.x0) + (yOf sid - r.y0)) (.stopWave sid)).Within SameRun :=
    Cmd.within_each SameRun.chains fun _ _ _ => ⟨rfl, rfl⟩
  rw [(hwave _).1]

theorem stopRegion_stopFrame (ctx : Nat) (r : Region) : (stopRegion ctx r).Within (StopFrame ctx) := fun s n x hx => by
  rw [stopRegion_region]
  by_cases hn : n = r.rgn
  · subst hn
    exact ⟨_, (modRegion_region_self ..).trans (congrArg _ hx), fun _ => rfl⟩
  · have hkey : regionKey ctx n ≠ regionKey ctx r.rgn := fun h => hn (Nat.add_left_cancel h)
    exact ⟨x, (Tbl.get?_mod_ne _ _ hkey).trans hx, id⟩

/-- Freezing marks every region of the context. -/
theorem freezeContext_stops {s : State} {ctx : Nat} {r : Region} (hr : r ∈ s.regionsOf ctx) (hreg : s.region? ctx r.rgn = some r) :
    (((freezeContext ctx).exec s).region? ctx r.rgn).map (·.stopped) = some true := by
  refine Cmd.each_brings (f := stopRegion ctx) (P := fun t => (t.region? ctx r.rgn).map (·.stopped) = some true) (StopFrame.chains ctx)
    (fun r _ => stopRegion_stopFrame ctx r) (fun {t u} htu ht => ?_) hr fun t ht => ?_
  · obtain ⟨x, hx, hstop⟩ := Option.map_eq_some_iff.1 ht
    obtain ⟨y, hy, hxy⟩ := htu _ x hx
    rw [hy, Option.map_some, hxy hstop]
  · obtain ⟨y, hy, -⟩ := ht _ r hreg
    rw [stopRegion_region, modRegion_region_self, hy]
    rfl

/-! ### Discarding and returning (R366) -/

/-- Between two states no more differs than the fabric and the run. -/
structure SiteFrame (s t : State) : Prop where
  ten : t.ten = s.ten
  eng : t.eng = s.eng
  mem : t.mem = s.mem
  now : t.now = s.now
  agenda : t.agenda = s.agenda

theorem SiteFrame.chains : Chains SiteFrame where
  refl _ := ⟨rfl, rfl, rfl, rfl, rfl⟩
  trans a b := ⟨b.ten.trans a.ten, b.eng.trans a.eng, b.mem.trans a.mem, b.now.trans a.now, b.agenda.trans a.agenda⟩

theorem releaseReplica_siteFrame (r : Region) : (releaseReplica r).Within SiteFrame := by
  have hR := SiteFrame.chains
  have hfab : ∀ f, (Cmd.prim (.fab f)).Within SiteFrame := fun _ _ => ⟨rfl, rfl, rfl, rfl, rfl⟩
  refine Cmd.within_seq hR (Cmd.within_seq hR (Cmd.within_each hR fun _ _ => Cmd.within_seq hR (hfab _) ?_) (hfab _))
    fun _ => ⟨rfl, rfl, rfl, rfl, rfl⟩
  exact Cmd.within_each hR fun _ _ => hfab _

theorem killMembers_none {s : State} (h : s.eng.groups = []) (ctx : Nat) : (killMembers ctx).exec s = s := by
  simp only [killMembers, Cmd.exec_get, h, List.filter_nil, Cmd.exec_each_nil]

section
variable {s : State} (ctx : Nat)

/-- The claims of a context are voided, and its packets aborted. -/
def voidAll (s : State) (ctx : Nat) : Cmd := .seq
  (Cmd.each (s.mem.ops.filter fun (_, o) => o.f.ctx == ctx) fun (_, o) => voidClaim o)
  (Cmd.each (s.eng.halves.map (·.1)) fun h => after 0 (.mxAbort h ctx))

/-- What a context has in flight is taken off every table. -/
def forgetContext (ctx : Nat) : Cmd := .all [
  .prim (.mem fun m => { m with ops := m.ops.filter fun (_, o) => o.f.ctx != ctx }),
  .prim (.blocks fun r => { r with
    reads := r.reads.filter fun (_, q) => q.f.ctx != ctx
    pools := r.pools.filter fun (_, q) => q.f.ctx != ctx
    reservations := r.reservations.filter fun (_, q) => q.ctx != ctx }),
  .prim (.fab fun f => { f with spills := f.spills.filter fun (_, p) => p.ctx != ctx }),
  .prim (.ten fun t => { t with maps := t.maps.filter fun (_, q) => q.ctx != ctx, snaps := t.snaps.filter fun (_, n) => n.ctx != ctx }),
  .prim (.eng fun e => { e with groups := e.groups.filter fun (k, _) => groupCtx k != ctx }),
  .prim (.drop (Task.isOf ctx))]

theorem discardContext_exec (s : State) : (discardContext ctx).exec s =
    (forgetContext ctx).exec ((killMembers ctx).exec ((voidAll s ctx).exec s)) := rfl

theorem forgetContext_leaves (u : State) :
    let t := (forgetContext ctx).exec u
    t.ten.ctxs = u.ten.ctxs ∧ t.ten.launches = u.ten.launches ∧ t.now = u.now ∧ ∀ o ∈ t.mem.ops, o.2.f.ctx ≠ ctx :=
  ⟨rfl, rfl, rfl, fun _ ho => bne_iff_ne.1 (List.mem_filter.1 ho).2⟩

theorem voidAll_write : (voidAll s ctx).Within WriteFrame :=
  Cmd.within_seq WriteFrame.chains (Cmd.within_each WriteFrame.chains fun _ _ => voidClaim_write _)
    (Cmd.within_each WriteFrame.chains fun _ _ => after_write _ _)

/-- What is discarded with a context that is in no group leaves the contexts and launches, and no request of the context. -/
theorem discardContext_leaves (hgroups : s.eng.groups = []) :
    let t := (discardContext ctx).exec s
    t.ten.ctxs = s.ten.ctxs ∧ t.ten.launches = s.ten.launches ∧ t.now = s.now ∧ ∀ o ∈ t.mem.ops, o.2.f.ctx ≠ ctx := by
  have hvoid : WriteFrame s ((voidAll s ctx).exec s) := voidAll_write ctx s
  obtain ⟨hctxs, hlaunches, hnow, hops⟩ := forgetContext_leaves ctx ((voidAll s ctx).exec s)
  rw [discardContext_exec, killMembers_none (hvoid.eng ▸ hgroups)]
  exact ⟨hctxs.trans hvoid.ctxs, hlaunches.trans hvoid.launches, hnow.trans hvoid.now, hops⟩

/-- The areas, the replay, the supervisor's place and the number of a context are returned. -/
def returnAreas (ctx vd : Nat) : Cmd := .all [
  freeVault ctx,
  .prim (.svc fun v => { v with replays := v.replays.del ctx }),
  modVd vd (fun v => if v.supervisor == some ctx then { v with supervisor := none } else v),
  .prim (.ten fun t => { t with ctxs := t.ctxs.del ctx })]

theorem releaseContext_exec (s : State) : (releaseContext ctx).exec s =
    wakeLaunches.exec ((returnAreas ctx (s.vdOfCtx ctx)).exec ((Cmd.each (s.regionsOf ctx) releaseReplica).exec s)) := rfl

theorem returnAreas_leaves (vd : Nat) (u : State) :
    let t := (returnAreas ctx vd).exec u
    t.ten.ctxs = u.ten.ctxs.del ctx ∧ t.ten.launches = u.ten.launches ∧ t.now = u.now ∧ t.mem = u.mem :=
  ⟨rfl, rfl, rfl, rfl⟩

theorem wakeLaunches_write : wakeLaunches.Within WriteFrame :=
  Cmd.within_get fun s => Cmd.within_each WriteFrame.chains (fun _ _ => after_write _ _) s

/-- What is returned with a context leaves the launches and requests; the context is gone. -/
theorem releaseContext_leaves (s : State) :
    let t := (releaseContext ctx).exec s
    t.ten.ctxs = s.ten.ctxs.del ctx ∧ t.ten.launches = s.ten.launches ∧ t.now = s.now ∧ t.mem.ops = s.mem.ops := by
  let u := (Cmd.each (s.regionsOf ctx) releaseReplica).exec s
  have hreturned : SiteFrame s u := Cmd.within_each SiteFrame.chains (fun _ _ => releaseReplica_siteFrame _) s
  obtain ⟨hctxs, hlaunches, hnow, hmem⟩ := returnAreas_leaves ctx (s.vdOfCtx ctx) u
  have hwake := wakeLaunches_write ((returnAreas ctx (s.vdOfCtx ctx)).exec u)
  rw [releaseContext_exec]
  refine ⟨hwake.ctxs.trans (hctxs.trans ?_), hwake.launches.trans (hlaunches.trans ?_), hwake.now.trans (hnow.trans hreturned.now),
    hwake.ops.trans ?_⟩
  · rw [hreturned.ten]
  · rw [hreturned.ten]
  · rw [hmem, hreturned.mem]

/-- A launch whose context is gone. -/
def Launch.left (l : Launch) (exit : Nat) : Launch := { l with exit := some exit, ctx := none, state := .ended }

theorem leaveLaunch_leaves (n w : Nat) (u : State) :
    let t := (after 0 (.launchExit n)).exec ((modLaunch n (Launch.left · w)).exec u)
    t.ten.ctxs = u.ten.ctxs ∧ t.ten.launches.get? n = (u.ten.launches.get? n).map (Launch.left · w) ∧ t.mem = u.mem ∧
      t.due u.now (.launchExit n) :=
  ⟨rfl, modLaunch_launch_self .., rfl, after_due 0 _ _⟩

end

/-! ### TEARDOWN (R365, R366) -/

section
variable {s : State} {ctx : Nat} {c : Ctx} (hc : s.ctx? ctx = some c)
include hc

theorem teardown_waits (hjob : s.ctxJob ctx = true) : exec (.teardown ctx) s = .next ((after 1 (.teardown ctx)).exec s) := by
  change execTeardown ctx s = _
  simp only [execTeardown, hc, hjob, if_true, Cmd.next_eq]

theorem teardown_freezes (hjob : s.ctxJob ctx = false) (hfreezing : c.state ≠ .freezing) (hfrozen : c.state ≠ .frozen) :
    exec (.teardown ctx) s = .next ((after 1 (.teardown ctx)).exec ((freezeContext ctx).exec s)) := by
  change execTeardown ctx s = _
  simp only [execTeardown, hc, hjob, beq_false_of_ne hfreezing, beq_false_of_ne hfrozen, Bool.false_eq_true, if_false, Bool.or_self,
    Bool.not_false, if_true, Cmd.next_eq, Cmd.exec_seq]

theorem teardown_ends (hjob : s.ctxJob ctx = false) (hstate : c.state = .freezing ∨ c.state = .frozen) (hcalm : s.calm ctx = true) :
    exec (.teardown ctx) s = .next ((after 0 (.launchExit c.launch)).exec ((modLaunch c.launch
      (Launch.left · (c.exit.getD (endedWord 2)))).exec ((releaseContext ctx).exec ((discardContext ctx).exec s)))) := by
  have hstopping : (c.state == .freezing || c.state == .frozen) = true := by
    rcases hstate with h | h <;> rw [h] <;> rfl
  change execTeardown ctx s = _
  simp only [execTeardown, hc, hjob, hstopping, hcalm, Bool.false_eq_true, if_false, Bool.not_true, Cmd.next_eq]
  rfl

/-- A settled context that is in no group is returned, and its launch gets the exit word. -/
theorem teardown_returns {l : Launch} (hjob : s.ctxJob ctx = false) (hstate : c.state = .freezing ∨ c.state = .frozen)
    (hcalm : s.calm ctx = true) (hgroups : s.eng.groups = []) (hl : s.ten.launches.get? c.launch = some l) :
    Answers (.teardown ctx) s fun t => t.ten.ctxs = s.ten.ctxs.del ctx ∧
      t.ten.launches.get? c.launch = some { l with exit := some (c.exit.getD (endedWord 2)), ctx := none, state := .ended } ∧
      (∀ o ∈ t.mem.ops, o.2.f.ctx ≠ ctx) ∧ t.due s.now (.launchExit c.launch) := by
  obtain ⟨hctxs, hlaunches, hnow, hops⟩ := discardContext_leaves ctx hgroups
  obtain ⟨hctxs', hlaunches', hnow', hops'⟩ := releaseContext_leaves ctx ((discardContext ctx).exec s)
  obtain ⟨hleft, hlaunch, hmem, hdue⟩ := leaveLaunch_leaves c.launch (c.exit.getD (endedWord 2))
    ((releaseContext ctx).exec ((discardContext ctx).exec s))
  refine ⟨_, teardown_ends hc hjob hstate hcalm, hleft.trans (hctxs'.trans (by rw [hctxs])), hlaunch.trans ?_, fun o ho => hops o ?_, ?_⟩
  · rw [hlaunches', hlaunches, hl]
    rfl
  · rwa [hmem, hops'] at ho
  · rwa [hnow', hnow] at hdue

end

/-! ### LAUNCH_EXIT (R218, R346) -/

section
variable {s : State} {id w : Nat} {l : Launch}

theorem launchDone_write (l : Launch) : (launchDone l).Within WriteFrame :=
  Cmd.within_get fun s => Cmd.within_when WriteFrame.chains (fun _ => engWrite_write _ _ _ _ _) s

theorem writeExit_device (l : Launch) (w : Nat) : (writeExit l w).Within DeviceFrame :=
  Cmd.within_get fun s => Cmd.within_when DeviceFrame.chains (fun _ => writeStamp_within DeviceFrame.chains (fun _ _ => WriteFrame.device)
    (fun _ _ => supervisorFault_device _ _ _ _) (sendInterrupt_device _ _)) s

theorem wakeJobs_write (vd : Nat) : (wakeJobs vd).Within WriteFrame := by
  have hR := WriteFrame.chains
  refine Cmd.within_get fun s => Cmd.within_seq hR (Cmd.within_each hR fun x _ => ?_) (Cmd.within_each hR fun _ _ => after_write _ _) s
  dsimp only
  split
  · exact Cmd.within_skip hR
  · exact after_write _ _

/-- The launches that wait for grants look again at once. -/
theorem wakeLaunches_due {k : Nat} {y : Launch} (hk : (k, y) ∈ s.ten.launches) (hy : y.state = .waiting) :
    (wakeLaunches.exec s).due s.now (.launchGrant y.vd) := by
  have hmem : (k, y) ∈ s.ten.launches.filter fun (_, l) => l.state == .waiting := List.mem_filter.2 ⟨hk, beq_iff_eq.2 hy⟩
  exact each_after_due (n := fun _ => 0) (i := fun x : Nat × Launch => .launchGrant x.2.vd) hmem s

/-- What is written at the end of a launch. -/
def exitWrites (l : Launch) (w : Nat) : Cmd := .seq (writeExit l w) (launchDone l)

theorem exitWrites_device (l : Launch) (w : Nat) : (exitWrites l w).Within DeviceFrame :=
  Cmd.within_seq DeviceFrame.chains (writeExit_device l w) fun s => (launchDone_write l s).device

/-- Without a stamp and with a descriptor that cannot be written, nothing is. -/
theorem exitWrites_none (hstamp : field l.packet 48 8 = 0)
    (herror : (s.engError l.die l.vd (s.descriptor l.vd l.queue true + 32) 8 .write).isSome = true) : (exitWrites l w).exec s = s := by
  have hnone : (s.engError l.die l.vd (s.descriptor l.vd l.queue true + 32) 8 .write).isNone = false := by
    rw [← Option.not_isSome, herror]
    rfl
  simp only [exitWrites, writeExit, launchDone, Cmd.exec_seq, Cmd.exec_get, hstamp, bne_self_eq_false, Cmd.exec_when_false, hnone]

/-- A launch's record and job are dropped. -/
def dropLaunch (id : Nat) : Cmd := .seq (.prim (.ten fun t => { t with launches := t.launches.del id })) (dropJob id)

theorem endLaunch_goes (hl : s.ten.launches.get? id = some l) (hgo : s.exitWaits l = false) : (endLaunch id w).exec s =
    wakeLaunches.exec ((wakeJobs l.vd).exec ((dropLaunch id).exec ((exitWrites l w).exec s))) := by
  simp only [endLaunch, Cmd.exec_get, hl, hgo, Bool.false_eq_true, if_false]
  rfl

theorem endLaunch_ends (hl : s.ten.launches.get? id = some l) : Claims.LaunchEnds s id l w ((endLaunch id w).exec s) := by
  unfold Claims.LaunchEnds
  by_cases hwait : s.exitWaits l = true
  · have hexec : (endLaunch id w).exec s = (after 1 (.launchExit id)).exec
        ((modLaunch id fun l => { l with exit := some w, ctx := none, state := .ended }).exec s) := by
      simp only [endLaunch, Cmd.exec_get, hl, hwait, if_true, Cmd.exec_seq]
    rw [if_pos hwait, hexec]
    exact ⟨(modLaunch_launch_self ..).trans (congrArg _ hl), rfl, after_due 1 _ _⟩
  · let u := (exitWrites l w).exec s
    let v := (dropLaunch id).exec u
    have hwrites : DeviceFrame s u := exitWrites_device l w s
    have hjobs : WriteFrame v ((wakeJobs l.vd).exec v) := wakeJobs_write l.vd v
    have hwake := wakeLaunches_write ((wakeJobs l.vd).exec v)
    have hlaunches : v.ten.launches = s.ten.launches.del id := congrArg (Tbl.del · id) hwrites.launches
    rw [if_neg hwait, endLaunch_goes hl (Bool.eq_false_iff.2 hwait)]
    refine ⟨(hwake.launches.trans hjobs.launches).trans hlaunches, ?_, fun hstamp herror => ?_, fun k y hk hy => ?_⟩
    · exact (congrArg EngState.jobs (hwake.eng.trans hjobs.eng)).trans (congrArg (fun e : EngState => e.jobs.del id) hwrites.eng)
    · have hbytes : ∀ x : State, (wakeLaunches.exec ((wakeJobs l.vd).exec x)).bytes = x.bytes := fun x => by
        have hR : Chains fun s t : State => t.bytes = s.bytes := ⟨fun _ => rfl, fun a b => b.trans a⟩
        refine Cmd.within_seq hR (Cmd.within_get fun s => Cmd.within_seq hR (Cmd.within_each hR fun x _ => ?_)
          (Cmd.within_each hR fun _ _ _ => rfl) s) (Cmd.within_get fun s => Cmd.within_each hR (fun _ _ _ => rfl) s) x
        dsimp only
        split <;> exact fun _ => rfl
      have hu : u = s := exitWrites_none hstamp herror
      exact (hbytes v).trans (congrArg State.bytes hu : u.bytes = s.bytes)
    · have hnow : ((wakeJobs l.vd).exec v).now = s.now := hjobs.now.trans hwrites.now
      exact hnow ▸ wakeLaunches_due (hjobs.launches.trans hlaunches ▸ hk) hy

theorem launchExit_looks {c : Nat} {y : Ctx} (hl : s.ten.launches.get? id = some l) (hctx : l.ctx = some c) (hy : s.ctx? c = some y) :
    Answers (.launchExit id) s fun t => t.ten = s.ten ∧ t.bytes = s.bytes ∧
      if y.state ≠ .frozen ∧ s.moves c = true then t.due (s.now + 1) (.launchExit id) else t.due s.now (.teardown c) := by
  have hexec : exec (.launchExit id) s = .next ((if y.state != .frozen && s.moves c then after 1 (.launchExit id)
      else after 0 (.teardown c)).exec s) := by
    change execLaunchExit id s = _
    simp only [execLaunchExit, hl, hctx, hy, Cmd.opt, Cmd.next_eq]
  refine ⟨_, hexec, ?_⟩
  beta_reduce
  by_cases hmoves : y.state ≠ .frozen ∧ s.moves c = true
  · rw [if_pos hmoves, if_pos (by simpa using hmoves)]
    exact ⟨rfl, rfl, after_due 1 _ s⟩
  · rw [if_neg hmoves, if_neg (by simpa using hmoves)]
    exact ⟨rfl, rfl, after_due 0 _ s⟩

end

/-- Settles O44: TEARDOWN does one of its three things by the context's state, and LAUNCH_EXIT looks at the context or ends the
launch. -/
theorem contextsEnd : Obligations.ContextsEnd := by
  refine ⟨fun s ctx c hc => ⟨fun hjob => ?waits, fun hjob hfreezing hfrozen => ?freezes, fun l hjob hstate hcalm hgroups hl =>
    teardown_returns hc hjob hstate hcalm hgroups hl⟩, fun s id x hx => ⟨fun w hctx hexit => ?ends, fun c y hctx hy =>
    launchExit_looks hx hctx hy⟩⟩
  case waits => exact ⟨_, teardown_waits hc hjob, rfl, rfl, rfl, after_due 1 _ s⟩
  case freezes =>
    have hnow : ((freezeContext ctx).exec s).now = s.now :=
      (Cmd.within_each (Aside.chains id) (fun r _ => stopRegion_aside ctx r) ((modCtx ctx fun c => { c with state := .freezing }).exec s)).now
    refine ⟨_, teardown_freezes hc hjob hfreezing hfrozen, ?_, hnow ▸ after_due 1 (.teardown ctx) _, fun r hr hreg => ?_⟩
    · exact congrArg (Option.map _) (freezeContext_state hc)
    · exact freezeContext_stops hr hreg
  case ends =>
    refine ⟨_, ?_, endLaunch_ends hx⟩
    change execLaunchExit id s = _
    simp only [execLaunchExit, hx, hctx, hexit, Cmd.opt, Cmd.next_eq]

end Sys2Proof.Machine

/-! ## Snapshots (R227, R228, R378 to R381, R383)

The last marker takes the cut; a save is written once what it waits for is done; the job then ends as every context job does. -/

namespace Sys2Proof.Machine

/-! ### The cut (R380) -/

/-- The markers of a snapshot once one more has arrived. -/
def Snap.marked (n : Snap) (p : Nat) : List Nat := if n.markers.contains p then n.markers else n.markers ++ [p]

/-- Whether every sequencer's marker has arrived with this one. -/
def State.allMarked (s : State) (n : Snap) (p : Nat) : Bool :=
  (s.regionsOf n.ctx).all fun r => (n.marked p).contains r.rgn || r.state == .placing

/-- What a marker makes of a snapshot. -/
def State.takeMark (s : State) (n : Snap) (c : Ctx) (p : Nat) (x : Snap) : Snap :=
  let waits := (s.mem.ops.filter fun (k, o) => o.f.ctx == n.ctx && s.inFlight k o).map fun (_, o) => o.f.fid
  if s.allMarked n p && x.body.isNone then
    { x with
      markers := n.marked p, body := if n.kind = 1 then some (s.saveOf n.ctx c) else none, waits := waits, upTo := s.serial,
      queues := s.pendingQueues c.vd }
  else { x with markers := n.marked p }

section
variable {s : State} {k p q : Nat} {n : Snap} {c : Ctx} (hn : s.ten.snaps.get? k = some n) (hc : s.ctx? n.ctx = some c)
include hn hc

theorem exec_snapshotMarker : exec (.snapshotMarker k p q) s = .next ((Cmd.all [
    .prim (.ten fun t => { t with snaps := t.snaps.mod k (s.takeMark n c p) }),
    .when (s.allMarked n p && n.kind = 3) (haltContext n.ctx),
    .when (s.allMarked n p) (after 1 (.snapshotComplete k))]).exec s) := by
  change execSnapshotMarker k p q s = _
  simp only [execSnapshotMarker, hn, hc, Cmd.next_eq]
  rfl

theorem snapshotMarker_cuts (hbody : n.body = none) (hall : ∀ r ∈ s.regionsOf n.ctx, r.rgn ∈ n.markers ∨ r.rgn = p) (hkind : n.kind = 1) :
    Answers (.snapshotMarker k p q) s fun t => (t.ten.snaps.get? k).map (·.body) = some (some (s.saveOf n.ctx c)) ∧
      t.due (s.now + 1) (.snapshotComplete k) ∧ t.fab = s.fab := by
  have hmarked : s.allMarked n p = true := by
    refine List.all_eq_true.2 fun r hr => Bool.or_eq_true_iff.2 (.inl (List.contains_iff_mem.2 ?_))
    unfold Snap.marked
    split
    next hp => exact (hall r hr).elim id fun h => h ▸ List.contains_iff_mem.1 hp
    · exact (hall r hr).elim (List.mem_append_left _) fun h => List.mem_append_right _ (List.mem_singleton.2 h)
  have hexec := exec_snapshotMarker (p := p) (q := q) hn hc
  simp only [hmarked, hkind, Bool.true_and, show decide (1 = 3) = false from rfl, Cmd.exec_all_cons, Cmd.exec_all_one, Cmd.exec_when_false,
    Cmd.exec_when_true] at hexec
  refine ⟨_, hexec, ?_, after_due 1 _ _, rfl⟩
  refine (congrArg (Option.map _) (Tbl.get?_mod_self ..)).trans ?_
  simp [hn, State.takeMark, hmarked, hbody, hkind]

theorem snapshotMarker_waits (hbody : n.body = none) (hmissing : ∃ r ∈ s.regionsOf n.ctx, r.state ≠ .placing ∧ r.rgn ∉ n.markers ∧ r.rgn ≠ p) :
    Answers (.snapshotMarker k p q) s fun t => (t.ten.snaps.get? k).map (fun x => (x.markers, x.body)) =
      some (if p ∈ n.markers then n.markers else n.markers ++ [p], none) ∧ t.agenda = s.agenda := by
  have hmarked : s.allMarked n p = false := by
    obtain ⟨r, hr, hstate, hnew, hne⟩ := hmissing
    have hmiss : (n.marked p).contains r.rgn = false := by
      unfold Snap.marked
      split <;> simp [hnew, hne]
    exact List.all_eq_false.2 ⟨r, hr, by simp only [hmiss, beq_false_of_ne hstate]; decide⟩
  have hexec := exec_snapshotMarker (p := p) (q := q) hn hc
  simp only [hmarked, Bool.false_and, Cmd.exec_all_cons, Cmd.exec_all_one, Cmd.exec_when_false] at hexec
  refine ⟨_, hexec, ?_, rfl⟩
  refine (congrArg (Option.map _) (Tbl.get?_mod_self ..)).trans ?_
  simp [hn, State.takeMark, hmarked, hbody, Snap.marked]

end

/-! ### The save (R381 to R383) -/

/-- A save has been written: it stands under the number of that moment, and the engines, operations, contexts, launches and snapshots are
as before. -/
structure Saved (s t : State) : Prop where
  eng : t.eng = s.eng
  ops : t.mem.ops = s.mem.ops
  ctxs : t.ten.ctxs = s.ten.ctxs
  launches : t.ten.launches = s.ten.launches
  snaps : t.ten.snaps = s.ten.snaps
  now : t.now = s.now
  save : (t.ten.saves.get? s.serial).isSome = true

theorem writeSave_saves (die vd area kind size : Nat) (frozen : Bool) (x : Save) (k : Nat → Cmd) (s : State) :
    ∃ u, Saved s u ∧ (writeSave die vd area kind size frozen x k).exec s = (k s.serial).exec u := by
  let y := { x with bytes := (List.range (size - 64)).map fun o => Config.saveByte x.ctxid s.serial (64 + o) }
  let v := (Cmd.prim (.ten fun t => { t with saves := t.saves.set s.serial y })).exec (Prim.takeSerial.run s)
  have hwrite : WriteFrame v ((engWrite die vd (area + 8) (y.header kind frozen s.now ++ y.bytes) (s.hzn die) (fun _ => .skip)).exec v) :=
    engWrite_write _ _ _ _ _ v
  refine ⟨_, ⟨hwrite.eng, hwrite.ops, hwrite.ctxs, hwrite.launches, hwrite.snaps, hwrite.now, ?_⟩, rfl⟩
  rw [hwrite.saves]
  exact (congrArg Option.isSome (Tbl.get?_set_self ..) :)

section
variable {s : State} {k : Nat} {n : Snap} {c : Ctx} (hn : s.ten.snaps.get? k = some n) (hc : s.ctx? n.ctx = some c)
include hn hc

/-- Whether the save of a snapshot can be written. -/
def State.saveReady (s : State) (n : Snap) (c : Ctx) : Bool :=
  s.requestsDone n && (n.kind = 1 || s.quiet n.ctx) && (n.kind != 2 || c.state == .frozen)

def dropSnap (k : Nat) : Cmd := .prim (.ten fun t => { t with snaps := t.snaps.del k })

theorem snapshotComplete_waits (hready : s.saveReady n c = false) :
    exec (.snapshotComplete k) s = .next ((after 1 (.snapshotComplete k)).exec s) := by
  change execSnapshotComplete k s = _
  unfold State.saveReady at hready
  simp only [execSnapshotComplete, hn, hc, hready, Bool.not_false, if_true, Cmd.next_eq]

/-- A job whose save is written goes on to its end. -/
def finishSave (k j : Nat) : Cmd := .all [dropSnap k, modJob j fun x => { x with state := .finishing }, after 0 (.contextJobEnd j)]

omit hn hc in
theorem finishSave_leaves (k j : Nat) (u : State) :
    let t := (finishSave k j).exec u
    t.ten.snaps = u.ten.snaps.del k ∧ t.job? j = (u.job? j).map (fun x => { x with state := .finishing }) ∧
      t.due u.now (.contextJobEnd j) ∧ t.ten.saves = u.ten.saves :=
  ⟨rfl, modJob_job_self .., after_due 0 _ _, rfl⟩

theorem snapshotComplete_job {j : Nat} {x : Job} (hready : s.saveReady n c = true) (hjob : n.job = some j) (hx : s.job? j = some x) :
    Answers (.snapshotComplete k) s fun t => t.ten.snaps = s.ten.snaps.del k ∧ (t.job? j).map (·.state) = some .finishing ∧
      t.due s.now (.contextJobEnd j) ∧ (t.ten.saves.get? s.serial).isSome = true := by
  obtain ⟨body, hcourse⟩ : ∃ body, exec (.snapshotComplete k) s = .next ((finishSave k j).exec ((writeSave x.die x.vd n.area.toNat n.kind
      (s.saveSize n.ctx c) n.frozen body fun _ => .skip).exec s)) := by
    refine ⟨n.body.getD (s.saveOf n.ctx c), ?_⟩
    change execSnapshotComplete k s = _
    unfold State.saveReady at hready
    cases hbody : n.body <;>
      simp only [execSnapshotComplete, hn, hc, hready, hjob, hx, hbody, Bool.not_true, Bool.false_eq_true, if_false, Cmd.next_eq,
        Cmd.exec_seq] <;> rfl
  obtain ⟨u, hsaved, hwrite⟩ := writeSave_saves x.die x.vd n.area.toNat n.kind (s.saveSize n.ctx c) n.frozen body (fun _ => .skip) s
  have hexec : exec (.snapshotComplete k) s = .next ((finishSave k j).exec u) := by rw [hcourse, hwrite, Cmd.exec_skip]
  obtain ⟨hsnaps, hstate, hdue, hsaves⟩ := finishSave_leaves k j u
  have hjobs : u.job? j = some x := (congrArg (fun e : EngState => e.jobs.get? j) hsaved.eng).trans hx
  refine ⟨_, hexec, hsnaps.trans (by rw [hsaved.snaps]), ?_, hsaved.now ▸ hdue, by rw [hsaves, hsaved.save]⟩
  rw [hstate, hjobs]
  rfl

/-- A launch that waits to be restored from a save. -/
def Launch.saved (l : Launch) (save now : Nat) : Launch :=
  { l with state := .waiting, ctx := none, restore := some save, since := now, drained := none }

/-- The context of a checkpoint is returned, and its launch may pre-empt in its turn. -/
def leaveSave (k ctx launch : Nat) : Cmd :=
  .all [dropSnap k, abandonGroups ctx, discardContext ctx, releaseContext ctx, after 1 (.preemptDecide launch)]

omit hn hc in
theorem after_ten (m : Nat) (i : Instr) (s : State) : ((after m i).exec s).ten = s.ten := rfl

/-- A checkpoint returns its context, and its launch waits with the save. -/
theorem snapshotComplete_checkpoint {l : Launch} (hready : s.saveReady n c = true) (hjob : n.job = none) (hgroups : s.eng.groups = [])
    (hl : s.ten.launches.get? c.launch = some l) : Answers (.snapshotComplete k) s fun t => t.ten.ctxs = s.ten.ctxs.del n.ctx ∧
      t.ten.launches.get? c.launch = some (l.saved s.serial s.now) := by
  obtain ⟨body, hcourse⟩ : ∃ body, exec (.snapshotComplete k) s = .next ((leaveSave k n.ctx c.launch).exec ((writeSave c.homeDie c.vd
      n.area.toNat 3 (s.saveSize n.ctx c) n.frozen body fun k => modLaunch c.launch (Launch.saved · k s.now)).exec s)) := by
    refine ⟨n.body.getD (s.saveOf n.ctx c), ?_⟩
    change execSnapshotComplete k s = _
    unfold State.saveReady at hready
    cases hbody : n.body <;>
      simp only [execSnapshotComplete, hn, hc, hready, hjob, hbody, Bool.not_true, Bool.false_eq_true, if_false, Cmd.next_eq,
        Cmd.exec_seq] <;> rfl
  obtain ⟨u, hsaved, hwrite⟩ := writeSave_saves c.homeDie c.vd n.area.toNat 3 (s.saveSize n.ctx c) n.frozen body
    (fun k => modLaunch c.launch (Launch.saved · k s.now)) s
  let v := (abandonGroups n.ctx).exec ((dropSnap k).exec ((modLaunch c.launch (Launch.saved · s.serial s.now)).exec u))
  have hexec : exec (.snapshotComplete k) s = .next ((after 1 (.preemptDecide c.launch)).exec ((releaseContext n.ctx).exec
      ((discardContext n.ctx).exec v))) := by
    rw [hcourse, hwrite]
    rfl
  have hnone : v.eng.groups = [] := by
    change u.eng.groups.filter _ = []
    rw [hsaved.eng, hgroups, List.filter_nil]
  obtain ⟨hctxs, hlaunches, -, -⟩ := discardContext_leaves n.ctx hnone
  obtain ⟨hctxs', hlaunches', -, -⟩ := releaseContext_leaves n.ctx ((discardContext n.ctx).exec v)
  have hlaunch : v.ten.launches.get? c.launch = some (l.saved s.serial s.now) := by
    refine (modLaunch_launch_self c.launch (Launch.saved · s.serial s.now) u).trans ?_
    rw [hsaved.launches, hl]
    rfl
  refine ⟨_, hexec, ?_, ?_⟩
  · rw [after_ten, hctxs', hctxs, show v.ten.ctxs = s.ten.ctxs from hsaved.ctxs]
  · rw [after_ten, hlaunches', hlaunches, hlaunch]

end

/-! ### The end of a context job (R227, R228, R307) -/

section
variable {s : State} {id : Nat} {j : Job} (hj : s.job? id = some j)
include hj

/-- What an ended context job writes. -/
def contextJobWrites (j : Job) : Cmd :=
  let target := match j.kind with | .vdctl _ => 0 | _ => j.target
  writeStamp j.die j.vd j.stamp.toNat (some (j.status % 256 + target % 65536 * 2 ^ 16)) j.sval.toNat j.pts
    (fun cause a => engFault j.ctx j.die cause a 0) .skip

omit hj in
theorem contextJobWrites_device (j : Job) : (contextJobWrites j).Within DeviceFrame := by
  unfold contextJobWrites
  exact writeStamp_within DeviceFrame.chains (fun _ _ => WriteFrame.device) (fun _ _ => engFault_device _ _ _ _ _)
    (Cmd.within_skip DeviceFrame.chains)

theorem contextJobEnd_ends (hstate : j.state = .finishing) (hgo : s.stampWaits j.die j.vd j.stamp.toNat true j.pts = false) :
    Answers (.contextJobEnd id) s fun t => t.eng.jobs = s.eng.jobs.del id ∧ t.due s.now (.channelAssign j.die) := by
  have hexec : exec (.contextJobEnd id) s = .next ((Cmd.all [contextJobWrites j, progress j.ctx, dropJob id, wakeJobs j.vd,
      after 0 (.channelAssign j.die)]).exec s) := by
    change execContextJobEnd id s = _
    simp only [execContextJobEnd, hj, hgo, Cmd.next_eq]
    rw [if_neg ?stop]
    case stop =>
      rw [hstate]
      split <;> exact Bool.false_ne_true
    simp only [hstate, bne_self_eq_false, Bool.false_eq_true, if_false]
    rfl
  let u := (progress j.ctx).exec ((contextJobWrites j).exec s)
  have hwrites : DeviceFrame s ((contextJobWrites j).exec s) := contextJobWrites_device j s
  have hwake : WriteFrame ((dropJob id).exec u) ((wakeJobs j.vd).exec ((dropJob id).exec u)) := wakeJobs_write j.vd _
  refine ⟨_, hexec, ?_, ?_⟩
  · exact (congrArg EngState.jobs hwake.eng).trans (congrArg (fun e : EngState => e.jobs.del id) hwrites.eng)
  · exact (hwake.now.trans hwrites.now) ▸ after_due 0 (.channelAssign j.die) ((wakeJobs j.vd).exec ((dropJob id).exec u))

theorem contextJobEnd_stop (hkind : j.kind = .vdctl 0) (hstate : j.state = .running) : exec (.contextJobEnd id) s =
    .next ((if s.stopDone id j.target then endCtxJob id 0 none else after 1 (.contextJobEnd id)).exec s) := by
  change execContextJobEnd id s = _
  simp only [execContextJobEnd, hj, hkind, hstate, Cmd.next_eq, beq_self_eq_true, if_true]

end

/-- Settles O50: a marker takes the cut or is noted, SNAPSHOT_COMPLETE waits or writes the save, and CONTEXT_JOB_END ends the job. -/
theorem snapshots : Obligations.Snapshots := by
  intro s
  refine ⟨fun k n c p q hn hc hbody => ⟨fun hall hkind => snapshotMarker_cuts hn hc hbody hall hkind,
    fun hmissing => snapshotMarker_waits hn hc hbody hmissing⟩, fun k n c hn hc => ?save,
    fun id j hj => ⟨fun hstate hgo => contextJobEnd_ends hj hstate hgo, fun hkind hstate hdone => ?stops,
    fun hkind hstate hdone => ?again⟩⟩
  case save =>
    intro ready
    exact ⟨fun hready => ⟨_, snapshotComplete_waits hn hc hready, rfl, rfl, after_due 1 _ s⟩,
      fun j x hready hjob hx => snapshotComplete_job hn hc hready hjob hx,
      fun l hready hjob hgroups hl => snapshotComplete_checkpoint hn hc hready hjob hgroups hl⟩
  case stops =>
    have hexec : exec (.contextJobEnd id) s = .next ((endCtxJob id 0 none).exec s) := by
      rw [contextJobEnd_stop hj hkind hstate, hdone, if_pos rfl]
    refine ⟨_, hexec, ?_, after_due 0 _ _⟩
    refine (congrArg (Option.map _) (modJob_job_self ..)).trans ?_
    rw [show s.eng.jobs.get? id = some j from hj]
    rfl
  case again =>
    have hexec : exec (.contextJobEnd id) s = .next ((after 1 (.contextJobEnd id)).exec s) := by
      rw [contextJobEnd_stop hj hkind hstate, hdone, if_neg Bool.false_ne_true]
    exact ⟨_, hexec, rfl, after_due 1 _ s⟩

end Sys2Proof.Machine

/-! ## Groups and collectives (R213 to R216, R309, R310)

What a command does to the members' views of their slots is an update of one slot; a reply, a record or a flit leaves every slot alone. -/

namespace Sys2Proof.Machine

/-! ### What a reply leaves alone -/

/-- While no capture slot runs, between two states all bytes are the same, and no slot begins to run. -/
def Hushed (s t : State) : Prop := s.uncaptured → t.bytes = s.bytes ∧ t.uncaptured

theorem Hushed.chains : Chains Hushed where
  refl _ h := ⟨rfl, h⟩
  trans a b h := by
    obtain ⟨ha, hs⟩ := a h
    obtain ⟨hb, ht⟩ := b hs
    exact ⟨hb.trans ha, ht⟩

/-- Between two states the engines are the same, and while no capture slot runs all bytes are. -/
structure ReplyFrame (s t : State) : Prop where
  eng : t.eng = s.eng
  hush : Hushed s t

theorem ReplyFrame.chains : Chains ReplyFrame where
  refl s := ⟨rfl, Hushed.chains.refl s⟩
  trans a b := ⟨b.eng.trans a.eng, Hushed.chains.trans a.hush b.hush⟩

theorem ReplyFrame.of_same {s t : State} (heng : t.eng = s.eng) (hsvc : t.svc = s.svc) (hbytes : t.bytes = s.bytes) : ReplyFrame s t :=
  ⟨heng, fun h => ⟨hbytes, by rwa [State.uncaptured, hsvc]⟩⟩

theorem after_reply (n : Nat) (i : Instr) : (after n i).Within ReplyFrame := fun _ => .of_same rfl rfl rfl
theorem tenPrim_reply (f : TenState → TenState) : (Cmd.prim (.ten f)).Within ReplyFrame := fun _ => .of_same rfl rfl rfl
theorem memPrim_reply (f : MemSys → MemSys) : (Cmd.prim (.mem f)).Within ReplyFrame := fun _ => .of_same rfl rfl rfl

/-- A reply leaves the contexts alone too. -/
structure SendFrame (s t : State) : Prop extends ReplyFrame s t where
  ctxs : t.ten.ctxs = s.ten.ctxs

theorem SendFrame.chains : Chains SendFrame where
  refl s := ⟨ReplyFrame.chains.refl s, rfl⟩
  trans a b := ⟨ReplyFrame.chains.trans a.toReplyFrame b.toReplyFrame, b.ctxs.trans a.ctxs⟩

theorem SendFrame.of_same {s t : State} (heng : t.eng = s.eng) (hsvc : t.svc = s.svc) (hbytes : t.bytes = s.bytes)
    (hctxs : t.ten.ctxs = s.ten.ctxs) : SendFrame s t := ⟨.of_same heng hsvc hbytes, hctxs⟩

theorem after_send (n : Nat) (i : Instr) : (after n i).Within SendFrame := fun _ => .of_same rfl rfl rfl rfl
theorem modOp_send (n : Nat) (f : MemOp → MemOp) : (modOp n f).Within SendFrame := fun _ => .of_same rfl rfl rfl rfl
theorem reapOps_send : reapOps.Within SendFrame := fun _ => .of_same rfl rfl rfl rfl
theorem modInst_send (ctx rgn frm dom : Nat) (g : Inst → Inst) : (modInst ctx rgn frm dom g).Within SendFrame := fun _ =>
  .of_same rfl rfl rfl rfl

theorem putOut_send (sid fid which lat : Nat) (t : Token) : (putOut sid fid which lat t).Within SendFrame :=
  Cmd.within_seq SendFrame.chains (Cmd.within_get fun _ => .of_same rfl rfl rfl rfl) (after_send _ _)

theorem emitReply_send (o : MemOp) (lat : Nat) (v0 v1 : Val) : (emitReply o lat v0 v1).Within SendFrame := by
  have hR := SendFrame.chains
  have hon : ∀ which d v, (emitOn o.f which d lat o.f.tag v).Within SendFrame := fun _ _ _ =>
    Cmd.within_when hR fun _ => putOut_send _ _ _ _ _
  exact emitReply_within hR (Cmd.within_seq hR (hon _ _ _) (hon _ _ _)) fun _ _ => .of_same rfl rfl rfl rfl

theorem captureTo_leaves (k : Nat) (r : CapRec) (s : State) : ((captureTo k r).exec s).eng = s.eng ∧
    ((captureTo k r).exec s).ten = s.ten := by
  simp only [captureTo, Cmd.exec_get]
  split
  · exact ⟨rfl, rfl⟩
  · split <;> exact ⟨rfl, rfl⟩

theorem capture_leaves (ctx : Nat) (r : CapRec) (s : State) : ((capture ctx r).exec s).eng = s.eng ∧ ((capture ctx r).exec s).ten = s.ten := by
  have hR : Chains fun s t : State => t.eng = s.eng ∧ t.ten = s.ten := ⟨fun _ => ⟨rfl, rfl⟩, fun a b => ⟨b.1.trans a.1, b.2.trans a.2⟩⟩
  exact Cmd.within_each hR (fun _ _ => captureTo_leaves _ _) s

/-- A running capture slot takes the record; while none runs nothing is written. -/
theorem capture_send (ctx : Nat) (r : CapRec) : (capture ctx r).Within SendFrame := fun s => by
  obtain ⟨heng, hten⟩ := capture_leaves ctx r s
  refine ⟨⟨heng, fun h => ?_⟩, congrArg TenState.ctxs hten⟩
  have hnone : (s.svc.caps.zipIdx.filter fun (c, _) => c.ctl.getLsbD 0 && natBits c.ctl.toNat 17 2 == ctx &&
      (natBits c.ctl.toNat 33 18 == 0xFFFF || natBits c.ctl.toNat 33 18 == r.rgn)) = [] :=
    List.filter_eq_nil_iff.2 fun x hx => by
      obtain ⟨c, k⟩ := x
      simp only [h c (List.fst_mem_of_mem_zipIdx hx), Bool.false_and, Bool.false_eq_true, not_false_eq_true]
  have hnothing : (capture ctx r).exec s = s := by rw [capture, Cmd.exec_get, hnone, Cmd.exec_each_nil]
  rw [hnothing]
  exact ⟨rfl, h⟩

theorem orderOp_send (id : Nat) (o : MemOp) : (orderOp id o).Within SendFrame :=
  Cmd.within_seq SendFrame.chains (modOp_send _ _) (Cmd.within_seq SendFrame.chains (modInst_send _ _ _ _ _) (after_send _ _))

theorem acceptOp_send (id : Nat) : (acceptOp id).Within SendFrame := Cmd.within_get fun s => by
  have hR := SendFrame.chains
  split
  · exact hR.refl s
  · refine Cmd.within_when hR (fun _ => Cmd.within_seq hR (Cmd.within_when hR fun _ => orderOp_send _ _)
      (Cmd.within_get fun t => ?_)) s
    split
    · exact hR.refl t
    · exact Cmd.within_seq hR (modOp_send _ _) (Cmd.within_seq hR (Cmd.within_when hR fun _ => after_send _ _) reapOps_send) t

theorem replyOp_send (id : Nat) (v0 v1 : Val) : (replyOp id v0 v1).Within SendFrame := Cmd.within_get fun s => by
  have hR := SendFrame.chains
  split
  · exact hR.refl s
  · exact Cmd.within_seq hR (emitReply_send _ _ _ _) (Cmd.within_seq hR (Cmd.within_when hR fun _ => capture_send _ _)
      (Cmd.within_seq hR (Cmd.within_when hR fun _ => capture_send _ _)
        (Cmd.within_ite (Cmd.within_seq hR (modOp_send _ _) (after_send _ _)) (acceptOp_send _)))) s

theorem replyOp_reply (id : Nat) (v0 v1 : Val) : (replyOp id v0 v1).Within ReplyFrame := fun s => (replyOp_send id v0 v1 s).toReplyFrame

theorem raisePts_reply (o : MemOp) (w : Stamp) : (raisePts o w).Within ReplyFrame :=
  Cmd.within_get fun s => Cmd.within_seq ReplyFrame.chains (tenPrim_reply _)
    (Cmd.within_get fun t => Cmd.within_when ReplyFrame.chains (fun _ => Cmd.within_get fun u => memPrim_reply _ u) t) s

theorem count_reply (die vd number n : Nat) : (count die vd number n).Within ReplyFrame := tenPrim_reply _

/-! ### What a flit to another package leaves alone -/

theorem modPort_reply (p : Nat) (f : DbPort → DbPort) : (modPort p f).Within ReplyFrame := fun _ => ⟨rfl, fun h => ⟨rfl, h⟩⟩

theorem putFlit_reply (p vd : Nat) (body : List Byte) : (putFlit p vd body).Within ReplyFrame := Cmd.within_get fun s => by
  have hR := ReplyFrame.chains
  have hnow : (putFlitNow p body).Within ReplyFrame :=
    Cmd.within_get fun t => Cmd.within_seq hR (modPort_reply _ _) (Cmd.within_when hR fun _ => after_reply _ _) t
  dsimp only
  split
  · exact Cmd.within_seq hR (tenPrim_reply _) (modPort_reply _ _) s
  · exact Cmd.within_seq hR (tenPrim_reply _) hnow s

theorem sendAway_reply (gk : Nat) (g : Group) (rank kind : Nat) (vs : List Nat) : (sendAway gk g rank kind vs).Within ReplyFrame :=
  Cmd.within_get fun _ => Cmd.within_get (fun _ => Cmd.within_when ReplyFrame.chains (fun _ => putFlit_reply _ _ _) _) _

theorem decideAway_reply (gk : Nat) (g : Group) (kind : Nat) (vs : List Nat) : (decideAway gk g kind vs).Within ReplyFrame :=
  Cmd.within_get fun s => Cmd.within_each ReplyFrame.chains (fun _ _ => sendAway_reply _ _ _ _ _) s

/-- A request that finds a credit at each of its arbiters spends them and goes on (R371). -/
theorem exec_gate_of_credit {vd : Nat} {arbs : List (Nat × Nat)} {retry : Instr} {k : Cmd} {s : State}
    (h : ∀ a ∈ arbs, s.hasCredit a.1 vd = true) :
    (gate vd arbs retry k).exec s = k.exec ((Cmd.each arbs fun a => spend a.1 vd a.2).exec s) := by
  have hnone : arbs.find? (fun (a, _) => !s.hasCredit a vd) = none := List.find?_eq_none.2 fun a ha => by simp [h a ha]
  rw [gate, Cmd.exec_get, hnone]
  rfl

/-- Spending credits leaves all but the buckets. -/
theorem each_spend_leaves (vd : Nat) (arbs : List (Nat × Nat)) (s : State) :
    let t := (Cmd.each arbs fun a => spend a.1 vd a.2).exec s
    t.eng = s.eng ∧ t.now = s.now := by
  have hR : Chains fun s t : State => t.eng = s.eng ∧ t.now = s.now := ⟨fun _ => ⟨rfl, rfl⟩, fun a b => ⟨b.1.trans a.1, b.2.trans a.2⟩⟩
  exact Cmd.within_each hR (fun _ _ _ => ⟨rfl, rfl⟩) s

/-! ### Updates of a slot -/

theorem ReplyFrame.group {s t : State} (h : ReplyFrame s t) (x : Nat) : t.group x = s.group x := by rw [State.group, h.eng]; rfl

theorem engineStatus_eng (f : Firing) (cause st : Nat) (addr : W64) (s : State) : ((engineStatus f cause st addr).exec s).eng = s.eng :=
  (writeRecord_device _ s).eng

/-- A command updates the view of one slot and leaves every other. -/
def Cmd.Updates (c : Cmd) (k : Nat) (e : Group → Group) : Prop :=
  ∀ s x, (c.exec s).group x = if x = k then e (s.group x) else s.group x

theorem modGroup_updates (k : Nat) (e : Group → Group) : (modGroup k e).Updates k e := fun s x => by
  by_cases h : x = k
  · rw [if_pos h, h]
    exact Tbl.getD_set_self ..
  · rw [if_neg h]
    exact Tbl.getD_set_ne _ _ _ h

/-- What leaves the slots alone may follow an update. -/
theorem Cmd.Updates.seq {a b : Cmd} {k : Nat} {e : Group → Group} (ha : a.Updates k e) (hb : ∀ s, (b.exec s).eng = s.eng) :
    (Cmd.seq a b).Updates k e := fun s x => by
  rw [Cmd.exec_seq, State.group, hb]
  exact ha s x

/-- An update that may be repeated, made at each slot of a list, is made once at each slot of the list. -/
theorem each_updates {α : Type} {xs : List α} {f : α → Cmd} {key : α → Nat} {e : Group → Group} (hidem : ∀ g, e (e g) = e g)
    (hf : ∀ p ∈ xs, (f p).Updates (key p) e) (s : State) (x : Nat) :
    ((Cmd.each xs f).exec s).group x = if x ∈ xs.map key then e (s.group x) else s.group x := by
  induction xs generalizing s with
  | nil => rfl
  | cons p ps ih =>
    rw [Cmd.exec_each_cons, ih (fun q hq => hf q (List.mem_cons_of_mem _ hq)), hf p List.mem_cons_self s x]
    by_cases hx : x = key p <;> by_cases hps : x ∈ ps.map key <;> simp [hx, hps, hidem]

theorem each_updates_mem {α : Type} {xs : List α} {f : α → Cmd} {key : α → Nat} {e : Group → Group} (hidem : ∀ g, e (e g) = e g)
    (hf : ∀ p ∈ xs, (f p).Updates (key p) e) (s : State) {p : α} (hp : p ∈ xs) :
    ((Cmd.each xs f).exec s).group (key p) = e (s.group (key p)) := by
  rw [each_updates hidem hf, if_pos (List.mem_map_of_mem hp)]

/-! ### Groups form (R213, R309) -/

/-- What the end of a GRP with a status makes of its slot. -/
def Group.ended (st : Nat) (g : Group) : Group :=
  if st = 0 then { g with state := .intact, grp := none, desk := CollDesk.empty, run := none, leave := none }
  else { Group.empty with state := if g.broken then .broken else .empty }

theorem endGrp_updates (gk st : Nat) : (endGrp gk st).Updates gk (Group.ended st) := fun s x => by
  refine Cmd.Updates.seq (modGroup_updates gk (Group.ended st)) (b := Cmd.opt (s.group gk).grp fun id => _) (fun t => ?_) s x
  exact (Cmd.within_opt ReplyFrame.chains (fun _ => replyOp_reply _ _ _) t).eng

section
variable {s : State} {key : W64}

/-- What becomes of a slot by what the other members say. -/
def formTurn (t : State) (x : Nat × Group) : Declared → Cmd
  | .waits => .skip
  | .differs xs => .seq (endGrp x.1 1) (Cmd.each xs fun x => endGrp x 1)
  | .agrees => Cmd.each (t.declarers x.1 x.2) fun x => endGrp x 0

/-- The turn of one slot of a key. -/
def formSlot (x : Nat × Group) : Cmd := .get fun t =>
  .when ((t.group x.1).state == .declaring) (formTurn t x (t.declaredAs x.1 x.2))

theorem exec_groupDeclared {rest : Tbl Group} {x : Nat × Group}
    (h : s.eng.groups.filter (fun (_, x) => x.state == .declaring && x.key == key) = x :: rest) :
    exec (.groupDeclared key) s = .next ((Cmd.each rest formSlot).exec ((formSlot x).exec s)) := by
  change execGroupDeclared key s = _
  rw [execGroupDeclared, h, Cmd.next_eq]
  rfl

/-- A slot that declares no more has no turn. -/
theorem formSlot_done {x : Nat × Group} (h : (s.group x.1).state ≠ .declaring) : (formSlot x).exec s = s := by
  simp only [formSlot, Cmd.exec_get, beq_false_of_ne h, Cmd.exec_when_false]

theorem formSlots_done {xs : List (Nat × Group)} (h : ∀ x ∈ xs, (s.group x.1).state ≠ .declaring) : (Cmd.each xs formSlot).exec s = s := by
  induction xs with
  | nil => rfl
  | cons x xs ih =>
    rw [Cmd.exec_each_cons, formSlot_done (h x List.mem_cons_self), ih fun y hy => h y (List.mem_cons_of_mem _ hy)]

theorem formSlot_turn {x : Nat × Group} (h : (s.group x.1).state = .declaring) :
    (formSlot x).exec s = (formTurn s x (s.declaredAs x.1 x.2)).exec s := by
  simp only [formSlot, Cmd.exec_get, h, beq_self_eq_true, Cmd.exec_when_true]

theorem groupsForm : Claims.GroupsForm := by
  intro s key gk g rest hslots hg hmine hrest
  have hdecl : (s.group gk).state = .declaring := by
    have hmem : (gk, g) ∈ s.eng.groups.filter (fun (_, x) => x.state == .declaring && x.key == key) := hslots ▸ List.mem_cons_self
    have hg' := (List.mem_filter.1 hmem).2
    rw [hg]
    simp only [Bool.and_eq_true, beq_iff_eq] at hg'
    exact hg'.1
  have hexec := exec_groupDeclared hslots
  have hturn := formSlot_turn (x := (gk, g)) hdecl
  refine ⟨fun hagree => ?agrees, fun x hdiffer hone hne => ?differs, fun hwait hnone => ?waits⟩
  case agrees =>
    simp only [hagree, formTurn] at hturn
    have hidem : ∀ g, Group.ended 0 (Group.ended 0 g) = Group.ended 0 g := fun _ => rfl
    have hall : ∀ x ∈ s.declarers gk g, ((formSlot (gk, g)).exec s).group x = Group.ended 0 (s.group x) := fun x hx => by
      rw [hturn]
      exact each_updates_mem (key := id) hidem (fun p _ => endGrp_updates p 0) s hx
    have hdone : ∀ y ∈ rest, (((formSlot (gk, g)).exec s).group y.1).state ≠ .declaring := fun y hy => by
      rw [hall _ (hrest y hy)]
      exact nofun
    rw [formSlots_done hdone] at hexec
    refine ⟨_, hexec, fun x hx => ?_⟩
    rw [hall x hx]
    exact ⟨rfl, rfl, rfl⟩
  case differs =>
    simp only [hdiffer, formTurn] at hturn
    have hgk : ((formSlot (gk, g)).exec s).group gk = Group.ended 1 (s.group gk) := by
      rw [hturn]
      refine (endGrp_updates x 1 _ gk).trans ?_
      rw [if_neg hne.symm]
      exact (endGrp_updates gk 1 s gk).trans (if_pos rfl)
    have hx : ((formSlot (gk, g)).exec s).group x = Group.ended 1 (s.group x) := by
      rw [hturn]
      refine (endGrp_updates x 1 _ x).trans ?_
      rw [if_pos rfl, endGrp_updates gk 1 s x, if_neg hne]
    have hdone : ∀ y ∈ rest, (((formSlot (gk, g)).exec s).group y.1).state ≠ .declaring := fun y hy => by
      rw [hone y hy, hx, Group.ended, if_neg (by decide)]
      cases (s.group x).broken <;> exact nofun
    rw [formSlots_done hdone] at hexec
    refine ⟨_, hexec, ?_, ?_⟩
    · rw [hgk, hg]
      rfl
    · rw [hx]
      rfl
  case waits =>
    simp only [hwait, formTurn] at hturn
    subst hnone
    rw [hexec, hturn]
    rfl

end

/-! ### Collectives are decided (R214 to R216, R310) -/

/-- What the end of a COLL with a status makes of a member. -/
def Group.finished (st : Nat) (g : Group) : Group :=
  if g.run.isSome then { g with run := none, state := if st = 1 then .broken else g.state } else g

theorem Group.finished_run (st : Nat) (g : Group) : (g.finished st).run = none := by
  unfold Group.finished
  split
  · rfl
  next h => exact Option.not_isSome_iff_eq_none.1 h

theorem Group.finished_desk (st : Nat) (g : Group) : (g.finished st).desk = g.desk := by
  unfold Group.finished
  split <;> rfl

theorem Group.finished_state {st : Nat} (h : st ≠ 1) (g : Group) : (g.finished st).state = g.state := by
  rw [finished, if_neg h]
  split <;> rfl

theorem Group.finished_idem (st : Nat) (g : Group) : (g.finished st).finished st = g.finished st := by
  rw [finished, if_neg (by rw [finished_run]; exact nofun)]

/-- What a member's firing is answered when its COLL ends. -/
def endAnswer (gk st : Nat) (s : State) (r : CollRun) : Cmd := Cmd.opt (s.op? r.op) fun o => .all [
  raisePts o r.pts,
  if st = 1 then .all [
    .when (!o.i.hdr.d1.val) (engineStatus o.f causeCollAbort 1 (BitVec.ofNat 64 o.f.argA)),
    freshFault o.f (o.f.origin (s.vdOfCtx o.f.ctx) causeCollAbort),
    replyOp r.op (.scalar (BitVec.ofNat 64 (st + r.flags % 128 * 2 ^ 8))) (.poison (o.f.origin (s.vdOfCtx o.f.ctx) causeCollAbort))]
  else replyOp r.op (.scalar (BitVec.ofNat 64 (st + r.flags % 128 * 2 ^ 8))) (.scalar (BitVec.ofNat 64 (st + r.flags % 128 * 2 ^ 8))),
  .when (st == 0) (count (groupDie gk) (s.vdOfCtx (groupCtx gk)) 0x60 1)]

section
variable {s : State} {gk st : Nat}

theorem memberEnd_idle (h : (s.group gk).run = none) : (memberEnd gk st).exec s = s := by
  simp only [memberEnd, Cmd.exec_get, h]
  rfl

theorem memberEnd_running {r : CollRun} (h : (s.group gk).run = some r) :
    (memberEnd gk st).exec s = (endAnswer gk st s r).exec ((modGroup gk (Group.finished st)).exec s) := by
  have hset : (modGroup gk (Group.finished st)).exec s =
      (modGroup gk fun g => { g with run := none, state := if st = 1 then .broken else g.state }).exec s := by
    change (s.eng.groups.getD gk Group.empty).run = some r at h
    simp only [modGroup, Cmd.exec_prim, Prim.run, Group.finished, h, Option.isSome_some, if_true]
  rw [hset]
  simp only [memberEnd, Cmd.exec_get, h, Cmd.exec_all_cons, Cmd.exec_all_one, endAnswer]
  cases s.op? r.op <;> rfl

theorem endAnswer_eng (r : CollRun) (u : State) : ((endAnswer gk st s r).exec u).eng = u.eng := by
  have hR : Chains fun s t : State => t.eng = s.eng := ⟨fun _ => rfl, fun a b => b.trans a⟩
  refine Cmd.within_opt hR (fun o => ?_) u
  have hreply : ∀ v w, (replyOp r.op v w).Within fun s t => t.eng = s.eng := fun v w t => (replyOp_reply _ v w t).eng
  exact Cmd.within_seq hR (fun t => (raisePts_reply o r.pts t).eng) (Cmd.within_seq hR (Cmd.within_ite
    (Cmd.within_seq hR (Cmd.within_when hR fun _ => engineStatus_eng _ _ _ _) (Cmd.within_seq hR (fun _ => rfl) (hreply _ _))) (hreply _ _))
    (Cmd.within_when hR fun _ _ => rfl))

theorem memberEnd_updates (gk st : Nat) : (memberEnd gk st).Updates gk (Group.finished st) := fun s x => by
  have hset := modGroup_updates gk (Group.finished st) s x
  cases h : (s.group gk).run with
  | none =>
    rw [memberEnd_idle h]
    split
    next hx => rw [hx, Group.finished, h]; rfl
    · rfl
  | some r =>
    rw [memberEnd_running h, State.group, endAnswer_eng]
    exact hset

/-- An end that is no abort writes no byte (R215). -/
theorem memberEnd_hushed (h : st ≠ 1) : (memberEnd gk st).Within Hushed := fun s => by
  have hR := ReplyFrame.chains
  cases hrun : (s.group gk).run with
  | none =>
    rw [memberEnd_idle hrun]
    exact Hushed.chains.refl s
  | some r =>
    rw [memberEnd_running hrun]
    have hanswer : (endAnswer gk st s r).Within ReplyFrame := Cmd.within_opt hR fun o => by
      rw [if_neg h]
      exact Cmd.within_seq hR (raisePts_reply _ _) (Cmd.within_seq hR (replyOp_reply _ _ _) (Cmd.within_when hR fun _ => count_reply _ _ _ _))
    have hset : Hushed s ((modGroup gk (Group.finished st)).exec s) := fun hs => ⟨rfl, hs⟩
    exact Hushed.chains.trans hset (hanswer _).hush

/-- Every peer's COLL ends. -/
theorem each_memberEnd {ps : List (Nat × Nat)} (s : State) {p : Nat × Nat} (hp : p ∈ ps) :
    ((Cmd.each ps fun p => memberEnd p.2 st).exec s).group p.2 = (s.group p.2).finished st :=
  each_updates_mem (key := Prod.snd) (Group.finished_idem st) (fun p _ => memberEnd_updates p.2 st) s hp

theorem each_memberEnd_desk {ps : List (Nat × Nat)} (s : State) (x : Nat) :
    (((Cmd.each ps fun p => memberEnd p.2 st).exec s).group x).desk = (s.group x).desk := by
  rw [each_updates (key := Prod.snd) (Group.finished_idem st) fun p _ => memberEnd_updates p.2 st]
  split
  · exact Group.finished_desk ..
  · rfl

theorem collDecision_ne_one (n : Nat) (reps : List (Nat × CollRep)) : collDecision n reps ≠ 1 := by
  cases reps with
  | nil => exact nofun
  | cons x xs =>
    have hcases : ∀ a b : Bool, (if a then 4 else if b then 3 else 0) ≠ 1 := by decide
    exact hcases _ _

end

/-- The coordinator ends the COLL at every member (R216). -/
def closeColl (s : State) (gk st : Nat) : Cmd := .all [
  modDesk gk fun _ => CollDesk.empty,
  Cmd.each (s.groupPeers (s.group gk)) fun p => memberEnd p.2 st,
  decideAway gk (s.group gk) 4 [st]]

section
variable {s : State} {gk st : Nat}

theorem closeColl_group (x : Nat) : ((closeColl s gk st).exec s).group x = ((Cmd.each (s.groupPeers (s.group gk)) fun p =>
    memberEnd p.2 st).exec ((modDesk gk fun _ => CollDesk.empty).exec s)).group x := by
  rw [closeColl, Cmd.exec_all_cons, Cmd.exec_all_cons, Cmd.exec_all_one, (decideAway_reply _ _ _ _ _).group]

theorem emptyDesk_group (x : Nat) : ((modDesk gk fun _ => CollDesk.empty).exec s).group x =
    if x = gk then { s.group x with desk := CollDesk.empty } else s.group x :=
  modGroup_updates gk (fun g => { g with desk := CollDesk.empty }) s x

theorem closeColl_desk : (((closeColl s gk st).exec s).group gk).desk = CollDesk.empty := by
  rw [closeColl_group, each_memberEnd_desk, emptyDesk_group, if_pos rfl]

theorem closeColl_peer {p : Nat × Nat} (hp : p ∈ s.groupPeers (s.group gk)) : (((closeColl s gk st).exec s).group p.2).run = none ∧
    (st ≠ 1 → (((closeColl s gk st).exec s).group p.2).state = (s.group p.2).state) := by
  rw [closeColl_group, each_memberEnd _ hp]
  refine ⟨Group.finished_run .., fun h => ?_⟩
  rw [Group.finished_state h, emptyDesk_group]
  split <;> rfl

/-- A COLL that is not aborted ends without a byte being written. -/
theorem closeColl_bytes (h : st ≠ 1) (hs : s.uncaptured) : ((closeColl s gk st).exec s).bytes = s.bytes :=
  (Cmd.within_seq Hushed.chains (a := modDesk gk fun _ => CollDesk.empty) (fun _ hu => ⟨rfl, hu⟩) (Cmd.within_seq Hushed.chains
    (Cmd.within_each Hushed.chains fun _ _ => memberEnd_hushed h) fun u => (decideAway_reply _ _ _ _ u).hush) s hs).1

end

/-- A group slot that holds its group: intact, or being left. -/
def Group.isOpen (g : Group) : Prop := g.state = .intact ∨ g.state = .leaving

theorem Group.isOpen_iff (g : Group) : g.isOpen ↔ (g.state == .intact || g.state == .leaving) = true := by
  simp only [Group.isOpen, Bool.or_eq_true, beq_iff_eq]

section
variable {s : State} {gk rank : Nat}

theorem collReport_collects {rep : CollRep} (hopen : (s.group gk).isOpen) (hnew : ∀ x ∈ (s.group gk).desk.reports, x.1 ≠ rank) :
    Answers (.collReport gk rank rep) s fun t => (t.group gk).desk.reports = (s.group gk).desk.reports ++ [(rank, rep)] ∧
      ((s.group gk).desk.reports.length + 1 = (s.group gk).count → t.due s.now (.collDecide gk)) := by
  have hnone : ((s.group gk).desk.reports.any fun (r, _) => r == rank) = false :=
    List.any_eq_false.2 fun x hx => by simpa using hnew x hx
  have hexec : exec (.collReport gk rank rep) s = .next ((Cmd.seq
      (modDesk gk fun d => { d with reports := d.reports ++ [(rank, rep)] })
      (.when ((s.group gk).desk.reports.length + 1 == (s.group gk).count) (after 0 (.collDecide gk)))).exec s) := by
    change execCollReport gk rank rep s = _
    simp only [execCollReport, (Group.isOpen_iff _).1 hopen, hnone, Bool.not_false, Bool.and_true, Cmd.exec_when_true, Cmd.next_eq]
  have hdesk := modGroup_updates gk (fun g => { g with desk := { g.desk with reports := g.desk.reports ++ [(rank, rep)] } }) s gk
  rw [if_pos rfl] at hdesk
  refine ⟨_, hexec, ?_, fun hall => ?_⟩
  · rw [Cmd.exec_seq, (Cmd.within_when ReplyFrame.chains (fun _ => after_reply 0 _) _).group]
    exact congrArg (·.desk.reports) hdesk
  · rw [Cmd.exec_seq, hall, beq_self_eq_true, Cmd.exec_when_true]
    exact after_due 0 _ _

theorem memberTold_updates (k : Nat) : (memberTold k).Updates k fun g => { g with run := g.run.map fun r => { r with go := true } } :=
  (modGroup_updates k fun g => { g with run := g.run.map fun r => { r with go := true } }).seq fun t => (after_reply 0 _ t).eng

section
variable (hnew : (s.group gk).desk.accepted = false) (hall : (s.group gk).desk.reports.length = (s.group gk).count)
  (hwait : ∀ r, (s.group gk).run = some r → r.go = false)
include hnew hall hwait

theorem collDecide_accepts (h : collDecision (s.group gk).count (s.group gk).desk.reports = 0) :
    Answers (.collDecide gk) s fun t => (t.group gk).desk.accepted = true := by
  have hexec : exec (.collDecide gk) s = .next ((Cmd.all [
      modDesk gk fun d => { d with accepted := true },
      Cmd.each (s.groupPeers (s.group gk)) fun p => memberTold p.2,
      decideAway gk (s.group gk) 3 []]).exec s) := by
    change execCollDecide gk s = _
    simp only [execCollDecide, hnew, hall, h, Bool.false_or, bne_self_eq_false, Bool.false_eq_true, if_false]
    rw [if_neg ?wait]
    · rfl
    case wait =>
      cases hrun : (s.group gk).run with
      | none => exact nofun
      | some r => simp [hwait r hrun]
  refine ⟨_, hexec, ?_⟩
  dsimp only
  rw [Cmd.exec_all_cons, Cmd.exec_all_cons, Cmd.exec_all_one, (decideAway_reply _ _ _ _ _).group,
    each_updates (key := Prod.snd) ?idem fun p _ => memberTold_updates p.2]
  case idem => exact fun g => by simp [Function.comp_def]
  have hdesk := modGroup_updates gk (fun g => { g with desk := { g.desk with accepted := true } }) s gk
  rw [if_pos rfl] at hdesk
  have hacc : (((modDesk gk fun d => { d with accepted := true }).exec s).group gk).desk.accepted = true := congrArg (·.desk.accepted) hdesk
  split <;> exact hacc

theorem collDecide_refuses (h : collDecision (s.group gk).count (s.group gk).desk.reports ≠ 0) :
    Answers (.collDecide gk) s fun t => (t.group gk).desk = CollDesk.empty ∧ (s.uncaptured → t.bytes = s.bytes) ∧
      ∀ p ∈ s.groupPeers (s.group gk), (t.group p.2).run = none := by
  have hexec : exec (.collDecide gk) s = .next ((closeColl s gk (collDecision (s.group gk).count (s.group gk).desk.reports)).exec s) := by
    change execCollDecide gk s = _
    simp only [execCollDecide, hnew, hall, Bool.false_or, bne_self_eq_false, Bool.false_eq_true, if_false]
    rw [if_neg ?wait]
    · cases hd : collDecision (s.group gk).count (s.group gk).desk.reports with
      | zero => exact absurd hd h
      | succ n => rfl
    case wait =>
      cases hrun : (s.group gk).run with
      | none => exact nofun
      | some r => simp [hwait r hrun]
  exact ⟨_, hexec, closeColl_desk, closeColl_bytes (collDecision_ne_one _ _), fun p hp => (closeColl_peer hp).1⟩

end

/-! ### Shares and kills (R216, R310) -/

section
variable (hacc : (s.group gk).desk.accepted = true) (hnew : rank ∉ (s.group gk).desk.shares)
include hacc hnew

theorem exec_shareDone : exec (.shareDone gk rank) s = .next (
    (if (s.group gk).desk.shares.length + 1 = (s.group gk).count then closeColl s gk 0
      else modDesk gk fun d => { d with shares := (s.group gk).desk.shares ++ [rank] }).exec s) := by
  change execShareDone gk rank s = _
  simp only [execShareDone, hacc, Bool.not_true, Bool.false_eq_true, if_false, List.contains_iff_mem.not.2 hnew, Cmd.next_eq,
    List.length_append, List.length_singleton]
  by_cases h : (s.group gk).desk.shares.length + 1 = (s.group gk).count
  · rw [if_pos h, if_neg (by simp [h])]
    rfl
  · rw [if_neg h, if_pos (bne_iff_ne.2 h)]

theorem shareDone_waits (h : (s.group gk).desk.shares.length + 1 ≠ (s.group gk).count) :
    Answers (.shareDone gk rank) s fun t => (t.group gk).desk.shares = (s.group gk).desk.shares ++ [rank] := by
  have hdesk := modGroup_updates gk (fun g => { g with desk := { g.desk with shares := (s.group gk).desk.shares ++ [rank] } }) s gk
  rw [if_pos rfl] at hdesk
  refine ⟨_, exec_shareDone hacc hnew, ?_⟩
  rw [if_neg h]
  exact congrArg (·.desk.shares) hdesk

theorem shareDone_commits (h : (s.group gk).desk.shares.length + 1 = (s.group gk).count) :
    Answers (.shareDone gk rank) s fun t => (t.group gk).desk = CollDesk.empty ∧
      ∀ p ∈ s.groupPeers (s.group gk), (t.group p.2).run = none ∧ (t.group p.2).state = (s.group p.2).state := by
  refine ⟨_, exec_shareDone hacc hnew, ?_⟩
  rw [if_pos h]
  exact ⟨closeColl_desk, fun p hp => ⟨(closeColl_peer hp).1, (closeColl_peer hp).2 (by decide)⟩⟩

end

/-- What the news of a kill makes of a slot. -/
def Group.broke (g : Group) : Group :=
  if g.state == .intact || g.state == .leaving then { g with state := .broken, desk := CollDesk.empty } else g

theorem Group.broke_idem (g : Group) : g.broke.broke = g.broke := by
  unfold Group.broke
  by_cases h : (g.state == .intact || g.state == .leaving) = true
  · rw [if_pos h]
    rfl
  · rw [if_neg h, if_neg h]

theorem Group.broke_finished {g : Group} (h : g.isOpen) : (g.broke.finished 1).state = .broken := by
  rw [broke, if_pos ((isOpen_iff g).1 h), finished]
  split <;> rfl

theorem killReport_breaks (hrank : rank < (s.group gk).count) (hopen : (s.group gk).isOpen) :
    Answers (.killReport gk rank) s fun t => ∀ p ∈ s.groupPeers (s.group gk),
      (s.group p.2).isOpen → (t.group p.2).state = .broken ∧ (t.group p.2).run = none := by
  have hpeers : (s.groupPeers (s.group gk)).filter (fun (_, k) => some (groupCtx k) != none) = s.groupPeers (s.group gk) :=
    List.filter_eq_self.2 fun _ _ => rfl
  have hexec : exec (.killReport gk rank) s = .next ((Cmd.all [
      Cmd.each (s.groupPeers (s.group gk)) fun p => modGroup p.2 Group.broke,
      Cmd.each (s.groupPeers (s.group gk)) fun p => memberEnd p.2 1,
      decideAway gk (s.group gk) 6 []]).exec s) := by
    change execKillReport gk rank s = _
    simp only [execKillReport, (Group.isOpen_iff _).1 hopen, hrank, decide_true, Bool.and_true, Cmd.exec_when_true, Cmd.next_eq, killGroup,
      Cmd.exec_get, Cmd.exec_all_cons, breakHere, hpeers]
    rfl
  refine ⟨_, hexec, fun p hp hp' => ?_⟩
  rw [Cmd.exec_all_cons, Cmd.exec_all_cons, Cmd.exec_all_one, (decideAway_reply _ _ _ _ _).group, each_memberEnd _ hp,
    each_updates_mem (key := Prod.snd) Group.broke_idem (fun p _ => modGroup_updates p.2 _) s hp]
  exact ⟨Group.broke_finished hp', Group.finished_run ..⟩

theorem killReport_idle (h : ¬ (s.group gk).isOpen) : exec (.killReport gk rank) s = .next s := by
  change execKillReport gk rank s = _
  simp only [execKillReport, Bool.eq_false_iff.2 ((Group.isOpen_iff _).not.1 h), Bool.and_false, Cmd.exec_when_false, Cmd.next_eq]

theorem coordinatorDecides : Claims.CoordinatorDecides := fun _ _ =>
  ⟨fun _ _ hopen hnew => collReport_collects hopen hnew,
    fun hnew hall hwait => ⟨collDecide_accepts hnew hall hwait, collDecide_refuses hnew hall hwait⟩,
    fun _ hacc hnew => ⟨shareDone_waits hacc hnew, shareDone_commits hacc hnew⟩,
    fun _ hrank hopen => killReport_breaks hrank hopen,
    fun _ h => killReport_idle h⟩

end

/-! ### Chunks arrive (R310) -/

/-- Entries that a value counts like the value it replaces, and that are not counted where it is new, leave what is counted alone. -/
theorem Tbl.filter_map_set {α β : Type} {t : Tbl α} {k : Nat} {v : α} {p : Nat × α → Bool} {h : Nat × α → β}
    (hold : ∀ w, t.get? k = some w → p (k, v) = p (k, w) ∧ h (k, v) = h (k, w)) (hnew : t.get? k = none → p (k, v) = false) :
    ((t.set k v).filter p).map h = (t.filter p).map h := by
  induction t with
  | nil => simp [Tbl.set, hnew rfl]
  | cons x t ih =>
    obtain ⟨j, w⟩ := x
    simp only [Tbl.set]
    simp only [Tbl.get?] at hold hnew
    split
    next hlt => simp [hnew (by rw [if_neg (by omega), if_pos hlt]), List.filter_cons]
    · split
      next heq =>
        subst heq
        obtain ⟨hp, hh⟩ := hold w (by rw [if_pos rfl])
        rw [List.filter_cons, List.filter_cons, hp]
        split
        · rw [List.map_cons, List.map_cons, hh]
        · rfl
      next hnlt hne =>
        simp only [hne, hnlt, if_false] at hold hnew
        rw [List.filter_cons, List.filter_cons]
        split
        · rw [List.map_cons, List.map_cons, ih hold hnew]
        · exact ih hold hnew

/-- A member's view of its group but for its collective. -/
def Group.unrun (g : Group) : Group := { g with run := none }

/-- Between two states the collective of a member differs at most in its timestamp: its group is the same, and what has come of it. -/
structure MemberFrame (gk : Nat) (s t : State) : Prop where
  now : t.now = s.now
  peers : ∀ g, t.groupPeers g = s.groupPeers g
  named : (t.group gk).unrun = (s.group gk).unrun
  progress : (t.group gk).run.map (fun r => (r.written, r.shared)) = (s.group gk).run.map fun r => (r.written, r.shared)

theorem MemberFrame.chains (gk : Nat) : Chains (MemberFrame gk) where
  refl _ := ⟨rfl, fun _ => rfl, rfl, rfl⟩
  trans a b := ⟨b.now.trans a.now, fun g => (b.peers g).trans (a.peers g), b.named.trans a.named, b.progress.trans a.progress⟩

theorem MemberFrame.of_eng {gk : Nat} {s t : State} (hnow : t.now = s.now) (heng : t.eng = s.eng) : MemberFrame gk s t := by
  have hgroup : t.group gk = s.group gk := by rw [State.group, heng]; rfl
  exact ⟨hnow, fun g => by rw [State.groupPeers, heng]; rfl, by rw [hgroup], by rw [hgroup]⟩

section
variable {s : State} {gk : Nat}

/-- A change of a member's run leaves the groups of the package as they are. -/
theorem modRun_peers (f : CollRun → CollRun) (g : Group) : ((modRun gk f).exec s).groupPeers g = s.groupPeers g := by
  refine Tbl.filter_map_set (fun w hw => ?_) fun hnone => ?_
  · rw [Tbl.getD, hw]
    exact ⟨rfl, rfl⟩
  · rw [Tbl.getD, hnone]
    exact Bool.and_false _

theorem modRun_group (f : CollRun → CollRun) : ((modRun gk f).exec s).group gk = { s.group gk with run := (s.group gk).run.map f } :=
  (modGroup_updates gk (fun g => { g with run := g.run.map f }) s gk).trans (if_pos rfl)

theorem memberWrite_frame (j : Job) (p : Spot) (bs : List Byte) : (memberWrite gk j p bs).Within (MemberFrame gk) := by
  cases p with
  | dram a =>
    simp only [memberWrite, engWrite]
    refine engWriteAs_within (MemberFrame.chains gk) (fun _ _ h => .of_eng h.now h.eng) fun w u => ⟨rfl, modRun_peers _, ?_, ?_⟩
    · rw [modRun_group]
      rfl
    · rw [modRun_group]
      exact Option.map_map ..
  | vault d a => exact fun u => .of_eng rfl rfl

/-- The last chunk of a member has come. -/
def lastChunk (g : Group) (r : CollRun) (data : List Byte) : Bool := r.written + data.length == r.total g.count

/-- The counting of a chunk. -/
def countChunk (gk src ofs : Nat) (data : List Byte) (r : CollRun) : Cmd := modRun gk fun x => { x with
  written := x.written + data.length, chunks := r.chunks ++ [(src, ofs, data)], flags := x.flags ||| 0 }

/-- A chunk is counted, and written piece by piece; the last completes the share. -/
def takeChunk (s : State) (gk src ofs : Nat) (data : List Byte) (r : CollRun) (ps : List (Spot × List Byte)) : Cmd := .all [
  countChunk gk src ofs data r,
  Cmd.each ps fun p => memberWrite gk (s.memberJob gk r) p.1 p.2,
  .when (lastChunk (s.group gk) r data && !r.shared) (reportShare gk)]

/-- What of a member the end of its share depends on. -/
structure ShareReady (gk : Nat) (s v : State) (w : Nat) (shared : Bool) : Prop where
  now : v.now = s.now
  coordinator : v.coordinator (v.group gk) = s.coordinator (s.group gk)
  rank : (v.group gk).rank = (s.group gk).rank
  progress : (v.group gk).run.map (fun r => (r.written, r.shared)) = some (w, shared)

section
variable {v : State} {w : Nat} {shared : Bool} (h : ShareReady gk s v w shared)
include h

theorem reportShare_progress :
    (((reportShare gk).exec v).group gk).run.map (fun r => (r.written, r.shared)) = some (w, true) := by
  obtain ⟨r, hr, hw⟩ := Option.map_eq_some_iff.1 h.progress
  have htell : ∀ u : State, ((match v.coordinator (v.group gk) with
    | some ck => after (hopCycles (groupDie gk) (groupDie ck)) (.shareDone ck (v.group gk).rank)
    | none => sendAway gk (v.group gk) 0 1 [(v.group gk).rank]).exec u).group gk = u.group gk := fun u => by
    cases v.coordinator (v.group gk) with
    | some ck => exact (after_reply _ _ u).group gk
    | none => exact (sendAway_reply _ _ _ _ _ u).group gk
  have hset := modRun_group (s := v) (gk := gk) fun r => { r with shared := true }
  rw [hr] at hset
  refine (congrArg (fun g => g.run.map fun r => (r.written, r.shared)) ((htell _).trans hset)).trans ?_
  exact congrArg some (congrArg (·, true) (congrArg Prod.fst hw))

theorem reportShare_due {ck : Nat} (hck : s.coordinator (s.group gk) = some ck) :
    ((reportShare gk).exec v).due (s.now + hopCycles (groupDie gk) (groupDie ck)) (.shareDone ck (s.group gk).rank) := by
  simp only [reportShare, Cmd.exec_get, h.coordinator, hck, h.rank, Cmd.exec_seq]
  exact h.now ▸ after_due _ _ _

end

section
variable {src ofs : Nat} {data : List Byte} {r : CollRun} {b : Tensor}

/-- Where a chunk goes. -/
def chunkPieces (s : State) (gk src ofs : Nat) (data : List Byte) (r : CollRun) (b : Tensor) : List (Spot × List Byte) :=
  b.pieces (if r.rep.sub = 4 then ofs else src * r.chunk (s.group gk).count + ofs) data

variable (hrun : (s.group gk).run = some r) (hdst : r.dst = some b) (hsub : r.rep.sub ≠ 1)
include hrun hdst hsub

theorem exec_chunkReceive : exec (.chunkReceive gk src ofs data) s = .next ((
    let ps := chunkPieces s gk src ofs data r b
    let j := s.memberJob gk r
    if ps.any fun p => s.spotWaits j true p.1 p.2.length then after 1 (.chunkReceive gk src ofs data)
    else if ps.any fun p => (s.spotFails j p.1 p.2.length true).isSome then .seq (memberFault gk causeEngine 1 Firing.argB) (reportKill gk)
    else gate j.vd (s.spotArbiters j true (ps.map fun p => (p.1, p.2.length))) (.chunkReceive gk src ofs data)
      (takeChunk s gk src ofs data r ps)).exec s) := by
  change execChunkReceive gk src ofs data s = _
  simp only [execChunkReceive, hrun, hdst, hsub, if_false]
  rfl

theorem chunkReceive_waits (h : ∃ p ∈ chunkPieces s gk src ofs data r b, s.spotWaits (s.memberJob gk r) true p.1 p.2.length = true) :
    Answers (.chunkReceive gk src ofs data) s fun t => t.bytes = s.bytes ∧ t.eng = s.eng ∧ t.due (s.now + 1) (.chunkReceive gk src ofs data) := by
  have hexec := exec_chunkReceive (src := src) (ofs := ofs) (data := data) hrun hdst hsub
  rw [if_pos (List.any_eq_true.2 h)] at hexec
  exact ⟨_, hexec, rfl, rfl, after_due 1 _ _⟩

omit hdst hsub in
/-- What the counting of a chunk, and writes after it, leave for the end of the share. -/
theorem countChunk_ready {u v : State} (heng : u.eng = s.eng) (hnow : u.now = s.now)
    (hw : MemberFrame gk ((countChunk gk src ofs data r).exec u) v) : ShareReady gk s v (r.written + data.length) r.shared := by
  have hgroup : u.group gk = s.group gk := by rw [State.group, heng]; rfl
  have hcount : ((countChunk gk src ofs data r).exec u).group gk = _ := modRun_group _
  have hnamed : (v.group gk).unrun = (s.group gk).unrun := by rw [hw.named, hcount, hgroup]; rfl
  refine ⟨hw.now.trans hnow, ?_, (congrArg Group.rank hnamed :), ?_⟩
  · have hpeers : ∀ g, v.groupPeers g = s.groupPeers g := fun g => by
      rw [hw.peers, countChunk, modRun_peers, State.groupPeers, heng]
      rfl
    have hcoord : ∀ g, v.coordinator g = s.coordinator g := fun g => by rw [State.coordinator, hpeers]; rfl
    exact (hcoord _).trans (congrArg s.coordinator hnamed :)
  · rw [hw.progress, hcount, hgroup, hrun]
    rfl

/-- With credit at every arbiter the pieces are written, and the last completes the share. -/
theorem chunkReceive_takes
    (hready : ∀ p ∈ chunkPieces s gk src ofs data r b, s.spotWaits (s.memberJob gk r) true p.1 p.2.length = false ∧
      s.spotFails (s.memberJob gk r) p.1 p.2.length true = none)
    (hcredit : ∀ a ∈ s.spotArbiters (s.memberJob gk r) true ((chunkPieces s gk src ofs data r b).map fun p => (p.1, p.2.length)),
      s.hasCredit a.1 (s.memberJob gk r).vd = true) :
    Answers (.chunkReceive gk src ofs data) s fun t =>
      ((t.group gk).run.map fun x => (x.written, x.shared)) = some (r.written + data.length,
        r.shared || decide (r.written + data.length = r.total (s.group gk).count)) ∧
      ∀ ck, s.coordinator (s.group gk) = some ck → r.shared = false → r.written + data.length = r.total (s.group gk).count →
        t.due (s.now + hopCycles (groupDie gk) (groupDie ck)) (.shareDone ck (s.group gk).rank) := by
  have hexec := exec_chunkReceive (src := src) (ofs := ofs) (data := data) hrun hdst hsub
  rw [if_neg ?wait, if_neg ?fail, exec_gate_of_credit hcredit] at hexec
  case wait =>
    intro h
    obtain ⟨p, hp, hw⟩ := List.any_eq_true.1 h
    rw [(hready p hp).1] at hw
    exact absurd hw nofun
  case fail =>
    intro h
    obtain ⟨p, hp, hw⟩ := List.any_eq_true.1 h
    rw [(hready p hp).2] at hw
    exact absurd hw nofun
  obtain ⟨heng, hnow⟩ := each_spend_leaves (s.memberJob gk r).vd
    (s.spotArbiters (s.memberJob gk r) true ((chunkPieces s gk src ofs data r b).map fun p => (p.1, p.2.length))) s
  have hshare := countChunk_ready (src := src) (ofs := ofs) (data := data) hrun heng hnow
    (Cmd.within_each (xs := chunkPieces s gk src ofs data r b) (MemberFrame.chains gk) (fun p _ => memberWrite_frame (s.memberJob gk r) p.1 p.2) _)
  rw [takeChunk, Cmd.exec_all_cons, Cmd.exec_all_cons, Cmd.exec_all_one] at hexec
  refine ⟨_, hexec, ?_, fun ck hck hopen hlast => ?_⟩
  · cases hlast : lastChunk (s.group gk) r data && !r.shared with
    | true =>
      obtain ⟨hl, -⟩ := Bool.and_eq_true_iff.1 hlast
      rw [Cmd.exec_when_true, decide_eq_true (beq_iff_eq.1 hl), Bool.or_true]
      exact reportShare_progress hshare
    | false =>
      have hsame : (r.shared || decide (r.written + data.length = r.total (s.group gk).count)) = r.shared := by
        unfold lastChunk at hlast
        cases hs : r.shared <;> simp_all
      rw [Cmd.exec_when_false, hsame]
      exact hshare.progress
  · rw [lastChunk, hlast, hopen, beq_self_eq_true, Bool.not_false, Bool.and_self, Cmd.exec_when_true]
    exact reportShare_due hshare hck

end

end

theorem chunksArrive : Claims.ChunksArrive := fun _ _ _ _ _ _ _ hrun hdst hsub =>
  ⟨chunkReceive_waits hrun hdst hsub, chunkReceive_takes hrun hdst hsub⟩

/-- Settles O40: groups form by what all declarers say, the coordinator's decisions reach every peer, and chunks arrive. -/
theorem collectives : Obligations.Collectives := ⟨groupsForm, coordinatorDecides, chunksArrive⟩

end Sys2Proof.Machine

/-! ## The copy engine's queues (R299 to R301)

A descriptor is put in service or out of it, the queue whose turn it is has its slot taken up, and a free channel goes to the oldest job. -/

namespace Sys2Proof.Machine

/-! ### Descriptors (R299) -/

section
variable {s : State} {vd q : Nat} {launch : Bool}

/-- The bytes of a queue's descriptor. -/
def State.descriptorBytes (s : State) (vd q : Nat) (launch : Bool) : List Byte := (s.engBytes 0 vd (s.descriptor vd q launch) 64 0 none).1

theorem queueEnable_disables (hread : s.engError 0 vd (s.descriptor vd q launch) 64 .read = none)
    (h : field (s.descriptorBytes vd q launch) 31 1 % 2 = 0) : Answers (.queueEnable vd q launch) s fun t =>
      t.eng.services = s.eng.services.del (serviceKey vd q launch) ∧ t.agenda = s.agenda := by
  have hexec : exec (.queueEnable vd q launch) s =
      .next ((Cmd.prim (.eng fun e => { e with services := e.services.del (serviceKey vd q launch) })).exec s) := by
    change execQueueEnable vd q launch s = _
    rw [State.descriptorBytes] at h
    simp only [execQueueEnable, hread, Option.isSome_none, Bool.false_eq_true, if_false, h, if_true, Cmd.next_eq]
  exact ⟨_, hexec, rfl, rfl⟩

theorem queueEnable_serves (hread : s.engError 0 vd (s.descriptor vd q launch) 64 .read = none)
    (h : field (s.descriptorBytes vd q launch) 31 1 % 2 = 1) (hnew : s.eng.services.get? (serviceKey vd q launch) = none)
    (hslots : slotsOk (field (s.descriptorBytes vd q launch) 24 4) = true) (hbase : field (s.descriptorBytes vd q launch) 0 8 % 64 = 0) :
    Answers (.queueEnable vd q launch) s fun t => t.eng.services.get? (serviceKey vd q launch) =
        some ⟨BitVec.ofNat 64 (field (s.descriptorBytes vd q launch) 0 8), field (s.descriptorBytes vd q launch) 24 4,
          field (s.descriptorBytes vd q launch) 28 2, field (s.descriptorBytes vd q launch) 30 1, false, false⟩ ∧
      t.due s.now (if launch then .launchTakeUp vd q else .slotTakeUp vd q) := by
  have hexec : exec (.queueEnable vd q launch) s = .next ((Cmd.seq
      (setService (serviceKey vd q launch) ⟨BitVec.ofNat 64 (field (s.descriptorBytes vd q launch) 0 8), field (s.descriptorBytes vd q launch) 24 4,
        field (s.descriptorBytes vd q launch) 28 2, field (s.descriptorBytes vd q launch) 30 1, false, false⟩)
      (after 0 (if launch then .launchTakeUp vd q else .slotTakeUp vd q))).exec s) := by
    change execQueueEnable vd q launch s = _
    rw [State.descriptorBytes] at h hslots hbase
    simp only [execQueueEnable, hread, Option.isSome_none, Bool.false_eq_true, if_false, h, Nat.one_ne_zero, hnew, hslots, hbase,
      beq_self_eq_true, Bool.and_self, Bool.not_true, if_true, Cmd.next_eq, State.descriptorBytes]
    cases launch <;> rfl
  exact ⟨_, hexec, Tbl.get?_set_self .., after_due 0 _ _⟩

end

/-! ### The slot at the head (R300, R301) -/

section
variable {s : State} {vd q : Nat} {x : Service} {va ridx : Nat} {bs : List Byte}
  (hx : s.eng.services.get? (serviceKey vd q false) = some x) (hserve : s.serves vd x = true) (hroom : s.channelsUsed x.die < 16)
  (hfree : s.jobsWaiting x.die = []) (hhead : s.headSlot vd q false x = .slot va ridx bs)
include hx hserve hroom hfree hhead

theorem slotTakeUp_idle (h : s.nextQueue x.die = none) : exec (.slotTakeUp vd q) s = .next s := by
  change execSlotTakeUp vd q s = _
  simp only [execSlotTakeUp, hx, hserve, hhead, hfree, h, Bool.not_true, Bool.false_eq_true, if_false, Nat.not_le.2 hroom,
    decide_false, List.isEmpty_nil, Bool.or_self, Cmd.next_eq, Cmd.exec_skip]

theorem exec_slotTakeUp {v k : Nat} (h : s.nextQueue x.die = some (v, k)) : exec (.slotTakeUp vd q) s = .next (
    (if v = vd ∧ k = q then Cmd.seq (takeUp vd q x) (after 1 (.channelAssign x.die))
      else Cmd.when (!s.isDue (.slotTakeUp v k)) (after 0 (.slotTakeUp v k))).exec s) := by
  change execSlotTakeUp vd q s = _
  simp only [execSlotTakeUp, hx, hserve, hhead, hfree, h, Bool.not_true, Bool.false_eq_true, if_false, Nat.not_le.2 hroom,
    decide_false, List.isEmpty_nil, Bool.or_self, Cmd.next_eq, Bool.and_eq_true, decide_eq_true_eq]

theorem slotTakeUp_givesWay {v k : Nat} (h : s.nextQueue x.die = some (v, k)) (hother : (v, k) ≠ (vd, q))
    (hdue : s.isDue (.slotTakeUp v k) = false) : Answers (.slotTakeUp vd q) s fun t =>
      t.eng = s.eng ∧ t.bytes = s.bytes ∧ t.due s.now (.slotTakeUp v k) := by
  have hexec := exec_slotTakeUp hx hserve hroom hfree hhead h
  rw [if_neg fun hvk => hother (by rw [hvk.1, hvk.2]), hdue, Bool.not_false, Cmd.exec_when_true] at hexec
  exact ⟨_, hexec, rfl, rfl, after_due 0 _ _⟩

theorem exec_slotTakeUp_own (h : s.nextQueue x.die = some (vd, q)) : exec (.slotTakeUp vd q) s =
    .next ((after 1 (.channelAssign x.die)).exec ((takeUp vd q x).exec s)) := by
  rw [exec_slotTakeUp hx hserve hroom hfree hhead h, if_pos ⟨rfl, rfl⟩]
  rfl

/-- RIDX moves past the head, and the queue has had its turn. -/
def passHead (vd q : Nat) (x : Service) (ridx : Nat) : Cmd := .seq (passSlot vd q false x.die ridx)
  (.prim (.eng fun e => { e with turn := (e.turn.set vd q).set (dieTurn x.die) vd }))

/-- The job that a slot becomes (R301). -/
def slotJob (s : State) (vd q : Nat) (x : Service) (va : Nat) (bs : List Byte) : Job := { Job.blank x.die vd x.ctx with
  queue := some q, state := .checking, packet := bs, stamp := BitVec.ofNat 64 (field bs 24 8),
  sval := BitVec.ofNat 64 (field bs 32 8), irq := (field bs 1 1).testBit 1, pts := s.wtsAt x.die vd (va + 63) }

omit hx hserve hroom hfree hhead

/-- A pass writes RIDX and notes the turn. -/
theorem passHead_leaves (hvd : vd < 64) (u : State) : let t := (passHead vd q x ridx).exec u
    t.eng.turn.getD vd 63 = q ∧ t.eng.jobs = u.eng.jobs ∧ t.now = u.now := by
  have hpass : WriteFrame u ((passSlot vd q false x.die ridx).exec u) := engWrite_write _ _ _ _ _ u
  refine ⟨?_, (congrArg EngState.jobs hpass.eng :), hpass.now⟩
  refine (Tbl.getD_set_ne _ _ _ (show vd ≠ dieTurn x.die from ?_)).trans (Tbl.getD_set_self ..)
  unfold dieTurn
  omega

theorem slotTakeUp_passes (hhead : s.headSlot vd q false x = .slot va ridx bs) (hvalid : field bs 63 1 = 2) :
    (takeUp vd q x).exec s = (passHead vd q x ridx).exec s := by
  simp only [takeUp, Cmd.exec_get, hhead, hvalid]
  rfl

theorem slotTakeUp_takes (hhead : s.headSlot vd q false x = .slot va ridx bs) (hvalid : field bs 63 1 = 1) :
    (takeUp vd q x).exec s = (Cmd.all [clearValid vd x.die va, passHead vd q x ridx, setJob s.serial (slotJob s vd q x va bs),
      after (s.checkCycles (slotJob s vd q x va bs)) (.jobChecked s.serial)]).exec (Prim.takeSerial.run s) := by
  simp only [takeUp, Cmd.exec_get, hhead, hvalid]
  rfl

include hx hserve hroom hfree hhead

theorem slotTakeUp_accepts (hvd : vd < 64) (hvalid : field bs 63 1 = 1) (h : s.nextQueue x.die = some (vd, q)) :
    Answers (.slotTakeUp vd q) s fun t => t.eng.turn.getD vd 63 = q ∧
      ∃ j n, t.job? s.serial = some j ∧ j.kind = .copy ∧ j.state = .checking ∧ j.packet = bs ∧ j.die = x.die ∧ j.vd = vd ∧ j.ctx = x.ctx ∧
        j.stamp = BitVec.ofNat 64 (field bs 24 8) ∧ j.sval = BitVec.ofNat 64 (field bs 32 8) ∧ t.due n (.jobChecked s.serial) := by
  have hexec := exec_slotTakeUp_own hx hserve hroom hfree hhead h
  rw [slotTakeUp_takes hhead hvalid, Cmd.exec_all_cons, Cmd.exec_all_cons, Cmd.exec_all_cons, Cmd.exec_all_one] at hexec
  obtain ⟨hturn, -, -⟩ := passHead_leaves (q := q) (x := x) (ridx := ridx) hvd ((clearValid vd x.die va).exec (Prim.takeSerial.run s))
  have hdue := (after_aside 1 (.channelAssign x.die) _).agenda _ (after_due (s.checkCycles (slotJob s vd q x va bs)) (.jobChecked s.serial)
    ((setJob s.serial (slotJob s vd q x va bs)).exec ((passHead vd q x ridx).exec ((clearValid vd x.die va).exec (Prim.takeSerial.run s)))))
  exact ⟨_, hexec, hturn, slotJob s vd q x va bs, _, Tbl.get?_set_self .., rfl, rfl, rfl, rfl, rfl, rfl, rfl, rfl, hdue⟩

theorem slotTakeUp_passesOver (hvd : vd < 64) (hvalid : field bs 63 1 = 2) (h : s.nextQueue x.die = some (vd, q)) :
    Answers (.slotTakeUp vd q) s fun t => t.eng.turn.getD vd 63 = q ∧ t.eng.jobs = s.eng.jobs ∧
      t.due (s.now + 1) (.channelAssign x.die) := by
  have hexec := exec_slotTakeUp_own hx hserve hroom hfree hhead h
  rw [slotTakeUp_passes hhead hvalid] at hexec
  obtain ⟨hturn, hjobs, hnow⟩ := passHead_leaves (q := q) (x := x) (ridx := ridx) hvd s
  exact ⟨_, hexec, hturn, hjobs, hnow ▸ after_due 1 _ _⟩

end

/-! ### A free channel (R301) -/

section
variable {s : State} {die id : Nat} {j : Job} {rest : List (Nat × Job)}

theorem modJob_job (n : Nat) (f : Job → Job) (s : State) : ((modJob n f).exec s).job? n = (s.job? n).map f :=
  modJob_job_self ..

theorem exec_channelAssign (hroom : s.channelsUsed die < 16) (hwait : s.jobsWaiting die = (id, j) :: rest) :
    exec (.channelAssign die) s = .next ((Cmd.when (!rest.isEmpty) (after 1 (.channelAssign die))).exec
      ((if j.state = .waiting then Cmd.seq (modJob id fun j => { j with state := .checking }) (after (s.checkCycles j) (.jobChecked id))
        else after 0 (.jobUnblock id)).exec s)) := by
  change execChannelAssign die s = _
  simp only [execChannelAssign, Nat.not_le.2 hroom, if_false, hwait, Cmd.next_eq, Cmd.exec_all_cons, Cmd.exec_all_one]

/-- Whether a further job waits or not, the look at it leaves the rest. -/
theorem assignMore_leaves (b : Bool) (u : State) : let t := (Cmd.when b (after 1 (.channelAssign die))).exec u
    t.eng = u.eng ∧ ∀ x ∈ u.agenda, x ∈ t.agenda := by
  cases b
  · exact ⟨rfl, fun _ h => h⟩
  · exact ⟨rfl, (after_aside 1 _ u).agenda⟩

theorem channelAssign_checks (hroom : s.channelsUsed die < 16) (hwait : s.jobsWaiting die = (id, j) :: rest) (hj : s.job? id = some j)
    (h : j.state = .waiting) : Answers (.channelAssign die) s fun t => (t.job? id).map (·.state) = some .checking ∧
      t.due (s.now + s.checkCycles j) (.jobChecked id) := by
  have hexec := exec_channelAssign hroom hwait
  rw [if_pos h] at hexec
  obtain ⟨heng, hagenda⟩ := assignMore_leaves (die := die) (!rest.isEmpty)
    ((Cmd.seq (modJob id fun j => { j with state := .checking }) (after (s.checkCycles j) (.jobChecked id))).exec s)
  refine ⟨_, hexec, ?_, hagenda _ (after_due _ _ _)⟩
  rw [State.job?, heng]
  refine (congrArg (Option.map _) (modJob_job ..)).trans ?_
  rw [hj]
  rfl

theorem channelAssign_unblocks (hroom : s.channelsUsed die < 16) (hwait : s.jobsWaiting die = (id, j) :: rest) (h : j.state ≠ .waiting) :
    Answers (.channelAssign die) s fun t => t.eng = s.eng ∧ t.due s.now (.jobUnblock id) := by
  have hexec := exec_channelAssign hroom hwait
  rw [if_neg h] at hexec
  obtain ⟨heng, hagenda⟩ := assignMore_leaves (die := die) (!rest.isEmpty) ((after 0 (.jobUnblock id)).exec s)
  exact ⟨_, hexec, heng, hagenda _ (after_due 0 _ _)⟩

end

theorem copyQueues : Claims.CopyQueues :=
  ⟨fun _ _ _ _ hread => ⟨queueEnable_disables hread, queueEnable_serves hread⟩,
    fun _ _ _ _ _ _ _ hx hserve hvd hroom hfree hhead => ⟨fun _ => slotTakeUp_idle hx hserve hroom hfree hhead,
      fun _ _ => slotTakeUp_givesWay hx hserve hroom hfree hhead, slotTakeUp_accepts hx hserve hroom hfree hhead hvd,
      slotTakeUp_passesOver hx hserve hroom hfree hhead hvd⟩,
    fun _ _ _ _ _ hroom hwait hj => ⟨channelAssign_checks hroom hwait hj, channelAssign_unblocks hroom hwait⟩⟩

end Sys2Proof.Machine

/-! ## Arbiters on the way to a home (R371, R391, R394)

A translation names a die of the package, so the arbiters that an engine's access passes are those of slices, stacks and couplers, never
the copy engine's own. -/

namespace Sys2Proof.Machine

theorem natBits_lt (x hi lo : Nat) : natBits x hi lo < 2 ^ (hi + 1 - lo) := Nat.mod_lt _ (Nat.two_pow_pos _)

theorem homeDie_lt (s : State) (pa : Nat) : s.homeDie pa < 4 := by
  have hport : natBits pa 7 7 < 2 := natBits_lt pa 7 7
  unfold State.homeDie
  split
  · dsimp only
    split <;> omega
  · decide
  · exact Nat.xor_lt_two_pow (n := 2) (Nat.xor_lt_two_pow (natBits_lt pa 8 7) (natBits_lt pa 20 19)) (natBits_lt pa 32 31)

/-- The end of a walk names a die of the package, if any. -/
def WalkEnd.onPackage : WalkEnd → Prop
  | .fails _ _ => True
  | .leaf e _ => e.nearDie < 4

theorem onPackage_ite {p : Prop} [Decidable p] {a b : WalkEnd} (ha : a.onPackage) (hb : b.onPackage) : (if p then a else b).onPackage := by
  split <;> assumption

theorem finish_ite {p : Prop} [Decidable p] {a b : Walk} (ha : a.finish.onPackage) (hb : b.finish.onPackage) :
    (if p then a else b).finish.onPackage := by
  split <;> assumption

section
variable {s : State} {die vd : Nat} {va : W64} (hdie : die < 4)
include hdie

theorem leafEnd_onPackage (level addr : Nat) (p : W64) : (s.leafEnd die vd level addr va p).onPackage := by
  have hprim : ∀ valid : Nat → Bool, ((((List.range 4).map fun d => leNat (s.physRead (pteBase p + 8 * d) 8)).findIdx? valid).getD 0) < 4 := by
    intro valid
    cases hf : ((List.range 4).map fun d => leNat (s.physRead (pteBase p + 8 * d) 8)).findIdx? valid with
    | none => decide
    | some k => simpa using (List.findIdx?_eq_some_iff_getElem.1 hf).1
  unfold State.leafEnd
  dsimp only
  refine onPackage_ite trivial (onPackage_ite trivial (onPackage_ite trivial (onPackage_ite trivial (onPackage_ite ?replica ?plain))))
  case plain => exact (by decide : 0 < 4)
  case replica =>
    split
    · trivial
    · refine onPackage_ite trivial ?_
      dsimp only [WalkEnd.onPackage]
      split
      · exact hdie
      · exact hprim _

theorem walkFrom_onPackage (level table : Nat) : (s.walkFrom die vd va level table).finish.onPackage := by
  induction level generalizing table with
  | zero =>
    unfold State.walkFrom
    exact finish_ite trivial (finish_ite trivial (finish_ite trivial (finish_ite trivial
      (finish_ite (leafEnd_onPackage hdie _ _ _) trivial))))
  | succ l ih =>
    unfold State.walkFrom
    exact finish_ite trivial (finish_ite trivial (finish_ite trivial (finish_ite trivial
      (finish_ite (leafEnd_onPackage hdie _ _ _) (ih _)))))

theorem engEntry_nearDie {a : Nat} {u : Use} {e : TlbEntry} (h : s.engEntry die vd a u = .ok e) : e.nearDie < 4 := by
  have hwalk := walkFrom_onPackage (s := s) (vd := vd) (va := BitVec.ofNat 64 a) hdie 3 (s.vd vd).ptroot.toNat
  unfold State.engEntry State.engineTranslate State.walk at h
  split at h
  · cases h
  · revert hwalk h
    cases (s.walkFrom die vd (BitVec.ofNat 64 a) 3 (s.vd vd).ptroot.toNat).finish with
    | fails c d => exact fun _ h => nomatch h
    | leaf e' at_ =>
      intro hwalk h
      dsimp only at h
      split at h
      · cases h
      · cases h
        exact hwalk

theorem entryHome_lt {a : Nat} {u : Use} {e : TlbEntry} (h : s.engEntry die vd a u = .ok e) (x : Nat) : s.entryHome e x < 4 := by
  unfold State.entryHome
  split
  · exact engEntry_nearDie hdie h
  · exact homeDie_lt ..

/-- No arbiter on the way to a home is the copy engine's own (R371). -/
theorem arbiters_ne {home pa back : Nat} (hhome : home < 4) (k : Nat) : ∀ a ∈ s.arbiters die home pa back, a.1 ≠ engineArbiter k := by
  have hslice : homeSlice pa < 64 :=
    Nat.xor_lt_two_pow (n := 6) (Nat.xor_lt_two_pow (natBits_lt pa 14 9) (natBits_lt pa 26 21)) (natBits_lt pa 38 33)
  have hhd := homeDie_lt s pa
  have hstack : s.homeStack pa < 8 := by
    have hbit : natBits pa 15 15 ^^^ natBits pa 27 27 < 2 := Nat.xor_lt_two_pow (n := 1) (natBits_lt pa 15 15) (natBits_lt pa 27 27)
    unfold State.homeStack
    omega
  intro a ha
  unfold State.arbiters at ha
  split at ha
  · cases ha
  · simp only [List.mem_append, List.mem_singleton] at ha
    unfold engineArbiter arbiter
    rcases ha with (rfl | ha) | ha
    · dsimp only [sliceArbiter, arbiter]
      omega
    · split at ha
      · cases ha
      · simp only [List.mem_cons, List.not_mem_nil, or_false] at ha
        rcases ha with rfl | rfl <;> dsimp only [couplerArbiter, arbiter] <;> omega
    · split at ha
      · obtain rfl := List.mem_singleton.1 ha
        dsimp only [hbmArbiter, arbiter]
        omega
      · cases ha

theorem engArbiters_ne {a n : Nat} {ask : Ask} (k : Nat) : ∀ x ∈ s.engArbiters die vd a n ask, x.1 ≠ engineArbiter k := by
  intro x hx
  obtain ⟨⟨p, l⟩, -, hx⟩ := List.mem_flatMap.1 hx
  dsimp only at hx
  split at hx
  · cases hx
  next e he =>
    exact arbiters_ne hdie (entryHome_lt hdie he _) k x (List.mem_ite_nil_left.1 hx).2

end

theorem spotArbiters_ne {s : State} {j : Job} (hdie : j.die < 4) (write : Bool) (ps : List (Spot × Nat)) (k : Nat) :
    ∀ x ∈ s.spotArbiters j write ps, x.1 ≠ engineArbiter k := by
  intro x hx
  obtain ⟨l, -, hx⟩ := List.mem_flatMap.1 hx
  exact engArbiters_ne hdie k x hx

end Sys2Proof.Machine

/-! ## Copy jobs (R258, R286, R301, R303, R304, R307, R308, R371)

A job is checked, waits for the jobs before it, runs a cycle at a time on credits, and ends with its status word and its stamp. -/

namespace Sys2Proof.Machine

/-! ### Checks and order (R286, R308) -/

section
variable {s : State} {id : Nat} {j : Job} (hj : s.job? id = some j) (hkind : j.kind = .copy)
include hj hkind

theorem jobChecked_passes {src dst : Option Tensor} {ext : List Extent} {decl : Bool} (hstate : j.state = .checking)
    (hcheck : s.checkCopy j = .ok src dst ext decl) : Answers (.jobChecked id) s fun t => (t.job? id).map (·.state) = some .blocked ∧
      (t.job? id).map (fun x => (x.src, x.dst, x.extents, x.declared)) = some (src, dst, ext, decl) ∧ t.due s.now (.jobUnblock id) := by
  have hexec : exec (.jobChecked id) s = .next ((Cmd.all [
      modJob id fun x => { x with state := .blocked, src := src, dst := dst, extents := ext, declared := decl },
      after 0 (.jobUnblock id)]).exec s) := by
    change execJobChecked id s = _
    simp only [execJobChecked, hj, hstate, hkind, hcheck, bne_self_eq_false, Bool.false_eq_true, if_false, Cmd.next_eq]
  have hmod := modJob_job id (fun x => { x with state := .blocked, src := src, dst := dst, extents := ext, declared := decl }) s
  rw [hj] at hmod
  exact ⟨_, hexec, congrArg (Option.map Job.state) hmod,
    congrArg (Option.map fun x : Job => (x.src, x.dst, x.extents, x.declared)) hmod, after_due 0 _ _⟩

theorem jobChecked_fails {st a c : Nat} (hstate : j.state = .checking) (hstatus : j.status = 0) (hcheck : s.checkCopy j = .fails st a c) :
    Answers (.jobChecked id) s fun t => (t.job? id).map (·.state) = some .finishing ∧ (t.job? id).map (·.status) = some st ∧
      t.due s.now (.jobStamp id) := by
  have hexec : exec (.jobChecked id) s = .next ((Cmd.all [failJob id st a c, modJob id fun x => { x with state := .finishing },
      after 0 (.jobStamp id)]).exec s) := by
    change execJobChecked id s = _
    simp only [execJobChecked, hj, hstate, hkind, hcheck, bne_self_eq_false, Bool.false_eq_true, if_false, Cmd.next_eq]
  have hfail := modJob_job id (fun j => if j.status != 0 then j else { j with
    status := st, addr := BitVec.ofNat 64 a, valb := BitVec.ofNat 64 c }) s
  rw [hj, Option.map_some, hstatus] at hfail
  have hmod := (modJob_job id (fun x => { x with state := .finishing }) ((failJob id st a c).exec s)).trans (congrArg (Option.map _) hfail)
  exact ⟨_, hexec, congrArg (Option.map Job.state) hmod, congrArg (Option.map Job.status) hmod, after_due 0 _ _⟩

theorem jobUnblock_runs (hstate : j.state = .blocked) (hfree : s.jobHeld id j = false) : Answers (.jobUnblock id) s fun t =>
    (t.job? id).map (·.state) = some .running ∧ t.due (s.now + s.firstWrite j) (.jobPayloadDone id) := by
  have hexec : exec (.jobUnblock id) s = .next ((startCopy id j).exec s) := by
    change execJobUnblock id s = _
    simp only [execJobUnblock, hj, hstate, hfree, hkind, bne_self_eq_false, Bool.or_self, Bool.false_eq_true, if_false, Cmd.next_eq]
  refine ⟨_, hexec, ?_, after_due _ _ _⟩
  refine (congrArg (Option.map _) (modJob_job ..)).trans ?_
  rw [hj]
  rfl

omit hkind in
theorem jobUnblock_held (hstate : j.state = .blocked) (hheld : s.jobHeld id j = true) : exec (.jobUnblock id) s = .next s := by
  change execJobUnblock id s = _
  simp only [execJobUnblock, hj, hstate, hheld, Bool.or_true, if_true, Cmd.next_eq, Cmd.exec_skip]

end

/-! ### What a job's accesses leave alone (R287, R303) -/

/-- What of a job its accesses keep. -/
def Job.course (j : Job) : JobState × Nat × Nat := (j.state, j.got, j.expected)

/-- Between two states no more differs than what an access of a job changes: bytes, homes, and the job's own record of it. -/
structure JobFrame (id : Nat) (s t : State) : Prop where
  now : t.now = s.now
  buckets : t.ten.buckets = s.ten.buckets
  ctxs : t.ten.ctxs = s.ten.ctxs
  job : (t.job? id).map Job.course = (s.job? id).map Job.course

theorem JobFrame.chains (id : Nat) : Chains (JobFrame id) where
  refl _ := ⟨rfl, rfl, rfl, rfl⟩
  trans a b := ⟨b.now.trans a.now, b.buckets.trans a.buckets, b.ctxs.trans a.ctxs, b.job.trans a.job⟩

theorem WriteFrame.jobFrame {s t : State} (h : WriteFrame s t) (id : Nat) : JobFrame id s t :=
  ⟨h.now, h.buckets, h.ctxs, by rw [h.job]⟩

theorem modJob_jobFrame {id : Nat} {f : Job → Job} (hf : ∀ x, (f x).course = x.course) : (modJob id f).Within (JobFrame id) := fun s => by
  refine ⟨rfl, rfl, rfl, ?_⟩
  rw [modJob_job, Option.map_map]
  exact congrArg (Option.map · _) (funext hf)

section
variable {s : State} {id : Nat}

theorem vaultWrite_jobFrame (d a : Nat) (bs : List Byte) : (vaultWrite d a bs).Within (JobFrame id) := fun _ => ⟨rfl, rfl, rfl, rfl⟩

theorem spotWrite_jobFrame (j : Job) (p : Spot) (bs : List Byte) : (spotWrite id j p bs).Within (JobFrame id) := by
  refine Cmd.within_seq (JobFrame.chains id) ?_ (modJob_jobFrame fun _ => rfl)
  cases p with
  | dram a => exact engWriteAs_within (JobFrame.chains id) (fun _ _ h => h.jobFrame id) fun _ => modJob_jobFrame fun _ => rfl
  | vault d a => exact vaultWrite_jobFrame d a bs

theorem failJob_jobFrame (st a c : Nat) : (failJob id st a c).Within (JobFrame id) := modJob_jobFrame fun x => by
  split <;> rfl

theorem onJob_within {R : State → State → Prop} (hR : Chains R) {k : State → Job → Cmd} (h : ∀ s j, R s ((k s j).exec s)) :
    (onJob id k).Within R := Cmd.within_get fun s => by
  split
  next j _ =>
    unfold Cmd.when
    split
    · exact h s j
    · exact hR.refl s
  · exact hR.refl s

theorem tryWrite_jobFrame (p : Spot) (bs : List Byte) : (tryWrite id p bs).Within (JobFrame id) :=
  onJob_within (JobFrame.chains id) fun s j => by
    split
    · exact failJob_jobFrame _ _ _ s
    · exact spotWrite_jobFrame _ _ _ s

theorem writeCell_jobFrame (t : Tensor) (n : Nat) (x : List Byte × List Byte) : (writeCell id t n x).Within (JobFrame id) := by
  have hR := JobFrame.chains id
  exact Cmd.within_when hR fun _ => Cmd.within_seq hR (tryWrite_jobFrame _ _) (Cmd.within_when hR fun _ => tryWrite_jobFrame _ _)

theorem moveFill_jobFrame (b : Tensor) (param : Nat) (cells : List Nat) : (moveFill id b param cells).Within (JobFrame id) :=
  Cmd.within_each (JobFrame.chains id) fun _ _ => writeCell_jobFrame _ _ _

/-- A job's course, after accesses of its own. -/
theorem JobFrame.course {t : State} {j : Job} (h : JobFrame id s t) (hj : s.job? id = some j) :
    ∃ x, t.job? id = some x ∧ x.state = j.state ∧ x.got = j.got ∧ x.expected = j.expected := by
  have hjob := h.job
  rw [hj] at hjob
  obtain ⟨x, hx, hcourse⟩ := Option.map_eq_some_iff.1 hjob
  simp only [Job.course, Prod.mk.injEq] at hcourse
  exact ⟨x, hx, hcourse⟩

end

/-! ### Credits (R371) -/

/-- A VD's credit at an arbiter where it is listed (R373). -/
def State.listed (s : State) (key vd : Nat) : Option Credit := (s.ten.buckets.getD key []).get? vd

section
variable {s : State} {key vd : Nat}

theorem credit_of_listed {c : Credit} (h : s.listed key vd = some c) : s.credit key vd = c := by
  unfold State.listed Tbl.getD at h
  unfold State.credit
  cases hb : s.ten.buckets.get? key with
  | none => rw [hb] at h; exact absurd h nofun
  | some t =>
    rw [hb] at h
    change t.get? vd = some c at h
    simp only [h]

theorem spend_listed (n : Nat) (k : Nat) : ((spend k vd n).exec s).listed key vd =
    if key = k then some { s.credit k vd with left := (s.credit k vd).left - n } else s.listed key vd := by
  by_cases h : key = k
  · subst h
    rw [if_pos rfl, State.listed]
    exact (congrArg (Tbl.get? · vd) (Tbl.getD_set_self ..)).trans (Tbl.get?_set_self ..)
  · rw [if_neg h, State.listed]
    exact congrArg (Tbl.get? · vd) (Tbl.getD_set_ne _ _ _ h)

/-- Spending at other arbiters leaves a listed credit. -/
theorem each_spend_listed {arbs : List (Nat × Nat)} (h : ∀ a ∈ arbs, a.1 ≠ key) :
    ((Cmd.each arbs fun a => spend a.1 vd a.2).exec s).listed key vd = s.listed key vd := by
  have hR : Chains fun s t : State => t.listed key vd = s.listed key vd := ⟨fun _ => rfl, fun a b => b.trans a⟩
  refine Cmd.within_each hR (fun a ha u => ?_) s
  exact (spend_listed a.2 a.1).trans (if_neg (h a ha).symm)

/-- Spending credits changes the buckets alone. -/
theorem each_spend_exec (arbs : List (Nat × Nat)) : ∃ bs, (Cmd.each arbs fun a => spend a.1 vd a.2).exec s =
    { s with ten := { s.ten with buckets := bs } } := by
  induction arbs generalizing s with
  | nil => exact ⟨_, rfl⟩
  | cons a as ih =>
    obtain ⟨bs, hbs⟩ := ih (s := (spend a.1 vd a.2).exec s)
    exact ⟨bs, hbs⟩

end

/-! ### A cycle of a FILL (R301, R304) -/

/-- The cells that a cycle of a FILL writes. -/
def Job.fillCells (j : Job) (b : Tensor) : List Nat := ((List.range b.perCycle).map (j.got + ·)).map (· % max 1 b.cells)

/-- The arbiters that a cycle of a FILL passes. -/
def State.fillArbiters (s : State) (j : Job) (b : Tensor) : List (Nat × Nat) :=
  (engineArbiter j.die, 1) :: s.spotArbiters j true (b.spots (j.fillCells b))

/-- What spending at a FILL's arbiters leaves of the credit at the copy engine, and of all else. -/
theorem fillSpent {j : Job} {b : Tensor} (hdie : j.die < 4) (s : State) : ∃ bs, (Cmd.each (s.fillArbiters j b) fun a => spend a.1 j.vd a.2).exec s =
      { s with ten := { s.ten with buckets := bs } } ∧
    ({ s with ten := { s.ten with buckets := bs } } : State).listed (engineArbiter j.die) j.vd =
      some { s.credit (engineArbiter j.die) j.vd with left := (s.credit (engineArbiter j.die) j.vd).left - 1 } := by
  obtain ⟨bs, hbs⟩ := each_spend_exec (s := s) (vd := j.vd) (s.fillArbiters j b)
  refine ⟨bs, hbs, ?_⟩
  rw [← hbs, State.fillArbiters, Cmd.exec_each_cons, each_spend_listed (spotArbiters_ne hdie _ _ _), spend_listed, if_pos rfl]

/-- The cells of a cycle of a payload. -/
def Job.cycleCells (j : Job) (total n : Nat) : List Nat := (List.range n).filterMap fun k => if j.got + k < total then some (j.got + k) else none

theorem cycleCells_one {j : Job} {n : Nat} (hj : j.got = 0) (hn : 0 < n) : j.cycleCells 1 n = [0] := by
  obtain ⟨m, rfl⟩ := Nat.exists_eq_succ_of_ne_zero hn.ne'
  unfold Job.cycleCells
  rw [hj, List.range_succ_eq_map, List.filterMap_cons]
  simp

/-- A cell in the vault is written whole where the job may write it. -/
theorem writeCell_vault {u : State} {id n d a : Nat} {j : Job} {b : Tensor} {bs : List Byte} (hj : u.job? id = some j)
    (hin : b.inside n = true) (hspot : b.dataSpot n = .vault d a) (hstatus : j.status = 0)
    (hok : u.spotFails j (.vault d a) bs.length true = none) :
    ((writeCell id b n (bs, [])).exec u).bytes.vault = u.bytes.vault.write (vaultByte d a) bs := by
  simp only [writeCell, hin, Cmd.exec_when_true, Cmd.exec_seq, hspot, tryWrite, onJob, Cmd.exec_get, hj, hstatus, beq_self_eq_true, hok]
  rfl

/-- What follows a cycle of a payload: its end, or the next cycle. -/
def payloadGoesOn (id total n : Nat) (x : Job) : Cmd :=
  if x.status != 0 || total ≤ x.got + n then endPayload id
  else .seq (modJob id fun x => { x with got := x.got + n }) (after 1 (.jobPayloadDone id))

theorem payloadStep_exec {u : State} {id total n : Nat} {j x : Job} {move : List Nat → Cmd} (hj : u.job? id = some j)
    (hx : ((move (j.cycleCells total n)).exec u).job? id = some x) :
    (payloadStep id total n move).exec u = (payloadGoesOn id total n x).exec ((move (j.cycleCells total n)).exec u) := by
  unfold Job.cycleCells at hx
  simp only [payloadStep, Cmd.exec_get, hj, Cmd.exec_seq, hx, payloadGoesOn, Job.cycleCells]

/-- What a cycle of a FILL moves. -/
def fillStep (id : Nat) (j : Job) (b : Tensor) : Cmd :=
  payloadStep id b.cells b.perCycle (moveFill id b (field j.packet 48 8))

section
variable {s : State} {id : Nat} {j : Job} {b : Tensor} (hj : s.job? id = some j) (hkind : j.kind = .copy) (hrun : j.state = .running)
  (hsrc : j.src = none) (hdst : j.dst = some b) (hfill : field j.packet 0 1 = 4)
include hj hkind hrun hsrc hdst hfill

theorem exec_jobPayloadDone_fill : exec (.jobPayloadDone id) s = .next (
    (if (b.inVault && cSlotWait s.now != 0) = true then after (cSlotWait s.now) (.jobPayloadDone id)
      else if s.cellsWait j b true (j.fillCells b) = true then after 1 (.jobPayloadDone id)
      else gate j.vd (s.fillArbiters j b) (.jobPayloadDone id) (fillStep id j b)).exec s) := by
  change execJobPayloadDone id s = _
  simp only [execJobPayloadDone, hj, hkind, hrun, hsrc, hdst, hfill, Job.cycle, Job.inVault, State.payloadArbiters, bne_self_eq_false,
    Bool.false_eq_true, if_false, Option.any_none, Option.any_some, Bool.false_or, Cmd.next_eq]
  simp only [show ((4 : Nat) == 3) = false from rfl, Bool.false_and, Bool.or_false]
  rfl

theorem fill_waitsForSlot (hvault : b.inVault = true) (hslot : cSlotWait s.now ≠ 0) : Answers (.jobPayloadDone id) s fun t =>
    t.bytes = s.bytes ∧ t.eng = s.eng ∧ t.due (s.now + cSlotWait s.now) (.jobPayloadDone id) := by
  have hexec := exec_jobPayloadDone_fill hj hkind hrun hsrc hdst hfill
  rw [hvault, bne_iff_ne.2 hslot, Bool.and_self, if_pos rfl] at hexec
  exact ⟨_, hexec, rfl, rfl, after_due _ _ _⟩

variable (hslot : b.inVault = true → cSlotWait s.now = 0)
include hslot

theorem exec_fill_inSlot : exec (.jobPayloadDone id) s = .next (
    (if s.cellsWait j b true (j.fillCells b) = true then after 1 (.jobPayloadDone id)
      else gate j.vd (s.fillArbiters j b) (.jobPayloadDone id) (fillStep id j b)).exec s) := by
  rw [exec_jobPayloadDone_fill hj hkind hrun hsrc hdst hfill, if_neg]
  simpa using hslot

theorem fill_waitsForCredit (hpoor : ¬ ((s.credit (engineArbiter j.die) j.vd).left ≠ 0 ∧
      ∀ a ∈ s.spotArbiters j true (b.spots (j.fillCells b)), s.hasCredit a.1 j.vd = true)) :
    Answers (.jobPayloadDone id) s fun t => t.bytes = s.bytes ∧ t.eng = s.eng ∧ t.due (s.now + 1) (.jobPayloadDone id) := by
  have hexec := exec_fill_inSlot hj hkind hrun hsrc hdst hfill hslot
  split at hexec
  · exact ⟨_, hexec, rfl, rfl, after_due 1 _ _⟩
  · obtain ⟨a, ha⟩ : ∃ a, (s.fillArbiters j b).find? (fun (a, _) => !s.hasCredit a j.vd) = some a := by
      refine Option.isSome_iff_exists.1 (List.find?_isSome.2 ?_)
      by_contra hnone
      push Not at hnone
      refine hpoor ⟨?_, fun a ha => ?_⟩
      · simpa [State.hasCredit] using hnone _ List.mem_cons_self
      · simpa using hnone _ (List.mem_cons_of_mem _ ha)
    rw [gate, Cmd.exec_get, ha] at hexec
    exact ⟨_, hexec, rfl, rfl, after_due 1 _ _⟩

variable (hdie : j.die < 4) (hpaid : (s.credit (engineArbiter j.die) j.vd).left ≠ 0 ∧
  ∀ a ∈ s.spotArbiters j true (b.spots (j.fillCells b)), s.hasCredit a.1 j.vd = true) (hfree : s.cellsWait j b true (j.fillCells b) = false)
include hdie hpaid hfree

/-- On credit a cycle of a FILL moves its cells; the job's course is as before, and one credit of the engine is spent. -/
theorem exec_fill_moves : ∃ u v x, (∃ bs, u = { s with ten := { s.ten with buckets := bs } }) ∧
    v = (moveFill id b (field j.packet 48 8) (j.cycleCells b.cells b.perCycle)).exec u ∧
    exec (.jobPayloadDone id) s = .next ((payloadGoesOn id b.cells b.perCycle x).exec v) ∧ v.job? id = some x ∧ x.state = j.state ∧
      x.got = j.got ∧ v.now = s.now ∧ (v.credit (engineArbiter j.die) j.vd).left = (s.credit (engineArbiter j.die) j.vd).left - 1 := by
  obtain ⟨bs, hbs, hcredit⟩ := fillSpent (b := b) hdie s
  have hexec := exec_fill_inSlot hj hkind hrun hsrc hdst hfill hslot
  have hall : ∀ a ∈ s.fillArbiters j b, s.hasCredit a.1 j.vd = true :=
    List.forall_mem_cons.2 ⟨bne_iff_ne.2 hpaid.1, hpaid.2⟩
  rw [hfree, if_neg Bool.false_ne_true, exec_gate_of_credit hall, hbs] at hexec
  have hmove := moveFill_jobFrame (id := id) b (field j.packet 48 8) (j.cycleCells b.cells b.perCycle) { s with ten := { s.ten with buckets := bs } }
  obtain ⟨x, hx, hstate, hgot, -⟩ := hmove.course hj
  refine ⟨_, _, x, ⟨bs, rfl⟩, rfl, hexec.trans (congrArg Host.Outcome.next (payloadStep_exec hj hx)), hx, hstate, hgot, hmove.now, ?_⟩
  refine congrArg Credit.left (credit_of_listed (Eq.trans ?_ hcredit))
  rw [State.listed, hmove.buckets]
  rfl

theorem fill_goesOn (hmore : j.got + b.perCycle < b.cells) : Answers (.jobPayloadDone id) s fun t =>
    (t.credit (engineArbiter j.die) j.vd).left = (s.credit (engineArbiter j.die) j.vd).left - 1 ∧ ((t.job? id).map (·.status) = some 0 →
      (t.job? id).map (·.got) = some (j.got + b.perCycle) ∧ (t.job? id).map (·.state) = some .running ∧
        t.due (s.now + 1) (.jobPayloadDone id)) := by
  obtain ⟨u, v, x, -, -, hexec, hx, hstate, hgot, hnow, hcredit⟩ := exec_fill_moves hj hkind hrun hsrc hdst hfill hslot hdie hpaid hfree
  refine ⟨_, hexec, ?_⟩
  unfold payloadGoesOn
  split
  next hend =>
    refine ⟨hcredit, fun h => absurd hend ?_⟩
    have hstatus : x.status = 0 := by
      have hmod := (congrArg (Option.map Job.status) (modJob_job ..)).symm.trans h
      rw [hx] at hmod
      exact Option.some.inj hmod
    rw [hstatus, hgot]
    simp only [bne_self_eq_false, Bool.false_or, decide_eq_true_eq]
    omega
  · refine ⟨hcredit, fun _ => ⟨?_, ?_, hnow ▸ after_due 1 _ _⟩⟩
    · refine (congrArg (Option.map Job.got) (modJob_job ..)).trans ?_
      rw [hx, ← hgot]
      rfl
    · refine (congrArg (Option.map Job.state) (modJob_job ..)).trans ?_
      rw [hx, ← hrun, ← hstate]
      rfl

theorem fill_ends (hlast : b.cells ≤ j.got + b.perCycle) : Answers (.jobPayloadDone id) s fun t =>
    (t.credit (engineArbiter j.die) j.vd).left = (s.credit (engineArbiter j.die) j.vd).left - 1 ∧ (t.job? id).map (·.state) = some .finishing ∧
      t.due s.now (.jobStamp id) ∧
      (∀ d a, b.cells = 1 → j.got = 0 → b.inside 0 = true → b.dataSpot 0 = .vault d a → j.status = 0 →
        let cell := b.cellOf (field j.packet 48 8 % 2 ^ b.fmt.width)
        s.spotFails j (.vault d a) cell.length true = none → t.bytes.vault = s.bytes.vault.write (vaultByte d a) cell) := by
  obtain ⟨u, v, x, ⟨bs, hu⟩, hv, hexec, hx, hstate, hgot, hnow, hcredit⟩ :=
    exec_fill_moves hj hkind hrun hsrc hdst hfill hslot hdie hpaid hfree
  have hend : (x.status != 0 || decide (b.cells ≤ x.got + b.perCycle)) = true := by
    rw [hgot, decide_eq_true hlast, Bool.or_true]
  rw [payloadGoesOn, hend, if_pos rfl] at hexec
  refine ⟨_, hexec, hcredit, ?_, hnow ▸ after_due 0 _ _, ?_⟩
  · refine (congrArg (Option.map Job.state) (modJob_job ..)).trans ?_
    rw [hx]
    rfl
  · intro d a hone hzero hin hspot hstatus cell hok
    have hju : u.job? id = some j := by rw [hu]; exact hj
    have hoku : u.spotFails j (.vault d a) cell.length true = none := by rw [hu]; exact hok
    rw [hone, cycleCells_one hzero (show 0 < b.perCycle from Nat.lt_of_lt_of_le Nat.one_pos (Nat.le_max_left _ _))] at hv
    change v.bytes.vault = _
    rw [hv, moveFill, Cmd.exec_each_cons, Cmd.exec_each_nil, writeCell_vault hju hin hspot hstatus hoku, hu]

end

/-! ### The stamp and the record (R307, R327) -/

/-- A context's ring holds a record of a cause, a detail and an address. -/
def State.holdsRecord (s : State) (ctx cause detail : Nat) (addr : W64) : Prop :=
  ∃ r ∈ ((s.ctx? ctx).map (·.ring)).getD [], r.cause = cause ∧ r.detail = detail ∧ r.addr = addr

section
variable {ctx cause detail : Nat} {addr : W64}

/-- A record that a context's ring holds stays there. -/
def RecordStays (ctx cause detail : Nat) (addr : W64) (s t : State) : Prop :=
  s.holdsRecord ctx cause detail addr → t.holdsRecord ctx cause detail addr

theorem RecordStays.chains : Chains (RecordStays ctx cause detail addr) where
  refl _ h := h
  trans a b h := b (a h)

theorem Aside.recordStays {s t : State} (h : Aside id s t) : RecordStays ctx cause detail addr s t := fun ⟨r, hr, hsame⟩ =>
  ⟨r, by rwa [h.ctx_eq], hsame⟩

/-- A change of a context that keeps what its ring tells keeps its records. -/
theorem modCtx_recordStays {c : Nat} {f : Ctx → Ctx} (hf : ∀ x : Ctx, ∀ r ∈ x.ring, ∃ r' ∈ (f x).ring,
    r'.cause = r.cause ∧ r'.detail = r.detail ∧ r'.addr = r.addr) : (modCtx c f).Within (RecordStays ctx cause detail addr) := by
  rintro s ⟨r, hr, hcause, hdetail, haddr⟩
  by_cases hc : ctx = c
  · subst hc
    cases hx : s.ctx? ctx with
    | none => rw [hx] at hr; exact absurd hr List.not_mem_nil
    | some x =>
      rw [hx] at hr
      obtain ⟨r', hr', h1, h2, h3⟩ := hf x r hr
      refine ⟨r', ?_, h1.trans hcause, h2.trans hdetail, h3.trans haddr⟩
      rw [modCtx_ctx_self, hx]
      exact hr'
  · exact ⟨r, by rwa [modCtx_ctx_ne f s hc], hcause, hdetail, haddr⟩

theorem writeRecord_recordStays (r : FaultRec) : (writeRecord r).Within (RecordStays ctx cause detail addr) := fun s => by
  cases hc : s.ctx? r.ctx with
  | none =>
    simp only [writeRecord, Cmd.exec_get, hc]
    exact (svcPrim_aside _ s).recordStays
  | some c =>
    by_cases hroom : c.ring.length < 64
    · obtain ⟨notice, hn, -, he⟩ := writeRecord_room hc hroom
      rw [he]
      exact RecordStays.chains.trans (modCtx_recordStays (fun _ r hr => ⟨r, List.mem_append_left _ hr, rfl, rfl, rfl⟩) s) (hn _).recordStays
    · rw [writeRecord_full hc hroom]
      refine modCtx_recordStays (fun x n hn => ?_) s
      obtain ⟨k, hk, rfl⟩ := List.getElem_of_mem hn
      refine ⟨_, List.getElem_mem (by rwa [List.length_modify] : k < (x.ring.modify 63 _).length), ?_⟩
      rw [List.getElem_modify]
      split <;> exact ⟨rfl, rfl, rfl⟩

/-- A record that finds room in its context's ring stands there. -/
theorem writeRecord_holds {s : State} {r : FaultRec} {c : Ctx} (hc : s.ctx? r.ctx = some c) (hroom : c.ring.length < 64) :
    ((writeRecord r).exec s).holdsRecord r.ctx r.cause r.detail r.addr := by
  refine ⟨r, ?_, rfl, rfl, rfl⟩
  rw [writeRecord_ctx hc hroom]
  exact List.mem_append_right _ (List.mem_singleton_self r)

end

/-- The record of a job that failed (R307). -/
def recordStatus (j : Job) : Cmd := .when (j.status != 0) (.get fun t => writeRecord
  { t.engineRecord j.ctx j.die (if j.status = 1 then causeQueuefmt else causeEngine) j.addr j.status with
    vd := j.vd, vala := j.vala, valb := j.valb })

/-- The status word and the stamp of a job (R307). -/
def stampStatus (j : Job) : Cmd :=
  writeStamp j.die j.vd j.stamp.toNat (some (j.status + j.flags % 128 * 2 ^ 8 + j.bytes % 2 ^ 48 * 2 ^ 16)) j.sval.toNat j.pts
    (fun cause a => engFault j.ctx j.die cause a 0) (.when j.irq (sendInterrupt j.vd 1))

/-- Where the DONE word of a job's queue lies. -/
def State.doneAt (s : State) (j : Job) : Nat := match j.queue with | some q => s.descriptor j.vd q false + 32 | none => 0

/-- DONE of a job's queue goes up, and the job is counted. -/
def countDone (s : State) (j : Job) : Cmd := .seq
  (.when (j.queue.isSome) (.get fun t => .when ((t.engError j.die j.vd (s.doneAt j) 8 .write).isNone)
    (engWrite j.die j.vd (s.doneAt j) (leBytes (t.engNat j.die j.vd (s.doneAt j) 8 + 1) 8) j.pts fun _ => .skip)))
  (count j.die j.vd 0x61 1)

theorem recordStatus_device (j : Job) : (recordStatus j).Within DeviceFrame :=
  Cmd.within_when DeviceFrame.chains fun _ => Cmd.within_get fun s => writeRecord_device _ s

theorem countDone_write (s : State) (j : Job) : (countDone s j).Within WriteFrame := by
  have hR := WriteFrame.chains
  exact Cmd.within_seq hR (Cmd.within_when hR fun _ => Cmd.within_get fun t => Cmd.within_when hR (fun _ => engWrite_write _ _ _ _ _) t)
    (count_write _ _ _ _)

theorem stampStatus_device (j : Job) : (stampStatus j).Within DeviceFrame :=
  writeStamp_within DeviceFrame.chains (fun _ _ => WriteFrame.device) (fun _ _ => engFault_device _ _ _ _ _)
    (Cmd.within_when DeviceFrame.chains fun _ => sendInterrupt_device _ _)

theorem stampStatus_recordStays (j : Job) (ctx cause detail : Nat) (addr : W64) :
    (stampStatus j).Within (RecordStays ctx cause detail addr) :=
  writeStamp_within RecordStays.chains (fun _ _ h => h.recordStays) (fun _ _ s => writeRecord_recordStays _ s)
    (Cmd.within_when RecordStays.chains fun _ s => (sendInterrupt_aside _ _ s).recordStays)

/-- The job held back alone on its VD looks again. -/
theorem wakeJobs_due {u : State} {vd k : Nat} {x : Job} (hjobs : u.eng.jobs = [(k, x)]) (hvd : x.vd = vd) (hstate : x.state = .blocked)
    (hkind : x.kind = .copy) : ((wakeJobs vd).exec u).due u.now (.jobUnblock k) := by
  have hlaunches : ∀ v : State, Aside id v ((Cmd.each (u.ten.launches.filter fun (_, l) => l.vd == vd && l.state == .blocked) fun (id, _) =>
      after 0 (.launchUnblock id)).exec v) := Cmd.within_each (Aside.chains id) fun _ _ => after_aside _ _
  simp only [wakeJobs, Cmd.exec_get, Cmd.exec_all_cons, Cmd.exec_all_one, hjobs, List.filter_cons, hvd, hstate, beq_self_eq_true,
    Bool.and_self, if_true, List.filter_nil, Cmd.exec_each_cons, Cmd.exec_each_nil, hkind]
  exact (hlaunches _).agenda _ (after_due 0 _ _)

section
variable {s : State} {id : Nat} {j : Job} (hj : s.job? id = some j) (hkind : j.kind = .copy) (hstate : j.state = .finishing)
  (hgo : s.stampWaits j.die j.vd j.stamp.toNat true j.pts = false)
  (hdone : ∀ q, j.queue = some q → s.engWaits j.die j.vd (s.descriptor j.vd q false + 32) 8 (.store j.pts) = false)
include hj hkind hstate hgo hdone

theorem exec_jobStamp : exec (.jobStamp id) s = .next ((Cmd.all [recordStatus j, stampStatus j, countDone s j, dropJob id, wakeJobs j.vd,
    after 0 (.channelAssign j.die)]).exec s) := by
  change execJobStamp id s = _
  have hwait : (j.queue.isSome && s.engWaits j.die j.vd (s.doneAt j) 8 (.store j.pts)) = false := by
    unfold State.doneAt
    cases hq : j.queue with
    | none => rfl
    | some q => exact (Bool.true_and _).trans (hdone q hq)
  simp only [execJobStamp, hj, hkind, hstate, bne_self_eq_false, Bool.false_eq_true, if_false, Option.isSome_none, Option.isNone_none,
    Option.isSome_some, hgo, Bool.and_true, Cmd.next_eq]
  rw [if_neg ?wait]
  case wait => exact Bool.eq_false_iff.1 hwait
  rfl

theorem jobStamp_ends : Answers (.jobStamp id) s fun t => t.eng.jobs = s.eng.jobs.del id ∧ t.due s.now (.channelAssign j.die) ∧
    (∀ k x, s.eng.jobs.del id = [(k, x)] → x.vd = j.vd → x.state = .blocked → x.kind = .copy → t.due s.now (.jobUnblock k)) ∧
    (j.status ≠ 0 → ∀ c, s.ctx? j.ctx = some c → c.ring.length < 64 → ∃ rec ∈ ((t.ctx? j.ctx).map (·.ring)).getD [],
      rec.cause = (if j.status = 1 then 0x16 else 0x10) ∧ rec.detail = j.status ∧ rec.addr = j.addr) := by
  have hexec := exec_jobStamp hj hkind hstate hgo hdone
  let recorded := (recordStatus j).exec s
  let stamped := (stampStatus j).exec recorded
  let u := (countDone s j).exec stamped
  let dropped := (dropJob id).exec u
  have hrecord : DeviceFrame s recorded := recordStatus_device j s
  have hstamp : DeviceFrame recorded stamped := stampStatus_device j recorded
  have hcount : WriteFrame stamped u := countDone_write s j stamped
  have hwrites : DeviceFrame s u := DeviceFrame.chains.trans hrecord (DeviceFrame.chains.trans hstamp hcount.device)
  have hwake : WriteFrame dropped ((wakeJobs j.vd).exec dropped) := wakeJobs_write j.vd dropped
  have hjobs : dropped.eng.jobs = s.eng.jobs.del id := (congrArg (fun e : EngState => e.jobs.del id) hwrites.eng :)
  refine ⟨_, hexec, (congrArg EngState.jobs hwake.eng).trans hjobs, ?_, fun k x hlast hvd hx hcopy => ?_, fun hfail c hc hroom => ?_⟩
  · exact (hwake.now.trans hwrites.now) ▸ after_due 0 (.channelAssign j.die) ((wakeJobs j.vd).exec dropped)
  · have hdue := wakeJobs_due (u := dropped) (hjobs.trans hlast) hvd hx hcopy
    exact (after_aside 0 _ _).agenda _ (hwrites.now ▸ hdue)
  · have hholds : recorded.holdsRecord j.ctx (if j.status = 1 then causeQueuefmt else causeEngine) j.status j.addr := by
      have hput := writeRecord_holds (r := { s.engineRecord j.ctx j.die (if j.status = 1 then causeQueuefmt else causeEngine) j.addr j.status
        with vd := j.vd, vala := j.vala, valb := j.valb }) hc hroom
      simp only [recorded, recordStatus, bne_iff_ne.2 hfail, Cmd.exec_when_true, Cmd.exec_get]
      exact hput
    have hdropped : dropped.holdsRecord j.ctx (if j.status = 1 then causeQueuefmt else causeEngine) j.status j.addr :=
      hcount.recordStays (stampStatus_recordStays j _ _ _ _ recorded hholds)
    exact (after_aside 0 _ _).recordStays (hwake.recordStays hdropped)

end

theorem copyJobs : Claims.CopyJobs := by
  intro s id j hj hkind state
  refine ⟨fun hstate src dst ext decl => jobChecked_passes hj hkind hstate, fun hstate hstatus st a c => jobChecked_fails hj hkind hstate hstatus,
    jobUnblock_runs hj hkind, jobUnblock_held hj, fun b hrun hsrc hdst hfill => ?fill, jobStamp_ends hj hkind⟩
  case fill =>
    exact ⟨fill_waitsForSlot hj hkind hrun hsrc hdst hfill, fun hslot => fill_waitsForCredit hj hkind hrun hsrc hdst hfill hslot,
      fun hslot hdie hpaid hfree => fill_goesOn hj hkind hrun hsrc hdst hfill hslot hdie hpaid hfree,
      fun hslot hdie hpaid hfree => fill_ends hj hkind hrun hsrc hdst hfill hslot hdie hpaid hfree⟩

end Sys2Proof.Machine

/-! ## A TRANSFORM takes its tokens (R305, R315, R371)

The running TRANSFORM of an engine queue advances HEAD, lets reservations that wait have the slot, and writes the token, or fails on a
poison. -/

namespace Sys2Proof.Machine

/-! ### Grants leave the heads of queues alone (R313, R315) -/

/-- The engine queues of a context with their heads. -/
def Ctx.heads (c : Ctx) : List (Nat × Nat) := c.equeues.map fun i => (i.queue, i.head)

/-- Between two states the engines, all bytes and the heads of engine queues are the same. -/
structure GrantFrame (s t : State) : Prop extends Aside Ctx.heads s t where
  eng : t.eng = s.eng
  bytes : t.bytes = s.bytes

theorem GrantFrame.chains : Chains GrantFrame where
  refl s := ⟨(Aside.chains _).refl s, rfl, rfl⟩
  trans a b := ⟨(Aside.chains _).trans a.toAside b.toAside, b.eng.trans a.eng, b.bytes.trans a.bytes⟩

theorem qinst_head (s : State) (ctx q : Nat) : (s.qinst ctx q none).map QInst.head =
    ((s.ctx? ctx).map Ctx.heads).bind fun l => (l.find? fun x => x.1 == q).map Prod.snd := by
  unfold State.qinst
  cases s.ctx? ctx with
  | none => rfl
  | some c =>
    simp only [Option.map_some, Option.bind_some, Ctx.heads, List.find?_map, Option.map_map]
    rfl

/-- Engine queues are part of the contexts. -/
theorem qinst_of_ctxs {s t : State} (h : t.ten.ctxs = s.ten.ctxs) (ctx q : Nat) : t.qinst ctx q none = s.qinst ctx q none := by
  rw [State.qinst, State.ctx?, h]
  rfl

theorem GrantFrame.head {s t : State} (h : GrantFrame s t) (ctx q : Nat) :
    (t.qinst ctx q none).map QInst.head = (s.qinst ctx q none).map QInst.head := by rw [qinst_head, qinst_head, h.ctx]

theorem modQinst_grantFrame (ctx q : Nat) (rgn : Option Nat) {g : QInst → QInst} (hg : ∀ i, (g i).queue = i.queue ∧ (g i).head = i.head) :
    (modQinst ctx q rgn g).Within GrantFrame := by
  cases rgn with
  | some r => exact fun s => ⟨(modRegion_aside _ _ _ s).part _, rfl, rfl⟩
  | none =>
    refine fun s => ⟨modCtx_aside (fun c => ?_) s, rfl, rfl⟩
    simp only [Ctx.heads, List.map_map]
    refine congrArg (List.map · _) (funext fun i => ?_)
    rw [Function.comp_apply]
    split
    · rw [(hg i).1, (hg i).2]
    · rfl

theorem grantSlot_frame (n : Nat) (r : Reservation) (i : QInst) : (grantSlot n r i).Within GrantFrame := by
  have hR := GrantFrame.chains
  refine Cmd.within_get fun s => Cmd.within_seq hR (modQinst_grantFrame _ _ _ ?_)
    (Cmd.within_seq hR (fun u => ⟨(blocksPrim_aside _ u).part _, rfl, rfl⟩) fun u => ⟨(after_aside _ _ u).part _, rfl, rfl⟩) s
  exact fun _ => ⟨rfl, rfl⟩

theorem grantWaiting_frame (ctx q : Nat) (rgn : Option Nat) (fuel : Nat) : (grantWaiting ctx q rgn fuel).Within GrantFrame := by
  have hR := GrantFrame.chains
  induction fuel with
  | zero => exact Cmd.within_skip hR
  | succ fuel ih =>
    refine Cmd.within_get fun s => ?_
    split
    · exact hR.refl s
    · split
      · exact hR.refl s
      · split
        · exact hR.refl s
        · refine Cmd.within_seq hR ?_ ih s
          split
          · exact grantSlot_frame _ _ _
          · exact modQinst_grantFrame _ _ _ fun _ => ⟨rfl, rfl⟩

/-! ### A token (R305) -/

/-- What becomes of a token at a TRANSFORM. -/
def useToken (id : Nat) (b : Tensor) (got : Nat) : Val → Cmd
  | .null _ => .skip
  | .poison o => modJob id fun y => if y.status != 0 then y else { y with status := 5, vala := o }
  | v => Cmd.each (List.range b.perToken) fun m => onJob id fun _ _ => writeCell id b (got * b.perToken + m) (b.ofToken v.wide m)

theorem useToken_frame (id : Nat) (b : Tensor) (got : Nat) (v : Val) : (useToken id b got v).Within (JobFrame id) := by
  have hR := JobFrame.chains id
  have hput : ∀ w : W512, (Cmd.each (List.range b.perToken) fun m => onJob id fun _ _ =>
      writeCell id b (got * b.perToken + m) (b.ofToken w m)).Within (JobFrame id) := fun _ =>
    Cmd.within_each hR fun _ _ => onJob_within hR fun s _ => writeCell_jobFrame _ _ _ s
  cases v with
  | null _ => exact Cmd.within_skip hR
  | poison o => exact modJob_jobFrame fun y => by split <;> rfl
  | _ => exact hput _

/-- Those whose turn may have come look again. -/
def lookAgain (id ctx q : Nat) : Cmd := .seq
  (.get fun t => match t.job? id with
    | some y => .when (y.status != 0 || y.got = y.expected) (after 1 (.jobPayloadDone id))
    | none => .skip)
  (.get fun t => match t.qinst ctx q none with
    | some i => .when (i.ready 1) (after 1 (.engineQueueTakeUp id))
    | none => .skip)

theorem lookAgain_leaves (id ctx q : Nat) (s : State) : let t := (lookAgain id ctx q).exec s
    t.eng = s.eng ∧ t.ten = s.ten ∧ t.bytes = s.bytes := by
  have hR : Chains fun s t : State => t.eng = s.eng ∧ t.ten = s.ten ∧ t.bytes = s.bytes :=
    ⟨fun _ => ⟨rfl, rfl, rfl⟩, fun a b => ⟨b.1.trans a.1, b.2.1.trans a.2.1, b.2.2.trans a.2.2⟩⟩
  refine Cmd.within_seq hR (Cmd.within_get fun u => ?_) (Cmd.within_get fun u => ?_) s <;> split
  · exact Cmd.within_when hR (fun _ _ => ⟨rfl, rfl, rfl⟩) u
  · exact ⟨rfl, rfl, rfl⟩
  · exact Cmd.within_when hR (fun _ _ => ⟨rfl, rfl, rfl⟩) u
  · exact ⟨rfl, rfl, rfl⟩

/-- The head of an engine queue is taken. -/
def takeHead (ctx q depth : Nat) : Cmd := .seq (modQinst ctx q none fun i => i.advance 1) (grantWaiting ctx q none depth)

/-- The job has one token more. -/
def countToken (id : Nat) : Cmd := modJob id fun y => { y with got := min (y.got + 1) y.expected }

theorem takeHead_leaves {s : State} {ctx q : Nat} {i : QInst} (hi : s.qinst ctx q none = some i) (depth : Nat) :
    let t := (takeHead ctx q depth).exec s
    t.eng = s.eng ∧ t.bytes = s.bytes ∧ (t.qinst ctx q none).map QInst.head = some ((i.head + 1) % 2 ^ 32) := by
  have hgrant := grantWaiting_frame ctx q none depth ((modQinst ctx q none fun i => i.advance 1).exec s)
  refine ⟨hgrant.eng, hgrant.bytes, (hgrant.head ctx q).trans ?_⟩
  rw [modQinst_qinst (g := fun i => i.advance 1) (fun _ => rfl), hi]
  rfl

section
variable {s : State} {id q : Nat} {j : Job} {b : Tensor} {i : QInst}

theorem exec_engineQueueTakeUp (hjobs : s.eng.jobs = [(id, j)]) (hkind : j.kind = .copy) (hrun : j.state = .running) (htarget : j.target = 64 + q)
    (hdst : j.dst = some b) (hslot : b.inVault = true → cSlotWait s.now = 0) (hmore : j.got < j.expected) (hi : s.qinst j.ctx q none = some i)
    (hready : i.ready 1 = true)
    (hcredit : ∀ a ∈ s.spotArbiters j true (b.spots ((List.range b.perToken).map (j.got * b.perToken + ·))), s.hasCredit a.1 j.vd = true) :
    ∃ bs, exec (.engineQueueTakeUp id) s = .next ((Cmd.all [takeHead j.ctx q i.depth,
      useToken id b j.got ((i.slot (i.head % i.depth)).val?.getD (.null true)), countToken id, lookAgain id j.ctx q]).exec
        { s with ten := { s.ten with buckets := bs } }) := by
  obtain ⟨bs, hbs⟩ := each_spend_exec (s := s) (vd := j.vd)
    (s.spotArbiters j true (b.spots ((List.range b.perToken).map (j.got * b.perToken + ·))))
  have hj : s.job? id = some j := by
    rw [State.job?, hjobs]
    exact if_pos rfl
  refine ⟨bs, ?_⟩
  rw [← hbs, ← exec_gate_of_credit (retry := .engineQueueTakeUp id) hcredit]
  change execEngineQueueTakeUp id s = _
  have hvault : (b.inVault && cSlotWait s.now != 0) = false := by
    cases h : b.inVault
    · rfl
    · simp [hslot h]
  simp only [execEngineQueueTakeUp, hj, htarget, Nat.add_sub_cancel_left, hjobs, List.filter_cons, List.filter_nil, beq_self_eq_true, hrun, hkind, Bool.and_self, if_true,
    List.find?_cons, decide_eq_true hmore, hi, hdst, hready, bne_self_eq_false, Bool.not_true, hvault,
    Nat.not_le.2 hmore, Nat.not_lt.2 (Nat.le_add_right 64 q), decide_false, Bool.or_self, Bool.false_eq_true, if_false, Cmd.next_eq]
  rw [exec_gate_of_credit hcredit, exec_gate_of_credit hcredit]
  cases (i.slot (i.head % i.depth)).val?.getD (Val.null true) <;> rfl

end

theorem transformTakesTokens : Claims.TransformTakesTokens := by
  intro s id q j b i hjobs hkind hrun htarget hdst hslot hmore hi hready _ hcredit
  obtain ⟨bs, hexec⟩ := exec_engineQueueTakeUp hjobs hkind hrun htarget hdst hslot hmore hi hready hcredit
  have hj : s.job? id = some j := by
    rw [State.job?, hjobs]
    exact if_pos rfl
  let token := (i.slot (i.head % i.depth)).val?.getD (.null true)
  obtain ⟨heng, hbytes, hhead⟩ := takeHead_leaves (s := { s with ten := { s.ten with buckets := bs } }) (ctx := j.ctx) (q := q) hi i.depth
  let u := (takeHead j.ctx q i.depth).exec { s with ten := { s.ten with buckets := bs } }
  change u.eng = s.eng at heng
  have hju : u.job? id = some j := by
    rw [State.job?, heng]
    exact hj
  let v := (useToken id b j.got token).exec u
  obtain ⟨x, hx, -, hgot, hexp⟩ := (useToken_frame id b j.got token u).course hju
  obtain ⟨hleng, hlten, hlbytes⟩ := lookAgain_leaves id j.ctx q ((countToken id).exec v)
  have hcount : ((lookAgain id j.ctx q).exec ((countToken id).exec v)).job? id = some { x with got := min (x.got + 1) x.expected } := by
    rw [State.job?, hleng]
    refine (modJob_job ..).trans ?_
    rw [hx]
    rfl
  refine ⟨_, hexec, ?_, ?_, fun o ho hstatus => ?_, fun n hn => ?_⟩
  · refine (congrArg (Option.map Job.got) hcount).trans ?_
    rw [Option.map_some, hgot, hexp, Nat.min_eq_left hmore]
  · refine (congrArg (Option.map QInst.head) (qinst_of_ctxs ?_ j.ctx q)).trans hhead
    exact (congrArg TenState.ctxs hlten).trans (useToken_frame id b j.got token u).ctxs
  · have htoken : token = .poison o := by simp only [token, ho, QSlot.val?, Option.getD_some]
    have hv : v = (useToken id b j.got (.poison o)).exec u := by rw [← htoken]
    refine ⟨?_, ?_⟩
    · have hpoison : v.job? id = some { j with status := 5, vala := o } := by
        rw [hv]
        refine (modJob_job ..).trans ?_
        rw [hju, Option.map_some, hstatus]
        rfl
      obtain rfl := Option.some.inj (hx.symm.trans hpoison)
      exact congrArg (Option.map fun x : Job => (x.status, x.vala)) hcount
    · exact hlbytes.trans ((congrArg State.bytes hv).trans hbytes)
  · have htoken : token = .null n := by simp only [token, hn, QSlot.val?, Option.getD_some]
    have hv : v = u := by
      change (useToken id b j.got token).exec u = u
      rw [htoken]
      rfl
    obtain rfl := Option.some.inj (hx.symm.trans ((congrArg (State.job? · id) hv).trans hju))
    exact ⟨hlbytes.trans ((congrArg State.bytes hv).trans hbytes), congrArg (Option.map Job.status) hcount⟩

/-- Settles O32: queues are taken up in order, jobs check, wait, run and stamp, and a TRANSFORM takes its tokens. -/
theorem copyEngine : Obligations.CopyEngine := ⟨copyQueues, copyJobs, transformTakesTokens⟩

end Sys2Proof.Machine

/-! ## Matrix unit halves (R289, R290, R292)

What a command does to a half, and what it leaves alone. -/

namespace Sys2Proof.Machine

/-! ### Halves -/

section
variable {s : State} {key : Nat}

@[simp] theorem modHalf_half_self (key : Nat) (f : MxHalf → MxHalf) (s : State) : ((modHalf key f).exec s).half key = f (s.half key) :=
  Tbl.getD_set_self ..

theorem modHalf_half_ne {k key : Nat} (f : MxHalf → MxHalf) (s : State) (h : k ≠ key) : ((modHalf key f).exec s).half k = s.half k := by
  unfold State.half
  exact Tbl.getD_set_ne _ _ _ h

theorem half_of_eng {t : State} (h : t.eng = s.eng) (key : Nat) : t.half key = s.half key := by rw [State.half, h]; rfl

@[simp] theorem after_half (n : Nat) (i : Instr) (s : State) (key : Nat) : ((after n i).exec s).half key = s.half key := rfl

@[simp] theorem mxLook_half (k : Nat) (s : State) (key : Nat) : ((mxLook k).exec s).half key = s.half key := by
  simp only [mxLook, Cmd.exec_get]
  cases s.isDue (.mxEntryStart k) <;> rfl

/-- A half with one of its banks changed. -/
def MxHalf.onBank (h : MxHalf) (b : Bool) (f : WBank → WBank) : MxHalf := { h with banks := h.banks.modify (if b then 1 else 0) f }

/-- A half with an entry changed. -/
def MxHalf.onEntry (h : MxHalf) (id : Nat) (f : MxEntry → MxEntry) : MxHalf :=
  { h with inbox := h.inbox.map fun x => if x.serial = id then f x else x }

/-- A half that an entry leaves. -/
def MxHalf.leave (h : MxHalf) (e : MxEntry) : MxHalf := { h with
  inbox := h.inbox.map fun x => if x.serial = e.serial then { x with left := true } else x
  load := if h.load = some e.serial then none else h.load
  stream := if h.stream = some e.serial then none else h.stream
  drain := if h.drain = some e.serial then none else h.drain }

@[simp] theorem modBank_half_self (key : Nat) (b : Bool) (f : WBank → WBank) (s : State) :
    ((modBank key b f).exec s).half key = (s.half key).onBank b f := modHalf_half_self ..

@[simp] theorem modEntry_half_self (key id : Nat) (f : MxEntry → MxEntry) (s : State) :
    ((modEntry key id f).exec s).half key = (s.half key).onEntry id f := modHalf_half_self ..

@[simp] theorem mxLeave_half (key : Nat) (e : MxEntry) (s : State) : ((mxLeave key e).exec s).half key = (s.half key).leave e := by
  rw [mxLeave, Cmd.exec_all_cons, Cmd.exec_all_one, mxLook_half, modHalf_half_self]
  rfl

/-- A bank of a half, once changed. -/
theorem MxHalf.onBank_bank {h : MxHalf} (hlen : h.banks.length = 2) (b : Bool) (f : WBank → WBank) : (h.onBank b f).bank b = f (h.bank b) := by
  have hb : (if b then 1 else 0) < h.banks.length := by cases b <;> simp [hlen]
  simp only [onBank, bank, List.getD_eq_getElem?_getD, List.getElem?_modify, if_true, List.getElem?_eq_getElem hb]
  rfl

theorem modHalf_quiet (key : Nat) (f : MxHalf → MxHalf) : (modHalf key f).Within QuietFrame := fun _ =>
  ⟨⟨rfl, rfl, fun _ => rfl, fun _ h => h⟩, rfl⟩

theorem mxLook_quiet (key : Nat) : (mxLook key).Within QuietFrame :=
  Cmd.within_get fun s => Cmd.within_when QuietFrame.chains (fun _ => after_quiet _ _) s

theorem mxLeave_quiet (key : Nat) (e : MxEntry) : (mxLeave key e).Within QuietFrame :=
  Cmd.within_seq QuietFrame.chains (modHalf_quiet _ _) (mxLook_quiet _)

/-- The entries of a half are looked at, now or as is due already. -/
theorem mxLook_due (key : Nat) (s : State) : ∃ n, ((mxLook key).exec s).due n (.mxEntryStart key) := by
  simp only [mxLook, Cmd.exec_get]
  cases h : s.isDue (.mxEntryStart key) with
  | false => exact ⟨_, after_due 0 _ s⟩
  | true =>
    obtain ⟨⟨n, task⟩, hmem, htask⟩ := List.any_eq_true.1 h
    cases task with
    | ev i => exact ⟨n, beq_iff_eq.1 htask ▸ hmem⟩
    | _ => exact absurd htask nofun

end

/-! ### A packet arrives (R204, R289) -/

section
variable {s : State} {die unit : Nat} {t : Token} {rest : List Token} {id : Nat} {o : MemOp}

theorem leNat_lt (bs : List Byte) : leNat bs < 2 ^ (8 * bs.length) := by
  induction bs with
  | nil => decide
  | cons b bs ih =>
    have hb := b.isLt
    rw [List.length_cons, Nat.mul_succ, Nat.pow_add, leNat]
    omega

theorem field_lt (bs : List Byte) (off n : Nat) : field bs off n < 2 ^ (8 * n) :=
  Nat.lt_of_lt_of_le (leNat_lt _) (Nat.pow_le_pow_right (by decide) (Nat.mul_le_mul_left 8 (List.length_take_le ..)))

theorem ofCode_code (n : Nat) : (Ty.ofCode (n % 16)).code.toNat = n % 16 := by
  have h : ∀ k : Fin 16, (Ty.ofCode k).code.toNat = k := by decide
  exact h ⟨n % 16, Nat.mod_lt _ (by decide)⟩

theorem Aside.edge {α : Type} {g : Ctx → α} {s t : State} (h : Aside g s t) (k : Nat) : t.edge k = s.edge k := by
  rw [State.edge, h.fab]
  rfl

/-- The request that a packet is for. -/
structure PacketOf (s : State) (half die id : Nat) (o : MemOp) (t : Token) : Prop where
  ops : s.mem.ops = [(id, o)]
  kind : (∃ f, o.i = .mxw f) ∨ (∃ f, o.i = .mxa f) ∨ ∃ f, o.i = .mxd f
  phase : o.phase = .sent
  x : xOf o.f.sid = t.sx
  y : yOf o.f.sid = t.sy
  die : dieOf o.f.sid = die
  frm : o.f.frm = t.frm
  node : o.f.node = t.node
  tag : o.f.tag = t.tag
  new : ∀ x ∈ (s.half half).inbox, x.memop ≠ id
  sound : ∀ w, t.val ≠ .poison w

theorem exec_mxPacketArrive (hunit : unit < 64) (hsplit : (s.mxOwn (64 * die + unit)).split = false)
    (hedge : s.edge (edgeKey die (2 * (unit % 32)) (decide (32 ≤ unit))) = t :: rest)
    (hroom : (s.half (128 * die + 2 * unit)).waiting.length < 32) (hp : PacketOf s (128 * die + 2 * unit) die id o t)
    (hop : field (leBytes t.val.wide.toNat 64) 0 1 ≠ 4) :
    let p := leBytes t.val.wide.toNat 64
    ∃ e : MxEntry, exec (.mxPacketArrive die (2 * (unit % 32)) (decide (32 ≤ unit))) s = .next ((Cmd.all [
        modHalf (128 * die + 2 * unit) fun h => { h with inbox := h.inbox ++ [e] }, acceptOp id, mxLook (128 * die + 2 * unit)]).exec
          (Prim.takeSerial.run ((setEdge (edgeKey die (2 * (unit % 32)) (decide (32 ≤ unit))) rest).exec s))) ∧
      e.memop = id ∧ e.op = field p 0 1 ∧ e.ty = Ty.ofCode (field p 1 1 % 16) ∧ e.sub = field p 3 1 ∧
      e.ctrl = BitVec.ofNat 64 (field p 16 8) ∧ e.tag = BitVec.ofNat 64 (field p 24 8) ∧ e.ctx = field p 40 2 ∧
      e.started = false ∧ e.left = false ∧ e.rows = 0 := by
  intro p
  obtain ⟨hops, hkind, hphase, hx, hy, hdie, hfrm, hnode, htag, hnew, hsound⟩ := hp
  have hu : 2 * (unit % 32) / 2 + (if decide (32 ≤ unit) = true then 32 else 0) = unit := by
    by_cases h : 32 ≤ unit <;> simp only [h, decide_true, decide_false, if_true, Bool.false_eq_true, if_false] <;> omega
  have hfresh : ((s.half (128 * die + 2 * unit)).inbox.any fun x => x.memop == id) = false :=
    List.any_eq_false.2 fun x hx => by simpa using hnew x hx
  suffices hexec : ∃ e : MxEntry, execMxPacketArrive die (2 * (unit % 32)) (decide (32 ≤ unit)) s = _ ∧ _ from hexec
  simp only [execMxPacketArrive, hedge, hu, hsplit, Bool.false_and, Bool.false_eq_true, if_false, Nat.add_zero, Nat.not_le.2 hroom, hops,
    List.find?_cons, hphase, hx, hy, hdie, hfrm, hnode, htag, hfresh, beq_self_eq_true, Bool.and_true, Bool.not_false]
  rcases hkind with ⟨f, hi⟩ | ⟨f, hi⟩ | ⟨f, hi⟩ <;> simp only [hi, decide_eq_false hop, Bool.false_and, Bool.false_eq_true, if_false] <;>
    exact ⟨_, rfl, rfl, rfl, rfl, rfl, rfl, rfl, rfl, rfl, rfl, rfl⟩

theorem acceptOp_quiet (id : Nat) : (acceptOp id).Within QuietFrame := Cmd.within_get fun s => by
  have hR := QuietFrame.chains
  split
  · exact hR.refl s
  · refine Cmd.within_when hR (fun _ => Cmd.within_seq hR (Cmd.within_when hR fun _ => Cmd.within_seq hR (modOp_quiet _ _)
      (Cmd.within_seq hR (fun u => ⟨modRegion_aside _ _ _ u, rfl⟩) (after_quiet _ _))) (finishOp_quiet id)) s

theorem mxPacket_enters (hunit : unit < 64) (hsplit : (s.mxOwn (64 * die + unit)).split = false)
    (hedge : s.edge (edgeKey die (2 * (unit % 32)) (decide (32 ≤ unit))) = t :: rest)
    (hroom : (s.half (128 * die + 2 * unit)).waiting.length < 32) (hp : PacketOf s (128 * die + 2 * unit) die id o t) :
    let p := leBytes t.val.wide.toNat 64
    field p 0 1 ≠ 4 →
    Answers (.mxPacketArrive die (2 * (unit % 32)) (decide (32 ≤ unit))) s fun u =>
      u.edge (edgeKey die (2 * (unit % 32)) (decide (32 ≤ unit))) = rest ∧ (∃ n, u.due n (.mxEntryStart (128 * die + 2 * unit))) ∧
      ∃ e, (u.half (128 * die + 2 * unit)).inbox = (s.half (128 * die + 2 * unit)).inbox ++ [e] ∧ e.memop = id ∧ e.op = field p 0 1 ∧
        e.ty.code.toNat = field p 1 1 % 16 ∧ e.sub = field p 3 1 ∧ e.ctrl.toNat = field p 16 8 ∧ e.tag.toNat = field p 24 8 ∧
        e.ctx = field p 40 2 ∧ e.started = false ∧ e.left = false ∧ e.rows = 0 := by
  intro p hop
  obtain ⟨e, hexec, hmem, hope, hty, hsub, hctrl, htag, hctx, hstart, hleft, hrows⟩ := exec_mxPacketArrive hunit hsplit hedge hroom hp hop
  have h8 : ∀ off, (BitVec.ofNat 64 (field p off 8)).toNat = field p off 8 := fun off => by
    rw [BitVec.toNat_ofNat, Nat.mod_eq_of_lt (field_lt p off 8)]
  let w := (modHalf (128 * die + 2 * unit) fun h => { h with inbox := h.inbox ++ [e] }).exec
    (Prim.takeSerial.run ((setEdge (edgeKey die (2 * (unit % 32)) (decide (32 ≤ unit))) rest).exec s))
  have hquiet : QuietFrame w ((acceptOp id).exec w) := acceptOp_quiet id w
  have hlook := mxLook_quiet (128 * die + 2 * unit) ((acceptOp id).exec w)
  refine ⟨_, hexec, ?_, mxLook_due .., e, ?_, hmem, hope, hty ▸ ofCode_code _, hsub, hctrl ▸ h8 _, htag ▸ h8 _, hctx, hstart, hleft, hrows⟩
  · exact (hlook.toAside.edge _).trans ((hquiet.toAside.edge _).trans (Tbl.getD_set_self ..))
  · exact congrArg MxHalf.inbox ((mxLook_half ..).trans ((half_of_eng (acceptOp_send id w).eng _).trans (modHalf_half_self ..)))

end

/-! ### Entries start (R289 to R293) -/

/-- The oldest entry that can start on a free path does. -/
def startPath (half : Nat) (busy : MxHalf → Option Nat) (p : MxPath) : Cmd := .get fun t =>
  match busy (t.half half), (t.half half).next p with
  | none, some e => mxStart half e
  | _, _ => .skip

/-- An entry in progress from a cycle on. -/
def MxEntry.begun (e : MxEntry) (now : Nat) : MxEntry := { e with started := true, startAt := now }

/-- An entry takes its path in its half. -/
def takePath (half : Nat) (e : MxEntry) (now : Nat) (f : MxHalf → MxHalf) : Cmd :=
  .seq (modEntry half e.serial fun _ => e.begun now) (modHalf half f)

section
variable {s : State} {half : Nat} {e : MxEntry}

theorem exec_mxEntryStart (half : Nat) (s : State) : exec (.mxEntryStart half) s = .next ((startPath half (·.drain) .drain).exec
    ((startPath half (·.stream) .stream).exec ((startPath half (·.load) .load).exec s))) := rfl

theorem startPath_busy {busy : MxHalf → Option Nat} {p : MxPath} (h : (busy (s.half half)).isSome = true) :
    (startPath half busy p).exec s = s := by
  obtain ⟨n, hn⟩ := Option.isSome_iff_exists.1 h
  simp only [startPath, Cmd.exec_get, hn]
  rfl

theorem startPath_free {busy : MxHalf → Option Nat} {p : MxPath} (h : busy (s.half half) = none) (hnext : (s.half half).next p = some e) :
    (startPath half busy p).exec s = (mxStart half e).exec s := by
  simp only [startPath, Cmd.exec_get, h, hnext]

/-- No row of a stream is due within 8 cycles of its start (R293). -/
theorem rowDue_start (k : Nat) (ty : Ty) (now : Nat) : now + 8 ≤ rowDue (e.begun now) k ty 0 := by
  have hzero : 0 / (issuePace e.ty ty).1 * (issuePace e.ty ty).2 = 0 := by rw [Nat.zero_div, Nat.zero_mul]
  change now + 8 ≤ now + max (8 + 0 / (issuePace e.ty ty).1 * (issuePace e.ty ty).2) _
  rw [hzero]
  exact Nat.add_le_add_left (Nat.le_max_left ..) now

theorem takePath_half (f : MxHalf → MxHalf) :
    ((takePath half e s.now f).exec s).half half = f ((s.half half).onEntry e.serial fun _ => e.begun s.now) :=
  (modHalf_half_self ..).trans (congrArg f (modHalf_half_self ..))

/-- A half one of whose entries has taken a path and changed a bank. -/
theorem pathBank_half (f : MxHalf → MxHalf) (g : WBank → WBank) (n : Nat) (i : Instr) :
    ((Cmd.all [takePath half e s.now f, modBank half e.bank g, after n i]).exec s).half half =
      (f ((s.half half).onEntry e.serial fun _ => e.begun s.now)).onBank e.bank g :=
  (modBank_half_self ..).trans (congrArg (·.onBank e.bank g) (takePath_half f))

section
variable (hcheck : s.mxCheck half e = 0)
include hcheck

theorem mxStart_load (hop : e.op = 1) : (mxStart half e).exec s = (Cmd.all [
    takePath half e s.now fun h => { h with load := some e.serial },
    modBank half e.bank fun b => { b with loading := true, tile := none, ctx := e.ctx },
    after (loadCycles e (s.mxK half)) (.mxwLatch half)]).exec s := by
  simp only [mxStart, Cmd.exec_get, hcheck, hop, takePath, MxEntry.begun]
  rfl

theorem mxStart_drain (hop : e.op = 3) : (mxStart half e).exec s = (Cmd.seq
    (takePath half e s.now fun h => { h with
      drain := some e.serial
      ocleared := if e.ctrl.getLsbD 19 then h.ocleared.set (bankNo e.bank) true else h.ocleared })
    (after 4 (.mxdRowDrain half))).exec s := by
  simp only [mxStart, Cmd.exec_get, hcheck, hop, takePath, MxEntry.begun]

theorem mxStart_stream (hop : e.op = 2) : ∃ ty f, (∀ h, (f h).stream = some e.serial ∧ (f h).drain = h.drain ∧ (f h).banks = h.banks) ∧
    (mxStart half e).exec s = (Cmd.all [takePath half e s.now f, modBank half e.bank fun w => { w with ref := w.ref + e.m },
      after (rowDue (e.begun s.now) (s.mxK half) ty 0 - s.now) (.mxaRowIssue half)]).exec s := by
  simp only [mxStart, Cmd.exec_get, hcheck, hop, takePath, MxEntry.begun]
  refine ⟨_, _, ?_, rfl⟩
  exact fun _ => ⟨rfl, rfl, rfl⟩

theorem mxEntry_loads (hfree : (s.half half).load = none) (hnext : (s.half half).next .load = some e)
    (hstream : (s.half half).stream.isSome = true) (hdrain : (s.half half).drain.isSome = true) (hop : e.op = 1) :
    Answers (.mxEntryStart half) s fun t => (t.half half).load = some e.serial ∧
      t.due (s.now + loadCycles e (s.mxK half)) (.mxwLatch half) := by
  have hexec := exec_mxEntryStart half s
  rw [startPath_free (busy := (·.load)) hfree hnext, mxStart_load hcheck hop] at hexec
  have hhalf := fun f g => pathBank_half (s := s) (e := e) (half := half) f g (loadCycles e (s.mxK half)) (.mxwLatch half)
  rw [startPath_busy (busy := (·.stream)) (by rw [hhalf]; exact hstream),
    startPath_busy (busy := (·.drain)) (by rw [hhalf]; exact hdrain)] at hexec
  exact ⟨_, hexec, congrArg MxHalf.load (hhalf ..), after_due _ _ _⟩

theorem mxEntry_streams (hlen : (s.half half).banks.length = 2) (hfree : (s.half half).stream = none)
    (hnext : (s.half half).next .stream = some e) (hload : (s.half half).load.isSome = true)
    (hdrain : (s.half half).drain.isSome = true) (hop : e.op = 2) :
    Answers (.mxEntryStart half) s fun t => (t.half half).stream = some e.serial ∧
      ((t.half half).bank e.bank).ref = ((s.half half).bank e.bank).ref + e.m ∧ ∃ n, s.now + 8 ≤ n ∧ t.due n (.mxaRowIssue half) := by
  have hexec := exec_mxEntryStart half s
  obtain ⟨ty, f, hf, hstart⟩ := mxStart_stream hcheck hop
  obtain ⟨hfstream, hfdrain, hfbanks⟩ := hf ((s.half half).onEntry e.serial fun _ => e.begun s.now)
  rw [startPath_busy (busy := (·.load)) hload, startPath_free (busy := (·.stream)) hfree hnext, hstart] at hexec
  have hhalf := fun g => pathBank_half (s := s) (e := e) (half := half) f g (rowDue (e.begun s.now) (s.mxK half) ty 0 - s.now) (.mxaRowIssue half)
  rw [startPath_busy (busy := (·.drain)) (by rw [hhalf]; exact hfdrain ▸ hdrain)] at hexec
  have hdue : s.now + 8 ≤ rowDue (e.begun s.now) (s.mxK half) ty 0 := rowDue_start ..
  refine ⟨_, hexec, (congrArg MxHalf.stream (hhalf _)).trans hfstream, ?_, _, ?_, after_due _ _ _⟩
  · refine (congrArg (fun h => (MxHalf.bank h e.bank).ref) (hhalf _)).trans ?_
    rw [MxHalf.onBank_bank (by rw [hfbanks]; exact hlen)]
    change ((f _).bank e.bank).ref + e.m = _
    rw [MxHalf.bank, hfbanks]
    rfl
  · change s.now + 8 ≤ s.now + (rowDue (e.begun s.now) (s.mxK half) ty 0 - s.now)
    omega

theorem mxEntry_drains (hfree : (s.half half).drain = none)
    (hnext : (s.half half).next .drain = some e) (hload : (s.half half).load.isSome = true)
    (hstream : (s.half half).stream.isSome = true) (hop : e.op = 3) :
    Answers (.mxEntryStart half) s fun t => (t.half half).drain = some e.serial ∧ t.due (s.now + 4) (.mxdRowDrain half) := by
  have hexec := exec_mxEntryStart half s
  rw [startPath_busy (busy := (·.load)) hload, startPath_busy (busy := (·.stream)) hstream, startPath_free (busy := (·.drain)) hfree hnext,
    mxStart_drain hcheck hop] at hexec
  have hhalf : ∀ f i, ((Cmd.seq (takePath half e s.now f) (after 4 i)).exec s).half half =
      f ((s.half half).onEntry e.serial fun _ => e.begun s.now) := fun f _ => takePath_half f
  exact ⟨_, hexec, congrArg MxHalf.drain (hhalf _ _), after_due 4 _ _⟩

end

end

/-! ### A bank latches its tile (R206, R292) -/

theorem mxw_latches {s : State} {half : Nat} {e : MxEntry} (hlen : (s.half half).banks.length = 2)
    (he : (s.half half).load.bind (s.half half).entry? = some e) (hdue : e.startAt + loadCycles e (s.mxK half) ≤ s.now)
    (hd : s.vaultBad (half / 128) e.arga.toNat (128 * mxBytes e.ty (s.mxK half)) = false)
    (hs : s.vaultBad (half / 128) e.argb.toNat (128 * mxScaleBytes e.ty (s.mxK half)) = false) :
    Answers (.mxwLatch half) s fun t => ((t.half half).bank e.bank).tile =
        some ⟨e.ty, e.tag, s.vaultRead (half / 128) e.arga.toNat (128 * mxBytes e.ty (s.mxK half)),
          s.vaultRead (half / 128) e.argb.toNat (128 * mxScaleBytes e.ty (s.mxK half))⟩ ∧
      ((t.half half).bank e.bank).loading = false ∧ t.due s.now (.mxReply half e.serial) := by
  let f : WBank → WBank := fun b => { b with
    loading := false
    tile := some ⟨e.ty, e.tag, s.vaultRead (half / 128) e.arga.toNat (128 * mxBytes e.ty (s.mxK half)),
      s.vaultRead (half / 128) e.argb.toNat (128 * mxScaleBytes e.ty (s.mxK half))⟩ }
  have hexec : exec (.mxwLatch half) s = .next ((Cmd.all [modBank half e.bank f, mxLeave half e, after 0 (.mxReply half e.serial)]).exec s) := by
    suffices h : execMxwLatch half s = _ from h
    simp only [execMxwLatch, he, Nat.not_lt.2 hdue, hd, hs, Bool.and_false, Bool.or_false, Bool.false_eq_true, if_false]
    rfl
  have hbank : (((Cmd.all [modBank half e.bank f, mxLeave half e, after 0 (.mxReply half e.serial)]).exec s).half half).bank e.bank =
      f ((s.half half).bank e.bank) := by
    refine (congrArg (·.bank e.bank) ((mxLeave_half ..).trans (congrArg (·.leave e) (modBank_half_self ..)))).trans ?_
    exact MxHalf.onBank_bank hlen e.bank f
  have hnow : ((mxLeave half e).exec ((modBank half e.bank f).exec s)).now = s.now := (mxLeave_quiet half e _).toAside.now
  exact ⟨_, hexec, congrArg WBank.tile hbank, congrArg WBank.loading hbank, hnow ▸ after_due 0 _ _⟩

theorem matrixLoads : Claims.MatrixLoads := by
  rintro s half _ rfl hlen
  refine ⟨?_, fun e hcheck => ⟨mxEntry_loads hcheck, mxEntry_streams hcheck hlen, mxEntry_drains hcheck⟩, fun e he hdue => ?_⟩
  · rintro die unit _ t rest rfl hunit rfl hsplit hedge hroom id o hops ⟨f, hkind⟩ hphase hx hy hdie hfrm hnode htag hnew hsound
    exact mxPacket_enters hunit hsplit hedge hroom
      ⟨hops, hkind.imp (⟨f, ·⟩) (.imp (⟨f, ·⟩) (⟨f, ·⟩)), hphase, hx, hy, hdie, hfrm, hnode, htag, hnew, hsound⟩
  · exact mxw_latches hlen he hdue

end Sys2Proof.Machine

/-! ## Matrix unit streams (R70, R207, R290, R293, R294)

Rows issue as wavefronts, which pass the last row of the unit and then accumulate. -/

namespace Sys2Proof.Machine

/-! ### Rows issue (R207, R293) -/

/-- A bank of an entry's rows in the vault is read without error. -/
def State.rowGood (s : State) (half : Nat) (e : MxEntry) (j : Nat) : Prop :=
  s.vaultBad (half / 128) (e.arga.toNat + j * mxBytes e.ty (s.mxK half)) (mxBytes e.ty (s.mxK half)) = false ∧
    s.vaultBad (half / 128) (e.argb.toNat + j * mxScaleBytes e.ty (s.mxK half)) (mxScaleBytes e.ty (s.mxK half)) = false

/-- The block sums of a row of an entry against a tile. -/
def State.rowSums (s : State) (half : Nat) (e : MxEntry) (t : Tile) (j : Nat) : List (List Res) :=
  mxSums e.ty (s.mxK half)
    (s.vaultRead (half / 128) (e.arga.toNat + j * mxBytes e.ty (s.mxK half)) (mxBytes e.ty (s.mxK half)))
    (s.vaultRead (half / 128) (e.argb.toNat + j * mxScaleBytes e.ty (s.mxK half)) (mxScaleBytes e.ty (s.mxK half))) t

/-- The wavefront of a row of an entry. -/
def State.wave (s : State) (half : Nat) (e : MxEntry) (t : Tile) (j : Nat) : Wavefront where
  entry := e.serial
  row := j
  wbank := e.bank
  issued := s.now
  sums := (s.rowSums half e t j).map fun c => c.map (·.bits)
  flags := (s.rowSums half e t j).foldl (fun a c => c.foldl (fun b r => b ||| r.flags) a) 0
  passed := false

/-- A wavefront sets out in its half. -/
def issueWave (half : Nat) (w : Wavefront) : Cmd := .all [
  modHalf half fun h => { h with waves := h.waves ++ [w] },
  after 16 (.wavefrontPassesLastRow half),
  after 20 (.wavefrontAccumulate half)]

/-- The rows of an entry that issue together from row `n` on. -/
def MxEntry.group (e : MxEntry) (g n : Nat) : List Nat := ((List.range g).map (n + ·)).filter (· < e.m)

theorem MxEntry.group_eq (e : MxEntry) (g n : Nat) :
    e.group g n = (List.range g).filterMap fun i => if n + i < e.m then some (n + i) else none := by
  rw [group, ← List.filterMap_eq_filter, List.filterMap_map]
  refine List.filterMap_congr fun i _ => ?_
  simp [Option.guard]

section
variable {s : State} {half : Nat}

theorem issueWave_quiet (half : Nat) (w : Wavefront) : (issueWave half w).Within QuietFrame :=
  Cmd.within_seq QuietFrame.chains (modHalf_quiet _ _) (Cmd.within_seq QuietFrame.chains (after_quiet _ _) (after_quiet _ _))

theorem issueWave_waves (half : Nat) (w : Wavefront) (s : State) :
    (((issueWave half w).exec s).half half).waves = (s.half half).waves ++ [w] :=
  congrArg MxHalf.waves (modHalf_half_self half (fun h => { h with waves := h.waves ++ [w] }) s)

theorem each_issueWave_waves (half : Nat) (f : Nat → Wavefront) (js : List Nat) (s : State) :
    (((Cmd.each js fun j => issueWave half (f j)).exec s).half half).waves = (s.half half).waves ++ js.map f := by
  induction js generalizing s with
  | nil => exact (List.append_nil _).symm
  | cons j js ih => rw [Cmd.exec_each_cons, ih, issueWave_waves, List.map_cons, List.append_assoc, List.singleton_append]

theorem each_issueWave_due {f : Nat → Wavefront} {js : List Nat} (hne : js ≠ []) (s : State) :
    let t := (Cmd.each js fun j => issueWave half (f j)).exec s
    t.due (s.now + 16) (.wavefrontPassesLastRow half) ∧ t.due (s.now + 20) (.wavefrontAccumulate half) := by
  have hquiet : ∀ j ∈ js, (issueWave half (f j)).Within (Aside id) := fun j _ t => (issueWave_quiet half _ t).toAside
  obtain ⟨j, hj⟩ := List.exists_mem_of_ne_nil js hne
  exact ⟨each_agenda hquiet hj fun t ht => ht ▸ (after_aside 20 _ _).agenda _ (after_due 16 _ _),
    each_agenda hquiet hj fun t ht => ht ▸ after_due 20 _ _⟩

theorem exec_mxaRowIssue {e : MxEntry} {t : Tile} {g step : Nat} (he : (s.half half).stream.bind (s.half half).entry? = some e)
    (ht : ((s.half half).bank e.bank).tile = some t) (hcycle : s.issueCycle (half / 128) = true) (hpace : issuePace e.ty t.ty = (g, step))
    (hdue : rowDue e (s.mxK half) t.ty e.rows ≤ s.now) (hgood : ∀ j ∈ e.group g e.rows, s.rowGood half e j)
    (hpois : (s.half half).poisoned = []) :
    exec (.mxaRowIssue half) s = .next ((Cmd.all [
      Cmd.each (e.group g e.rows) fun j => issueWave half (s.wave half e t j),
      modEntry half e.serial fun x => { x with rows := e.rows + (e.group g e.rows).length },
      if e.m ≤ e.rows + (e.group g e.rows).length then mxLeave half e
      else after (max step (rowDue e (s.mxK half) t.ty (e.rows + (e.group g e.rows).length) - s.now)) (.mxaRowIssue half)]).exec s) := by
  suffices h : execMxaRowIssue half s = _ from h
  have hbad : ((e.group g e.rows).any fun j =>
      s.vaultBad (half / 128) (e.arga.toNat + j * mxBytes e.ty (s.mxK half)) (mxBytes e.ty (s.mxK half)) ||
        (mxScaleBytes e.ty (s.mxK half) != 0 &&
          s.vaultBad (half / 128) (e.argb.toNat + j * mxScaleBytes e.ty (s.mxK half)) (mxScaleBytes e.ty (s.mxK half)))) = false := by
    refine List.any_eq_false.2 fun j hj => ?_
    obtain ⟨hd, hs⟩ := hgood j hj
    simp [hd, hs]
  rw [MxEntry.group_eq] at hbad ⊢
  simp only [execMxaRowIssue, he, ht, hpace, Nat.not_lt.2 hdue, hcycle, hbad, hpois, List.contains_nil, Bool.not_true, Bool.false_and,
    Bool.false_eq_true, if_false]
  rfl

/-- The rows that are due issue, each as a wavefront. -/
theorem mxaRows_issue {e : MxEntry} {t : Tile} {g step : Nat} (he : (s.half half).stream.bind (s.half half).entry? = some e)
    (ht : ((s.half half).bank e.bank).tile = some t) (hcycle : s.issueCycle (half / 128) = true)
    (hpace : issuePace e.ty t.ty = (g, step))
    (hdue : rowDue e (s.mxK half) t.ty e.rows ≤ s.now)
    (hgood : ∀ j ∈ e.group g e.rows, s.rowGood half e j) (hpois : (s.half half).poisoned = []) :
    Answers (.mxaRowIssue half) s fun u =>
      (u.half half).waves = (s.half half).waves ++ (e.group g e.rows).map (s.wave half e t) ∧
      (e.group g e.rows ≠ [] →
        u.due (s.now + 16) (.wavefrontPassesLastRow half) ∧ u.due (s.now + 20) (.wavefrontAccumulate half)) := by
  have hexec := exec_mxaRowIssue he ht hcycle hpace hdue hgood hpois
  set js := e.group g e.rows
  have hwaves := each_issueWave_waves half (s.wave half e t) js s
  have hwaits := each_issueWave_due (half := half) (f := s.wave half e t) (js := js) (s := s)
  set v := (Cmd.each js fun j => issueWave half (s.wave half e t j)).exec s
  let w := (modEntry half e.serial fun x => { x with rows := e.rows + js.length }).exec v
  have hw : (w.half half).waves = (s.half half).waves ++ js.map (s.wave half e t) :=
    (congrArg MxHalf.waves (modEntry_half_self ..)).trans hwaves
  rw [Cmd.exec_all_cons, Cmd.exec_all_cons, Cmd.exec_all_one] at hexec
  by_cases hlast : e.m ≤ e.rows + js.length
  · rw [if_pos hlast] at hexec
    have hkeep := (mxLeave_quiet half e w).toAside.agenda
    exact ⟨_, hexec, (congrArg MxHalf.waves (mxLeave_half half e w)).trans hw, fun hne => (hwaits hne).imp (hkeep _) (hkeep _)⟩
  · rw [if_neg hlast] at hexec
    have hkeep := (after_aside (max step (rowDue e (s.mxK half) t.ty (e.rows + js.length) - s.now))
      (.mxaRowIssue half) w).agenda
    exact ⟨_, hexec, hw, fun hne => (hwaits hne).imp (hkeep _) (hkeep _)⟩

/-! ### Wavefronts pass and accumulate (R70, R290, R294) -/

theorem wavefront_passes {w : Wavefront} (hlen : (s.half half).banks.length = 2)
    (hw : (s.half half).waves.find? (fun w => !w.passed && decide (w.issued + 16 ≤ s.now)) = some w) :
    Answers (.wavefrontPassesLastRow half) s fun u => ((u.half half).bank w.wbank).ref = ((s.half half).bank w.wbank).ref - 1 ∧
      (u.half half).waves = (s.half half).waves.map (fun x => if x = w then { x with passed := true } else x) ∧ u.bytes = s.bytes := by
  let f : MxHalf → MxHalf := fun h => { h with waves := h.waves.map fun x => if x = w then { x with passed := true } else x }
  let g : WBank → WBank := fun b => { b with ref := b.ref - 1 }
  have hexec : exec (.wavefrontPassesLastRow half) s = .next ((Cmd.all [modHalf half f, modBank half w.wbank g, mxLook half]).exec s) := by
    suffices h : execWavefrontPassesLastRow half s = _ from h
    simp only [execWavefrontPassesLastRow, hw]
    rfl
  have hhalf : ((Cmd.all [modHalf half f, modBank half w.wbank g, mxLook half]).exec s).half half = (f (s.half half)).onBank w.wbank g :=
    (mxLook_half ..).trans ((modBank_half_self ..).trans (congrArg (·.onBank w.wbank g) (modHalf_half_self ..)))
  refine ⟨_, hexec, ?_, congrArg MxHalf.waves hhalf, (mxLook_quiet half _).bytes⟩
  exact (congrArg (fun h => (MxHalf.bank h w.wbank).ref) hhalf).trans (congrArg WBank.ref (MxHalf.onBank_bank hlen w.wbank g))

/-- The row of an accumulator with the block sums of a wavefront added. -/
def MxEntry.accumulated (e : MxEntry) (w : Wavefront) (old : List Nat) : List Res :=
  w.sums.zipIdx.map fun (xs, n) => mxAdd (e.ctrl.getLsbD 20) (old.getD n 0) xs

/-- A half once a wavefront of an entry is in its accumulator row. -/
def MxHalf.takeWave (h : MxHalf) (e : MxEntry) (w : Wavefront) : MxHalf := { h with
  waves := h.waves.erase w
  acc := h.acc.set (512 * bankNo e.accBank + e.base + w.row)
    ((e.accumulated w (h.acc.getD (512 * bankNo e.accBank + e.base + w.row) [])).map (·.bits))
  obase := if e.acc + 1 == e.m && e.sub = 1 then h.obase.modify (bankNo e.accBank) fun o => (o + 1) % 64 else h.obase }

theorem exec_wavefrontAccumulate {w : Wavefront} {e : MxEntry}
    (hw : (s.half half).waves.find? (fun w => w.passed && decide (w.issued + 20 ≤ s.now)) = some w)
    (he : (s.half half).entry? w.entry = some e) : ∃ f, exec (.wavefrontAccumulate half) s = .next ((Cmd.all [
      modHalf half fun _ => (s.half half).takeWave e w, modEntry half e.serial f,
      .when (e.acc + 1 == e.m) (.seq (after 2 (.mxReply half e.serial)) (mxLook half))]).exec s) := by
  suffices h : ∃ f, execWavefrontAccumulate half s = .next ((Cmd.all [
      modHalf half fun _ => (s.half half).takeWave e w, modEntry half e.serial f,
      .when (e.acc + 1 == e.m) (.seq (after 2 (.mxReply half e.serial)) (mxLook half))]).exec s) from h
  simp only [execWavefrontAccumulate, hw, he]
  exact ⟨_, rfl⟩

theorem wavefront_accumulates {w : Wavefront} {e : MxEntry}
    (hw : (s.half half).waves.find? (fun w => w.passed && decide (w.issued + 20 ≤ s.now)) = some w)
    (he : (s.half half).entry? w.entry = some e) :
    let key := 512 * bankNo e.accBank + e.base + w.row
    Answers (.wavefrontAccumulate half) s fun u => (u.half half).waves = (s.half half).waves.erase w ∧
      (u.half half).acc.getD key [] = w.sums.zipIdx.map (fun (xs, n) =>
        (mxAdd (e.ctrl.getLsbD 20) (((s.half half).acc.getD key []).getD n 0) xs).bits) ∧
      (∀ k, k ≠ key → (u.half half).acc.getD k [] = (s.half half).acc.getD k []) ∧
      (e.acc + 1 = e.m → u.due (s.now + 2) (.mxReply half e.serial)) := by
  intro key
  obtain ⟨f, hexec⟩ := exec_wavefrontAccumulate hw he
  let v := (modEntry half e.serial f).exec ((modHalf half fun _ => (s.half half).takeWave e w).exec s)
  have hv : v.half half = ((s.half half).takeWave e w).onEntry e.serial f :=
    (modEntry_half_self ..).trans (congrArg (·.onEntry e.serial f) (modHalf_half_self ..))
  have hend : ((Cmd.when (e.acc + 1 == e.m) (.seq (after 2 (.mxReply half e.serial)) (mxLook half))).exec v).half half = v.half half := by
    cases e.acc + 1 == e.m with
    | false => rfl
    | true => exact mxLook_half half ((after 2 (.mxReply half e.serial)).exec v) half
  have hhalf := hend.trans hv
  refine ⟨_, hexec, congrArg MxHalf.waves hhalf, ?_, fun k hk => ?_, fun hlast => ?_⟩
  · refine (congrArg (fun h => (MxHalf.acc h).getD key []) hhalf).trans ((Tbl.getD_set_self ..).trans ?_)
    exact List.map_map ..
  · exact (congrArg (fun h => (MxHalf.acc h).getD k []) hhalf).trans (Tbl.getD_set_ne _ _ _ hk)
  · have hreply : ((after 2 (.mxReply half e.serial)).exec v).due (s.now + 2) (.mxReply half e.serial) := after_due 2 _ _
    rw [Cmd.exec_all_cons, Cmd.exec_all_cons, Cmd.exec_all_one, beq_iff_eq.2 hlast] at hexec
    rw [Cmd.exec_all_cons, Cmd.exec_all_cons, Cmd.exec_all_one, beq_iff_eq.2 hlast]
    exact (mxLook_quiet half _).toAside.agenda _ hreply

end

theorem matrixStreams : Claims.MatrixStreams := by
  rintro s half _ e rfl hlen
  refine ⟨fun t he ht _ hcycle => ?_, fun w hw => wavefront_passes hlen hw, fun w hw he => wavefront_accumulates hw he⟩
  intro k rows hdue hgood hpois
  obtain ⟨u, hexec, hwaves, hwaits⟩ := mxaRows_issue he ht hcycle Prod.mk.eta.symm hdue hgood hpois
  refine ⟨u, hexec, _, hwaves, ?_, ?_, hwaits⟩
  · exact List.map_map ..
  · exact List.map_map ..

end Sys2Proof.Machine

/-! ## Matrix unit drains (R186, R208, R209, R258, R294)

Rows leave their accumulator bank one at a time; the bytes that they give wait for an X slot. -/

namespace Sys2Proof.Machine

section
variable {s : State} {half : Nat}

/-! ### Bytes for the vault (R186, R258) -/

theorem clearRows_quiet (half b : Nat) (rows : List Nat) : (clearRows half b rows).Within QuietFrame := modHalf_quiet _ _
theorem modEntry_quiet (half id : Nat) (f : MxEntry → MxEntry) : (modEntry half id f).Within QuietFrame := modHalf_quiet _ _

theorem writeLater_quiet (half : Nat) (pieces : List (Nat × List Byte)) : (writeLater half pieces).Within QuietFrame :=
  Cmd.within_get fun s => Cmd.within_seq QuietFrame.chains (modHalf_quiet _ _) (after_quiet _ _) s

theorem writeLater_half (half : Nat) (pieces : List (Nat × List Byte)) (s : State) :
    ((writeLater half pieces).exec s).half half = { s.half half with outbox := (s.half half).outbox ++ pieces } :=
  modHalf_half_self half (fun h => { h with outbox := h.outbox ++ pieces }) s

theorem writeLater_due (half : Nat) (pieces : List (Nat × List Byte)) (s : State) :
    ((writeLater half pieces).exec s).due (s.now + (1 + xSlotWait (s.now + 1))) (.mxdRowDrain half) :=
  after_due (1 + xSlotWait (s.now + 1)) (.mxdRowDrain half) ((modHalf half fun h => { h with outbox := h.outbox ++ pieces }).exec s)

theorem writeOut_empty (hout : (s.half half).outbox = []) :
    QuietFrame s ((writeOut half).exec s) ∧ ((writeOut half).exec s).half half = s.half half := by
  simp only [writeOut, Cmd.exec_get, hout]
  cases xSlotWait s.now == 0 with
  | false => exact ⟨QuietFrame.chains.refl s, rfl⟩
  | true =>
    refine ⟨modHalf_quiet half (fun h => { h with outbox := [] }) s, (modHalf_half_self half (fun h => { h with outbox := [] }) s).trans ?_⟩
    rw [← hout]

/-- In an X slot the bytes of a drained row stand in the vault. -/
theorem mxd_writes {a : Nat} {bs : List Byte} (hidle : (s.half half).drain = none) (hout : (s.half half).outbox = [(a, bs)])
    (hslot : xSlotWait s.now = 0) :
    Answers (.mxdRowDrain half) s fun u =>
      u.bytes = { s.bytes with vault := s.bytes.vault.write (vaultByte (half / 128) a) bs } ∧ (u.half half).outbox = [] := by
  have hexec : exec (.mxdRowDrain half) s = .next
      ((modHalf half fun h => { h with outbox := [] }).exec ((vaultWrite (half / 128) a bs).exec s)) := by
    suffices h : execMxdRowDrain half s = _ from h
    simp only [execMxdRowDrain, hidle, Option.bind_none, writeOut, Cmd.next, Cmd.exec_seq, Cmd.exec_get, hslot, beq_self_eq_true,
      Cmd.exec_when_true, hout]
    rfl
  refine ⟨_, hexec, ?_, congrArg MxHalf.outbox (modHalf_half_self ..)⟩
  exact (modHalf_quiet half (fun h => { h with outbox := [] }) _).bytes.trans (vaultWrite_bytes ..)

/-! ### A row is cleared (R209) -/

theorem exec_mxdRowDrain_clears {e : MxEntry} (he : (s.half half).drain.bind (s.half half).entry? = some e)
    (hdue : e.startAt + 4 + e.rows ≤ s.now) (hop : e.op = 4) :
    exec (.mxdRowDrain half) s = .next ((Cmd.all [
      clearRows half (bankNo e.bank) [e.rows],
      modEntry half e.serial fun x => { x with rows := x.rows + 1 },
      if e.rows + 1 < 512 then after 1 (.mxdRowDrain half)
      else .all [modHalf half fun h => { h with poisoned := h.poisoned.erase (bankNo e.bank) }, mxLeave half e,
        after 2 (.mxReply half e.serial)]]).exec ((writeOut half).exec s)) := by
  suffices h : execMxdRowDrain half s = _ from h
  simp only [execMxdRowDrain, he, Nat.not_lt.2 hdue, hop, if_true, if_false, Cmd.next, Cmd.exec_seq]

theorem mxd_clears {e : MxEntry} (he : (s.half half).drain.bind (s.half half).entry? = some e)
    (hdue : e.startAt + 4 + e.rows ≤ s.now) (hout : (s.half half).outbox = []) (hop : e.op = 4) :
    Answers (.mxdRowDrain half) s fun u => u.bytes = s.bytes ∧
      (u.half half).acc.getD (512 * bankNo e.bank + e.rows) [] = List.replicate 128 0 ∧
      (if e.rows + 1 < 512 then u.due (s.now + 1) (.mxdRowDrain half) else u.due (s.now + 2) (.mxReply half e.serial)) := by
  have hexec := exec_mxdRowDrain_clears he hdue hop
  obtain ⟨hquiet, -⟩ := writeOut_empty hout
  set v := (writeOut half).exec s
  let w := (modEntry half e.serial fun x => { x with rows := x.rows + 1 }).exec ((clearRows half (bankNo e.bank) [e.rows]).exec v)
  have hw : QuietFrame s w := QuietFrame.chains.trans hquiet
    (QuietFrame.chains.trans (clearRows_quiet half (bankNo e.bank) [e.rows] v) (modEntry_quiet half e.serial _ _))
  have hrow : (w.half half).acc.getD (512 * bankNo e.bank + e.rows) [] = List.replicate 128 0 := by
    refine (congrArg (fun h => (MxHalf.acc h).getD (512 * bankNo e.bank + e.rows) []) (modEntry_half_self ..)).trans ?_
    refine (congrArg (fun h => (MxHalf.acc h).getD (512 * bankNo e.bank + e.rows) []) (modHalf_half_self ..)).trans ?_
    exact Tbl.getD_set_self ..
  rw [Cmd.exec_all_cons, Cmd.exec_all_cons, Cmd.exec_all_one] at hexec
  by_cases hlast : e.rows + 1 < 512
  · rw [if_pos hlast] at hexec
    refine ⟨_, hexec, (after_quiet 1 _ w).bytes.trans hw.bytes, hrow, ?_⟩
    rw [if_pos hlast, ← hw.toAside.now]
    exact after_due 1 _ w
  · rw [if_neg hlast, Cmd.exec_all_cons, Cmd.exec_all_cons, Cmd.exec_all_one] at hexec
    have hpois := modHalf_quiet half (fun h => { h with poisoned := h.poisoned.erase (bankNo e.bank) }) w
    set x := (modHalf half fun h => { h with poisoned := h.poisoned.erase (bankNo e.bank) }).exec w
    have hx : QuietFrame s ((mxLeave half e).exec x) :=
      QuietFrame.chains.trans hw (QuietFrame.chains.trans hpois (mxLeave_quiet half e x))
    refine ⟨_, hexec, (after_quiet 2 _ _).bytes.trans hx.bytes, ?_, ?_⟩
    · refine (congrArg (fun h => (MxHalf.acc h).getD (512 * bankNo e.bank + e.rows) []) (mxLeave_half half e x)).trans ?_
      exact (congrArg (fun h => (MxHalf.acc h).getD (512 * bankNo e.bank + e.rows) []) (modHalf_half_self ..)).trans hrow
    · rw [if_neg hlast, ← hx.toAside.now]
      exact after_due 2 _ _

/-! ### A row is drained (R208) -/

/-- The row of its accumulator bank that a drain reads next. -/
def MxHalf.drainRow (h : MxHalf) (e : MxEntry) : List Nat :=
  match h.acc.get? (512 * bankNo e.bank + e.base + e.rows) with | some r => r | none => List.replicate 128 0

/-- A row of a format without blocks has no use for the block modes. -/
theorem mainRow_of_scalar {t : Ty} (h : t.isBlock = false) (d : Nat) (xs : List Nat) (modes : List Rm) :
    mainRow t d xs modes = mainRow t 0 xs modes := by
  simp only [mainRow, h, Bool.false_eq_true, if_false]

/-- What the drain of a row of a main copy does: its bytes are for a later slot, and the drain goes on or ends. -/
def drainStep (half : Nat) (e : MxEntry) (data : List Byte) (clears lfsrs : List Nat) (f : MxEntry → MxEntry) (now : Nat) : Cmd := .all [
  writeLater half [(e.arga.toNat + e.rows * drainBytes e.ty 128, data)],
  clearRows half (bankNo e.bank) clears,
  modHalf half fun h => { h with lfsrs := lfsrs },
  modEntry half e.serial f,
  if e.rows + 1 = e.m then .seq (mxLeave half e) (after (1 + xSlotWait (now + 1)) (.mxReply half e.serial))
  else after 1 (.mxdRowDrain half)]

theorem exec_mxdRowDrain_row {e : MxEntry} (he : (s.half half).drain.bind (s.half half).entry? = some e)
    (hdue : e.startAt + 4 + e.rows ≤ s.now) (hpois : (s.half half).poisoned = []) (hop : e.op = 3) (hmode : natBits e.ctrl.toNat 21 20 = 0)
    (hmain : e.argb = 0x80000000) (hrne : e.ctrl.getLsbD 26 = false) (hscalar : e.ty.isBlock = false) :
    ∃ clears lfsrs f, exec (.mxdRowDrain half) s = .next ((drainStep half e
      (mainRow e.ty 0 ((s.half half).drainRow e) ((s.half half).lfsrs.map fun _ => Rm.rne)).1 clears lfsrs f s.now).exec
        ((writeOut half).exec s)) := by
  suffices h : ∃ clears lfsrs f, execMxdRowDrain half s = .next ((drainStep half e
      (mainRow e.ty 0 ((s.half half).drainRow e) ((s.half half).lfsrs.map fun _ => Rm.rne)).1 clears lfsrs f s.now).exec
        ((writeOut half).exec s)) from h
  have hend : ∀ a b : Cmd, (if (!(e.rows + 1 == e.m)) = true then a else b) = if e.rows + 1 = e.m then b else a := fun a b => by
    by_cases h : e.rows + 1 = e.m <;> simp [h]
  simp only [execMxdRowDrain, he, Nat.not_lt.2 hdue, hop, hpois, hmode, hmain, hrne, hscalar, mainRow_of_scalar hscalar, List.contains_nil,
    if_true, if_false, Nat.reduceEqDiff, bne_self_eq_false, Bool.and_false, Bool.false_and, Bool.false_eq_true, beq_self_eq_true,
    Bool.not_false, List.map_nil, List.append_nil, Cmd.next, Cmd.exec_seq, hend]
  exact ⟨_, _, _, rfl⟩

theorem mxd_drains {e : MxEntry} (he : (s.half half).drain.bind (s.half half).entry? = some e)
    (hdue : e.startAt + 4 + e.rows ≤ s.now) (hpois : (s.half half).poisoned = []) (hout : (s.half half).outbox = []) (hop : e.op = 3)
    (hmode : natBits e.ctrl.toNat 21 20 = 0) (hmain : e.argb = 0x80000000) (hrne : e.ctrl.getLsbD 26 = false)
    (hscalar : e.ty.isBlock = false) :
    Answers (.mxdRowDrain half) s fun u => u.bytes = s.bytes ∧ (u.half half).outbox =
        [(e.arga.toNat + e.rows * drainBytes e.ty 128,
          (mainRow e.ty 0 ((s.half half).drainRow e) ((s.half half).lfsrs.map fun _ => Rm.rne)).1)] ∧
      u.due (s.now + (1 + xSlotWait (s.now + 1))) (.mxdRowDrain half) ∧
      (if e.rows + 1 = e.m then ∃ n, u.due n (.mxReply half e.serial) else u.due (s.now + 1) (.mxdRowDrain half)) := by
  obtain ⟨clears, lfsrs, f, hexec⟩ := exec_mxdRowDrain_row he hdue hpois hop hmode hmain hrne hscalar
  obtain ⟨hquiet, hempty⟩ := writeOut_empty hout
  set data := (mainRow e.ty 0 ((s.half half).drainRow e) ((s.half half).lfsrs.map fun _ => Rm.rne)).1
  set piece := (e.arga.toNat + e.rows * drainBytes e.ty 128, data) with hpiece
  set v := (writeOut half).exec s
  have hR := QuietFrame.chains
  let g : MxHalf → MxHalf := fun h => { h with lfsrs := lfsrs }
  let x := (writeLater half [piece]).exec v
  let w := (modEntry half e.serial f).exec ((modHalf half g).exec ((clearRows half (bankNo e.bank) clears).exec x))
  have hlater : QuietFrame v x := writeLater_quiet ..
  have hrest : QuietFrame x w := hR.trans (clearRows_quiet ..) (hR.trans (modHalf_quiet half g _) (modEntry_quiet ..))
  have hw : QuietFrame s w := hR.trans hquiet (hR.trans hlater hrest)
  have hbox : (w.half half).outbox = [piece] := by
    refine (congrArg MxHalf.outbox (modEntry_half_self ..)).trans ((congrArg MxHalf.outbox (modHalf_half_self ..)).trans ?_)
    refine (congrArg MxHalf.outbox (modHalf_half_self ..)).trans ((congrArg MxHalf.outbox (writeLater_half half [piece] v)).trans ?_)
    rw [hempty, hout]
    rfl
  have hslot : w.due (s.now + (1 + xSlotWait (s.now + 1))) (.mxdRowDrain half) :=
    hrest.toAside.agenda _ (hquiet.toAside.now ▸ writeLater_due half [piece] v)
  rw [drainStep, Cmd.exec_all_cons, Cmd.exec_all_cons, Cmd.exec_all_cons, Cmd.exec_all_cons, Cmd.exec_all_one] at hexec
  by_cases hlast : e.rows + 1 = e.m
  · rw [if_pos hlast, Cmd.exec_seq] at hexec
    have hleave := mxLeave_quiet half e w
    have hafter := after_quiet (1 + xSlotWait (s.now + 1)) (.mxReply half e.serial) ((mxLeave half e).exec w)
    have hend := hR.trans hleave hafter
    refine ⟨_, hexec, hend.bytes.trans hw.bytes, (congrArg MxHalf.outbox (mxLeave_half half e w)).trans hbox, hend.toAside.agenda _ hslot, ?_⟩
    rw [if_pos hlast]
    exact ⟨_, after_due _ _ _⟩
  · rw [if_neg hlast] at hexec
    have hend := after_quiet 1 (.mxdRowDrain half) w
    refine ⟨_, hexec, hend.bytes.trans hw.bytes, (congrArg MxHalf.outbox (after_half 1 _ w half)).trans hbox, hend.toAside.agenda _ hslot, ?_⟩
    rw [if_neg hlast, ← hw.toAside.now]
    exact after_due 1 _ w

end

end Sys2Proof.Machine

/-! ## Matrix unit replies, aborts and ownership (R202, R209, R210, R295, R298, R370) -/

namespace Sys2Proof.Machine

section
variable {s : State} {half n : Nat} {e : MxEntry}

/-! ### A request's reply (R201) -/

/-- The reply of a request goes out, whatever is captured of it. -/
theorem replyOp_sends {op : Nat} {o : MemOp} (ho : s.op? op = some o) (v0 v1 : Val) :
    Sends s ((replyOp op v0 v1).exec s) o.f o.i.hdr 1 o.f.tag v0 v1 := by
  have hR := Aside.chains (id : Ctx → Ctx)
  simp only [replyOp, Cmd.exec_get, ho]
  refine (emitReply_sends o 1 v0 v1 s).aside (g := id) ?_
  exact Cmd.within_seq hR (Cmd.within_when hR fun _ => capture_aside _ _) (Cmd.within_seq hR (Cmd.within_when hR fun _ => capture_aside _ _)
    (Cmd.within_ite (Cmd.within_seq hR (fun t => (modOp_quiet _ _ t).toAside) (after_aside _ _)) fun t => (acceptOp_quiet op t).toAside)) _

/-! ### An entry ends (R202, R209, R210) -/

/-- The record of an entry that failed. -/
def State.mxRecord (s : State) (half : Nat) (e : MxEntry) : FaultRec :=
  { s.engineRecord e.ctx (half / 128) causeEngine e.arga e.status with vd := e.vd, rgn := e.rgn, tag := e.tag }

/-- An entry of a context that is there answers with a word and leaves. -/
def mxEnd (s : State) (half n : Nat) (e : MxEntry) (word : Nat) : Cmd := .all [
  .when (e.status != 0) (writeRecord (s.mxRecord half e)),
  replyWord e.memop word,
  countBusy half e,
  modHalf half fun h => { h with inbox := h.inbox.filter fun x => x.serial != n },
  mxLook half]

theorem countBusy_quiet (half : Nat) (e : MxEntry) : (countBusy half e).Within QuietFrame :=
  Cmd.within_get fun s => Cmd.within_when QuietFrame.chains
    (fun _ => Cmd.within_seq QuietFrame.chains (count_quiet _ _ _ _) (modHalf_quiet _ _)) s

theorem countBusy_inbox (half : Nat) (e : MxEntry) (s : State) : (((countBusy half e).exec s).half half).inbox = (s.half half).inbox := by
  simp only [countBusy, Cmd.exec_get]
  cases e.started with
  | false => rfl
  | true =>
    rw [Cmd.exec_when_true, Cmd.exec_seq]
    exact (congrArg MxHalf.inbox (modHalf_half_self half (fun h => { h with busyTo := s.now }) _) :)

/-- The entry of a reply out of the half, with its busy cycles counted. -/
def mxOut (half n : Nat) (e : MxEntry) : Cmd := .all [
  countBusy half e, modHalf half fun h => { h with inbox := h.inbox.filter fun x => x.serial != n }, mxLook half]

theorem mxOut_quiet (half n : Nat) (e : MxEntry) : (mxOut half n e).Within QuietFrame :=
  Cmd.within_seq QuietFrame.chains (countBusy_quiet _ _) (Cmd.within_seq QuietFrame.chains (modHalf_quiet _ _) (mxLook_quiet _))

theorem mxOut_inbox (half n : Nat) (e : MxEntry) (s : State) :
    (((mxOut half n e).exec s).half half).inbox = (s.half half).inbox.filter fun x => x.serial != n := by
  refine (congrArg MxHalf.inbox ((mxLook_half ..).trans (modHalf_half_self ..))).trans ?_
  exact congrArg (List.filter fun x => x.serial != n) (countBusy_inbox half e s)

theorem replyWord_send (op word : Nat) : (replyWord op word).Within SendFrame := replyOp_send _ _ _

theorem mxEnd_exec (word : Nat) : (mxEnd s half n e word).exec s = (mxOut half n e).exec ((replyWord e.memop word).exec
    ((Cmd.when (e.status != 0) (writeRecord (s.mxRecord half e))).exec s)) := rfl

theorem mxEnd_answers {o : MemOp} (ho : s.op? e.memop = some o) (word : Nat) :
    Sends s ((mxEnd s half n e word).exec s) o.f o.i.hdr 1 o.f.tag (.scalar (BitVec.ofNat 64 word)) (.scalar (BitVec.ofNat 64 word)) ∧
      (((mxEnd s half n e word).exec s).half half).inbox = (s.half half).inbox.filter fun x => x.serial != n := by
  rw [mxEnd_exec]
  have hrec : DeviceFrame s ((Cmd.when (e.status != 0) (writeRecord (s.mxRecord half e))).exec s) :=
    Cmd.within_when DeviceFrame.chains (fun _ => writeRecord_device _) s
  set v := (Cmd.when (e.status != 0) (writeRecord (s.mxRecord half e))).exec s
  have ho' : v.op? e.memop = some o := by rw [State.op?, hrec.ops]; exact ho
  constructor
  · have hsend : Sends s ((replyWord e.memop word).exec v) o.f o.i.hdr 1 o.f.tag _ _ :=
      (replyOp_sends ho' _ _).after hrec.toAside.fab hrec.toAside.now
    exact hsend.aside (mxOut_quiet half n e _).toAside
  · rw [mxOut_inbox, half_of_eng ((replyWord_send e.memop word v).eng.trans hrec.eng)]

/-- The record of a failure stands in its context's ring. -/
theorem mxEnd_records {c : Ctx} (hc : s.ctx? e.ctx = some c) (hroom : c.ring.length < 64) (hst : e.status ≠ 0) (word : Nat) :
    s.mxRecord half e ∈ ((((mxEnd s half n e word).exec s).ctx? e.ctx).map (·.ring)).getD [] := by
  have hring : ((writeRecord (s.mxRecord half e)).exec s).ctx? e.ctx = some _ := writeRecord_ctx (r := s.mxRecord half e) hc hroom
  rw [mxEnd_exec, bne_iff_ne.2 hst, Cmd.exec_when_true, (mxOut_quiet half n e _).toAside.ctx_eq, State.ctx?,
    (replyWord_send e.memop word _).ctxs, ← State.ctx?, hring]
  exact List.mem_append_right _ (List.mem_singleton_self _)

section
variable (he : (s.half half).entry? n = some e) (halive : (s.ctx? e.ctx).isSome = true)
include he halive

/-- The word of an entry that has its status. -/
def State.mxWord (s : State) (half : Nat) (e : MxEntry) : Nat := e.flags % 128 * 2 ^ 8 + s.mxRows half e * 2 ^ 16

theorem exec_mxReply_path (hpath : e.op ≠ 4 ∨ e.sub = 1) :
    exec (.mxReply half n) s = .next ((mxEnd s half n e (e.status + s.mxWord half e)).exec s) := by
  suffices h : execMxReply half n s = _ from h
  have hdirect : (e.op == 4 && e.sub != 1) = false := by
    rcases hpath with h | h <;> simp [h]
  simp only [execMxReply, he, hdirect, Bool.false_and, Bool.false_eq_true, if_false, halive, Nat.add_assoc, State.mxWord]
  rfl

/-- An MXS.stat or MXS.sync that passes its check is as it was. -/
theorem exec_mxReply_direct (hst : e.status = 0) (hop : e.op = 4) (hcheck : s.mxCheck half e = 0) (hsub : e.sub ≠ 1)
    (hgo : e.sub = 2 → ∀ w ∈ e.waits, s.mxPending (s.half half) w = false) :
    exec (.mxReply half n) s = .next ((mxEnd s half n e (if e.sub = 0 then s.mxState half else s.mxWord half e)).exec s) := by
  suffices h : execMxReply half n s = _ from h
  have hdirect : (e.op == 4 && e.sub != 1) = true := by simp [hop, hsub]
  have hsame : { e with status := s.mxCheck half e } = e := by rw [hcheck, ← hst]
  have hwait : (e.sub == 2 && e.waits.any (s.mxPending (s.half half))) = false := by
    by_cases h : e.sub = 2
    · simpa [h] using hgo h
    · simp [h]
  simp only [execMxReply, he, hdirect, hst, beq_self_eq_true, Bool.and_self, Bool.and_true, Bool.true_and, if_true, hsame, hwait,
    Bool.false_eq_true, if_false, halive]
  by_cases h : e.sub = 0
  · simp only [h, beq_self_eq_true, if_true, mxEnd, State.mxRecord, hst]
    rfl
  · simp only [beq_eq_false_iff_ne.2 h, Bool.false_eq_true, h, if_false, Nat.zero_add, mxEnd, State.mxRecord, State.mxWord, hst]
    rfl

end

/-! ### Aborts (R298) -/

theorem freeRows_aside (half : Nat) (e : MxEntry) (n : Nat) : (freeRows half e n).Within (Aside id) := by
  have htake : (Cmd.prim .takeFree).Within (Aside id) := fun _ => ⟨rfl, rfl, fun _ => rfl, fun _ h => h⟩
  exact Cmd.within_each (Aside.chains id) fun _ _ => Cmd.within_get fun s =>
    Cmd.within_seq (Aside.chains id) htake (fun t => (modHalf_quiet _ _ t).toAside) s

theorem mxLeave_aside (half : Nat) (e : MxEntry) : (mxLeave half e).Within (Aside id) := fun t => (mxLeave_quiet half e t).toAside

/-- What an entry that fails does before its reply. -/
def failBefore (half : Nat) (e : MxEntry) (status : Nat) : Cmd := .all [
  .when e.started (mxStopWaves half e),
  .when (e.op == 1) (modBank half e.bank fun b => { b with loading := false, tile := none }),
  .when (e.started && (status == 5 || (e.op == 2 && status == 4))) (freeRows half e (if e.op = 2 then e.m else e.rows)),
  modEntry half e.serial fun x => { x with status := status },
  mxLeave half e]

theorem failBefore_aside (half : Nat) (e : MxEntry) (status : Nat) : (failBefore half e status).Within (Aside id) := by
  have hR := Aside.chains (id : Ctx → Ctx)
  have hhalf : ∀ f, (modHalf half f).Within (Aside id) := fun f t => (modHalf_quiet half f t).toAside
  exact Cmd.within_seq hR (Cmd.within_when hR fun _ => hhalf _) (Cmd.within_seq hR (Cmd.within_when hR fun _ => hhalf _)
    (Cmd.within_seq hR (Cmd.within_when hR fun _ => freeRows_aside _ _ _) (Cmd.within_seq hR (hhalf _) (mxLeave_aside _ _))))

theorem mxFail_exec (half : Nat) (e : MxEntry) (status : Nat) (s : State) :
    (mxFail half e status).exec s = (after 0 (.mxReply half e.serial)).exec ((failBefore half e status).exec s) := rfl

theorem mxFail_aside (half : Nat) (e : MxEntry) (status : Nat) : (mxFail half e status).Within (Aside id) := fun s => by
  rw [mxFail_exec]
  exact (Aside.chains id).trans (failBefore_aside half e status s) (after_aside _ _ _)

theorem mxFail_due (half : Nat) (e : MxEntry) (status : Nat) (s : State) :
    ((mxFail half e status).exec s).due s.now (.mxReply half e.serial) := by
  rw [mxFail_exec, ← (failBefore_aside half e status s).now]
  exact after_due 0 _ _

theorem mxAbort_ends (ctx : Nat) : Answers (.mxAbort half ctx) s fun u =>
    (∀ b ∈ (u.half half).banks, b.ctx = ctx → b.tile = none ∧ b.loading = false) ∧
    (∀ e ∈ (s.half half).inbox, e.ctx = ctx → u.due s.now (.mxReply half e.serial)) := by
  let f : MxHalf → MxHalf := fun h => { h with banks := h.banks.map fun b =>
    if b.ctx = ctx then { b with tile := none, loading := false } else b }
  let v := (Cmd.each ((s.half half).inbox.filter fun e => e.ctx == ctx) fun e => mxFail half e 5).exec s
  have hexec : exec (.mxAbort half ctx) s = .next ((mxLook half).exec ((modHalf half f).exec v)) := rfl
  refine ⟨_, hexec, fun b hb hctx => ?_, fun e he hctx => ?_⟩
  · rw [mxLook_half, modHalf_half_self] at hb
    obtain ⟨b', -, rfl⟩ := List.mem_map.1 hb
    by_cases h : b'.ctx = ctx
    · rw [if_pos h]
      exact ⟨rfl, rfl⟩
    · rw [if_neg h] at hctx
      exact absurd hctx h
  · have hin : e ∈ (s.half half).inbox.filter fun e => e.ctx == ctx := List.mem_filter.2 ⟨he, beq_iff_eq.2 hctx⟩
    have hdue : v.due s.now (.mxReply half e.serial) := each_agenda (fun _ _ => mxFail_aside _ _ _) hin fun t ht => ht ▸ mxFail_due half e 5 t
    exact (mxLook_quiet half _).toAside.agenda _ ((modHalf_quiet half f v).toAside.agenda _ hdue)

/-! ### Ownership (R295, R370) -/

/-- What a write of MXOWN names. -/
def MxOwn.ofWord (w : W64) : MxOwn :=
  ⟨natBits w.toNat 5 0, natBits w.toNat 11 6, w.getLsbD 12, w.getLsbD 13, w.getLsbD 14, none⟩

/-- A half after a split or a join of its unit. -/
def splitHalf (half : Nat) : Cmd := modHalf half fun h => { MxHalf.fresh half with inbox := h.inbox, waves := h.waves }

/-- A half that waits for nothing. -/
def State.halfIdle (s : State) (half : Nat) : Prop := (s.half half).waiting = [] ∧ ∀ b ∈ (s.half half).banks, b.ref = 0

theorem exec_mxownApply {unit : Nat} {w : W64} (hheld : (s.mxOwn unit).held = some w)
    (hhalf : half = 128 * (unit / 64) + 2 * (unit % 64))
    (hready : s.svc.ready.getLsbD (12 + 4 * (unit / 64) + unit % 64 / 16) = true) (hidle : ∀ k ∈ [half, half + 1], s.halfIdle k) :
    exec (.mxownApply unit) s = .next ((Cmd.seq
      (.prim (.svc fun v => { v with mxown := v.mxown.set unit (.ofWord w) }))
      (.when (w.getLsbD 12 != (s.mxOwn unit).split) (Cmd.each [half, half + 1] splitHalf))).exec s) := by
  suffices h : execMxownApply unit s = _ from h
  have hall : ([half, half + 1].all fun k => (s.half k).waiting.isEmpty && (s.half k).banks.all fun b => b.ref == 0) = true :=
    List.all_eq_true.2 fun k hk => by
      obtain ⟨hwait, href⟩ := hidle k hk
      simpa [hwait] using href
  subst hhalf
  simp only [execMxownApply, hheld, hready, hall, Bool.not_true, Bool.false_eq_true, if_false]
  rfl

theorem MxHalf.fresh_banks (key : Nat) {b : WBank} (hb : b ∈ (fresh key).banks) : b.tile = none ∧ b.ref = 0 := by
  rcases List.mem_pair.1 hb with rfl | rfl <;> exact ⟨rfl, rfl⟩

theorem mxown_takes {unit : Nat} {w : W64} (hheld : (s.mxOwn unit).held = some w)
    (hhalf : half = 128 * (unit / 64) + 2 * (unit % 64))
    (hready : s.svc.ready.getLsbD (12 + 4 * (unit / 64) + unit % 64 / 16) = true) (hidle : ∀ k ∈ [half, half + 1], s.halfIdle k) :
    Answers (.mxownApply unit) s fun u => u.mxOwn unit = .ofWord w ∧
      (w.getLsbD 12 ≠ (s.mxOwn unit).split → (u.half half).acc = [] ∧ ∀ b ∈ (u.half half).banks, b.tile = none ∧ b.ref = 0) := by
  have hexec := exec_mxownApply hheld hhalf hready hidle
  set v := (Cmd.prim (.svc fun v => { v with mxown := v.mxown.set unit (.ofWord w) })).exec s
  have hown : v.mxOwn unit = .ofWord w := Tbl.getD_set_self ..
  have hsvc : ((Cmd.when (w.getLsbD 12 != (s.mxOwn unit).split) (Cmd.each [half, half + 1] splitHalf)).exec v).svc = v.svc := by
    cases w.getLsbD 12 != (s.mxOwn unit).split <;> rfl
  rw [Cmd.exec_seq] at hexec
  refine ⟨_, hexec, ?_, fun hsplit => ?_⟩
  · rw [State.mxOwn, hsvc]
    exact hown
  · rw [bne_iff_ne.2 hsplit, Cmd.exec_when_true, Cmd.exec_each_cons, Cmd.exec_each_cons, Cmd.exec_each_nil, splitHalf, splitHalf,
      modHalf_half_ne _ _ (Nat.ne_of_lt (Nat.lt_succ_self half)), modHalf_half_self]
    exact ⟨rfl, fun _ hb => MxHalf.fresh_banks half hb⟩

end

theorem matrixDrainsAndEnds : Claims.MatrixDrainsAndEnds := by
  rintro s half _ rfl
  refine ⟨fun e he hdue hpois hout => ⟨mxd_clears he hdue hout, mxd_drains he hdue hpois hout⟩, fun a bs => mxd_writes,
    fun n e he halive => ?_, fun _ => mxAbort_ends _, fun unit w hheld hhalf hready hidle => mxown_takes hheld hhalf hready hidle⟩
  intro answers word
  have hends : ∀ x, exec (.mxReply half n) s = .next ((mxEnd s half n e x).exec s) → answers x := fun x hexec o ho =>
    ⟨_, hexec, mxEnd_answers ho x⟩
  refine ⟨fun hst hpath => hends _ ?_, fun hst hop hcheck hsub => hends _ ?_, fun hst hop hcheck hsub hgo => hends _ ?_,
    fun hst hpath => ⟨hends _ (exec_mxReply_path he halive hpath), fun c hc hroom => ?_⟩⟩
  · have hexec := exec_mxReply_path he halive hpath
    rwa [hst, Nat.zero_add] at hexec
  · have hexec := exec_mxReply_direct he halive hst hop hcheck (by rw [hsub]; decide) (by rw [hsub]; exact nofun)
    rwa [if_pos hsub] at hexec
  · have hexec := exec_mxReply_direct he halive hst hop hcheck (by rw [hsub]; decide) fun _ => hgo
    rwa [if_neg (by rw [hsub]; decide)] at hexec
  · exact ⟨_, exec_mxReply_path he halive hpath, s.mxRecord half e, mxEnd_records hc hroom hst _, rfl, rfl, rfl, rfl⟩

/-- Settles O22: each path of a matrix unit half is followed through the commands of its events, which leave the rest of the half as it
was. -/
theorem matrixUnits : Obligations.MatrixUnits := ⟨matrixLoads, matrixStreams, matrixDrainsAndEnds⟩

end Sys2Proof.Machine
